-- ==== Sys2Proof/Word.lean ====
section
/-! DEFINITION. Words: the bit-vector abbreviations of the model and the plainest arithmetic on them. -/

namespace Sys2Proof

/-- A byte. -/
abbrev Byte := BitVec 8
/-- A 64-bit word: registers and descriptor fields (R7). -/
abbrev Word := BitVec 64
/-- A 64-byte memory line (R200, R58). -/
abbrev Line := BitVec 512
/-- A 32-bit object handle (R374). -/
abbrev Handle := BitVec 32
/-- A slice number, 0 to 63 (R259). -/
abbrev SliceNo := BitVec 6
/-- A partition number, 0 to 63 (R258). -/
abbrev PtnNo := BitVec 6
/-- A link port number, 0 to 5 (R302). -/
abbrev PortNo := BitVec 3
/-- A device identifier (R20). -/
abbrev DeviceId := BitVec 14

/-- The ceiling of a quotient of natural numbers (R11 rounds durations up). -/
def ceilDiv (a b : Nat) : Nat := (a + b - 1) / b

/-- Addition that saturates at a limit (the counters that a register table calls saturating). -/
def satAdd (limit a b : Nat) : Nat := min limit (a + b)

/-- Bits `lo` to `lo + w - 1` of a natural number. -/
def bitsOf (v lo w : Nat) : Nat := v / 2 ^ lo % 2 ^ w

end Sys2Proof
end

