-- ==== Sys2Proof/Syntax.lean ====
section
/-! DEFINITION. Syntax: the commands of the block, one constructor for each row of spec/opcode_table.json, with the
operands that the spec gives the operation or event. What the module reads from outside as part of the operation (a
descriptor fetched by DMA, the body of a message, a measured value) is an operand of the command. -/

namespace Sys2Proof

/-- A tile: the slice and the tile of its cluster, 0 to 5 anvil, 6 and 7 graver (R20, R135). -/
structure TileRef where
  slice : SliceNo
  tile : BitVec 3
  deriving DecidableEq, Repr

/-- The fields of the MMA slot (R109). -/
structure MmaSlot where
  bank : BitVec 2
  fmtA : BitVec 4
  fmtB : BitVec 4
  mxA : Bool
  mxB : Bool
  sparse : Bool
  arA : BitVec 4
  arB : BitVec 4
  postA : Bool
  postB : Bool
  zero : BitVec 21
  k : BitVec 16
  deriving DecidableEq, Repr

/-- The fields of the ACC slot (R114). -/
structure AccSlot where
  bank : BitVec 2
  fmt : BitVec 4
  sat : Bool
  ar : BitVec 4
  post : Bool
  zero : BitVec 48
  deriving DecidableEq, Repr

/-- The fields of the XFER slot (R117). -/
structure XferSlot where
  arT : BitVec 4
  arC : BitVec 4
  postT : Bool
  postC : Bool
  zero : BitVec 34
  len : BitVec 16
  deriving DecidableEq, Repr

/-- The fields of the LANE slot (R118). -/
structure LaneSlot where
  sat : Bool
  useImm : Bool
  dst : BitVec 6
  sa : BitVec 6
  sb : BitVec 6
  sc : BitVec 6
  imm : BitVec 32
  deriving DecidableEq, Repr

/-- The fields of the TRANS slot (R123). -/
structure TransSlot where
  dst : BitVec 6
  src : BitVec 6
  zero : BitVec 16
  deriving DecidableEq, Repr

/-- The fields of the LDST slot (R124). -/
structure LdstSlot where
  reg : BitVec 6
  ar : BitVec 4
  post : Bool
  zero : BitVec 19
  deriving DecidableEq, Repr

/-- What every admin entry carries (R357, R358): its TAG, the NOTIFY flag, whether every byte not placed is zero, and
whether a DMA of a host buffer that the command names met an error. -/
structure Adm where
  tag : BitVec 32
  notify : Bool
  layoutOk : Bool
  dmaErr : Bool
  deriving DecidableEq, Repr

/-- One extent of a handoff record (R289). -/
structure Extent where
  obj : Handle
  va : Word
  bytes : Word
  deriving DecidableEq, Repr

/-- One move of a re-binding plan (R361, R177). -/
structure Move where
  src : Word
  dst : Word
  lines : BitVec 32
  deriving DecidableEq, Repr

/-- The place and the entries of one table write (R239, R361). -/
structure TableRec where
  die : Byte
  cluster : Byte
  count : BitVec 16
  line : BitVec 32
  index : BitVec 16
  entries : List Word
  deriving DecidableEq, Repr

/-- One slot grant of a re-binding plan: a port direction and its bitmap of 6,250 slots (R312, R361). -/
structure Grant where
  port : Byte
  dir : Byte
  bitmap : BitVec 6250
  deriving DecidableEq, Repr

/-- The plan of PTN_RESHAPE (R361). -/
structure ReshapePlan where
  moves : List Move
  tables : List TableRec
  unbinds : List Handle
  binds : List Handle
  grants : List Grant
  deriving DecidableEq, Repr

/-- One hop of an alloy's hop list (R345, R361). -/
structure Hop where
  device : BitVec 16
  port : Byte
  flight : BitVec 16
  deriving DecidableEq, Repr

/-- The plan of ALLOY_JOIN (R361). -/
structure JoinPlan where
  members : List (BitVec 16)
  hops : List Hop
  paths : List (List (BitVec 16))
  deriving DecidableEq, Repr

/-- The body of a handoff message (R294). -/
structure HoMsg where
  code : Byte
  epoch : BitVec 32
  srcDevice : BitVec 16
  dstDevice : BitVec 16
  srcHandle : Handle
  dstHandle : Handle
  length : Word
  deriving DecidableEq, Repr

/-- The header fields of an OPEN flit (R310). -/
structure OpenHdr where
  cls : BitVec 4
  srcPart : PtnNo
  srcDevice : DeviceId
  dstDevice : DeviceId
  tag : BitVec 16
  deriving DecidableEq, Repr

/-- An alloy message (R320): the port it came in by (`none` for a message that originates on this device), its
CMD_SEQ, ALLOY_ID and ARG. -/
structure AlloyMsg where
  port : Option PortNo
  seq : BitVec 24
  alloy : BitVec 32
  arg : Word
  deriving DecidableEq, Repr

/-- Who performs a register access (R431, R520, R524): the host through BAR0, the sequencer of a slice, or a hub
management core. -/
inductive Origin where
  | bar0
  | sequencer (slice : SliceNo)
  | core (n : BitVec 2)
  deriving DecidableEq, Repr

/-- A firmware bank image as FW_STAGE and the boot ROM judge it (R466): its header fields, whether its reserved bytes
are zero, whether the body digest matches and whether the signature verifies. -/
structure FwImage where
  magic : BitVec 32
  svn : Byte
  zeroOk : Bool
  bodyBytes : BitVec 32
  headerDigest : BitVec 256
  digestOk : Bool
  sigOk : Bool
  deriving DecidableEq, Repr

/-- What the refresh-window lane check finds: one bit for each of the 72 lanes and the two spares (R215). -/
abbrev LaneFails := BitVec 74

/-- What the SECDED codes of a planish engine's SRAM find (R173): nothing, a corrected error, or an uncorrectable one. -/
inductive ReadOutcome where
  | clean
  | corrected
  | uncorrectable
  deriving DecidableEq, Repr

/-- An error that an access of a memory line meets: the line's address, the error of its 72 symbols (R213), whether it lies in the
stored line, where it stays until the line is written, or on the way, whether the line's CRC fails (R202), and whether its stack
returns a severity report (R212). -/
structure LineError where
  dpa : BitVec 40
  err : BitVec 576
  stays : Bool
  crc : Bool
  inner : Bool
  deriving DecidableEq, Repr

/-- What the SECDED codes of a tile and its cluster store find in the accesses of a bundle's ticks (R60): nothing, or an
error in the tile (`false`) or the cluster store (`true`). -/
inductive BitErrors where
  | clean
  | corrected (store : Bool)
  | uncorrectable (store : Bool)
  deriving DecidableEq, Repr

/-- A tile as an assay tests it (R76, R77): its physical cluster, 17 to a die with the spare last, its number there, and how
many of its 130 rows and of its 520 lanes fail. -/
structure TestedTile where
  cluster : BitVec 7
  tile : BitVec 3
  rows : BitVec 8
  lanes : BitVec 10
  deriving DecidableEq, Repr

/-- What an assay finds in the units outside the hub and the mesh (R500): the tiles with failing rows or lanes, the physical
clusters with storage beyond its spares, the engines and ports that fail, and the failing bit lanes of each channel that has
one. -/
structure AssayUnits where
  tiles : List TestedTile
  storage : BitVec 68
  engines : BitVec 24
  ports : BitVec 6
  lanes : List (BitVec 10 × BitVec 7)
  deriving DecidableEq, Repr

/-- All that an assay finds (R500): the units, the physical clusters with routers beyond their spares, whether the units of the
hub pass, and the other repairs made (spare SRAM rows and lane groups). -/
structure AssayFound extends AssayUnits where
  routers : BitVec 68
  hubOk : Bool
  repairs : BitVec 16
  deriving DecidableEq, Repr

/-- What a flow tick's units meet (R60, R150): whether a check code fails at the node, and the bit errors of its local accesses,
each at its destination or its source, uncorrectable or corrected. -/
structure FlowFails where
  check : Bool
  bits : List (Bool × Bool)
  deriving DecidableEq, Repr

/-- The reads of a refresh window (R206, R215, R218): the errors of the lines that it reads, and the lines of the device reserve
that the hub reads or writes in the rest of it. -/
structure WindowReads where
  errs : List LineError
  reserve : List (BitVec 21)
  deriving DecidableEq, Repr

/-- An open-queue entry that starts, with what the codes of the engine's SRAM find (R173, R195). -/
structure EntryStart where
  entry : BitVec 6
  ecc : ReadOutcome
  deriving DecidableEq, Repr

/-- The seam of a partition, with the bit errors that its tiles meet while their operations drain (R60, R165). -/
structure SeamDrain where
  ptn : PtnNo
  bits : List (TileRef × BitErrors)
  deriving DecidableEq, Repr

/-- What a receiver finds on its lanes (R304, R305): each logical lane's symbol errors in the stroke so far, and the spares whose
PRBS31 pattern had an error. -/
structure LaneReport where
  symbols : List (BitVec 6 × BitVec 16)
  prbs : List (BitVec 7)
  deriving DecidableEq, Repr

/-- The commands of the block, in the order of the opcode table. -/
inductive Instr where
  -- submission and the execution line
  | qSqTail (inst : BitVec 9) (q : BitVec 3) (tail : BitVec 16)
  | qCqHead (inst : BitVec 9) (q : BitVec 3) (head : BitVec 16)
  | instLaunch (inst : BitVec 9) (segment : BitVec 16) (delay : BitVec 16)
  | run (inst : BitVec 9) (q : BitVec 3) (desc : BitVec 2048)
  | alloyRun (inst : BitVec 9) (q : BitVec 3) (desc : BitVec 2048)
  | signal (inst : BitVec 9) (q : BitVec 3) (desc : BitVec 2048)
  | commandLaunch (p : PtnNo)
  | alloyLaunchInstant (p : PtnNo)
  | walk (p : PtnNo) (chain : BitVec 4) (tableUe : Bool)
  | translationPhaseEnd (p : PtnNo)
  | loadSegmentEnd (p : PtnNo)
  -- control slot
  | nop (t : TileRef) (wait : BitVec 12) (bits : List BitErrors)
  | setar (t : TileRef) (wait : BitVec 12) (ar : BitVec 4) (value stride : BitVec 20) (zero : BitVec 4)
    (bits : List BitErrors)
  | loop (t : TileRef) (wait : BitVec 12) (count : BitVec 16) (halfLen : BitVec 4) (zero : BitVec 28)
    (bits : List BitErrors)
  | tileEnd (t : TileRef) (wait : BitVec 12) (bits : List BitErrors)
  -- matrix tile slots and the transfer slot
  | mma (t : TileRef) (f : MmaSlot)
  | clear (t : TileRef) (f : AccSlot)
  | load (t : TileRef) (f : AccSlot)
  | store (t : TileRef) (f : AccSlot)
  | toCs (t : TileRef) (f : XferSlot)
  | fromCs (t : TileRef) (f : XferSlot)
  -- lane slot
  | fadd (t : TileRef) (f : LaneSlot)
  | fsub (t : TileRef) (f : LaneSlot)
  | fmul (t : TileRef) (f : LaneSlot)
  | fma (t : TileRef) (f : LaneSlot)
  | fmin (t : TileRef) (f : LaneSlot)
  | fmax (t : TileRef) (f : LaneSlot)
  | fceq (t : TileRef) (f : LaneSlot)
  | fclt (t : TileRef) (f : LaneSlot)
  | fcle (t : TileRef) (f : LaneSlot)
  | sel (t : TileRef) (f : LaneSlot)
  | hadd (t : TileRef) (f : LaneSlot)
  | hsub (t : TileRef) (f : LaneSlot)
  | hmul (t : TileRef) (f : LaneSlot)
  | hfma (t : TileRef) (f : LaneSlot)
  | hmin (t : TileRef) (f : LaneSlot)
  | hmax (t : TileRef) (f : LaneSlot)
  | iadd (t : TileRef) (f : LaneSlot)
  | isub (t : TileRef) (f : LaneSlot)
  | imul (t : TileRef) (f : LaneSlot)
  | and (t : TileRef) (f : LaneSlot)
  | or (t : TileRef) (f : LaneSlot)
  | xor (t : TileRef) (f : LaneSlot)
  | shl (t : TileRef) (f : LaneSlot)
  | shr (t : TileRef) (f : LaneSlot)
  | sra (t : TileRef) (f : LaneSlot)
  | iceq (t : TileRef) (f : LaneSlot)
  | iclt (t : TileRef) (f : LaneSlot)
  | cvtFp32ToInt32 (t : TileRef) (f : LaneSlot)
  | cvtInt32ToFp32 (t : TileRef) (f : LaneSlot)
  | cvtFp32ToBf16 (t : TileRef) (f : LaneSlot)
  | cvtBf16ToFp32 (t : TileRef) (f : LaneSlot)
  | cvtFp32ToFp16 (t : TileRef) (f : LaneSlot)
  | cvtFp16ToFp32 (t : TileRef) (f : LaneSlot)
  | cvtFp32ToE4m3 (t : TileRef) (f : LaneSlot)
  | cvtE4m3ToFp32 (t : TileRef) (f : LaneSlot)
  | cvtFp32ToE5m2 (t : TileRef) (f : LaneSlot)
  | cvtE5m2ToFp32 (t : TileRef) (f : LaneSlot)
  | cvtFp32ToInt8 (t : TileRef) (f : LaneSlot)
  | cvtInt8ToFp32 (t : TileRef) (f : LaneSlot)
  | perm (t : TileRef) (f : LaneSlot)
  | bcast (t : TileRef) (f : LaneSlot)
  | rsum (t : TileRef) (f : LaneSlot)
  | rmax (t : TileRef) (f : LaneSlot)
  | rmin (t : TileRef) (f : LaneSlot)
  | mxq (t : TileRef) (f : LaneSlot)
  -- transcendental slot and load or store slot
  | exp (t : TileRef) (f : TransSlot)
  | log (t : TileRef) (f : TransSlot)
  | rcp (t : TileRef) (f : TransSlot)
  | rsqrt (t : TileRef) (f : TransSlot)
  | sigmoid (t : TileRef) (f : TransSlot)
  | tanh (t : TileRef) (f : TransSlot)
  | silu (t : TileRef) (f : TransSlot)
  | ld (t : TileRef) (f : LdstSlot)
  | st (t : TileRef) (f : LdstSlot)
  -- network, memory streams and channels
  | flowTick (node : BitVec 7) (entry : BitVec 18) (rep : BitVec 12) (i : BitVec 12) (fails : FlowFails)
  | streamAccess (slice : SliceNo) (stream : BitVec 6) (tick : BitVec 24) (errs : List LineError)
  | microTlbRequest (slice : SliceNo) (stream : BitVec 6) (line : BitVec 40)
  | refreshWindow (channel : BitVec 10) (fails : LaneFails) (reads : WindowReads)
  | holdRefresh (channel : BitVec 10)
  -- planish operations
  | attn (engine : BitVec 5) (p : PtnNo) (desc : Line) (ecc : ReadOutcome)
  | matvec (engine : BitVec 5) (p : PtnNo) (desc : Line) (ecc : ReadOutcome)
  | gather (engine : BitVec 5) (p : PtnNo) (desc : Line) (ecc : ReadOutcome)
  | scatter (engine : BitVec 5) (p : PtnNo) (desc : Line) (ecc : ReadOutcome)
  | topk (engine : BitVec 5) (p : PtnNo) (desc : Line) (ecc : ReadOutcome)
  | sum (engine : BitVec 5) (p : PtnNo) (desc : Line) (ecc : ReadOutcome)
  | max (engine : BitVec 5) (p : PtnNo) (desc : Line) (ecc : ReadOutcome)
  | min (engine : BitVec 5) (p : PtnNo) (desc : Line) (ecc : ReadOutcome)
  | merge (engine : BitVec 5) (p : PtnNo) (desc : Line) (ecc : ReadOutcome)
  | copy (engine : BitVec 5) (p : PtnNo) (desc : Line) (ecc : ReadOutcome)
  | fill (engine : BitVec 5) (p : PtnNo) (desc : Line) (ecc : ReadOutcome)
  | descriptorEnd (engine : BitVec 5) (p : PtnNo)
  | openEntryStart (engine : BitVec 5) (start : EntryStart)
  | openEntryEnd (engine : BitVec 5) (entry : BitVec 6) (errs : List LineError)
  | alloc (slice : SliceNo) (cls : Byte)
  | free (slice : SliceNo) (va : Word)
  | openGroupStart (p : PtnNo) (group : BitVec 16)
  | openGroupNeed (p : PtnNo) (group : BitVec 16)
  -- commit, release, seam and line items
  | internalCommit (p : PtnNo)
  | pacedRelease (p : PtnNo)
  | promiseOverrun (p : PtnNo)
  | seam (drain : SeamDrain)
  | lineItemEnd (p : PtnNo)
  | bindItem (p : PtnNo)
  | unbindItem (p : PtnNo)
  | translationUpdate (p : PtnNo)
  | rebindingItem (p : PtnNo) (errs : List LineError)
  | parkItem (p : PtnNo)
  | wakeItem (p : PtnNo)
  | debugItem (p : PtnNo)
  | directLaunch (p : PtnNo)
  | tickSwitchItem
  | tickRestart
  | standbyPllLock
  | autoTickSwitch
  | leaveItem (p : PtnNo)
  | leaveInstant (p : PtnNo)
  -- sequencers and event controllers
  | heartbeatMissed (slice : SliceNo)
  | seqTrap (slice : SliceNo) (mcause : Word)
  | sxlaunch (slice : SliceNo) (value : Word)
  | sxkill (slice : SliceNo) (value : Word)
  | halt (slice : SliceNo) (value : Bool)
  | evcDoorbell (evc : BitVec 7) (source : BitVec 10)
  | evcMessage (evc : BitVec 7) (source : BitVec 10)
  | evcTimeExpiry (evc : BitVec 7) (source : BitVec 10)
  | evcClaim (evc : BitVec 7) (origin : Origin)
  | evcComplete (evc : BitVec 7) (source : BitVec 10)
  | stackClr (evc : BitVec 7) (origin : Origin)
  -- register pages
  | evtEn (page : BitVec 14) (value : Word)
  | blkEnable (page : BitVec 14)
  | softRst (page : BitVec 14) (origin : Origin)
  | freeze (page : BitVec 14) (value : Bool)
  | lock (page : BitVec 14) (value : Word)
  | badAccess (bar : BitVec 3) (offset : BitVec 26) (size : BitVec 8) (write : Bool)
  | registerWrite (origin : Origin) (offset : BitVec 26) (size : BitVec 8) (value : Word)
  | ptnpXltRoot (p : PtnNo) (value : Word)
  | quota (p : PtnNo) (value : BitVec 20)
  | rtrOwn (slice : SliceNo) (value : Word)
  | lnkOwn (port : PortNo) (value : Word)
  | openMask (channel : BitVec 10) (value : Word)
  | openMin (channel : BitVec 10) (value : BitVec 6)
  | poolState (value : BitVec 3)
  | openReserve (port : PortNo) (value : BitVec 13)
  | clkGate (reg : BitVec 3) (value : Word)
  | retrain (port : PortNo)
  | enable (port : PortNo) (value : Bool)
  -- admin rings
  | mbxEnable (fm : Bool)
  | mbxSqBase (fm : Bool) (value : Word)
  | mbxCqBase (fm : Bool) (value : Word)
  | sqTail (fm : Bool) (value : BitVec 16)
  | cqHead (fm : Bool) (value : BitVec 16)
  | admOpcode (fm : Bool) (a : Adm) (opcode : BitVec 16)
  | admDenied (fm : Bool) (a : Adm) (opcode : BitVec 16)
  | noticePost
  -- instances, queues, objects
  | instCreate (a : Adm) (inst : BitVec 16) (p fn : Byte) (image : Handle)
  | instDestroyDrain (a : Adm) (inst : BitVec 16)
  | instDestroySquash (a : Adm) (inst : BitVec 16)
  | instReset (a : Adm) (inst : BitVec 16)
  | instSuspend (a : Adm) (inst : BitVec 16)
  | instResume (a : Adm) (inst : BitVec 16)
  | instImage (a : Adm) (inst : BitVec 16) (image : Handle)
  | instQuery (a : Adm) (inst : BitVec 16)
  | qCreate (a : Adm) (inst : BitVec 16) (q sqLog2 cqLog2 : Byte) (sqBase cqBase : Word)
  | qDestroy (a : Adm) (inst : BitVec 16) (q : Byte)
  | moCreate (a : Adm) (p kind flags : Byte) (owner : BitVec 16) (va bytes : Word)
  | moFree (a : Adm) (obj : Handle)
  | objRef (a : Adm) (kind : Byte) (h : Handle) (delta : BitVec 32)
  | appendSet (a : Adm) (obj : Handle) (extent : Word)
  | fenceCreate (a : Adm) (p : Byte) (value : Word)
  | fenceFree (a : Adm) (fence : Handle)
  | fenceSignal (a : Adm) (fence : Handle) (value : Word)
  | fenceView (a : Adm) (inst : BitVec 16) (view : Byte) (fence : Handle)
  | argsetWrite (a : Adm) (p set : Byte) (data : BitVec 1536)
  | ptWrite (a : Adm) (p : Byte) (rec : TableRec)
  | regionCreate (a : Adm) (engine flags : Byte) (region : BitVec 16) (obj : Handle) (base lines : BitVec 32)
      (kind : Byte)
  | regionDestroy (a : Adm) (engine : Byte) (region : BitVec 16)
  | openOrder (a : Adm) (engine p : Byte) (desc : Line)
  | imgBind (a : Adm) (p flags index : Byte) (obj : Handle)
  | imgUnbind (a : Adm) (image : Handle)
  | heapSet (a : Adm) (p : Byte) (obj : Handle)
  | heapReset (a : Adm) (p : Byte)
  -- partitions
  | ptnCreate (a : Adm) (p profile : Byte) (quota : BitVec 32) (slices sets : Word)
  | ptnDestroy (a : Adm) (p : Byte)
  | ptnReset (a : Adm) (p : Byte)
  | annealOverwriteEnd (p : PtnNo)
  | ptnReshape (a : Adm) (p profile : Byte) (slices sets : Word) (plan : ReshapePlan)
  | preemptAbsorb (a : Adm) (p : Byte) (inst : BitVec 16) (q : Byte) (desc : BitVec 2048)
  | preemptWithdraw (a : Adm) (p : Byte) (inst : BitVec 16) (q : Byte) (desc : BitVec 2048)
  | preemptKill (a : Adm) (p : Byte) (inst : BitVec 16) (q : Byte) (desc : BitVec 2048)
  -- handoff admin commands
  | hoCreate (a : Adm) (p cls count : Byte) (extents : List Extent) (inline : Line)
  | hoArm (a : Adm) (p : Byte) (srcDevice : BitVec 16) (srcHandle obj : Handle) (capacity : Word)
  | hoOffer (a : Adm) (record : Handle) (dstDevice : BitVec 16) (dstHandle : Handle)
  | hoFree (a : Adm) (record : Handle)
  | hoRead (a : Adm) (record : Handle) (dst : Word)
  | hoRuleSource (a : Adm) (state : Byte) (record : Handle) (epoch : BitVec 32)
  | hoRuleDestination (a : Adm) (state : Byte) (record : Handle) (epoch : BitVec 32)
  | hoRuleLost (a : Adm) (state : Byte) (record : Handle) (epoch : BitVec 32)
  | hoRuleKeep (a : Adm) (state : Byte) (record : Handle) (epoch : BitVec 32)
  | hoRuleDrop (a : Adm) (state : Byte) (record : Handle) (epoch : BitVec 32)
  -- log, aperture, PASID
  | logCtlEnable (a : Adm) (inst : BitVec 16)
  | logCtlDisable (a : Adm) (inst : BitVec 16)
  | logFetch (a : Adm) (inst : BitVec 16) (first count : BitVec 32) (dst : Word)
  | apertureMap (a : Adm) (inst : BitVec 16) (base : Word)
  | pasidBind (a : Adm) (inst : BitVec 16) (pasid : BitVec 32)
  -- alloys
  | alloyJoin (a : Adm) (p : Byte) (lead : BitVec 16) (alloy windowUs : BitVec 32) (tJoin : Word) (plan : JoinPlan)
  | joinInstant (p : PtnNo)
  | joinWindowEnd (p : PtnNo)
  | alloyUndecided (p : PtnNo)
  | alloyLeave (a : Adm) (p : Byte) (leaving : List (BitVec 16))
  | alloyDissolve (a : Adm) (p : Byte)
  | alloyResume (a : Adm) (p : Byte)
  | alloyRuleNone (a : Adm) (p : Byte)
  | alloyRuleActive (a : Adm) (p : Byte)
  | alloyTreeInstall (a : Adm) (up down member : Byte) (alloy : BitVec 32)
  | alloyTreeRemove (a : Adm) (up down member : Byte) (alloy : BitVec 32)
  | routeWrite (a : Adm) (first count : BitVec 16) (entries : List (BitVec 4))
  | vecAlloc (a : Adm) (inst : BitVec 16) (count : Byte)
  | vecFree (a : Adm) (inst : BitVec 16)
  -- tick source and power states
  | tickSourceLocal (a : Adm)
  | tickSourceFabric (a : Adm)
  | pwrPark (a : Adm) (p state : Byte)
  | pwrWake (a : Adm) (p : Byte)
  | devStateDs0 (a : Adm)
  | devStateDs2 (a : Adm)
  | devStateDs3 (a : Adm)
  | alloyGap (a : Adm) (p gap : Byte) (epoch : Word)
  | alloyGapEpoch (p : PtnNo)
  -- security
  | fwStage (a : Adm) (bytes : BitVec 32) (image : FwImage)
  | fwSvnCommit (a : Adm) (svn : Byte)
  | attest (a : Adm) (p : Byte) (capacity : BitVec 32) (dst : Word) (nonce : BitVec 256)
  | attestFm (a : Adm) (p : Byte) (capacity : BitVec 32) (dst : Word) (nonce : BitVec 256)
  | attestDoe (kind : Byte) (p : Byte) (capacity : BitVec 32) (nonce : BitVec 256)
  | attestSnapshot
  | consent (a : Adm) (p flags : Byte)
  | dbgOpen (a : Adm) (p : Byte)
  | dbgClose (a : Adm) (p : Byte)
  | pkgUnseal (a : Adm) (p : Byte) (src dst : Handle) (first count : BitVec 32)
  -- resets and assay
  | engineReset (a : Adm) (p slice tiles : Byte)
  | devResetDevice (a : Adm)
  | devResetPowerCycle (a : Adm)
  | assayRun (a : Adm) (kind : Byte) (target : BitVec 16)
  | assayEnd (repairs : BitVec 16) (hubOk : Bool) (routers : BitVec 68) (units : AssayUnits)
  | assayRead (a : Adm)
  | assayReadFm (a : Adm)
  | assayFuse (a : Adm)
  | resetOverrun (level : BitVec 3) (p : PtnNo)
  -- bus
  | apertureRead (inst : BitVec 9) (offset : BitVec 27) (size : BitVec 13) (errs : List LineError)
  | apertureWrite (inst : BitVec 9) (offset : BitVec 27) (data : List Byte) (errs : List LineError)
  | selfRefreshReturn (channel : BitVec 10)
  | dmaError (what : BitVec 3) (inst : BitVec 9) (q : BitVec 3)
  | configRequest (fn : Bool) (offset : BitVec 12) (write : Bool) (value : BitVec 32)
  | pcieLinkReset (fn : Bool)
  | perstN
  | pwrEnRise (railsOk : Bool)
  | pwrEnFall
  | railOutOfRegulation
  | firmwareVerified (bank : Bool) (image : FwImage) (nvmOk : Bool) (mNvm : BitVec 256)
  | bankVerifyFail (bank : Bool)
  | deviceRelease (trained : Bool)
  | assayOutOfWindow
  | hubHeartbeatCheck (incremented : BitVec 4) (recordsPosted : Bool)
  -- power, clocks, thermal
  | pwrAlertNAssert (widthNs : BitVec 16)
  | pwrAlertNDeassert
  | alertHoldEnd
  | coolFailNAssert (widthNs : BitVec 16)
  | coolFailNDeassert
  | quenchPowerOffRequest
  | thermTrip
  | supplyWarning (rail : BitVec 3)
  | clampEnd
  | brownout (rail : BitVec 3)
  | droop (stretchedTicks : BitVec 16) (totalPs : BitVec 32)
  | capLoop (lastMs fixed other : BitVec 32) (alloys : List (BitVec 32))
  | calibration (measured estimated : BitVec 48)
  | thermalFloor (maxC : Byte) (hotDie : Byte)
  | trim (errPpm : BitVec 16) (refPresent : Bool)
  | idleSp1 (slice : SliceNo)
  | idleSp2 (slice : SliceNo)
  | counterLatch
  | pwrViewUpdate (powers : List (BitVec 16))
  | trngFail
  | trngTimeout (what : BitVec 2) (port : PortNo)
  -- fabric time
  | timePps
  | time (port : PortNo) (valid : Bool) (hops : BitVec 6) (root : DeviceId) (start : Word) (arrival : BitVec 80)
  | parentLost
  | parentUsable
  -- link ports
  | trainingFrame (port : PortNo) (lanes : BitVec 68)
  | trainDone (port : PortNo) (ber : List (BitVec 32))
  | alignDone (port : PortNo) (lanes : BitVec 64)
  | hello (port : PortNo) (certOk : Bool) (device : DeviceId) (peerPort : BitVec 3) (nonce : BitVec 256)
  | encap (port : PortNo) (ok : Bool)
  | portStateTimeout (port : PortNo)
  | interval (port : PortNo) (corrected : BitVec 16) (lanes : LaneReport)
  | lostInterval (port : PortNo)
  | laneSwap (port : PortNo) (logical spare : Byte) (stroke : BitVec 20)
  | laneSwapStroke (port : PortNo)
  | keyRefresh (port : PortNo)
  | echoReq (port : PortNo) (seq : Byte) (delta : BitVec 48)
  | echoRsp (port : PortNo) (seq : Byte) (delta elapsed : BitVec 48)
  | close (port : PortNo) (cause : Byte)
  | pause (port : PortNo) (set : Word)
  | scheduledSlot (port : PortNo) (slot : BitVec 13)
  | openSlot (port : PortNo) (slot : BitVec 13)
  | scheduledFlit (port : PortNo) (slot : BitVec 13) (kind : BitVec 4) (point : BitVec 2) (cmd : BitVec 18)
      (srcPart : PtnNo) (alloy : BitVec 32) (units : List Line)
  | holdBegin (p : PtnNo) (port : PortNo)
  | holdEnd (p : PtnNo)
  | holdLimitUs (p : PtnNo)
  | barrierTick (p : PtnNo) (index : BitVec 16)
  | barrierArrive (m : AlloyMsg)
  | barrierGo (m : AlloyMsg)
  | launch (m : AlloyMsg)
  | commit (m : AlloyMsg)
  | release (m : AlloyMsg)
  | void (m : AlloyMsg)
  | abort (m : AlloyMsg)
  | joinSync (m : AlloyMsg) (device : DeviceId)
  | active (m : AlloyMsg)
  | abandon (m : AlloyMsg)
  | leave (m : AlloyMsg) (leaving : List (BitVec 16))
  | hopReport (p : PtnNo) (device : DeviceId) (hops : List (BitVec 16 × BitVec 16))
  | wcetDigest (p : PtnNo) (device : DeviceId) (index : BitVec 4) (digest : BitVec 256)
  | resumeReport (p : PtnNo) (device : DeviceId)
  -- handoff messages and timers
  | offer (m : HoMsg)
  | stream (h : OpenHdr) (data : BitVec 2048)
  | streamEnd (record : BitVec 14)
  | trailer (record : BitVec 14) (epoch : BitVec 32) (length : Word) (digest : BitVec 256)
  | taken (m : HoMsg)
  | released (m : HoMsg)
  | refuse (m : HoMsg)
  | query (m : HoMsg)
  | answer (m : HoMsg)
  | stale (m : HoMsg)
  | holdQueryExpiry (record : BitVec 14)
  | takenResend (record : BitVec 14)
  | hoHoldLimit (record : BitVec 14)
  -- remote accesses
  | readReq (h : OpenHdr) (va : Word) (lines : BitVec 32) (deadline : Word) (errs : List LineError)
  | readData (h : OpenHdr) (lines : List Line)
  | writeReq (h : OpenHdr) (va : Word) (lines : BitVec 32) (deadline : Word)
  | writeData (h : OpenHdr) (lines : List Line)
  | ack (h : OpenHdr) (status : BitVec 16) (lines : BitVec 32)
  | nack (h : OpenHdr) (status : BitVec 16) (va : Word)
  | openRequestTimeout (tag : BitVec 16)
  | grant (kind : BitVec 2) (index : BitVec 10)
  | guaranteeCheck (kind : BitVec 2) (index : BitVec 10)
  -- JTAG and I3C
  | bypass (tdi : Bool)
  | idcode
  | samplePreload (cells : Word)
  | extest (tdi : Bool)
  | jtagDebugAccess (p : PtnNo) (slice : SliceNo) (space : BitVec 4) (address : BitVec 24) (write : Bool)
      (value : Word)
  | readReg (page offset : BitVec 16)
  | status
  | wake
  | flashErase (bank : Byte)
  | flashWrite (bank : Byte) (offset : BitVec 32) (data : Line)
  | flashRead (bank : Byte) (offset : BitVec 32)
  | enec (events : Byte)
  | disec (events : Byte)
  | rstdaa
  | setdasa (static dynamic : BitVec 7)
  | entdaa (dynamic : BitVec 7)
  | getpid
  | getbcr
  | getdcr
  | getstatus
  | inBandInterrupt (event : Byte) (taken : Bool)
  -- recovery, overruns, unmasking, data object exchange
  | markerDiscontinuity (port : PortNo)
  | resetLevelRecovery
  | perstNDeassert
  | lineItemOverrun (p : PtnNo)
  | vectorUnmask (fn : Bool) (vector : BitVec 11)
  | ideKm (stream : BitVec 3) (subStream : BitVec 3) (rx : Bool) (keyOk : Bool) (setGo : Bool)
  | doeDiscovery (index : Byte)
  deriving DecidableEq, Repr

end Sys2Proof
end

