-- ==== Sys2Proof/Machine/Codes.lean ====
section
/-! DEFINITION. The numeric codes of the spec: statuses (R362), detail codes (R362), fault codes (R483) and instance states
(R363). -/

namespace Sys2Proof.Machine

/-- SUCCESS (R362). -/
def St.success : Nat := 0x0
/-- ACCEPTED (R362). -/
def St.accepted : Nat := 0x1
/-- DONE (R362). -/
def St.done : Nat := 0x2
/-- DONE_VOIDED (R362). -/
def St.doneVoided : Nat := 0x3
/-- KILLED_VOIDED (R362). -/
def St.killedVoided : Nat := 0x4
/-- KILLED (R362). -/
def St.killed : Nat := 0x5
/-- PROMISE_WITHDRAWN (R362). -/
def St.promiseWithdrawn : Nat := 0x6
/-- DEFERRED (R362). -/
def St.deferred : Nat := 0x7
/-- REJ_TIME_UNLOCKED (R362). -/
def St.rejTimeUnlocked : Nat := 0x10
/-- REJ_FAULTED (R362). -/
def St.rejFaulted : Nat := 0x11
/-- REJ_POWER_ALERT (R362). -/
def St.rejPowerAlert : Nat := 0x12
/-- REJ_QUENCH (R362). -/
def St.rejQuench : Nat := 0x13
/-- REJ_POWER_LIMIT (R362). -/
def St.rejPowerLimit : Nat := 0x14
/-- REJ_RESOURCE (R362). -/
def St.rejResource : Nat := 0x15
/-- REJ_DEADLINE (R362). -/
def St.rejDeadline : Nat := 0x16
/-- UNMAPPED (R362). -/
def St.unmapped : Nat := 0x17
/-- PAGE_BUDGET (R362). -/
def St.pageBudget : Nat := 0x18
/-- IMG_FORMAT (R362). -/
def St.imgFormat : Nat := 0x100
/-- IMG_ENCODING (R362). -/
def St.imgEncoding : Nat := 0x101
/-- IMG_PLACEMENT (R362). -/
def St.imgPlacement : Nat := 0x102
/-- IMG_FAULTY (R362). -/
def St.imgFaulty : Nat := 0x103
/-- IMG_PORT (R362). -/
def St.imgPort : Nat := 0x104
/-- IMG_ROUTE (R362). -/
def St.imgRoute : Nat := 0x105
/-- IMG_WINDOW (R362). -/
def St.imgWindow : Nat := 0x106
/-- IMG_SPACE (R362). -/
def St.imgSpace : Nat := 0x107
/-- PTN_COMPAT (R362). -/
def St.ptnCompat : Nat := 0x200
/-- PTN_IN_USE (R362). -/
def St.ptnInUse : Nat := 0x201
/-- PTN_NOT_FREE (R362). -/
def St.ptnNotFree : Nat := 0x202
/-- PTN_QUOTA (R362). -/
def St.ptnQuota : Nat := 0x203
/-- PTN_FORMAT (R362). -/
def St.ptnFormat : Nat := 0x204
/-- PTN_INSTANCES (R362). -/
def St.ptnInstances : Nat := 0x205
/-- PTN_ALLOY (R362). -/
def St.ptnAlloy : Nat := 0x206
/-- PTN_TABLES (R362). -/
def St.ptnTables : Nat := 0x207
/-- PTN_MOVE (R362). -/
def St.ptnMove : Nat := 0x208
/-- PTN_STAGE (R362). -/
def St.ptnStage : Nat := 0x209
/-- PTN_LINK (R362). -/
def St.ptnLink : Nat := 0x20a
/-- ALLOY_COMPAT (R362). -/
def St.alloyCompat : Nat := 0x300
/-- ALLOY_BUSY (R362). -/
def St.alloyBusy : Nat := 0x301
/-- ALLOY_DUP (R362). -/
def St.alloyDup : Nat := 0x302
/-- ALLOY_LIST (R362). -/
def St.alloyList : Nat := 0x303
/-- ALLOY_UNLOCKED (R362). -/
def St.alloyUnlocked : Nat := 0x304
/-- ALLOY_TREE_FULL (R362). -/
def St.alloyTreeFull : Nat := 0x305
/-- JOIN_FAILED (R362). -/
def St.joinFailed : Nat := 0x306
/-- HO_STATE (R362). -/
def St.hoState : Nat := 0x400
/-- HO_EXTENT (R362). -/
def St.hoExtent : Nat := 0x401
/-- HO_PEER (R362). -/
def St.hoPeer : Nat := 0x402
/-- HO_EPOCH (R362). -/
def St.hoEpoch : Nat := 0x403
/-- OBJ_HANDLE (R362). -/
def St.objHandle : Nat := 0x500
/-- OBJ_BUSY (R362). -/
def St.objBusy : Nat := 0x501
/-- OBJ_RANGE (R362). -/
def St.objRange : Nat := 0x502
/-- OBJ_LIMIT (R362). -/
def St.objLimit : Nat := 0x503
/-- OBJ_SPACE (R362). -/
def St.objSpace : Nat := 0x504
/-- ADM_OPCODE (R362). -/
def St.admOpcode : Nat := 0x600
/-- ADM_FORMAT (R362). -/
def St.admFormat : Nat := 0x601
/-- ADM_DENIED (R362). -/
def St.admDenied : Nat := 0x602
/-- ADM_STATE (R362). -/
def St.admState : Nat := 0x603
/-- ALLOY_BOUND (R362). -/
def St.alloyBound : Nat := 0x604
/-- ADM_DMA (R362). -/
def St.admDma : Nat := 0x605
/-- LOST (R362). -/
def St.lost : Nat := 0x700
/-- BUSY (R362). -/
def St.busy : Nat := 0x701
/-- notice FAULT (R362). -/
def St.nFault : Nat := 0x800
/-- notice LOCK_LOST (R362). -/
def St.nLockLost : Nat := 0x801
/-- notice ALLOY_UNDECIDED (R362). -/
def St.nAlloyUndecided : Nat := 0x802
/-- notice JOInotice ABANDONED (R362). -/
def St.nJoinAbandoned : Nat := 0x803
/-- notice HO_UNANSWERED (R362). -/
def St.nHoUnanswered : Nat := 0x804
/-- notice HO_HOLD_LIMIT (R362). -/
def St.nHoHoldLimit : Nat := 0x805
/-- notice HO_STALE (R362). -/
def St.nHoStale : Nat := 0x806
/-- notice HO_LOST (R362). -/
def St.nHoLost : Nat := 0x807
/-- notice PORT_CLOSED (R362). -/
def St.nPortClosed : Nat := 0x808
/-- notice CAP_SATURATED (R362). -/
def St.nCapSaturated : Nat := 0x809
/-- DETAIL_CODE FORMAT (R362). -/
def Dc.format : Nat := 0x1
/-- DETAIL_CODE HANDLE (R362). -/
def Dc.handle : Nat := 0x2
/-- DETAIL_CODE FREEING (R362). -/
def Dc.freeing : Nat := 0x3
/-- DETAIL_CODE VOID_INPUT (R362). -/
def Dc.voidInput : Nat := 0x4
/-- DETAIL_CODE REFCOUNT (R362). -/
def Dc.refcount : Nat := 0x5
/-- DETAIL_CODE IMAGE (R362). -/
def Dc.image : Nat := 0x6
/-- DETAIL_CODE XLT_QUOTA (R362). -/
def Dc.xltQuota : Nat := 0x7
/-- DETAIL_CODE RECEIVE_RESERVED (R362). -/
def Dc.receiveReserved : Nat := 0x8
/-- DETAIL_CODE FENCE (R362). -/
def Dc.fence : Nat := 0x9
/-- DETAIL_CODE ALLOY (R362). -/
def Dc.alloy : Nat := 0xa
/-- DETAIL_CODE RANGE (R362). -/
def Dc.range : Nat := 0xb
/-- DETAIL_CODE SLOTS (R362). -/
def Dc.slots : Nat := 0xc
/-- Fault code TILE_ECC (R483). -/
def Fc.tileEcc : Nat := 0x1
/-- Fault code BUNDLE (R483). -/
def Fc.bundle : Nat := 0x2
/-- Fault code NME_ECC (R483). -/
def Fc.nmeEcc : Nat := 0x3
/-- Fault code MEM_UE (R483). -/
def Fc.memUe : Nat := 0x10
/-- Fault code LANE_EXHAUSTED (R483). -/
def Fc.laneExhausted : Nat := 0x11
/-- Fault code TABLE_UE (R483). -/
def Fc.tableUe : Nat := 0x12
/-- Fault code ROUTER (R483). -/
def Fc.router : Nat := 0x20
/-- Fault code XLT_LATE (R483). -/
def Fc.xltLate : Nat := 0x21
/-- Fault code XLT_MISMATCH (R483). -/
def Fc.xltMismatch : Nat := 0x22
/-- Fault code DROOP_BUDGET (R483). -/
def Fc.droopBudget : Nat := 0x23
/-- Fault code OVERRUN (R483). -/
def Fc.overrun : Nat := 0x24
/-- Fault code HEARTBEAT (R483). -/
def Fc.heartbeat : Nat := 0x30
/-- Fault code SEQ_TRAP (R483). -/
def Fc.seqTrap : Nat := 0x31
/-- Fault code EVC_STACK (R483). -/
def Fc.evcStack : Nat := 0x32
/-- Fault code STROKE_LOSS (R483). -/
def Fc.strokeLoss : Nat := 0x40
/-- Fault code ORDERED_RESET (R483). -/
def Fc.orderedReset : Nat := 0x50
/-- Fault code RESET_OVERRUN (R483). -/
def Fc.resetOverrun : Nat := 0x51
/-- Fault code DISSOLVED (R483). -/
def Fc.dissolved : Nat := 0x52
/-- Fault code HUB (R483). -/
def Fc.hub : Nat := 0x60
/-- Fault code BROWNOUT (R483). -/
def Fc.brownout : Nat := 0x61
/-- Fault code DEVICE_RESET (R483). -/
def Fc.deviceReset : Nat := 0x62
/-- Instance state FREE (R363). -/
def Is.free : Nat := 0
/-- Instance state ACTIVE (R363). -/
def Is.active : Nat := 1
/-- Instance state SUSPENDING (R363). -/
def Is.suspending : Nat := 2
/-- Instance state SUSPENDED (R363). -/
def Is.suspended : Nat := 3
/-- Instance state RESETTING (R363). -/
def Is.resetting : Nat := 4
/-- Instance state FAULTED (R363). -/
def Is.faulted : Nat := 5
/-- Instance state DRAINING (R363). -/
def Is.draining : Nat := 6
/-- Membership state NONE (R279, R287). -/
def Ms.none : Nat := 0
/-- Membership state JOINING (R279, R287). -/
def Ms.joining : Nat := 1
/-- Membership state ACTIVE (R279, R287). -/
def Ms.active : Nat := 2
/-- Membership state FAULTED (R279, R287). -/
def Ms.faulted : Nat := 3
/-- Membership state LEAVING (R279, R287). -/
def Ms.leaving : Nat := 4
/-- Time state LOCAL (R333, R348). -/
def Ts.local : Nat := 0
/-- Time state ROOT (R333, R348). -/
def Ts.root : Nat := 1
/-- Time state UNLOCKED (R333, R348). -/
def Ts.unlocked : Nat := 2
/-- Time state ACQUIRING (R333, R348). -/
def Ts.acquiring : Nat := 3
/-- Time state LOCKED (R333, R348). -/
def Ts.locked : Nat := 4
/-- Time state HOLDOVER (R333, R348). -/
def Ts.holdover : Nat := 5

end Sys2Proof.Machine
end

