-- ==== Sys2Proof/Machine/FMap.lean ====
section
/-! DEFINITION. Sparse maps from numbers to data, the plain-data form of every table, memory and slot array of the
block: a list of key and value pairs with strictly rising keys. -/

namespace Sys2Proof.Machine

/-- A sparse map: the listed keys rise strictly. -/
structure FMap (α : Type) where
  entries : List (Nat × α)
  deriving DecidableEq, Repr

/-- The value listed for a key. -/
def lookupKey {α : Type} : List (Nat × α) → Nat → Option α
  | [], _ => none
  | (k, v) :: rest, key => if k = key then some v else lookupKey rest key

/-- Put a value at a key, keeping the keys rising. -/
def insertKey {α : Type} : List (Nat × α) → Nat → α → List (Nat × α)
  | [], key, v => [(key, v)]
  | (k, w) :: rest, key, v =>
    if key < k then (key, v) :: (k, w) :: rest
    else if key = k then (key, v) :: rest
    else (k, w) :: insertKey rest key v

/-- Take a key out. -/
def eraseKey {α : Type} : List (Nat × α) → Nat → List (Nat × α)
  | [], _ => []
  | (k, w) :: rest, key => if k = key then rest else (k, w) :: eraseKey rest key

/-- The map that lists nothing. -/
def FMap.empty {α : Type} : FMap α := ⟨[]⟩
/-- The value at a key, if one is listed. -/
def FMap.find {α : Type} (m : FMap α) (k : Nat) : Option α := lookupKey m.entries k
/-- Whether a key is listed. -/
def FMap.has {α : Type} (m : FMap α) (k : Nat) : Bool := (m.find k).isSome
/-- Put a value at a key. -/
def FMap.put {α : Type} (m : FMap α) (k : Nat) (v : α) : FMap α := ⟨insertKey m.entries k v⟩
/-- Take a key out. -/
def FMap.drop {α : Type} (m : FMap α) (k : Nat) : FMap α := ⟨eraseKey m.entries k⟩
/-- The value at a key, or what an unlisted key reads as. -/
def FMap.getD {α : Type} (m : FMap α) (k : Nat) (d : α) : α := (m.find k).getD d
/-- Put a value at a key of a map whose unlisted keys read as `d`: writing `d` takes the key out, so that equal
contents are equal data. -/
def FMap.putD {α : Type} [DecidableEq α] (m : FMap α) (k : Nat) (d v : α) : FMap α :=
  if v = d then m.drop k else m.put k v
/-- Change the value at a key, where one is listed. -/
def FMap.adjust {α : Type} (m : FMap α) (k : Nat) (f : α → α) : FMap α :=
  match m.find k with
  | none => m
  | some v => m.put k (f v)
/-- Change every value, by its key. -/
def FMap.mapVal {α : Type} (m : FMap α) (f : Nat → α → α) : FMap α := ⟨m.entries.map fun e => (e.1, f e.1 e.2)⟩
/-- Keep the entries that a test passes. -/
def FMap.keep {α : Type} (m : FMap α) (f : Nat → α → Bool) : FMap α := ⟨m.entries.filter fun e => f e.1 e.2⟩
/-- The listed keys. -/
def FMap.keys {α : Type} (m : FMap α) : List Nat := m.entries.map Prod.fst
/-- The listed values. -/
def FMap.vals {α : Type} (m : FMap α) : List α := m.entries.map Prod.snd

/-- Whether keys rise strictly. -/
def keysRise {α : Type} : List (Nat × α) → Bool
  | [] => true
  | [_] => true
  | (k, _) :: (k', v') :: rest => decide (k < k') && keysRise ((k', v') :: rest)

/-- The canonical form of a sparse map. -/
def FMap.wf {α : Type} (m : FMap α) : Bool := keysRise m.entries
/-- The canonical form of a sparse map whose unlisted keys read as `d`: rising keys and no entry equal to `d`. -/
def FMap.wfD {α : Type} [DecidableEq α] (m : FMap α) (d : α) : Bool :=
  keysRise m.entries && m.entries.all fun e => decide (e.2 ≠ d)

/-- The first number of `[base, base + n)` that a test passes. -/
def firstIn (n base : Nat) (f : Nat → Bool) : Option Nat :=
  match n with
  | 0 => none
  | n + 1 => if f base then some base else firstIn n (base + 1) f

/-- The lowest key of `[0, limit)` that a map does not list. -/
def firstGap {α : Type} (limit : Nat) : List (Nat × α) → Nat → Option Nat
  | [], next => if next < limit then some next else none
  | (k, _) :: rest, next => if next < k then (if next < limit then some next else none) else firstGap limit rest (k + 1)

end Sys2Proof.Machine
end

