-- ==== Sys2Proof/Machine/Regs.lean ====
section
/-! DEFINITION. The register fields of the block, from the field tables of spec/: for each field its place in its
register, its width, its Reset value, its access code (R13), the deepest reset it survives (R17), whether it also returns
to Reset on exit from SP4 or DS3, and whether OTP or the hub NVM record backs it (R19). Values of OTP and NVM backed fields
are those of log entry 2. -/

namespace Sys2Proof.Machine

/-- Access codes of R13. -/
inductive Access where
  | ro | rw | rwl | w1c | w1s | wo | rz
  deriving DecidableEq, Repr

/-- The Kept column of R17. -/
inductive Kept where
  | none | context | engine | partition | device
  deriving DecidableEq, Repr

/-- What backs a field (R19). -/
inductive Backing where
  | table | otp | nvm
  deriving DecidableEq, Repr

/-- A register field. -/
structure Field where
  id : Nat
  lo : Nat
  width : Nat
  reset : Nat
  access : Access
  kept : Kept
  star : Bool
  backing : Backing
  deriving DecidableEq, Repr

/-- The pages of R528, with the common header on its own. -/
inductive Page where
  | hdr | glb | clk | pwr | thm | sec | ast | hif | qmg | xlt | ftm | evc | mig | ptn | rst | bwr | mbx | ptnp | lnk
  | die | noc | xltw | cls | seq | vec | mtx | sch | rtr | mch | nme | brg
  deriving DecidableEq, Repr

/-- A register: its page, the offset of its first instance, how many instances lie 8 bytes apart, and its fields. -/
structure RegDef where
  page : Page
  offset : Nat
  count : Nat
  fields : List Field
  deriving DecidableEq, Repr

/-- QMG_ADMIT_CFG.GRACE_US (R57). -/
def Reg.qmgAdmitCfgGraceUs : Field :=
  ⟨0, 32, 16, 10, .rwl, .partition, false, .table⟩
/-- QMG_ADMIT_CFG.A_NS (R57). -/
def Reg.qmgAdmitCfgANs : Field :=
  ⟨1, 16, 16, 2000, .ro, .device, false, .table⟩
/-- QMG_ADMIT_CFG.PACE_NS (R57). -/
def Reg.qmgAdmitCfgPaceNs : Field :=
  ⟨2, 8, 8, 20, .ro, .device, false, .table⟩
/-- QMG_ADMIT_CFG.LOCK (R57). -/
def Reg.qmgAdmitCfgLock : Field :=
  ⟨3, 0, 1, 0, .w1s, .partition, false, .table⟩
/-- PTNP_LINE_FREE.LINE_FREE (R57). -/
def Reg.ptnpLineFreeLineFree : Field :=
  ⟨4, 0, 64, 0, .ro, .engine, false, .table⟩
/-- PTNP_GUAR_STS.VOID_COUNT (R57). -/
def Reg.ptnpGuarStsVoidCount : Field :=
  ⟨5, 32, 32, 0, .ro, .engine, false, .table⟩
/-- PTNP_GUAR_STS.WITHDRAWN_COUNT (R57). -/
def Reg.ptnpGuarStsWithdrawnCount : Field :=
  ⟨6, 16, 16, 0, .ro, .engine, false, .table⟩
/-- PTNP_GUAR_STS.LAST_CAUSE (R57). -/
def Reg.ptnpGuarStsLastCause : Field :=
  ⟨7, 8, 8, 0, .ro, .engine, false, .table⟩
/-- PTNP_GUAR_STS.SATURATED (R57). -/
def Reg.ptnpGuarStsSaturated : Field :=
  ⟨8, 3, 1, 0, .ro, .engine, false, .table⟩
/-- PTNP_GUAR_STS.TIME_LOCKED (R57). -/
def Reg.ptnpGuarStsTimeLocked : Field :=
  ⟨9, 2, 1, 0, .ro, .none, false, .table⟩
/-- PTNP_GUAR_STS.ALERT (R57). -/
def Reg.ptnpGuarStsAlert : Field :=
  ⟨10, 1, 1, 0, .ro, .none, false, .table⟩
/-- PTNP_GUAR_STS.ADMIT_OPEN (R57). -/
def Reg.ptnpGuarStsAdmitOpen : Field :=
  ⟨11, 0, 1, 0, .ro, .engine, false, .table⟩
/-- SEQ_CTL.HB_PERIOD_US (R92). -/
def Reg.seqCtlHbPeriodUs : Field :=
  ⟨12, 16, 16, 100, .rwl, .partition, false, .table⟩
/-- SEQ_CTL.HALT (R92). -/
def Reg.seqCtlHalt : Field :=
  ⟨13, 1, 1, 1, .rw, .context, true, .table⟩
/-- SEQ_CTL.LOCK (R92). -/
def Reg.seqCtlLock : Field :=
  ⟨14, 0, 1, 0, .w1s, .partition, false, .table⟩
/-- SEQ_BOOT.BOOT_PC (R92). -/
def Reg.seqBootBootPc : Field :=
  ⟨15, 0, 18, 0, .rw, .engine, true, .table⟩
/-- SEQ_HEARTBEAT.COUNT (R92). -/
def Reg.seqHeartbeatCount : Field :=
  ⟨16, 0, 64, 0, .rw, .context, true, .table⟩
/-- SEQ_STS.TRAP_CAUSE (R92). -/
def Reg.seqStsTrapCause : Field :=
  ⟨17, 40, 8, 0, .ro, .engine, false, .table⟩
/-- SEQ_STS.HB_MISSED (R92). -/
def Reg.seqStsHbMissed : Field :=
  ⟨18, 1, 1, 0, .w1c, .engine, false, .table⟩
/-- SEQ_STS.RUNNING (R92). -/
def Reg.seqStsRunning : Field :=
  ⟨19, 0, 1, 0, .ro, .none, false, .table⟩
/-- MTX_STS.ECC_CORR (R93). -/
def Reg.mtxStsEccCorr : Field :=
  ⟨20, 48, 16, 0, .ro, .engine, false, .table⟩
/-- MTX_STS.ECC_UNCORR (R93). -/
def Reg.mtxStsEccUncorr : Field :=
  ⟨21, 7, 1, 0, .ro, .engine, false, .table⟩
/-- MTX_STS.BANK_CONFLICT (R93). -/
def Reg.mtxStsBankConflict : Field :=
  ⟨22, 6, 1, 0, .ro, .engine, false, .table⟩
/-- MTX_STS.MODE_MISMATCH (R93). -/
def Reg.mtxStsModeMismatch : Field :=
  ⟨23, 5, 1, 0, .ro, .engine, false, .table⟩
/-- MTX_STS.INT_SAT (R93). -/
def Reg.mtxStsIntSat : Field :=
  ⟨24, 4, 1, 0, .w1c, .engine, false, .table⟩
/-- MTX_STS.ACC_INF (R93). -/
def Reg.mtxStsAccInf : Field :=
  ⟨25, 3, 1, 0, .w1c, .engine, false, .table⟩
/-- MTX_STS.ACC_NAN (R93). -/
def Reg.mtxStsAccNan : Field :=
  ⟨26, 2, 1, 0, .w1c, .engine, false, .table⟩
/-- MTX_STS.OUT_SAT (R93). -/
def Reg.mtxStsOutSat : Field :=
  ⟨27, 1, 1, 0, .w1c, .engine, false, .table⟩
/-- MTX_STS.BUSY (R93). -/
def Reg.mtxStsBusy : Field :=
  ⟨28, 0, 1, 0, .ro, .none, false, .table⟩
/-- VEC_STS.ECC_CORR (R94). -/
def Reg.vecStsEccCorr : Field :=
  ⟨29, 48, 16, 0, .ro, .engine, false, .table⟩
/-- VEC_STS.ECC_UNCORR (R94). -/
def Reg.vecStsEccUncorr : Field :=
  ⟨30, 7, 1, 0, .ro, .engine, false, .table⟩
/-- VEC_STS.BANK_CONFLICT (R94). -/
def Reg.vecStsBankConflict : Field :=
  ⟨31, 6, 1, 0, .ro, .engine, false, .table⟩
/-- VEC_STS.UF (R94). -/
def Reg.vecStsUf : Field :=
  ⟨32, 5, 1, 0, .w1c, .engine, false, .table⟩
/-- VEC_STS.OF (R94). -/
def Reg.vecStsOf : Field :=
  ⟨33, 4, 1, 0, .w1c, .engine, false, .table⟩
/-- VEC_STS.DZ (R94). -/
def Reg.vecStsDz : Field :=
  ⟨34, 3, 1, 0, .w1c, .engine, false, .table⟩
/-- VEC_STS.NV (R94). -/
def Reg.vecStsNv : Field :=
  ⟨35, 2, 1, 0, .w1c, .engine, false, .table⟩
/-- VEC_STS.BUSY (R94). -/
def Reg.vecStsBusy : Field :=
  ⟨36, 0, 1, 0, .ro, .none, false, .table⟩
/-- MTX_BFAULT.BUNDLE (R131). -/
def Reg.mtxBfaultBundle : Field :=
  ⟨37, 32, 17, 0, .ro, .engine, false, .table⟩
/-- MTX_BFAULT.SLOT (R131). -/
def Reg.mtxBfaultSlot : Field :=
  ⟨38, 8, 3, 0, .ro, .engine, false, .table⟩
/-- MTX_BFAULT.CAUSE (R131). -/
def Reg.mtxBfaultCause : Field :=
  ⟨39, 4, 4, 0, .ro, .engine, false, .table⟩
/-- MTX_BFAULT.VALID (R131). -/
def Reg.mtxBfaultValid : Field :=
  ⟨40, 0, 1, 0, .w1c, .engine, false, .table⟩
/-- RTR_OWN.IN_W (R156). -/
def Reg.rtrOwnInW : Field :=
  ⟨41, 49, 7, 0, .rw, .partition, false, .table⟩
/-- RTR_OWN.IN_E (R156). -/
def Reg.rtrOwnInE : Field :=
  ⟨42, 42, 7, 0, .rw, .partition, false, .table⟩
/-- RTR_OWN.IN_S (R156). -/
def Reg.rtrOwnInS : Field :=
  ⟨43, 35, 7, 0, .rw, .partition, false, .table⟩
/-- RTR_OWN.IN_N (R156). -/
def Reg.rtrOwnInN : Field :=
  ⟨44, 28, 7, 0, .rw, .partition, false, .table⟩
/-- RTR_OWN.OUT_W (R156). -/
def Reg.rtrOwnOutW : Field :=
  ⟨45, 21, 7, 0, .rw, .partition, false, .table⟩
/-- RTR_OWN.OUT_E (R156). -/
def Reg.rtrOwnOutE : Field :=
  ⟨46, 14, 7, 0, .rw, .partition, false, .table⟩
/-- RTR_OWN.OUT_S (R156). -/
def Reg.rtrOwnOutS : Field :=
  ⟨47, 7, 7, 0, .rw, .partition, false, .table⟩
/-- RTR_OWN.OUT_N (R156). -/
def Reg.rtrOwnOutN : Field :=
  ⟨48, 0, 7, 0, .rw, .partition, false, .table⟩
/-- RTR_BLOCK.BLOCK_OWNER (R156). -/
def Reg.rtrBlockBlockOwner : Field :=
  ⟨49, 0, 56, 0, .ro, .engine, false, .table⟩
/-- RTR_STS.CHECK_ERR (R156). -/
def Reg.rtrStsCheckErr : Field :=
  ⟨50, 48, 16, 0, .ro, .partition, false, .table⟩
/-- RTR_STS.OWN_REFUSED (R156). -/
def Reg.rtrStsOwnRefused : Field :=
  ⟨51, 7, 1, 0, .w1c, .partition, false, .table⟩
/-- RTR_STS.BYPASS (R156). -/
def Reg.rtrStsBypass : Field :=
  ⟨52, 6, 1, 0, .ro, .device, false, .nvm⟩
/-- RTR_STS.FAULTY_ASSAY (R156). -/
def Reg.rtrStsFaultyAssay : Field :=
  ⟨53, 5, 1, 0, .ro, .device, false, .nvm⟩
/-- RTR_STS.FAULTY_RUN (R156). -/
def Reg.rtrStsFaultyRun : Field :=
  ⟨54, 4, 1, 0, .ro, .partition, false, .table⟩
/-- RTR_STS.ACTIVE (R156). -/
def Reg.rtrStsActive : Field :=
  ⟨55, 0, 1, 0, .ro, .none, false, .table⟩
/-- MCH_WINDOW.OPEN_MASK (R161). -/
def Reg.mchWindowOpenMask : Field :=
  ⟨56, 0, 64, 1157442765409226768, .rw, .partition, false, .table⟩
/-- MCH_WINCFG.WIN_REFUSED (R161). -/
def Reg.mchWincfgWinRefused : Field :=
  ⟨57, 15, 1, 0, .w1c, .partition, false, .table⟩
/-- MCH_WINCFG.OPEN_MIN (R161). -/
def Reg.mchWincfgOpenMin : Field :=
  ⟨58, 0, 6, 8, .rw, .partition, false, .table⟩
/-- SCH_STS.SEG_TICK (R168). -/
def Reg.schStsSegTick : Field :=
  ⟨59, 40, 24, 0, .ro, .none, false, .table⟩
/-- SCH_STS.IMAGE_SLOT (R168). -/
def Reg.schStsImageSlot : Field :=
  ⟨60, 27, 13, 0, .ro, .none, false, .table⟩
/-- SCH_STS.SEGMENT (R168). -/
def Reg.schStsSegment : Field :=
  ⟨61, 15, 12, 0, .ro, .none, false, .table⟩
/-- SCH_STS.SXL_IGNORED (R168). -/
def Reg.schStsSxlIgnored : Field :=
  ⟨62, 4, 1, 0, .w1c, .engine, false, .table⟩
/-- SCH_STS.STATE (R168). -/
def Reg.schStsState : Field :=
  ⟨63, 0, 2, 0, .ro, .none, false, .table⟩
/-- SCH_DISCARD.COUNT (R168). -/
def Reg.schDiscardCount : Field :=
  ⟨64, 0, 32, 0, .ro, .engine, false, .table⟩
/-- NME_STS.ECC_CORR (R198). -/
def Reg.nmeStsEccCorr : Field :=
  ⟨65, 48, 16, 0, .ro, .partition, false, .table⟩
/-- NME_STS.MASKED (R198). -/
def Reg.nmeStsMasked : Field :=
  ⟨66, 32, 16, 0, .ro, .partition, false, .table⟩
/-- NME_STS.ECC_UNCORR (R198). -/
def Reg.nmeStsEccUncorr : Field :=
  ⟨67, 7, 1, 0, .ro, .partition, false, .table⟩
/-- NME_STS.OPEN_BUSY (R198). -/
def Reg.nmeStsOpenBusy : Field :=
  ⟨68, 1, 1, 0, .ro, .none, false, .table⟩
/-- NME_STS.ACTIVE (R198). -/
def Reg.nmeStsActive : Field :=
  ⟨69, 0, 1, 0, .ro, .none, false, .table⟩
/-- MCH_ECC_STS.INNER_CORR (R229). -/
def Reg.mchEccStsInnerCorr : Field :=
  ⟨70, 48, 16, 0, .ro, .partition, false, .table⟩
/-- MCH_ECC_STS.OUTER_CORR (R229). -/
def Reg.mchEccStsOuterCorr : Field :=
  ⟨71, 32, 16, 0, .ro, .partition, false, .table⟩
/-- MCH_ECC_STS.UE_COUNT (R229). -/
def Reg.mchEccStsUeCount : Field :=
  ⟨72, 16, 16, 0, .ro, .partition, false, .table⟩
/-- MCH_ECC_STS.LANE_EXHAUSTED (R229). -/
def Reg.mchEccStsLaneExhausted : Field :=
  ⟨73, 7, 1, 0, .ro, .partition, false, .table⟩
/-- MCH_ECC_STS.SCRUB_UE (R229). -/
def Reg.mchEccStsScrubUe : Field :=
  ⟨74, 6, 1, 0, .w1c, .partition, false, .table⟩
/-- MCH_ECC_STS.UE (R229). -/
def Reg.mchEccStsUe : Field :=
  ⟨75, 5, 1, 0, .w1c, .partition, false, .table⟩
/-- MCH_ECC_STS.MARKED (R229). -/
def Reg.mchEccStsMarked : Field :=
  ⟨76, 4, 1, 0, .ro, .partition, false, .table⟩
/-- MCH_ECC_STS.MARK_LANE (R229). -/
def Reg.mchEccStsMarkLane : Field :=
  ⟨77, 0, 4, 15, .ro, .partition, false, .table⟩
/-- MCH_ECC_LOG.VALID (R230). -/
def Reg.mchEccLogValid : Field :=
  ⟨78, 63, 1, 0, .w1c, .partition, false, .table⟩
/-- MCH_ECC_LOG.SCRUB (R230). -/
def Reg.mchEccLogScrub : Field :=
  ⟨79, 62, 1, 0, .ro, .partition, false, .table⟩
/-- MCH_ECC_LOG.OWNER (R230). -/
def Reg.mchEccLogOwner : Field :=
  ⟨80, 56, 6, 0, .ro, .partition, false, .table⟩
/-- MCH_ECC_LOG.NO_OWNER (R230). -/
def Reg.mchEccLogNoOwner : Field :=
  ⟨81, 55, 1, 0, .ro, .partition, false, .table⟩
/-- MCH_ECC_LOG.ROW (R230). -/
def Reg.mchEccLogRow : Field :=
  ⟨82, 0, 25, 0, .ro, .partition, false, .table⟩
/-- MCH_LANE.SPARES_TOTAL (R231). -/
def Reg.mchLaneSparesTotal : Field :=
  ⟨83, 12, 4, 2, .ro, .device, false, .table⟩
/-- MCH_LANE.SPARES_LEFT (R231). -/
def Reg.mchLaneSparesLeft : Field :=
  ⟨84, 8, 4, 2, .ro, .device, false, .nvm⟩
/-- MCH_LANE.CHECK_FAILS (R231). -/
def Reg.mchLaneCheckFails : Field :=
  ⟨85, 0, 8, 0, .ro, .partition, false, .table⟩
/-- MCH_KEY_STS.KEYED (R232). -/
def Reg.mchKeyStsKeyed : Field :=
  ⟨86, 7, 1, 0, .ro, .partition, false, .table⟩
/-- MCH_KEY_STS.OWNER (R232). -/
def Reg.mchKeyStsOwner : Field :=
  ⟨87, 0, 6, 0, .ro, .partition, false, .table⟩
/-- PTNP_MEM_EPOCH.EPOCH (R233). -/
def Reg.ptnpMemEpochEpoch : Field :=
  ⟨88, 0, 64, 0, .ro, .partition, false, .table⟩
/-- PTNP_XLT_ROOT.DIE (R256). -/
def Reg.ptnpXltRootDie : Field :=
  ⟨89, 36, 2, 0, .rw, .engine, false, .table⟩
/-- PTNP_XLT_ROOT.CLUSTER (R256). -/
def Reg.ptnpXltRootCluster : Field :=
  ⟨90, 32, 4, 0, .rw, .engine, false, .table⟩
/-- PTNP_XLT_ROOT.LINE (R256). -/
def Reg.ptnpXltRootLine : Field :=
  ⟨91, 10, 21, 0, .rw, .engine, false, .table⟩
/-- PTNP_XLT_ROOT.ROOT_REFUSED (R256). -/
def Reg.ptnpXltRootRootRefused : Field :=
  ⟨92, 1, 1, 0, .w1c, .engine, false, .table⟩
/-- PTNP_XLT_ROOT.VALID (R256). -/
def Reg.ptnpXltRootValid : Field :=
  ⟨93, 0, 1, 0, .rw, .engine, false, .table⟩
/-- PTNP_XLT_QUOTA.HELD (R256). -/
def Reg.ptnpXltQuotaHeld : Field :=
  ⟨94, 32, 20, 0, .ro, .engine, false, .table⟩
/-- PTNP_XLT_QUOTA.QUOTA_REFUSED (R256). -/
def Reg.ptnpXltQuotaQuotaRefused : Field :=
  ⟨95, 20, 1, 0, .w1c, .partition, false, .table⟩
/-- PTNP_XLT_QUOTA.QUOTA (R256). -/
def Reg.ptnpXltQuotaQuota : Field :=
  ⟨96, 0, 20, 0, .rw, .partition, false, .table⟩
/-- XLT_STORE_STS.HELD (R257). -/
def Reg.xltStoreStsHeld : Field :=
  ⟨97, 32, 20, 0, .ro, .partition, false, .table⟩
/-- XLT_STORE_STS.QUOTA_SUM (R257). -/
def Reg.xltStoreStsQuotaSum : Field :=
  ⟨98, 0, 20, 0, .ro, .partition, false, .table⟩
/-- XLTW_STS.MALFORMED (R257). -/
def Reg.xltwStsMalformed : Field :=
  ⟨99, 48, 16, 0, .ro, .partition, false, .table⟩
/-- XLTW_STS.TABLE_UE (R257). -/
def Reg.xltwStsTableUe : Field :=
  ⟨100, 7, 1, 0, .w1c, .partition, false, .table⟩
/-- XLTW_STS.ACTIVE (R257). -/
def Reg.xltwStsActive : Field :=
  ⟨101, 0, 7, 0, .ro, .none, false, .table⟩
/-- PTN_MODE.COMPAT_NEXT (R286). -/
def Reg.ptnModeCompatNext : Field :=
  ⟨102, 1, 1, 0, .rw, .device, false, .table⟩
/-- PTN_MODE.COMPAT (R286). -/
def Reg.ptnModeCompat : Field :=
  ⟨103, 0, 1, 0, .ro, .device, false, .table⟩
/-- PTN_FREE.FREE (R286). -/
def Reg.ptnFreeFree : Field :=
  ⟨104, 0, 64, 0, .ro, .partition, false, .table⟩
/-- PTN_AVAIL.AVAIL (R286). -/
def Reg.ptnAvailAvail : Field :=
  ⟨105, 0, 64, 18446744073709551615, .ro, .device, false, .nvm⟩
/-- PTN_SETS_FREE.SETS_FREE (R286). -/
def Reg.ptnSetsFreeSetsFree : Field :=
  ⟨106, 0, 64, 0, .ro, .partition, false, .table⟩
/-- PTNP_SLICES.SLICES (R287). -/
def Reg.ptnpSlicesSlices : Field :=
  ⟨107, 0, 64, 0, .ro, .partition, false, .table⟩
/-- PTNP_CFG.STATE (R287). -/
def Reg.ptnpCfgState : Field :=
  ⟨108, 12, 4, 0, .ro, .partition, false, .table⟩
/-- PTNP_CFG.INSTANCES (R287). -/
def Reg.ptnpCfgInstances : Field :=
  ⟨109, 8, 4, 0, .ro, .partition, false, .table⟩
/-- PTNP_CFG.MEMBER (R287). -/
def Reg.ptnpCfgMember : Field :=
  ⟨110, 7, 1, 0, .ro, .partition, false, .table⟩
/-- PTNP_CFG.LEAD (R287). -/
def Reg.ptnpCfgLead : Field :=
  ⟨111, 6, 1, 0, .ro, .partition, false, .table⟩
/-- PTNP_CFG.PROFILE (R287). -/
def Reg.ptnpCfgProfile : Field :=
  ⟨112, 4, 2, 0, .ro, .partition, false, .table⟩
/-- PTNP_CFG.PRETRANSLATE (R287). -/
def Reg.ptnpCfgPretranslate : Field :=
  ⟨113, 3, 1, 0, .ro, .partition, false, .table⟩
/-- PTNP_CFG.ITEM (R287). -/
def Reg.ptnpCfgItem : Field :=
  ⟨114, 2, 1, 0, .ro, .none, false, .table⟩
/-- PTNP_SETS.SETS (R287). -/
def Reg.ptnpSetsSets : Field :=
  ⟨115, 0, 64, 0, .ro, .partition, false, .table⟩
/-- PTNP_ALLOY.ALLOY_ID (R287). -/
def Reg.ptnpAlloyAlloyId : Field :=
  ⟨116, 32, 32, 0, .ro, .partition, false, .table⟩
/-- PTNP_ALLOY.MEMBERS (R287). -/
def Reg.ptnpAlloyMembers : Field :=
  ⟨117, 17, 15, 0, .ro, .partition, false, .table⟩
/-- PTNP_ALLOY.LEAD_DEVICE (R287). -/
def Reg.ptnpAlloyLeadDevice : Field :=
  ⟨118, 3, 14, 0, .ro, .partition, false, .table⟩
/-- PTNP_ALLOY.MSTATE (R287). -/
def Reg.ptnpAlloyMstate : Field :=
  ⟨119, 0, 3, 0, .ro, .partition, false, .table⟩
/-- PTNP_ALLOY_IMG.BOUND (R287). -/
def Reg.ptnpAlloyImgBound : Field :=
  ⟨120, 16, 16, 0, .ro, .engine, false, .table⟩
/-- PTNP_ALLOY_IMG.READY (R287). -/
def Reg.ptnpAlloyImgReady : Field :=
  ⟨121, 0, 16, 0, .ro, .engine, false, .table⟩
/-- PTNP_HO_CFG.HOLD_LIMIT_MS (R301). -/
def Reg.ptnpHoCfgHoldLimitMs : Field :=
  ⟨122, 32, 16, 1000, .rw, .partition, false, .table⟩
/-- PTNP_HO_CFG.HOLD_QUERY_MS (R301). -/
def Reg.ptnpHoCfgHoldQueryMs : Field :=
  ⟨123, 0, 16, 10, .rw, .partition, false, .table⟩
/-- PTNP_HO_STS.HELD (R301). -/
def Reg.ptnpHoStsHeld : Field :=
  ⟨124, 48, 16, 0, .ro, .partition, false, .table⟩
/-- PTNP_HO_STS.STALE_COUNT (R301). -/
def Reg.ptnpHoStsStaleCount : Field :=
  ⟨125, 32, 16, 0, .ro, .partition, false, .table⟩
/-- PTNP_HO_STS.WAITING (R301). -/
def Reg.ptnpHoStsWaiting : Field :=
  ⟨126, 16, 16, 0, .ro, .partition, false, .table⟩
/-- PTNP_HO_STS.HO_LOST (R301). -/
def Reg.ptnpHoStsHoLost : Field :=
  ⟨127, 3, 1, 0, .w1c, .partition, false, .table⟩
/-- PTNP_HO_STS.HO_STALE (R301). -/
def Reg.ptnpHoStsHoStale : Field :=
  ⟨128, 2, 1, 0, .w1c, .partition, false, .table⟩
/-- PTNP_HO_STS.HO_HOLD_LIMIT (R301). -/
def Reg.ptnpHoStsHoHoldLimit : Field :=
  ⟨129, 1, 1, 0, .w1c, .partition, false, .table⟩
/-- PTNP_HO_STS.HO_UNANSWERED (R301). -/
def Reg.ptnpHoStsHoUnanswered : Field :=
  ⟨130, 0, 1, 0, .w1c, .partition, false, .table⟩
/-- LNK_CTL.HOLD_LIMIT_US (R346). -/
def Reg.lnkCtlHoldLimitUs : Field :=
  ⟨131, 48, 16, 20, .rw, .partition, false, .table⟩
/-- LNK_CTL.SWAP_TH (R346). -/
def Reg.lnkCtlSwapTh : Field :=
  ⟨132, 32, 16, 1024, .rw, .partition, false, .table⟩
/-- LNK_CTL.RETRAIN (R346). -/
def Reg.lnkCtlRetrain : Field :=
  ⟨133, 1, 1, 0, .w1s, .none, false, .table⟩
/-- LNK_CTL.ENABLE (R346). -/
def Reg.lnkCtlEnable : Field :=
  ⟨134, 0, 1, 0, .rw, .device, false, .nvm⟩
/-- LNK_STS.PEER_DEVICE (R346). -/
def Reg.lnkStsPeerDevice : Field :=
  ⟨135, 50, 14, 0, .ro, .none, false, .table⟩
/-- LNK_STS.PEER_PORT (R346). -/
def Reg.lnkStsPeerPort : Field :=
  ⟨136, 47, 3, 0, .ro, .none, false, .table⟩
/-- LNK_STS.SPARES_LEFT (R346). -/
def Reg.lnkStsSparesLeft : Field :=
  ⟨137, 44, 3, 0, .ro, .partition, false, .table⟩
/-- LNK_STS.OWN_REFUSED (R346). -/
def Reg.lnkStsOwnRefused : Field :=
  ⟨138, 36, 1, 0, .w1c, .partition, false, .table⟩
/-- LNK_STS.LANE_DEGRADED (R346). -/
def Reg.lnkStsLaneDegraded : Field :=
  ⟨139, 35, 1, 0, .ro, .partition, false, .table⟩
/-- LNK_STS.LAST_CLOSE (R346). -/
def Reg.lnkStsLastClose : Field :=
  ⟨140, 24, 8, 0, .ro, .partition, false, .table⟩
/-- LNK_STS.TIME_PARENT (R346). -/
def Reg.lnkStsTimeParent : Field :=
  ⟨141, 3, 1, 0, .ro, .none, false, .table⟩
/-- LNK_STS.STATE (R346). -/
def Reg.lnkStsState : Field :=
  ⟨142, 0, 3, 0, .ro, .none, false, .table⟩
/-- LNK_FLIGHT.F_NS (R346). -/
def Reg.lnkFlightFNs : Field :=
  ⟨143, 16, 16, 0, .ro, .partition, false, .table⟩
/-- LNK_FLIGHT.F_FRAC (R346). -/
def Reg.lnkFlightFFrac : Field :=
  ⟨144, 0, 16, 0, .ro, .partition, false, .table⟩
/-- LNK_CNT.CORR_FLITS (R346). -/
def Reg.lnkCntCorrFlits : Field :=
  ⟨145, 48, 16, 0, .ro, .partition, false, .table⟩
/-- LNK_CNT.LOST_INTERVALS (R346). -/
def Reg.lnkCntLostIntervals : Field :=
  ⟨146, 32, 16, 0, .ro, .partition, false, .table⟩
/-- LNK_CNT.MISROUTED (R346). -/
def Reg.lnkCntMisrouted : Field :=
  ⟨147, 16, 16, 0, .ro, .partition, false, .table⟩
/-- LNK_CNT.KILL_DISCARD (R346). -/
def Reg.lnkCntKillDiscard : Field :=
  ⟨148, 0, 16, 0, .ro, .partition, false, .table⟩
/-- LNK_OWN.FROM_HUB (R346). -/
def Reg.lnkOwnFromHub : Field :=
  ⟨149, 28, 28, 0, .rw, .partition, false, .table⟩
/-- LNK_OWN.TO_HUB (R346). -/
def Reg.lnkOwnToHub : Field :=
  ⟨150, 0, 28, 0, .rw, .partition, false, .table⟩
/-- FTM_CFG.ALT_PARENT (R348). -/
def Reg.ftmCfgAltParent : Field :=
  ⟨151, 13, 3, 0, .rw, .device, false, .nvm⟩
/-- FTM_CFG.PARENT (R348). -/
def Reg.ftmCfgParent : Field :=
  ⟨152, 10, 3, 0, .rw, .device, false, .nvm⟩
/-- FTM_CFG.ROLE (R348). -/
def Reg.ftmCfgRole : Field :=
  ⟨153, 8, 2, 0, .rw, .device, false, .nvm⟩
/-- FTM_CFG.PPS_EN (R348). -/
def Reg.ftmCfgPpsEn : Field :=
  ⟨154, 0, 1, 0, .rw, .partition, false, .table⟩
/-- FTM_STS.HOPS (R348). -/
def Reg.ftmStsHops : Field :=
  ⟨155, 58, 6, 0, .ro, .none, false, .table⟩
/-- FTM_STS.ROOT_DEVICE (R348). -/
def Reg.ftmStsRootDevice : Field :=
  ⟨156, 44, 14, 0, .ro, .none, false, .table⟩
/-- FTM_STS.ERR_PS (R348). -/
def Reg.ftmStsErrPs : Field :=
  ⟨157, 12, 16, 0, .ro, .none, false, .table⟩
/-- FTM_STS.TOO_DEEP (R348). -/
def Reg.ftmStsTooDeep : Field :=
  ⟨158, 7, 1, 0, .ro, .none, false, .table⟩
/-- FTM_STS.FAILOVER (R348). -/
def Reg.ftmStsFailover : Field :=
  ⟨159, 6, 1, 0, .w1c, .partition, false, .table⟩
/-- FTM_STS.LOST (R348). -/
def Reg.ftmStsLost : Field :=
  ⟨160, 5, 1, 0, .w1c, .partition, false, .table⟩
/-- FTM_STS.LSTATE (R348). -/
def Reg.ftmStsLstate : Field :=
  ⟨161, 0, 3, 0, .ro, .none, false, .table⟩
/-- FTM_TIME.NS (R348). -/
def Reg.ftmTimeNs : Field :=
  ⟨162, 0, 64, 0, .ro, .none, false, .table⟩
/-- FTM_PPS.PPS_NS (R348). -/
def Reg.ftmPpsPpsNs : Field :=
  ⟨163, 0, 64, 0, .ro, .partition, false, .table⟩
/-- MBX_BASE.ADDR (R391). -/
def Reg.mbxBaseAddr : Field :=
  ⟨164, 12, 52, 0, .rw, .partition, false, .table⟩
/-- MBX_BASE.LOG2 (R391). -/
def Reg.mbxBaseLog2 : Field :=
  ⟨165, 0, 4, 0, .rw, .partition, false, .table⟩
/-- MBX_DB.CQ_HEAD (R391). -/
def Reg.mbxDbCqHead : Field :=
  ⟨166, 32, 16, 0, .rw, .partition, false, .table⟩
/-- MBX_DB.SQ_TAIL (R391). -/
def Reg.mbxDbSqTail : Field :=
  ⟨167, 0, 16, 0, .rw, .partition, false, .table⟩
/-- MBX_STS.NOTICE_LOST (R391). -/
def Reg.mbxStsNoticeLost : Field :=
  ⟨168, 48, 16, 0, .ro, .partition, false, .table⟩
/-- MBX_STS.SQ_HEAD (R391). -/
def Reg.mbxStsSqHead : Field :=
  ⟨169, 32, 16, 0, .ro, .partition, false, .table⟩
/-- MBX_STS.ERROR (R391). -/
def Reg.mbxStsError : Field :=
  ⟨170, 1, 1, 0, .w1c, .partition, false, .table⟩
/-- MBX_STS.ENABLE (R391). -/
def Reg.mbxStsEnable : Field :=
  ⟨171, 0, 1, 0, .rw, .partition, false, .table⟩
/-- HIF_STS.AP_DISCARD (R392). -/
def Reg.hifStsApDiscard : Field :=
  ⟨172, 48, 16, 0, .ro, .partition, false, .table⟩
/-- HIF_STS.AP_ERR (R392). -/
def Reg.hifStsApErr : Field :=
  ⟨173, 32, 16, 0, .ro, .partition, false, .table⟩
/-- HIF_STS.DMA_ERR (R392). -/
def Reg.hifStsDmaErr : Field :=
  ⟨174, 16, 1, 0, .w1c, .partition, false, .table⟩
/-- HIF_STS.RATE (R392). -/
def Reg.hifStsRate : Field :=
  ⟨175, 8, 4, 0, .ro, .none, false, .table⟩
/-- HIF_STS.WIDTH (R392). -/
def Reg.hifStsWidth : Field :=
  ⟨176, 0, 5, 0, .ro, .none, false, .table⟩
/-- HIF_CFG.BIFURCATED (R392). -/
def Reg.hifCfgBifurcated : Field :=
  ⟨177, 1, 1, 0, .ro, .device, false, .nvm⟩
/-- HIF_CFG.BIFURCATE_NEXT (R392). -/
def Reg.hifCfgBifurcateNext : Field :=
  ⟨178, 0, 1, 0, .rw, .device, false, .nvm⟩
/-- PTNP_CLASS.RT (R416). -/
def Reg.ptnpClassRt : Field :=
  ⟨179, 63, 1, 0, .rw, .partition, false, .table⟩
/-- PTNP_CLASS.WEIGHT (R416). -/
def Reg.ptnpClassWeight : Field :=
  ⟨180, 48, 8, 1, .rw, .partition, false, .table⟩
/-- PTNP_CLASS.LINK_MBPS (R416). -/
def Reg.ptnpClassLinkMbps : Field :=
  ⟨181, 24, 20, 0, .rw, .partition, false, .table⟩
/-- PTNP_CLASS.CH_MBPS (R416). -/
def Reg.ptnpClassChMbps : Field :=
  ⟨182, 0, 20, 0, .rw, .partition, false, .table⟩
/-- PTNP_REG_CFG.AP_MBPS (R417). -/
def Reg.ptnpRegCfgApMbps : Field :=
  ⟨183, 32, 20, 0, .rw, .partition, false, .table⟩
/-- PTNP_REG_CFG.AP_CLASS (R417). -/
def Reg.ptnpRegCfgApClass : Field :=
  ⟨184, 24, 4, 0, .rw, .partition, false, .table⟩
/-- PTNP_REG_CFG.NME_BUF (R417). -/
def Reg.ptnpRegCfgNmeBuf : Field :=
  ⟨185, 8, 3, 0, .rw, .partition, false, .table⟩
/-- PTNP_REG_CFG.NME_ENTRIES (R417). -/
def Reg.ptnpRegCfgNmeEntries : Field :=
  ⟨186, 0, 5, 0, .rw, .partition, false, .table⟩
/-- PTNP_REG_STS.MISS_COUNT (R417). -/
def Reg.ptnpRegStsMissCount : Field :=
  ⟨187, 32, 32, 0, .ro, .partition, false, .table⟩
/-- PTNP_REG_STS.LAST_CLASS (R417). -/
def Reg.ptnpRegStsLastClass : Field :=
  ⟨188, 12, 4, 0, .ro, .partition, false, .table⟩
/-- PTNP_REG_STS.LAST_POINT (R417). -/
def Reg.ptnpRegStsLastPoint : Field :=
  ⟨189, 10, 2, 0, .ro, .partition, false, .table⟩
/-- PTNP_REG_STS.OVERCOMMIT (R417). -/
def Reg.ptnpRegStsOvercommit : Field :=
  ⟨190, 1, 1, 0, .ro, .none, false, .table⟩
/-- PTNP_REG_STS.MISS (R417). -/
def Reg.ptnpRegStsMiss : Field :=
  ⟨191, 0, 1, 0, .w1c, .partition, false, .table⟩
/-- PTNP_LINE_BOUND.BOUND (R417). -/
def Reg.ptnpLineBoundBound : Field :=
  ⟨192, 0, 64, 0, .ro, .engine, false, .table⟩
/-- BWR_LINK.OPEN_RESERVE (R418). -/
def Reg.bwrLinkOpenReserve : Field :=
  ⟨193, 0, 13, 775, .rw, .partition, false, .table⟩
/-- BWR_TRANSIT.TRANSIT_MBPS (R418). -/
def Reg.bwrTransitTransitMbps : Field :=
  ⟨194, 0, 20, 0, .rw, .partition, false, .table⟩
/-- BWR_AP_CAP.AP_CAP_MBPS (R418). -/
def Reg.bwrApCapApCapMbps : Field :=
  ⟨195, 0, 16, 0, .ro, .none, false, .table⟩
/-- BWR_STS.MISS_COUNT (R418). -/
def Reg.bwrStsMissCount : Field :=
  ⟨196, 32, 32, 0, .ro, .partition, false, .table⟩
/-- BWR_STS.RESERVE_REFUSED (R418). -/
def Reg.bwrStsReserveRefused : Field :=
  ⟨197, 1, 1, 0, .w1c, .partition, false, .table⟩
/-- BWR_STS.GUARANTEE_MISS (R418). -/
def Reg.bwrStsGuaranteeMiss : Field :=
  ⟨198, 0, 1, 0, .w1c, .partition, false, .table⟩
/-- EVT_ROUTE.EVC (R421). -/
def Reg.evtRouteEvc : Field :=
  ⟨199, 16, 7, 127, .rw, .partition, false, .table⟩
/-- EVT_ROUTE.SOURCE (R421). -/
def Reg.evtRouteSource : Field :=
  ⟨200, 0, 10, 0, .rw, .partition, false, .table⟩
/-- CLK_AON.ERR_PPM (R459). -/
def Reg.clkAonErrPpm : Field :=
  ⟨201, 16, 16, 0, .ro, .none, false, .table⟩
/-- CLK_AON.TRIM_SRC (R459). -/
def Reg.clkAonTrimSrc : Field :=
  ⟨202, 4, 4, 1, .rw, .device, false, .table⟩
/-- CLK_AON.TRIMMED (R459). -/
def Reg.clkAonTrimmed : Field :=
  ⟨203, 0, 1, 0, .ro, .none, false, .table⟩
/-- CLK_GATE_HUB.LNK5 (R459). -/
def Reg.clkGateHubLnk5 : Field :=
  ⟨204, 2, 1, 1, .rw, .partition, false, .table⟩
/-- CLK_GATE_HUB.LNK4 (R459). -/
def Reg.clkGateHubLnk4 : Field :=
  ⟨205, 1, 1, 1, .rw, .partition, false, .table⟩
/-- CLK_GATE_HUB.AST (R459). -/
def Reg.clkGateHubAst : Field :=
  ⟨206, 0, 1, 1, .rw, .partition, false, .table⟩
/-- CLK_GATE_DIE.LNK (R459). -/
def Reg.clkGateDieLnk : Field :=
  ⟨207, 22, 1, 1, .rw, .partition, false, .table⟩
/-- CLK_GATE_DIE.NME (R459). -/
def Reg.clkGateDieNme : Field :=
  ⟨208, 16, 6, 63, .rw, .partition, false, .table⟩
/-- CLK_GATE_DIE.CLS (R459). -/
def Reg.clkGateDieCls : Field :=
  ⟨209, 0, 16, 0, .ro, .none, false, .table⟩
/-- CLK_TICK.STANDBY_LOCKED (R459). -/
def Reg.clkTickStandbyLocked : Field :=
  ⟨210, 2, 1, 0, .ro, .none, false, .table⟩
/-- CLK_TICK.SWITCHING (R459). -/
def Reg.clkTickSwitching : Field :=
  ⟨211, 1, 1, 0, .ro, .none, false, .table⟩
/-- CLK_TICK.SOURCE (R459). -/
def Reg.clkTickSource : Field :=
  ⟨212, 0, 1, 0, .ro, .none, false, .table⟩
/-- CLK_STS.GATE_REFUSED (R459). -/
def Reg.clkStsGateRefused : Field :=
  ⟨213, 0, 1, 0, .w1c, .partition, false, .table⟩
/-- PWR_CAP.ALERT_HOLD_US (R460). -/
def Reg.pwrCapAlertHoldUs : Field :=
  ⟨214, 48, 16, 100, .rwl, .partition, false, .table⟩
/-- PWR_CAP.CAP_W (R460). -/
def Reg.pwrCapCapW : Field :=
  ⟨215, 32, 16, 3600, .rwl, .partition, false, .table⟩
/-- PWR_CAP.WINDOW_S (R460). -/
def Reg.pwrCapWindowS : Field :=
  ⟨216, 16, 4, 4, .rwl, .partition, false, .table⟩
/-- PWR_CAP.LOCK (R460). -/
def Reg.pwrCapLock : Field :=
  ⟨217, 0, 1, 0, .w1s, .partition, false, .table⟩
/-- PWR_STS.AVG_W (R460). -/
def Reg.pwrStsAvgW : Field :=
  ⟨218, 48, 16, 0, .ro, .none, false, .table⟩
/-- PWR_STS.EST_W (R460). -/
def Reg.pwrStsEstW : Field :=
  ⟨219, 32, 16, 0, .ro, .none, false, .table⟩
/-- PWR_STS.G (R460). -/
def Reg.pwrStsG : Field :=
  ⟨220, 28, 4, 0, .ro, .none, false, .table⟩
/-- PWR_STS.QUENCHED (R460). -/
def Reg.pwrStsQuenched : Field :=
  ⟨221, 7, 1, 0, .ro, .none, false, .table⟩
/-- PWR_STS.ALERT (R460). -/
def Reg.pwrStsAlert : Field :=
  ⟨222, 6, 1, 0, .ro, .none, false, .table⟩
/-- PWR_STS.CLAMP (R460). -/
def Reg.pwrStsClamp : Field :=
  ⟨223, 5, 1, 0, .ro, .none, false, .table⟩
/-- PWR_STS.CAP_SATURATED (R460). -/
def Reg.pwrStsCapSaturated : Field :=
  ⟨224, 4, 1, 0, .ro, .none, false, .table⟩
/-- PWR_STS.DSTATE (R460). -/
def Reg.pwrStsDstate : Field :=
  ⟨225, 0, 3, 0, .ro, .none, false, .table⟩
/-- PWR_CAL.CAL (R460). -/
def Reg.pwrCalCal : Field :=
  ⟨226, 48, 16, 4096, .ro, .none, false, .table⟩
/-- PWR_CAL.CAL_RANGE (R460). -/
def Reg.pwrCalCalRange : Field :=
  ⟨227, 0, 1, 0, .w1c, .partition, false, .table⟩
/-- PWR_LADDER.IDLE_SP1_NS (R460). -/
def Reg.pwrLadderIdleSp1Ns : Field :=
  ⟨228, 48, 16, 1000, .rw, .partition, false, .table⟩
/-- PWR_LADDER.IDLE_SP2_US (R460). -/
def Reg.pwrLadderIdleSp2Us : Field :=
  ⟨229, 32, 16, 100, .rw, .partition, false, .table⟩
/-- PWR_LADDER.POOL_STATE (R460). -/
def Reg.pwrLadderPoolState : Field :=
  ⟨230, 0, 3, 4, .rw, .partition, false, .table⟩
/-- PWR_SP.STATE (R460). -/
def Reg.pwrSpState : Field :=
  ⟨231, 0, 64, 4919131752989213764, .ro, .none, false, .table⟩
/-- PWR_DROOP.STRETCHED (R460). -/
def Reg.pwrDroopStretched : Field :=
  ⟨232, 32, 32, 0, .ro, .partition, false, .table⟩
/-- PWR_DROOP.WORST_NS (R460). -/
def Reg.pwrDroopWorstNs : Field :=
  ⟨233, 16, 16, 0, .ro, .partition, false, .table⟩
/-- PWR_SUPPLY.WARN_COUNT (R460). -/
def Reg.pwrSupplyWarnCount : Field :=
  ⟨234, 48, 16, 0, .ro, .partition, false, .table⟩
/-- PWR_SUPPLY.LAST_RAIL (R460). -/
def Reg.pwrSupplyLastRail : Field :=
  ⟨235, 40, 8, 0, .ro, .partition, false, .table⟩
/-- PWR_SUPPLY.WARN (R460). -/
def Reg.pwrSupplyWarn : Field :=
  ⟨236, 0, 1, 0, .w1c, .partition, false, .table⟩
/-- PTNP_PWR.G_NOW (R461). -/
def Reg.ptnpPwrGNow : Field :=
  ⟨237, 8, 4, 0, .ro, .none, false, .table⟩
/-- PTNP_PWR.ALLOY_G (R461). -/
def Reg.ptnpPwrAlloyG : Field :=
  ⟨238, 4, 4, 0, .ro, .partition, false, .table⟩
/-- PTNP_PWR.PARKED (R461). -/
def Reg.ptnpPwrParked : Field :=
  ⟨239, 0, 1, 0, .ro, .engine, false, .table⟩
/-- THM_STS.MAX_C (R461). -/
def Reg.thmStsMaxC : Field :=
  ⟨240, 56, 8, 0, .ro, .none, false, .table⟩
/-- THM_STS.HOT_DIE (R461). -/
def Reg.thmStsHotDie : Field :=
  ⟨241, 48, 8, 0, .ro, .none, false, .table⟩
/-- THM_STS.TRIP (R461). -/
def Reg.thmStsTrip : Field :=
  ⟨242, 1, 1, 0, .ro, .partition, false, .table⟩
/-- THM_STS.THERMAL (R461). -/
def Reg.thmStsThermal : Field :=
  ⟨243, 0, 1, 0, .ro, .none, false, .table⟩
/-- THM_CFG.LOCK (R461). -/
def Reg.thmCfgLock : Field :=
  ⟨244, 8, 1, 0, .w1s, .partition, false, .table⟩
/-- THM_CFG.LIMIT_C (R461). -/
def Reg.thmCfgLimitC : Field :=
  ⟨245, 0, 8, 100, .rwl, .partition, false, .table⟩
/-- SEC_STS.FUSES (R481). -/
def Reg.secStsFuses : Field :=
  ⟨246, 40, 8, 0, .ro, .device, false, .otp⟩
/-- SEC_STS.SVN (R481). -/
def Reg.secStsSvn : Field :=
  ⟨247, 32, 8, 0, .ro, .partition, false, .table⟩
/-- SEC_STS.TRNG_FAIL (R481). -/
def Reg.secStsTrngFail : Field :=
  ⟨248, 7, 1, 0, .w1c, .partition, false, .table⟩
/-- SEC_STS.STAGED (R481). -/
def Reg.secStsStaged : Field :=
  ⟨249, 6, 1, 0, .ro, .device, false, .nvm⟩
/-- SEC_STS.BOOT_FALLBACK (R481). -/
def Reg.secStsBootFallback : Field :=
  ⟨250, 5, 1, 0, .ro, .partition, false, .table⟩
/-- SEC_STS.BANK_NEXT (R481). -/
def Reg.secStsBankNext : Field :=
  ⟨251, 1, 1, 0, .ro, .device, false, .nvm⟩
/-- SEC_STS.BANK (R481). -/
def Reg.secStsBank : Field :=
  ⟨252, 0, 1, 0, .ro, .partition, false, .table⟩
/-- PTNP_SEC.CONSENT_EPOCH (R482). -/
def Reg.ptnpSecConsentEpoch : Field :=
  ⟨253, 32, 32, 0, .ro, .partition, false, .table⟩
/-- PTNP_SEC.OVERWRITE (R482). -/
def Reg.ptnpSecOverwrite : Field :=
  ⟨254, 8, 1, 0, .rw, .partition, false, .table⟩
/-- PTNP_SEC.OVERWRITTEN (R482). -/
def Reg.ptnpSecOverwritten : Field :=
  ⟨255, 3, 1, 0, .ro, .partition, false, .table⟩
/-- PTNP_SEC.DBG_ITEM (R482). -/
def Reg.ptnpSecDbgItem : Field :=
  ⟨256, 2, 1, 0, .ro, .none, false, .table⟩
/-- PTNP_SEC.PROFILE (R482). -/
def Reg.ptnpSecProfile : Field :=
  ⟨257, 1, 1, 0, .ro, .partition, false, .table⟩
/-- PTNP_SEC.DEBUG (R482). -/
def Reg.ptnpSecDebug : Field :=
  ⟨258, 0, 1, 0, .ro, .partition, false, .table⟩
/-- PTNP_PWR_VIEW.STEPS (R482). -/
def Reg.ptnpPwrViewSteps : Field :=
  ⟨259, 0, 16, 0, .ro, .none, false, .table⟩
/-- RST_STS.BOOT_COUNT (R511). -/
def Reg.rstStsBootCount : Field :=
  ⟨260, 48, 16, 0, .ro, .device, false, .nvm⟩
/-- RST_STS.LAST_CAUSE (R511). -/
def Reg.rstStsLastCause : Field :=
  ⟨261, 40, 8, 0, .ro, .device, false, .table⟩
/-- RST_STS.LAST_FAULT (R511). -/
def Reg.rstStsLastFault : Field :=
  ⟨262, 32, 8, 0, .ro, .device, false, .table⟩
/-- RST_STS.RECORDS_LOST (R511). -/
def Reg.rstStsRecordsLost : Field :=
  ⟨263, 3, 1, 0, .w1c, .device, false, .table⟩
/-- RST_STS.CYCLE_REQ (R511). -/
def Reg.rstStsCycleReq : Field :=
  ⟨264, 2, 1, 0, .ro, .device, false, .table⟩
/-- RST_STS.OVERRUN (R511). -/
def Reg.rstStsOverrun : Field :=
  ⟨265, 1, 1, 0, .w1c, .device, false, .table⟩
/-- RST_BOOT.PHASE (R511). -/
def Reg.rstBootPhase : Field :=
  ⟨266, 0, 4, 0, .ro, .none, false, .table⟩
/-- AST_STS.RESULT (R512). -/
def Reg.astStsResult : Field :=
  ⟨267, 56, 8, 0, .ro, .partition, false, .table⟩
/-- AST_STS.KIND (R512). -/
def Reg.astStsKind : Field :=
  ⟨268, 48, 8, 0, .ro, .partition, false, .table⟩
/-- AST_STS.TARGET (R512). -/
def Reg.astStsTarget : Field :=
  ⟨269, 32, 16, 0, .ro, .partition, false, .table⟩
/-- AST_STS.FUSE_EVENTS (R512). -/
def Reg.astStsFuseEvents : Field :=
  ⟨270, 4, 4, 0, .ro, .device, false, .otp⟩
/-- AST_STS.RUNNING (R512). -/
def Reg.astStsRunning : Field :=
  ⟨271, 0, 1, 0, .ro, .none, false, .table⟩
/-- AST_DETAIL.REPAIRS (R512). -/
def Reg.astDetailRepairs : Field :=
  ⟨272, 48, 16, 0, .ro, .partition, false, .table⟩
/-- AST_DETAIL.FAILS (R512). -/
def Reg.astDetailFails : Field :=
  ⟨273, 32, 16, 0, .ro, .partition, false, .table⟩
/-- AST_DETAIL.SKIPPED (R512). -/
def Reg.astDetailSkipped : Field :=
  ⟨274, 24, 1, 0, .ro, .partition, false, .table⟩
/-- AST_DETAIL.FAILED_ENGINES (R512). -/
def Reg.astDetailFailedEngines : Field :=
  ⟨275, 0, 24, 0, .ro, .device, false, .nvm⟩
/-- PTNP_FAULT.VALID (R513). -/
def Reg.ptnpFaultValid : Field :=
  ⟨276, 63, 1, 0, .w1c, .partition, false, .table⟩
/-- PTNP_FAULT.FAULT_COUNT (R513). -/
def Reg.ptnpFaultFaultCount : Field :=
  ⟨277, 32, 16, 0, .ro, .partition, false, .table⟩
/-- PTNP_FAULT.UNIT (R513). -/
def Reg.ptnpFaultUnit : Field :=
  ⟨278, 28, 4, 15, .ro, .partition, false, .table⟩
/-- PTNP_FAULT.DIE (R513). -/
def Reg.ptnpFaultDie : Field :=
  ⟨279, 26, 2, 0, .ro, .partition, false, .table⟩
/-- PTNP_FAULT.CLUSTER (R513). -/
def Reg.ptnpFaultCluster : Field :=
  ⟨280, 22, 4, 0, .ro, .partition, false, .table⟩
/-- PTNP_FAULT.FAULT_CODE (R513). -/
def Reg.ptnpFaultFaultCode : Field :=
  ⟨281, 0, 16, 0, .ro, .partition, false, .table⟩
/-- PTNP_FAULT_TIME.T_FAULT (R513). -/
def Reg.ptnpFaultTimeTFault : Field :=
  ⟨282, 0, 64, 0, .ro, .partition, false, .table⟩
/-- BLK_CTL.OWNER (R521). -/
def Reg.blkCtlOwner : Field :=
  ⟨283, 8, 7, 0, .ro, .partition, false, .table⟩
/-- BLK_CTL.FREEZE (R521). -/
def Reg.blkCtlFreeze : Field :=
  ⟨284, 2, 1, 0, .rw, .partition, false, .table⟩
/-- BLK_CTL.SOFT_RST (R521). -/
def Reg.blkCtlSoftRst : Field :=
  ⟨285, 1, 1, 0, .wo, .none, false, .table⟩
/-- BLK_CTL.ENABLE (R521). -/
def Reg.blkCtlEnable : Field :=
  ⟨286, 0, 1, 1, .rw, .partition, false, .table⟩
/-- BLK_STS.LOCKED (R521). -/
def Reg.blkStsLocked : Field :=
  ⟨287, 1, 1, 0, .ro, .partition, false, .table⟩
/-- BLK_STS.IN_SERVICE (R521). -/
def Reg.blkStsInService : Field :=
  ⟨288, 0, 1, 1, .ro, .device, false, .nvm⟩
/-- EVT_RAW.RAW (R521). -/
def Reg.evtRawRaw : Field :=
  ⟨289, 0, 64, 0, .ro, .partition, false, .table⟩
/-- EVT_PEND.PEND (R521). -/
def Reg.evtPendPend : Field :=
  ⟨290, 0, 64, 0, .w1c, .partition, false, .table⟩
/-- EVT_EN.EN (R521). -/
def Reg.evtEnEn : Field :=
  ⟨291, 0, 64, 0, .rw, .partition, false, .table⟩
/-- BLK_SCRATCH.SCRATCH (R521). -/
def Reg.blkScratchScratch : Field :=
  ⟨292, 0, 64, 0, .rw, .partition, false, .table⟩
/-- GLB_INFO.MEM_GIB (R529). -/
def Reg.glbInfoMemGib : Field :=
  ⟨293, 48, 16, 1152, .ro, .device, false, .otp⟩
/-- GLB_INFO.STACK_GIB (R529). -/
def Reg.glbInfoStackGib : Field :=
  ⟨294, 40, 8, 48, .ro, .device, false, .otp⟩
/-- GLB_INFO.ORDER_CODE (R529). -/
def Reg.glbInfoOrderCode : Field :=
  ⟨295, 32, 8, 0, .ro, .device, false, .otp⟩
/-- GLB_INFO.STEPPING (R529). -/
def Reg.glbInfoStepping : Field :=
  ⟨296, 24, 8, 0, .ro, .device, false, .otp⟩
/-- GLB_INFO.AVAIL_SLICES (R529). -/
def Reg.glbInfoAvailSlices : Field :=
  ⟨297, 8, 8, 64, .ro, .device, false, .nvm⟩
/-- GLB_INFO.EXPOSED (R529). -/
def Reg.glbInfoExposed : Field :=
  ⟨298, 0, 8, 64, .ro, .device, false, .table⟩
/-- GLB_SERIAL.SERIAL (R529). -/
def Reg.glbSerialSerial : Field :=
  ⟨299, 0, 64, 0, .ro, .device, false, .otp⟩
/-- GLB_DEVID.ID_NEXT (R529). -/
def Reg.glbDevidIdNext : Field :=
  ⟨300, 32, 14, 0, .rw, .device, false, .nvm⟩
/-- GLB_DEVID.DEVICE_ID (R529). -/
def Reg.glbDevidDeviceId : Field :=
  ⟨301, 0, 14, 0, .ro, .device, false, .nvm⟩
/-- GLB_STS.BAD_ACCESS (R529). -/
def Reg.glbStsBadAccess : Field :=
  ⟨302, 48, 16, 0, .ro, .partition, false, .table⟩
/-- GLB_STS.ID_CLASH (R529). -/
def Reg.glbStsIdClash : Field :=
  ⟨303, 0, 1, 0, .w1c, .partition, false, .table⟩
/-- MIG_INFO.WORDS (R529). -/
def Reg.migInfoWords : Field :=
  ⟨304, 32, 32, 294912, .ro, .device, false, .otp⟩
/-- MIG_INFO.LOGGING (R529). -/
def Reg.migInfoLogging : Field :=
  ⟨305, 0, 10, 0, .ro, .none, false, .table⟩
/-- MIG_SEL.INSTANCE (R529). -/
def Reg.migSelInstance : Field :=
  ⟨306, 0, 9, 0, .rw, .partition, false, .table⟩
/-- MIG_INST.SET_BITS (R529). -/
def Reg.migInstSetBits : Field :=
  ⟨307, 32, 32, 0, .ro, .context, false, .table⟩
/-- MIG_INST.LOGGING (R529). -/
def Reg.migInstLogging : Field :=
  ⟨308, 0, 1, 0, .ro, .context, false, .table⟩
/-- DIE_TICK.TICK (R529). -/
def Reg.dieTickTick : Field :=
  ⟨309, 0, 64, 0, .ro, .partition, false, .table⟩
/-- DIE_INFO.AVAIL (R529). -/
def Reg.dieInfoAvail : Field :=
  ⟨310, 48, 16, 65535, .ro, .device, false, .nvm⟩
/-- DIE_INFO.STEPPING (R529). -/
def Reg.dieInfoStepping : Field :=
  ⟨311, 32, 16, 0, .ro, .device, false, .otp⟩
/-- NOC_STS.FREE_BLOCKS (R529). -/
def Reg.nocStsFreeBlocks : Field :=
  ⟨312, 56, 8, 128, .ro, .engine, false, .table⟩
/-- NOC_STS.FAULTY_ASSAY (R529). -/
def Reg.nocStsFaultyAssay : Field :=
  ⟨313, 32, 16, 0, .ro, .device, false, .nvm⟩
/-- NOC_STS.FAULTY_RUN (R529). -/
def Reg.nocStsFaultyRun : Field :=
  ⟨314, 16, 16, 0, .ro, .partition, false, .table⟩
/-- NOC_STS.SPARE_POS (R529). -/
def Reg.nocStsSparePos : Field :=
  ⟨315, 4, 4, 15, .ro, .device, false, .nvm⟩
/-- NOC_STS.SPARE_USED (R529). -/
def Reg.nocStsSpareUsed : Field :=
  ⟨316, 0, 1, 0, .ro, .device, false, .nvm⟩
/-- CLS_STS.STORE_ECC_CORR (R529). -/
def Reg.clsStsStoreEccCorr : Field :=
  ⟨317, 48, 16, 0, .ro, .engine, false, .table⟩
/-- CLS_STS.SLICE (R529). -/
def Reg.clsStsSlice : Field :=
  ⟨318, 8, 6, 0, .ro, .device, false, .table⟩
/-- CLS_STS.STORE_ECC_UNCORR (R529). -/
def Reg.clsStsStoreEccUncorr : Field :=
  ⟨319, 0, 1, 0, .ro, .engine, false, .table⟩
/-- BRG_STS.CORR_ERR (R529). -/
def Reg.brgStsCorrErr : Field :=
  ⟨320, 48, 16, 0, .ro, .partition, false, .table⟩
/-- BRG_STS.PEER (R529). -/
def Reg.brgStsPeer : Field :=
  ⟨321, 40, 3, 0, .ro, .device, false, .table⟩
/-- BRG_STS.ACTIVE (R529). -/
def Reg.brgStsActive : Field :=
  ⟨322, 0, 1, 0, .ro, .none, false, .table⟩
/-- PTNP_HUB_BLOCKS.BLOCKS (R530). -/
def Reg.ptnpHubBlocksBlocks : Field :=
  ⟨323, 0, 64, 0, .ro, .engine, false, .table⟩
/-- VEC_BFAULT.BUNDLE (R131). -/
def Reg.vecBfaultBundle : Field :=
  ⟨324, 32, 17, 0, .ro, .engine, false, .table⟩
/-- VEC_BFAULT.SLOT (R131). -/
def Reg.vecBfaultSlot : Field :=
  ⟨325, 8, 3, 0, .ro, .engine, false, .table⟩
/-- VEC_BFAULT.CAUSE (R131). -/
def Reg.vecBfaultCause : Field :=
  ⟨326, 4, 4, 0, .ro, .engine, false, .table⟩
/-- VEC_BFAULT.VALID (R131). -/
def Reg.vecBfaultValid : Field :=
  ⟨327, 0, 1, 0, .w1c, .engine, false, .table⟩
/-- COUNT.COUNT (R521). -/
def Reg.countCount : Field :=
  ⟨328, 0, 64, 0, .ro, .partition, false, .table⟩

/-- Registers of the QMG page. -/
def qmgRegs : List RegDef :=
  [⟨.qmg, 0x40, 1, [Reg.qmgAdmitCfgGraceUs, Reg.qmgAdmitCfgANs, Reg.qmgAdmitCfgPaceNs, Reg.qmgAdmitCfgLock]⟩]
/-- Registers of the PTNP page. -/
def ptnpRegs : List RegDef :=
  [⟨.ptnp, 0x40, 1, [Reg.ptnpLineFreeLineFree]⟩,
   ⟨.ptnp, 0x48, 1, [Reg.ptnpGuarStsVoidCount, Reg.ptnpGuarStsWithdrawnCount, Reg.ptnpGuarStsLastCause,
     Reg.ptnpGuarStsSaturated, Reg.ptnpGuarStsTimeLocked, Reg.ptnpGuarStsAlert, Reg.ptnpGuarStsAdmitOpen]⟩,
   ⟨.ptnp, 0x50, 1, [Reg.ptnpMemEpochEpoch]⟩,
   ⟨.ptnp, 0x58, 1, [Reg.ptnpXltRootDie, Reg.ptnpXltRootCluster, Reg.ptnpXltRootLine, Reg.ptnpXltRootRootRefused,
     Reg.ptnpXltRootValid]⟩,
   ⟨.ptnp, 0x60, 1, [Reg.ptnpXltQuotaHeld, Reg.ptnpXltQuotaQuotaRefused, Reg.ptnpXltQuotaQuota]⟩,
   ⟨.ptnp, 0x68, 1, [Reg.ptnpSlicesSlices]⟩,
   ⟨.ptnp, 0x70, 1, [Reg.ptnpCfgState, Reg.ptnpCfgInstances, Reg.ptnpCfgMember, Reg.ptnpCfgLead, Reg.ptnpCfgProfile,
     Reg.ptnpCfgPretranslate, Reg.ptnpCfgItem]⟩,
   ⟨.ptnp, 0x78, 1, [Reg.ptnpSetsSets]⟩,
   ⟨.ptnp, 0x80, 1, [Reg.ptnpAlloyAlloyId, Reg.ptnpAlloyMembers, Reg.ptnpAlloyLeadDevice, Reg.ptnpAlloyMstate]⟩,
   ⟨.ptnp, 0x88, 1, [Reg.ptnpAlloyImgBound, Reg.ptnpAlloyImgReady]⟩,
   ⟨.ptnp, 0x90, 1, [Reg.ptnpHoCfgHoldLimitMs, Reg.ptnpHoCfgHoldQueryMs]⟩,
   ⟨.ptnp, 0x98, 1, [Reg.ptnpHoStsHeld, Reg.ptnpHoStsStaleCount, Reg.ptnpHoStsWaiting, Reg.ptnpHoStsHoLost,
     Reg.ptnpHoStsHoStale, Reg.ptnpHoStsHoHoldLimit, Reg.ptnpHoStsHoUnanswered]⟩,
   ⟨.ptnp, 0xa0, 16, [Reg.ptnpClassRt, Reg.ptnpClassWeight, Reg.ptnpClassLinkMbps, Reg.ptnpClassChMbps]⟩,
   ⟨.ptnp, 0x120, 1, [Reg.ptnpRegCfgApMbps, Reg.ptnpRegCfgApClass, Reg.ptnpRegCfgNmeBuf, Reg.ptnpRegCfgNmeEntries]⟩,
   ⟨.ptnp, 0x128, 1, [Reg.ptnpRegStsMissCount, Reg.ptnpRegStsLastClass, Reg.ptnpRegStsLastPoint,
     Reg.ptnpRegStsOvercommit, Reg.ptnpRegStsMiss]⟩,
   ⟨.ptnp, 0x130, 1, [Reg.ptnpLineBoundBound]⟩,
   ⟨.ptnp, 0x138, 1, [Reg.ptnpPwrGNow, Reg.ptnpPwrAlloyG, Reg.ptnpPwrParked]⟩,
   ⟨.ptnp, 0x140, 1, [Reg.ptnpSecConsentEpoch, Reg.ptnpSecOverwrite, Reg.ptnpSecOverwritten, Reg.ptnpSecDbgItem,
     Reg.ptnpSecProfile, Reg.ptnpSecDebug]⟩,
   ⟨.ptnp, 0x148, 1, [Reg.ptnpPwrViewSteps]⟩,
   ⟨.ptnp, 0x150, 1, [Reg.ptnpFaultValid, Reg.ptnpFaultFaultCount, Reg.ptnpFaultUnit, Reg.ptnpFaultDie,
     Reg.ptnpFaultCluster, Reg.ptnpFaultFaultCode]⟩,
   ⟨.ptnp, 0x158, 1, [Reg.ptnpFaultTimeTFault]⟩,
   ⟨.ptnp, 0x160, 1, [Reg.ptnpHubBlocksBlocks]⟩]
/-- Registers of the SEQ page. -/
def seqRegs : List RegDef :=
  [⟨.seq, 0x40, 1, [Reg.seqCtlHbPeriodUs, Reg.seqCtlHalt, Reg.seqCtlLock]⟩,
   ⟨.seq, 0x48, 1, [Reg.seqBootBootPc]⟩,
   ⟨.seq, 0x50, 1, [Reg.seqHeartbeatCount]⟩,
   ⟨.seq, 0x58, 1, [Reg.seqStsTrapCause, Reg.seqStsHbMissed, Reg.seqStsRunning]⟩]
/-- Registers of the MTX page. -/
def mtxRegs : List RegDef :=
  [⟨.mtx, 0x40, 6, [Reg.mtxStsEccCorr, Reg.mtxStsEccUncorr, Reg.mtxStsBankConflict, Reg.mtxStsModeMismatch,
     Reg.mtxStsIntSat, Reg.mtxStsAccInf, Reg.mtxStsAccNan, Reg.mtxStsOutSat, Reg.mtxStsBusy]⟩,
   ⟨.mtx, 0x70, 6, [Reg.mtxBfaultBundle, Reg.mtxBfaultSlot, Reg.mtxBfaultCause, Reg.mtxBfaultValid]⟩]
/-- Registers of the VEC page. -/
def vecRegs : List RegDef :=
  [⟨.vec, 0x40, 1, [Reg.vecStsEccCorr, Reg.vecStsEccUncorr, Reg.vecStsBankConflict, Reg.vecStsUf, Reg.vecStsOf,
     Reg.vecStsDz, Reg.vecStsNv, Reg.vecStsBusy]⟩,
   ⟨.vec, 0x48, 1, [Reg.vecBfaultBundle, Reg.vecBfaultSlot, Reg.vecBfaultCause, Reg.vecBfaultValid]⟩]
/-- Registers of the RTR page. -/
def rtrRegs : List RegDef :=
  [⟨.rtr, 0x40, 1, [Reg.rtrOwnInW, Reg.rtrOwnInE, Reg.rtrOwnInS, Reg.rtrOwnInN, Reg.rtrOwnOutW, Reg.rtrOwnOutE,
     Reg.rtrOwnOutS, Reg.rtrOwnOutN]⟩,
   ⟨.rtr, 0x48, 1, [Reg.rtrBlockBlockOwner]⟩,
   ⟨.rtr, 0x50, 1, [Reg.rtrStsCheckErr, Reg.rtrStsOwnRefused, Reg.rtrStsBypass, Reg.rtrStsFaultyAssay,
     Reg.rtrStsFaultyRun, Reg.rtrStsActive]⟩]
/-- Registers of the MCH page. -/
def mchRegs : List RegDef :=
  [⟨.mch, 0x40, 1, [Reg.mchWindowOpenMask]⟩,
   ⟨.mch, 0x48, 1, [Reg.mchWincfgWinRefused, Reg.mchWincfgOpenMin]⟩,
   ⟨.mch, 0x50, 1, [Reg.mchEccStsInnerCorr, Reg.mchEccStsOuterCorr, Reg.mchEccStsUeCount,
     Reg.mchEccStsLaneExhausted, Reg.mchEccStsScrubUe, Reg.mchEccStsUe, Reg.mchEccStsMarked,
     Reg.mchEccStsMarkLane]⟩,
   ⟨.mch, 0x58, 1, [Reg.mchEccLogValid, Reg.mchEccLogScrub, Reg.mchEccLogOwner, Reg.mchEccLogNoOwner,
     Reg.mchEccLogRow]⟩,
   ⟨.mch, 0x60, 1, [Reg.mchLaneSparesTotal, Reg.mchLaneSparesLeft, Reg.mchLaneCheckFails]⟩,
   ⟨.mch, 0x68, 1, [Reg.mchKeyStsKeyed, Reg.mchKeyStsOwner]⟩]
/-- Registers of the SCH page. -/
def schRegs : List RegDef :=
  [⟨.sch, 0x40, 1, [Reg.schStsSegTick, Reg.schStsImageSlot, Reg.schStsSegment, Reg.schStsSxlIgnored,
     Reg.schStsState]⟩,
   ⟨.sch, 0x48, 1, [Reg.schDiscardCount]⟩]
/-- Registers of the NME page. -/
def nmeRegs : List RegDef :=
  [⟨.nme, 0x40, 1, [Reg.nmeStsEccCorr, Reg.nmeStsMasked, Reg.nmeStsEccUncorr, Reg.nmeStsOpenBusy, Reg.nmeStsActive]⟩]
/-- Registers of the XLT page. -/
def xltRegs : List RegDef :=
  [⟨.xlt, 0x40, 4, [Reg.xltStoreStsHeld, Reg.xltStoreStsQuotaSum]⟩]
/-- Registers of the XLTW page. -/
def xltwRegs : List RegDef :=
  [⟨.xltw, 0x40, 1, [Reg.xltwStsMalformed, Reg.xltwStsTableUe, Reg.xltwStsActive]⟩]
/-- Registers of the PTN page. -/
def ptnRegs : List RegDef :=
  [⟨.ptn, 0x40, 1, [Reg.ptnModeCompatNext, Reg.ptnModeCompat]⟩,
   ⟨.ptn, 0x48, 1, [Reg.ptnFreeFree]⟩,
   ⟨.ptn, 0x50, 1, [Reg.ptnAvailAvail]⟩,
   ⟨.ptn, 0x58, 1, [Reg.ptnSetsFreeSetsFree]⟩]
/-- Registers of the LNK page. -/
def lnkRegs : List RegDef :=
  [⟨.lnk, 0x40, 1, [Reg.lnkCtlHoldLimitUs, Reg.lnkCtlSwapTh, Reg.lnkCtlRetrain, Reg.lnkCtlEnable]⟩,
   ⟨.lnk, 0x48, 1, [Reg.lnkStsPeerDevice, Reg.lnkStsPeerPort, Reg.lnkStsSparesLeft, Reg.lnkStsOwnRefused,
     Reg.lnkStsLaneDegraded, Reg.lnkStsLastClose, Reg.lnkStsTimeParent, Reg.lnkStsState]⟩,
   ⟨.lnk, 0x50, 1, [Reg.lnkFlightFNs, Reg.lnkFlightFFrac]⟩,
   ⟨.lnk, 0x58, 1, [Reg.lnkCntCorrFlits, Reg.lnkCntLostIntervals, Reg.lnkCntMisrouted, Reg.lnkCntKillDiscard]⟩,
   ⟨.lnk, 0x60, 1, [Reg.lnkOwnFromHub, Reg.lnkOwnToHub]⟩]
/-- Registers of the FTM page. -/
def ftmRegs : List RegDef :=
  [⟨.ftm, 0x40, 1, [Reg.ftmCfgAltParent, Reg.ftmCfgParent, Reg.ftmCfgRole, Reg.ftmCfgPpsEn]⟩,
   ⟨.ftm, 0x48, 1, [Reg.ftmStsHops, Reg.ftmStsRootDevice, Reg.ftmStsErrPs, Reg.ftmStsTooDeep, Reg.ftmStsFailover,
     Reg.ftmStsLost, Reg.ftmStsLstate]⟩,
   ⟨.ftm, 0x50, 1, [Reg.ftmTimeNs]⟩,
   ⟨.ftm, 0x58, 1, [Reg.ftmPpsPpsNs]⟩]
/-- Registers of the HIF page. -/
def hifRegs : List RegDef :=
  [⟨.hif, 0x40, 1, [Reg.hifStsApDiscard, Reg.hifStsApErr, Reg.hifStsDmaErr, Reg.hifStsRate, Reg.hifStsWidth]⟩,
   ⟨.hif, 0x48, 1, [Reg.hifCfgBifurcated, Reg.hifCfgBifurcateNext]⟩]
/-- Registers of the BWR page. -/
def bwrRegs : List RegDef :=
  [⟨.bwr, 0x40, 6, [Reg.bwrLinkOpenReserve]⟩,
   ⟨.bwr, 0x70, 16, [Reg.bwrTransitTransitMbps]⟩,
   ⟨.bwr, 0xf0, 1, [Reg.bwrApCapApCapMbps]⟩,
   ⟨.bwr, 0xf8, 1, [Reg.bwrStsMissCount, Reg.bwrStsReserveRefused, Reg.bwrStsGuaranteeMiss]⟩]
/-- Registers of the HDR page. -/
def hdrRegs : List RegDef :=
  [⟨.hdr, 0x38, 1, [Reg.evtRouteEvc, Reg.evtRouteSource]⟩,
   ⟨.hdr, 0x10, 1, [Reg.blkCtlOwner, Reg.blkCtlFreeze, Reg.blkCtlSoftRst, Reg.blkCtlEnable]⟩,
   ⟨.hdr, 0x18, 1, [Reg.blkStsLocked, Reg.blkStsInService]⟩,
   ⟨.hdr, 0x20, 1, [Reg.evtRawRaw]⟩,
   ⟨.hdr, 0x28, 1, [Reg.evtPendPend]⟩,
   ⟨.hdr, 0x30, 1, [Reg.evtEnEn]⟩,
   ⟨.hdr, 0xff8, 1, [Reg.blkScratchScratch]⟩,
   ⟨.hdr, 0xf00, 31, [Reg.countCount]⟩]
/-- Registers of the CLK page. -/
def clkRegs : List RegDef :=
  [⟨.clk, 0x40, 1, [Reg.clkAonErrPpm, Reg.clkAonTrimSrc, Reg.clkAonTrimmed]⟩,
   ⟨.clk, 0x48, 1, [Reg.clkGateHubLnk5, Reg.clkGateHubLnk4, Reg.clkGateHubAst]⟩,
   ⟨.clk, 0x50, 4, [Reg.clkGateDieLnk, Reg.clkGateDieNme, Reg.clkGateDieCls]⟩,
   ⟨.clk, 0x70, 1, [Reg.clkTickStandbyLocked, Reg.clkTickSwitching, Reg.clkTickSource]⟩,
   ⟨.clk, 0x78, 1, [Reg.clkStsGateRefused]⟩]
/-- Registers of the PWR page. -/
def pwrRegs : List RegDef :=
  [⟨.pwr, 0x40, 1, [Reg.pwrCapAlertHoldUs, Reg.pwrCapCapW, Reg.pwrCapWindowS, Reg.pwrCapLock]⟩,
   ⟨.pwr, 0x48, 1, [Reg.pwrStsAvgW, Reg.pwrStsEstW, Reg.pwrStsG, Reg.pwrStsQuenched, Reg.pwrStsAlert,
     Reg.pwrStsClamp, Reg.pwrStsCapSaturated, Reg.pwrStsDstate]⟩,
   ⟨.pwr, 0x50, 1, [Reg.pwrCalCal, Reg.pwrCalCalRange]⟩,
   ⟨.pwr, 0x58, 1, [Reg.pwrLadderIdleSp1Ns, Reg.pwrLadderIdleSp2Us, Reg.pwrLadderPoolState]⟩,
   ⟨.pwr, 0x60, 4, [Reg.pwrSpState]⟩,
   ⟨.pwr, 0x80, 1, [Reg.pwrDroopStretched, Reg.pwrDroopWorstNs]⟩,
   ⟨.pwr, 0x88, 1, [Reg.pwrSupplyWarnCount, Reg.pwrSupplyLastRail, Reg.pwrSupplyWarn]⟩]
/-- Registers of the THM page. -/
def thmRegs : List RegDef :=
  [⟨.thm, 0x40, 1, [Reg.thmStsMaxC, Reg.thmStsHotDie, Reg.thmStsTrip, Reg.thmStsThermal]⟩,
   ⟨.thm, 0x48, 1, [Reg.thmCfgLock, Reg.thmCfgLimitC]⟩]
/-- Registers of the SEC page. -/
def secRegs : List RegDef :=
  [⟨.sec, 0x40, 1, [Reg.secStsFuses, Reg.secStsSvn, Reg.secStsTrngFail, Reg.secStsStaged, Reg.secStsBootFallback,
     Reg.secStsBankNext, Reg.secStsBank]⟩]
/-- Registers of the RST page. -/
def rstRegs : List RegDef :=
  [⟨.rst, 0x40, 1, [Reg.rstStsBootCount, Reg.rstStsLastCause, Reg.rstStsLastFault, Reg.rstStsRecordsLost,
     Reg.rstStsCycleReq, Reg.rstStsOverrun]⟩,
   ⟨.rst, 0x48, 1, [Reg.rstBootPhase]⟩]
/-- Registers of the AST page. -/
def astRegs : List RegDef :=
  [⟨.ast, 0x40, 1, [Reg.astStsResult, Reg.astStsKind, Reg.astStsTarget, Reg.astStsFuseEvents, Reg.astStsRunning]⟩,
   ⟨.ast, 0x48, 1, [Reg.astDetailRepairs, Reg.astDetailFails, Reg.astDetailSkipped, Reg.astDetailFailedEngines]⟩]
/-- Registers of the GLB page. -/
def glbRegs : List RegDef :=
  [⟨.glb, 0x40, 1, [Reg.glbInfoMemGib, Reg.glbInfoStackGib, Reg.glbInfoOrderCode, Reg.glbInfoStepping,
     Reg.glbInfoAvailSlices, Reg.glbInfoExposed]⟩,
   ⟨.glb, 0x48, 1, [Reg.glbSerialSerial]⟩,
   ⟨.glb, 0x50, 1, [Reg.glbDevidIdNext, Reg.glbDevidDeviceId]⟩,
   ⟨.glb, 0x58, 1, [Reg.glbStsBadAccess, Reg.glbStsIdClash]⟩]
/-- Registers of the MIG page. -/
def migRegs : List RegDef :=
  [⟨.mig, 0x40, 1, [Reg.migInfoWords, Reg.migInfoLogging]⟩,
   ⟨.mig, 0x48, 1, [Reg.migSelInstance]⟩,
   ⟨.mig, 0x50, 1, [Reg.migInstSetBits, Reg.migInstLogging]⟩]
/-- Registers of the DIE page. -/
def dieRegs : List RegDef :=
  [⟨.die, 0x40, 1, [Reg.dieTickTick]⟩,
   ⟨.die, 0x48, 1, [Reg.dieInfoAvail, Reg.dieInfoStepping]⟩]
/-- Registers of the NOC page. -/
def nocRegs : List RegDef :=
  [⟨.noc, 0x40, 1, [Reg.nocStsFreeBlocks, Reg.nocStsFaultyAssay, Reg.nocStsFaultyRun, Reg.nocStsSparePos,
     Reg.nocStsSpareUsed]⟩]
/-- Registers of the CLS page. -/
def clsRegs : List RegDef :=
  [⟨.cls, 0x40, 1, [Reg.clsStsStoreEccCorr, Reg.clsStsSlice, Reg.clsStsStoreEccUncorr]⟩]
/-- Registers of the BRG page. -/
def brgRegs : List RegDef :=
  [⟨.brg, 0x40, 1, [Reg.brgStsCorrErr, Reg.brgStsPeer, Reg.brgStsActive]⟩]

/-- Every register that lies at a fixed place of its page. -/
def allRegs : List RegDef :=
  qmgRegs ++ ptnpRegs ++ seqRegs ++ mtxRegs ++ vecRegs ++ rtrRegs ++ mchRegs ++ schRegs ++ nmeRegs ++ xltRegs ++
     xltwRegs ++ ptnRegs ++ lnkRegs ++ ftmRegs ++ hifRegs ++ bwrRegs ++ hdrRegs ++ clkRegs ++ pwrRegs ++ thmRegs ++
     secRegs ++ rstRegs ++ astRegs ++ glbRegs ++ migRegs ++ dieRegs ++ nocRegs ++ clsRegs ++ brgRegs

/-- How many fields the tables hold. -/
def fieldCount : Nat := 329

end Sys2Proof.Machine
end

