-- ==== Sys2Proof/Config.lean ====
section
/-! DEFINITION. Config: the constants that the spec gives the part, and the free values, which the spec leaves open:
opaque constants that nothing in Lean can evaluate (log entries 7 and 8). -/

namespace Sys2Proof

/-- The ordering code of the part (R1). -/
inductive OrderCode where
  | sx24_1152
  | sx24_0768
  deriving DecidableEq, Repr

/-- A value that the spec leaves open and that is fresh at every use: random draws, timing samples, measured values
(log entry 7). -/
opaque Config.freeWord : Nat → BitVec 64
/-- The pages of this device that global VAs of the other members of an alloy name for a command, as VAs (R228): other devices'
images fix them. -/
opaque Config.namedPages : Nat → List (BitVec 64)
/-- What a line holds that nothing has written, or that was written under another key (R224, R272), named by the numbers
that it is a value of. -/
opaque Config.garbageLine : List Nat → BitVec 512
/-- What a line, row or register of on-die storage holds that no operation has written since the launch of a command
(R63): a value of the launch and the place. -/
opaque Config.garbageStore : Nat → Nat → BitVec 16384
/-- The vector unit's approximations (R83): the result that the part gives for an operation code and an operand where
the spec states only a bound. -/
opaque Config.transcendental : Nat → BitVec 32 → BitVec 32
/-- The digest function SHA-256 on byte strings (R132, R295, R470): its values are never chosen by the model. -/
opaque Config.sha256 : List (BitVec 8) → BitVec 256
/-- Byte `n` of a signature by the identity key (0) or, after a boot, the attestation key (1) over a byte string (R466,
R467, R473). -/
opaque Config.signature : Nat → List (BitVec 8) → Nat → BitVec 8
/-- The identity certificate in OTP (R463). -/
opaque Config.identityCert : List (BitVec 8)
/-- The boot ROM version (R467). -/
opaque Config.romVersion : BitVec 32
/-- The attestation public key, derived from the device seed with M_FW and SVN (R464, R467). -/
opaque Config.attestKey : BitVec 256 → Nat → BitVec 256
/-- The SHA-256 of this device's ML-KEM encapsulation key: its KEY_REF (R469). -/
opaque Config.keyRef : BitVec 256
/-- The content key that a package's identifier and device entry unwrap to, `none` where unwrapping fails (R464, R470). -/
opaque Config.unwrapKey : List (BitVec 8) → Option (BitVec 256)
/-- Whether a chunk's tag verifies: content key, chunk index, and header, ciphertext and tag (R469). -/
opaque Config.tagOk : BitVec 256 → Nat → List (BitVec 8) → Bool
/-- Decryption of a package's content: content key, line number and the line's ciphertext give its plain bytes (R469). -/
opaque Config.unseal : BitVec 256 → Nat → BitVec 512 → BitVec 512

/-- Registers of configuration space beyond those of R350, by function × 4096 + offset; Vendor ID among them. -/
opaque Config.configSpace : Nat → BitVec 32
/-- The JTAG identification code (R475). -/
opaque Config.idcode : BitVec 32
/-- The I3C provisioned identifier (R545). -/
opaque Config.provisionedId : BitVec 48
/-- The I3C device characteristics register (R545). -/
opaque Config.deviceCharacter : BitVec 8
/-- The lines of a bank image in the boot flash, by header digest and line number (R466). -/
opaque Config.bankLine : BitVec 256 → Nat → BitVec 512

/-- The sequencer firmware of a bank image, by header digest: how many lines it has, and each line (R466). -/
opaque Config.firmwareLines : BitVec 256 → Nat
/-- A line of the sequencer firmware. -/
opaque Config.firmwareLine : BitVec 256 → Nat → BitVec 512
/-- CSRs of a slice's sequencer whose value the spec does not state (R86, R89): the machine identification CSRs, and sxgap of a
slice in no partition. -/
opaque Config.seqCsr : Nat → Nat → BitVec 64

/-- A, in ns (R39). -/
def Config.admitNs : Nat := 2000
/-- Release spread, in ns (R47). -/
def Config.paceNs : Nat := 20
/-- The seam bound of a kill, in ns (R395). -/
def Config.killNs : Nat := 1500
/-- The tick-source switch, in ns and in ticks (R33). -/
def Config.switchNs : Nat := 1463
/-- Ticks by which a tick-source switch advances the count (R33). -/
def Config.switchTicks : Nat := 1024
/-- A duration in ticks at the assured rate of 595 MHz, in ns, rounded up (R39, R11). -/
def Config.assuredNs (ticks : Nat) : Nat := ceilDiv (ticks * 1000) 595
/-- Slices of the part (R24). -/
def Config.slices : Nat := 64
/-- Channels of the part (R23). -/
def Config.channels : Nat := 768

end Sys2Proof
end

