-- ==== Sys2Proof/Machine/SeqState.lean ====
section
/-! DEFINITION. The state of a sequencer: its RV64IMAC core, local memory and mailbox, and what a CSR write has requested (R58,
R86 to R92). -/

namespace Sys2Proof.Machine

/-- The RV64IMAC core of a sequencer (R86, R89). -/
structure SeqCore where
  pc : BitVec 64
  /-- x1 to x31; an unlisted one holds 0 (log entry 94, DESIGN CHOICE: the spec gives no reset value). -/
  regs : FMap (BitVec 64)
  /-- Machine mode; else user mode. -/
  machine : Bool
  /-- The writable bits of mstatus: MIE, MPIE, MPP, MPRV and TW. -/
  mstatus : BitVec 64
  /-- The other CSRs that firmware writes, by number: mie, mtvec, mcounteren, mcountinhibit, menvcfg, mscratch, mepc, mcause,
  mtval, pmpcfg0 and pmpcfg2, pmpaddr0 to pmpaddr15; an unlisted one holds 0. -/
  csrs : FMap (BitVec 64)
  /-- mcycle in fifths of a cycle, and the fabric time for which it stands: 1.4 cycles a nanosecond (R87). -/
  fifths : Nat
  cycleAt : Nat
  /-- minstret. -/
  instret : Nat
  /-- The address and the size of the reservation that LR holds. -/
  reserved : Option (Nat × Nat)
  deriving DecidableEq, Repr

/-- A core as it leaves HALT at an address and a fabric time: in machine mode with interrupts off. -/
def SeqCore.start (pc : BitVec 64) (now : Nat) : SeqCore := ⟨pc, .empty, true, 0, .empty, 0, now, 0, none⟩

/-- A sequencer beyond its registers and its event controller (R86 to R92). -/
structure Sequencer where
  /-- Fabric time from which the current heartbeat period runs, and the count then. -/
  beatAt : Nat
  beat : Nat
  /-- Local memory lines that something wrote. -/
  local_ : FMap Line
  /-- What unlisted local memory reads as: 0 after zeroising, 2 the firmware that the hub loaded, else undefined (log entry 6). -/
  fill : Nat
  core : SeqCore
  /-- Words of the mailbox to the management cores, by number. -/
  mailbox : FMap (BitVec 64)
  /-- A launch that sxlaunch requested, and waits: its segment and the die tick at which it comes (R89). -/
  launchAt : Option (Nat × Nat)
  deriving DecidableEq, Repr

/-- A sequencer in HALT. -/
def Sequencer.reset : Sequencer := ⟨0, 0, .empty, 1, .start 0 0, .empty, none⟩
/-- A sequencer whose local memory holds one value in every line: 0 zeros, 2 the firmware that the hub reloaded. -/
def Sequencer.filled (x : Sequencer) (fill : Nat) : Sequencer := { x with local_ := .empty, fill := fill }
/-- A sequencer in HALT, with what its local memory and its mailbox hold. -/
def Sequencer.halted (x : Sequencer) (now : Nat) : Sequencer := { x with core := .start 0 now, launchAt := none }

end Sys2Proof.Machine
end

