-- ==== Sys2Proof/Machine/TileState.lean ====
section
/-! DEFINITION. The state of the tiles of a cluster and of its cluster store (R58, R96 to R106, R125, R126). -/

namespace Sys2Proof.Machine

/-- A vector register: 512 lanes of 32 bits (R77). -/
abbrev VReg := BitVec 16384
/-- A row of an accumulator bank: 128 cells of 32 bits (R58). -/
abbrev AccRow := BitVec 4096
/-- A line of the cluster store (R58). -/
abbrev CsLine := BitVec 2048

/-- An address register (R102): VALUE and STRIDE, 20 bits each. -/
structure AddrReg where
  value : Nat
  stride : Nat
  deriving DecidableEq, Repr

/-- An active loop (R105): its first bundle, bundles in its body and iterations left, the one under way included. -/
structure LoopFrame where
  start : Nat
  len : Nat
  left : Nat
  deriving DecidableEq, Repr

/-- What an operation in flight does. `lines` are lines read so far, by their number in the operand or transfer. -/
inductive OpKind where
  | mma (f : MmaSlot) (a b : Nat) (linesA linesB : FMap Line)
  | clear (bank : Nat) (int : Bool)
  | load (bank fmt line : Nat) (lines : FMap Line)
  | store (bank fmt : Nat) (sat : Bool) (line : Nat) (lines : FMap (Line))
  | toCs (tile cs len : Nat) (lines : FMap CsLine)
  | fromCs (tile cs len : Nat) (lines : FMap CsLine)
  /-- A LANE or TRANS operation: its results and the flags that it sets (NV, DZ, OF, UF from bit 0) arrive at the end of
  tick `due`. -/
  | vec (due : Nat) (writes : List (Nat × VReg)) (flags : Nat)
  | ld (reg line : Nat) (lines : FMap Line)
  | st (line : Nat) (data : VReg)
  deriving DecidableEq, Repr

/-- An operation in flight: its slot number and bundle index, the tick at which it issued, its issue ticks and the tick
after its last effect. -/
structure TileOp where
  slot : Nat
  bundle : Nat
  t0 : Nat
  issue : Nat
  finish : Nat
  kind : OpKind
  deriving DecidableEq, Repr

/-- What the control slot of the bundle at issue does when its tick has run (R104, R105): WAIT, the address register that SETAR
sets, the loop that LOOP opens, whether it is END, and the errors that the accesses up to the next bundle meet (R60). -/
structure TileCtl where
  wait : Nat
  setar : Option (Nat × AddrReg)
  loop : Option LoopFrame
  last : Bool
  bits : List BitErrors
  deriving DecidableEq, Repr

/-- A tile. SRAM, accumulator rows (bank × 128 + row) and registers that are not listed hold what R63 leaves undefined. -/
structure Tile where
  /-- The segment runs on the tile: it issues bundles. -/
  busy : Bool
  /-- Index of the bundle at issue, and the segment tick of that issue. -/
  index : Nat
  tick : Nat
  ars : List AddrReg
  /-- Address registers that slots of this bundle post. -/
  posts : List Nat
  /-- Active loops, innermost first. -/
  loops : List LoopFrame
  /-- This bundle was reached by its own loop's return. -/
  returned : Bool
  /-- The fetch buffer: SRAM lines with their contents, oldest first (R101). -/
  fetch : List (Nat × Line)
  /-- The loop buffer: bundle indices with their bundles (R106). -/
  loopBuf : List (Nat × BitVec 256)
  sram : FMap Line
  acc : FMap AccRow
  /-- Banks in INT32 mode (R72). -/
  intMode : List Nat
  vregs : FMap VReg
  /-- What unlisted SRAM, and unlisted accumulators and registers, read as: 0 after zeroising, else undefined since a launch
  that the number names. -/
  fill : Nat
  fillRegs : Nat
  ops : List TileOp
  /-- Slots of the bundle at issue whose commands have come, its control slot once that has, and whether an operation of it is not
  performed for a fault that acts when its tick has run (R130). -/
  started : List Nat
  ctl : Option TileCtl
  fault : Bool
  /-- END has issued: the operations in flight complete. -/
  ended : Bool
  deriving DecidableEq, Repr

/-- The cluster store of a slice. -/
structure ClusterStore where
  lines : FMap CsLine
  /-- As a tile's. -/
  fill : Nat
  deriving DecidableEq, Repr

/-- A tile with nothing running. Its accumulator banks are in FP32 mode until a CLEAR or a LOAD sets one: the spec does not say in
which mode a bank starts (R72, R113; log entry 64, DESIGN CHOICE). -/
def Tile.reset : Tile :=
  ⟨false, 0, 0, List.replicate 16 ⟨0, 0⟩, [], [], false, [], [], .empty, .empty, [], .empty, 1, 1, [], [], none, false,
    false⟩
/-- A cluster store that nothing has written. -/
def ClusterStore.reset : ClusterStore := ⟨.empty, 1⟩

end Sys2Proof.Machine
end

