-- ==== Sys2Proof/Machine/EngineState.lean ====
section
/-! DEFINITION. The state of planish engines, regulators and the on-die network (R142 to R156, R169 to R198, R407 to
R415). -/

namespace Sys2Proof.Machine

/-- A region of an engine (R174), with its object's slot and the uses that hold it (R176); COMMIT follows the object's extent
(R175). -/
structure Region where
  base : Nat
  lines : Nat
  ptn : Nat
  kind : Nat
  obj : Nat
  /-- Created for a shape that the partition does not yet hold (R268). -/
  staged : Bool
  uses : Nat
  freeing : Bool
  deriving DecidableEq, Repr

/-- What placed an open-queue entry (R195). -/
inductive EntryOrigin where
  /-- OPEN_ORDER. -/
  | order (a : Adm)
  /-- Open access group of a command (LINE_SEQ) and group number. -/
  | group (seq index : Nat)
  /-- A seam copy of a re-binding item: its move's number (R196). -/
  | move (index : Nat)
  /-- An anneal fill of a slice's channels on the engine (R197). -/
  | fill (slice : Nat)
  deriving DecidableEq, Repr

/-- An order of an engine's open queue, or one that waits for it at the hub (R412). -/
structure OpenEntry where
  ptn : Nat
  cls : Nat
  desc : Line
  origin : EntryOrigin
  started : Bool
  /-- Order of arrival. -/
  arrival : Nat
  deriving DecidableEq, Repr

/-- A descriptor that a group runs (R186): its result lines, by DPA. -/
structure RunningDesc where
  desc : Line
  results : List (Nat × Line)
  deriving DecidableEq, Repr

/-- A planish engine. -/
structure Engine where
  regions : FMap Region
  /-- The open queue by entry number, 0 to 63. -/
  queue : FMap OpenEntry
  /-- Orders that wait at the hub, oldest first. -/
  waiting : List OpenEntry
  /-- Descriptors under way, by partition. -/
  running : FMap RunningDesc
  deriving DecidableEq, Repr

/-- An engine with nothing in it. -/
def Engine.reset : Engine := ⟨.empty, .empty, [], .empty⟩

/-- A request that waits at a regulated point (R407, R409). `arrival` orders requests. -/
structure PointReq where
  ptn : Nat
  cls : Nat
  deadline : Option Nat
  arrival : Nat
  /-- Grant units left. -/
  units : Nat
  /-- The open access group that it belongs to, by LINE_SEQ and index. -/
  group : Option (Nat × Nat)
  deriving DecidableEq, Repr

/-- A master at a point: its credit in units of 1/1000 byte, the fabric time of that value, tier 2 deficit, bytes granted by
tier 1 in the current 10 µs window, whether it has waited through the window, and whether an RT grant came late. -/
structure Master where
  credit : Nat
  at_ : Nat
  deficit : Nat
  granted : Nat
  throughout : Bool
  late : Bool
  deriving DecidableEq, Repr

/-- A regulated point (R407): its requests, its masters by 16 × partition + class (TRANSIT masters at 1024 + class), and
the masters last served in tiers 1 and 2. -/
structure Point where
  reqs : List PointReq
  masters : FMap Master
  last1 : Nat
  last2 : Nat
  windowAt : Nat
  deriving DecidableEq, Repr

/-- A point with nothing waiting. -/
def Point.reset : Point := ⟨[], .empty, 0, 0, 0⟩

/-- A unit in a router: its data, owner and whether its check passes (R142, R150). -/
structure NocUnit where
  data : Line
  ptn : Nat
  ok : Bool
  deriving DecidableEq, Repr

/-- A hop run of a node that a launch started (R143, R146): partition, first entry, count, and the segment tick of its
start. -/
structure HopRun where
  ptn : Nat
  first : Nat
  count : Nat
  deriving DecidableEq, Repr

/-- A node of the on-die network: routers 0 to 63 by slice, 64 the hub switch. -/
structure Node where
  /-- Hop entries by block × 4096 + entry. -/
  store : FMap (BitVec 128)
  /-- Owner of each block. -/
  owners : FMap Nat
  runs : List HopRun
  /-- Units present at inputs, by (port × 2^32 + segment tick) × 16 + unit. -/
  units : FMap NocUnit
  deriving DecidableEq, Repr

/-- A node with nothing in it. -/
def Node.reset : Node := ⟨.empty, .empty, [], .empty⟩

/-- A flow tick that has been commanded and waits for its segment tick (R146): node, entry, repetition, number in it, whether a
check code fails at the node, and the bit errors that its accesses of tile SRAM or the cluster store meet, each at its
destination or its source, uncorrectable or corrected (R60). -/
structure FlowTick where
  node : Nat
  entry : Nat
  rep : Nat
  i : Nat
  fail : Bool
  bits : List (Bool × Bool)
  deriving DecidableEq, Repr

/-- Units on their way to the router's local port (R146): the ticks in which they are written and were taken, the slice, the
endpoint, and the lines with their data; for a memory stream the stream's number stands for the line. -/
structure PortWrite where
  due : Nat
  taken : Nat
  slice : Nat
  endpoint : Nat
  lines : List (Nat × CsLine)
  deriving DecidableEq, Repr

/-- A segment that a partition runs (R99, R140): its image slot and number, the arguments of its launch, the next segment tick
to run, the flow ticks commanded for it, what is on its way to local ports, the faults that a drain has met, which act at the
seam (R167), the planish descriptors started, by engine and place in its program, and the barriers reached. -/
structure SegRun where
  slot : Nat
  segment : Nat
  args : List Word
  tick : Nat
  flows : List FlowTick
  writes : List PortWrite
  faults : List (Nat × Nat)
  descs : List (Nat × Nat)
  barriers : List Nat
  deriving DecidableEq, Repr

/-- Engines, points and the on-die network. -/
structure EngineState where
  engines : FMap Engine
  /-- Points by kind × 1024 + index: kind 0 channel, 1 port, 2 aperture, 3 planish queue. -/
  points : FMap Point
  nodes : FMap Node
  seqs : FMap Sequencer
  /-- Running segments by partition. -/
  segs : FMap SegRun
  /-- Die ticks from which the frames of a slice's channels run back to back outside segments, by slice; 0 where none is listed
  (R157). -/
  frames : FMap Nat
  deriving DecidableEq, Repr

/-- Nothing placed. -/
def EngineState.reset : EngineState := ⟨.empty, .empty, .empty, .empty, .empty, .empty⟩

end Sys2Proof.Machine
end

