-- ==== Sys2Proof/Machine/EvcState.lean ====
section
/-! DEFINITION. The state of an event controller (R423 to R431) and what the module sends out. -/

namespace Sys2Proof.Machine

/-- A source of an event controller (R423, R431). Reset values are those of R431. -/
structure EvcSource where
  enable : Bool
  prio : Nat
  countTh : Nat
  timeUs : Nat
  acc : Nat
  latched : Bool
  pending : Bool
  /-- Fabric time at which ACC last went from 0 to 1. -/
  since : Nat
  deriving DecidableEq, Repr

/-- A source at its Reset values. -/
def EvcSource.reset : EvcSource := ⟨false, 0xFF, 1, 0, 0, false, false, 0⟩

/-- An event controller. The stack lists (source, PRIO at the claim), top first. -/
structure Evc where
  stack : List (Nat × Nat)
  frozen : Bool
  badSource : Nat
  topSource : Nat
  groupBits : Nat
  mask : Bool
  sel : Nat
  sources : FMap EvcSource
  /-- The core is halted by WFI (R430). -/
  wfi : Bool
  deriving DecidableEq, Repr

/-- An event controller at reset (R431). -/
def Evc.reset : Evc := ⟨[], false, 0, 0, 0, true, 0, FMap.empty, false⟩

/-- The record of a completion entry (R373), without its PHASE. -/
structure CplEntry where
  type : Nat
  dep : Bool
  fenceRefused : Bool
  committed : Bool
  status : Nat
  cause : Nat
  queue : Nat
  sqHead : Nat
  userTag : Nat
  lineSeq : Nat
  faultCode : Nat
  detailCode : Nat
  tPromise : Nat
  tCommit : Nat
  tRelease : Nat
  detail : Nat
  deriving DecidableEq, Repr

/-- What leaves the module (log entry 10). -/
inductive Out where
  /-- A completion entry in a queue's ring: instance, queue, ring index, PHASE, record (R373), and the PASID that the request
  carries where the instance is bound to one (R285). -/
  | cqEntry (inst queue index : Nat) (phase : Bool) (entry : CplEntry) (pasid : Option Nat)
  /-- The record of a member's part of an alloy command that a cause ended, by partition (R53). -/
  | memberRecord (ptn : Nat) (e : CplEntry)
  /-- An admin completion: pair, ring index, PHASE, TAG, STATUS, DETAIL, RESULT (low and high words) (R357). -/
  | admCompletion (fm : Bool) (index : Nat) (phase : Bool) (tag status detail resultLo resultHi : Nat)
  /-- A notice on the FM ring: ring index, PHASE, STATUS, partition, handle, time, DETAIL (R359). -/
  | notice (index : Nat) (phase : Bool) (status ptn handle time detail : Nat)
  /-- An MSI-X write of a function's vector: address and data of its table entry (R434). -/
  | msix (fn : Nat) (vector : Nat) (address : Nat) (data : Nat)
  /-- A DMA write of host memory. -/
  | hostWrite (address : Nat) (data : List (BitVec 8))
  /-- A PCI Express completion of a read: `none` is Unsupported Request, otherwise data. -/
  | busRead (data : Option (List (BitVec 8)))
  /-- A read completed with Completer Abort (R386). -/
  | busAbort
  /-- A configuration completion: `none` is Configuration Request Retry Status (R350). -/
  | configRead (data : Option (BitVec 32))
  /-- A control message on a port: opcode, CMD_SEQ, alloy or sequence number, ARG (R320). -/
  | control (port : Nat) (opcode seq alloy : Nat) (arg : BitVec 64)
  /-- A management or long message on a port: kind, body words (R321, R322). -/
  | long (port : Nat) (kind : Nat) (body : List Nat)
  /-- A flit: port, slot, kind, header words and payload (R310). -/
  | flit (port slot kind : Nat) (header : List Nat) (payload : List Line)
  /-- A training frame, HELLO, ENCAP or other bring-up message (R339). -/
  | bringUp (port kind : Nat) (value : Nat)
  /-- What a call of the allocator returns: a block, or NOMEM (R383). -/
  | heapCall (va : Option Nat)
  /-- What a core reads. -/
  | coreRead (value : BitVec 64)
  /-- An I3C response. -/
  | i3c (data : List (BitVec 8))
  /-- An in-band interrupt. -/
  | ibi (event : Nat)
  /-- A data object on the DOE mailbox. -/
  | doe (data : List Nat)
  /-- A JTAG data output bit or word. -/
  | tdo (value : BitVec 64)
  deriving DecidableEq, Repr

/-- An event message in flight (R420): sender page, target controller and source number. -/
structure EventMsg where
  page : Nat
  evc : Nat
  source : Nat
  deriving DecidableEq, Repr

end Sys2Proof.Machine
end

