-- ==== Sys2Proof/Machine/HostState.lean ====
section
/-! DEFINITION. The state of the hub's host side: instances, queues, objects, images, commands on the execution lines
and what they hold. -/

namespace Sys2Proof.Machine

/-- Causes of a voiding or withdrawal, in the encoding order of PTNP_GUAR_STS.LAST_CAUSE (R57). -/
inductive Cause where
  | none | fault | pwrAlert | quench | lockLost | preempt | adminReset
  deriving DecidableEq, Repr

/-- A queue of an instance (R354, R367). Ring sizes are `2 ^ (log2 + 4)`. -/
structure HostQueue where
  sqLog2 : Nat
  cqLog2 : Nat
  sqBase : Nat
  cqBase : Nat
  sqHead : Nat
  sqTail : Nat
  cqHead : Nat
  cqTail : Nat
  phase : Bool
  /-- Completion entries written and not yet returned. -/
  used : Nat
  dmaStop : Bool
  /-- The fence and value that its head descriptor waits for (R368). -/
  waiting : Option (Handle × Nat)
  /-- Doorbells with descriptors that have not been taken, oldest first: the tail written and the fabric time (R35). -/
  bells : List (Nat × Nat)
  /-- Commands taken from the queue that have no final record yet (R372). -/
  taken : Nat
  deriving DecidableEq, Repr

/-- An instance that is not FREE (R363). `state` is the code of R363. -/
structure Inst where
  state : Nat
  ptn : Nat
  fn : Nat
  /-- Image slot. -/
  image : Nat
  /-- The image that INST_IMAGE named, which takes effect at the next seam (R364). -/
  nextImage : Option Nat
  /-- It was SUSPENDING or SUSPENDED when it entered FAULTED (R366). -/
  wasSuspended : Bool
  logging : Bool
  apertureBase : Nat
  vectors : Option (Nat × Nat)
  pasid : Option Nat
  views : FMap Handle
  /-- The INST_DESTROY that waits for FREE. -/
  destroy : Option Adm
  /-- The INST_RESET that waits for the end of the context reset. -/
  reset : Option Adm
  deriving DecidableEq, Repr

/-- A memory object (R375, R378). -/
structure MemObj where
  gen : Nat
  ptn : Nat
  append : Bool
  w : Bool
  ap : Bool
  /-- The owning instance, or the partition. -/
  owner : Option Nat
  va : Nat
  bytes : Nat
  /-- Committed extent E of an APPEND object. -/
  extent : Nat
  /-- The BUFFER was VOID when last settled, and the accepted commands that name it SCRATCH without an end: PENDING while
  there is one, else VOID or VALID. -/
  void : Bool
  scratching : Nat
  host : Nat
  /-- Device references from regions and argument sets (R379). -/
  soft : Nat
  /-- Every other device reference. -/
  hard : Nat
  freeing : Bool
  deriving DecidableEq, Repr

/-- A fence (R381). -/
structure Fence where
  gen : Nat
  ptn : Nat
  value : Nat
  host : Nat
  dev : Nat
  freeing : Bool
  deriving DecidableEq, Repr

/-- A segment record (R138) with its hop directory and first-bundle table (R139). -/
structure Segment where
  load : Bool
  wcet : Nat
  /-- Node, first entry and count of each hop run. -/
  hops : List (Nat × Nat × Nat)
  /-- First bundle of each image slice × 8 + tile, `none` for an idle tile. -/
  tiles : List (Option Nat)
  pageBudget : Nat
  allocCalls : Nat
  openFirst : Nat
  openCount : Nat
  linkFirst : Nat
  linkCount : Nat
  deriving DecidableEq, Repr

/-- A BUNDLES record (R135): image slice, tile, first index, count and image offset. -/
structure BundleRange where
  slice : Nat
  tile : Nat
  first : Nat
  count : Nat
  offset : Nat
  deriving DecidableEq, Repr

/-- A RESIDENCY record (R135). -/
structure Residency where
  slice : Nat
  endpoint : Nat
  resident : Bool
  first : Nat
  lines : Nat
  deriving DecidableEq, Repr

/-- What the loader keeps of a schedule image (R134, R135). -/
structure ImageContent where
  alloy : Bool
  bytes : Nat
  /-- Slice numbers of the image slices. -/
  sliceMap : List Nat
  segments : List Segment
  bundles : List BundleRange
  /-- Hop entries of each node. -/
  hops : List (Nat × List (BitVec 128))
  windows : List (Nat × BitVec 64)
  streams : List (BitVec 512)
  /-- Planish programs: engine, segment and descriptors (R182). -/
  programs : List (Nat × Nat × List Line)
  residency : List Residency
  openGroups : List (BitVec 512)
  /-- The descriptor of each ORDER group, in the order of `openGroups`; zero for a COPY. -/
  orders : List Line
  linkSlots : List (BitVec 256)
  deriving DecidableEq, Repr

/-- A schedule image in its slot (R132, R378). -/
structure Image where
  gen : Nat
  ptn : Nat
  obj : Nat
  index : Option Nat
  staged : Bool
  content : ImageContent
  digest : BitVec 256
  wcetDigest : BitVec 256
  host : Nat
  dev : Nat
  freeing : Bool
  /-- An unbind item for it is on the line. -/
  unbinding : Bool
  /-- The blocks that its entries fill on each node, in order (R143). -/
  blocks : List (Nat × List Nat)
  deriving DecidableEq, Repr

/-- An object entry of a command (R369). -/
structure ObjUse where
  handle : Handle
  /-- 1 INPUT, 2 SCRATCH, 3 APPEND, 4 HEAP. -/
  role : Nat
  lines : Nat
  deriving DecidableEq, Repr

/-- How far a command has come (R43, R247, R46). -/
inductive CmdPhase where
  | waiting
  /-- Translation phase since launch. -/
  | translating
  /-- Segment 0 of the incoming image runs. -/
  | loading
  | running
  /-- Past internal commit, held for paced release. -/
  | held
  deriving DecidableEq, Repr

/-- How the record of a killed or voided command reads (R50, R51, R54). -/
structure Ending where
  /-- Status code of R362. -/
  status : Nat
  cause : Cause
  faultCode : Nat
  /-- The originating LINE_SEQ of a dependent kill. -/
  dep : Option Nat
  detail : Nat
  deriving DecidableEq, Repr

/-- An accepted command. -/
structure Cmd where
  inst : Nat
  queue : Nat
  sqHead : Nat
  /-- 1 RUN, 2 ALLOY_RUN, 3 SIGNAL. -/
  op : Nat
  paced : Bool
  signalEn : Bool
  notify : Bool
  cls : Nat
  segment : Nat
  image : Nat
  argset : Nat
  deadline : Nat
  signalFence : Handle
  signalValue : Nat
  userTag : Nat
  args : List Word
  objs : List ObjUse
  /-- Fence slots that hold a reference for it. -/
  fences : List Nat
  seq : Nat
  /-- CMD_SEQ of an alloy command (R320). -/
  cmdSeq : Nat
  tNow : Nat
  d : Nat
  m : Nat
  mXlat : Nat
  /-- Switch terms carried (R394). -/
  switched : Bool
  tPromise : Nat
  /-- T_s of an alloy command (R44). -/
  tStart : Option Nat
  launch : Option Nat
  commit : Nat
  phase : CmdPhase
  /-- The promise was voided while the command runs on (R51, R54). -/
  voided : Option Cause
  /-- The instant at which a cause first reached the command (R54). -/
  causeAt : Nat
  withdrawn : Bool
  /-- Translation store entries held (keys) and reservations of each quarter (R252). -/
  stored : List Nat
  reserved : List Nat
  /-- VAs on this device that global VAs of the other members of its alloy name (R228). -/
  named : List Word
  /-- Segment tick reached, and open access groups issued and still open. -/
  openIssued : List Nat
  openDone : List Nat
  /-- Heap blocks allocated by this run, and frees that wait for its commit (R383). -/
  allocs : List Nat
  frees : List Nat
  /-- Members from which the lead has an internal commit (alloy). -/
  commits : List Nat
  /-- The command reached this member by LAUNCH and is not the lead's. -/
  remote : Bool
  deriving DecidableEq, Repr

/-- What a line item is (R34). -/
inductive ItemKind where
  | command (c : Cmd)
  | bind (image : Nat) (a : Adm)
  | unbind (image : Nat) (a : Option Adm)
  | update (rec : TableRec) (a : Adm)
  | reshape (profile slices sets : Nat) (plan : ReshapePlan) (a : Adm)
  | park (state : Nat) (a : Adm)
  | wake (a : Option Adm)
  | debug (a : Adm)
  | direct (inst segment delay : Nat)
  | tickSwitch (fabric : Bool) (a : Option Adm)
  | leave (leaving : List Nat) (tLeave : Option Nat) (a : Adm)
  deriving DecidableEq, Repr

/-- An item on an execution line. -/
structure Item where
  kind : ItemKind
  /-- Fabric time of placement, its duration and its promised end (R39, R398). -/
  tNow : Nat
  duration : Nat
  tEnd : Nat
  /-- Fabric time at which it started, and the step reached (R270). -/
  started : Option Nat
  step : Nat
  deriving DecidableEq, Repr

/-- Why a partition is held (R27). -/
inductive HoldKind where
  | link (port : Nat)
  | barrier (index : Nat)
  | group (index : Nat)
  deriving DecidableEq, Repr

/-- Where a fault was found: unit, die and cluster codes of PTNP_FAULT (R513). -/
structure FaultAt where
  unit : Nat
  die : Nat
  cluster : Nat
  deriving DecidableEq, Repr

/-- The execution line of a partition (R34, R46, R48). -/
structure ExecLine where
  /-- Items in line order; the first may have started. -/
  items : List Item
  /-- Commands past internal commit that wait for a paced release, by T_promise. -/
  held : List Cmd
  /-- Commands killed or given up that wait for the seam (R395). -/
  killed : List (Cmd × Ending)
  seq : Nat
  cmdSeq : Nat
  resident : Option Nat
  hold : Option (HoldKind × Nat)
  /-- Barrier arrivals seen at the lead, by barrier index. -/
  arrivals : List (Nat × Nat)
  /-- A fault that came from step 4 of a re-binding item on, and takes effect at the item's end (R274). -/
  faultDue : Option (Nat × FaultAt)
  /-- A quench came from step 4 of a re-binding item on: admission stays closed until the item has ended (R274). -/
  afterQuench : Bool
  /-- Fabric time at which the line last reached a seam or ended an item (R441). -/
  idleAt : Nat
  deriving DecidableEq, Repr

/-- A partition's heap (R383): its object slot and the allocated blocks (va, class, LINE_SEQ of the command that
allocated it and has not committed). -/
structure Heap where
  obj : Nat
  blocks : List (Nat × Nat × Option Nat)
  deriving DecidableEq, Repr

/-- An admin completion (R357). -/
structure AdmCpl where
  tag : Nat
  notify : Bool
  status : Nat
  detail : Nat
  lo : Nat
  hi : Nat
  deriving DecidableEq, Repr

/-- A notice (R359). -/
structure Notice where
  status : Nat
  ptn : Nat
  handle : Nat
  time : Nat
  detail : Nat
  deriving DecidableEq, Repr

/-- An admin queue pair beyond its registers (R358): the completion tail and phase, entries used, commands taken and not
completed, completions kept over a stop, and waiting notices. -/
structure AdmPair where
  cqTail : Nat
  phase : Bool
  used : Nat
  taken : Nat
  kept : List AdmCpl
  notices : List Notice
  deriving DecidableEq, Repr

end Sys2Proof.Machine
end

