-- ==== Sys2Proof/Machine/MemState.lean ====
section
/-! DEFINITION. The state of memory, channels and translation. -/

namespace Sys2Proof.Machine

/-- A line of HBM that something has written: the key it was written under (partition number, epoch, boot salt) and its
plain data (R221, R223). -/
structure HbmLine where
  part : Nat
  epoch : Nat
  salt : Nat
  data : Line
  deriving DecidableEq, Repr

/-- A channel beyond its registers (R215, R217, R445, R161). -/
structure Channel where
  selfRefresh : Bool
  scrubRow : Nat
  /-- Failing bit lanes of the marked byte lane; 0 when no lane is marked. -/
  failing : Nat
  /-- The spare lanes that a lane check or a repair has taken, as a mask (R215, R216). -/
  spares : Nat
  /-- Window writes that wait for the next seam or frame (R161). -/
  maskNext : Option Nat
  minNext : Option Nat
  /-- Fabric time at which a channel woken by an access returns to self-refresh (R445). -/
  returnAt : Option Nat
  /-- The window of its frame in which the channel last did its refresh work, from the frame's start, and the die tick of its
  last refresh round (R158, R315). -/
  window : Option Nat
  refreshedAt : Nat
  deriving DecidableEq, Repr

/-- An unlisted channel: active, scrub row 0 (log entry 13). -/
def Channel.reset : Channel := ⟨false, 0, 0, 0, none, none, none, none, 0⟩

/-- A translation: page size code, leaf frame and leaf flags (W, X, LOG, WRITTEN as bits of the leaf). -/
structure Trans where
  size : Nat
  frame : Nat
  flags : Nat
  deriving DecidableEq, Repr

/-- An entry of the translation store (R252, R253), keyed by partition, quarter and first 64 KiB page number. -/
structure StoreEntry where
  trans : Trans
  /-- Commands (LINE_SEQ) that hold it. -/
  holders : List Nat
  /-- Order of last use. -/
  used : Nat
  deriving DecidableEq, Repr

/-- A memory stream of a running segment (R243, R244). -/
structure Stream where
  record : BitVec 512
  ptn : Nat
  base : Nat
  /-- Next line to access in the channel, and bytes of the stream taken or delivered at the port, in 64-byte units. -/
  next : Nat
  taken : Nat
  /-- Lines between channel and port, oldest first, with the segment tick from which the port may take them. -/
  buffer : List (Line × Nat)
  /-- Translations held, first in, first out, at most 8 (R250): page number in 64 KiB and translation. -/
  tlb : List (Nat × Trans)
  deriving DecidableEq, Repr

/-- Memory and translation. -/
structure MemState where
  /-- HBM lines by DPA ÷ 64. -/
  lines : FMap HbmLine
  /-- Errors that stored lines hold in their 72 symbols, by DPA ÷ 64 (R214, R219, R220). -/
  bad : FMap (BitVec 576)
  /-- Page-table entries by (slice × 2,097,152 + line) × 8 + entry (R235); an unlisted entry is 0. -/
  tables : FMap Word
  /-- Boot salt, as the number of the draw (R223; log entry 6). -/
  salt : Nat
  channels : FMap Channel
  store : FMap StoreEntry
  /-- Store entries that are stale, with their keys: each serves the commands that held it (R241). -/
  stales : List (Nat × StoreEntry)
  /-- Entries of the cluster translation caches, in the layout of R249, by 4096 × slice + entry; an unlisted entry is 0. -/
  caches : FMap (BitVec 128)
  /-- Streams by 64 × slice + stream. -/
  streams : FMap Stream
  /-- The aperture translation cache: 512 entries keyed by partition and page number (R385). -/
  apCache : FMap Trans
  /-- Order of use, for least recently used. -/
  clock : Nat
  deriving DecidableEq, Repr

/-- Memory after power-on: nothing written. -/
def MemState.reset : MemState := ⟨.empty, .empty, .empty, 0, .empty, .empty, [], .empty, .empty, .empty, 0⟩

end Sys2Proof.Machine
end

