-- ==== Sys2Proof/Machine/NetState.lean ====
section
/-! DEFINITION. The state of handoff records, link ports, alloy memberships and trees. -/

namespace Sys2Proof.Machine

/-- A handoff record (R289). `state` is the code of R290. A record that is not listed is FREE. -/
structure HoRecord where
  gen : Nat
  ptn : Nat
  state : Nat
  rulingWait : Bool
  limitPassed : Bool
  confirmed : Bool
  dataLost : Bool
  cls : Nat
  epoch : Nat
  peerDevice : Nat
  peerHandle : Nat
  length : Nat
  tState : Nat
  extents : List Extent
  inline : Line
  digest : BitVec 256
  /-- Receive side: object slot, capacity, bytes received and their order (R291, R292). -/
  recvObj : Nat
  capacity : Nat
  /-- VA of the reserved tail (R292). -/
  tail : Nat
  received : List (BitVec 8)
  /-- Source side: whether the stream still runs or waits, and the fabric time of stream end (R293). -/
  streaming : Bool
  streamEnd : Option Nat
  /-- Queries or TAKEN messages sent so far, and the time of the next (R293, R296). -/
  sends : Nat
  nextSend : Option Nat
  deriving DecidableEq, Repr

/-- A unit in a transmit or receive queue of a port: partition, attachment point and data (R313). -/
structure PortUnit where
  ptn : Nat
  point : Nat
  data : Line
  deriving DecidableEq, Repr

/-- A waiting open flit (R310, R317). -/
structure OpenFlit where
  cls : Nat
  ptn : Nat
  transit : Bool
  src : Nat
  dst : Nat
  tag : Nat
  otype : Nat
  deadline : Option Nat
  payload : List Line
  deriving DecidableEq, Repr

/-- A link port beyond its registers. -/
structure Port where
  /-- Sending partitions that the peer has paused, and those that this port has paused (R314). -/
  paused : Nat
  pausing : Nat
  tx : List PortUnit
  rx : List PortUnit
  /-- Rotation of points per partition, as the last point served (R313). -/
  lastPoint : FMap Nat
  openQueue : List OpenFlit
  /-- Link keys held, and the key refresh count (R324, R325). -/
  keys : Bool
  keyEpoch : Nat
  /-- Certificate and nonce verified in SECURE, waiting for key confirmation (R324). -/
  helloOk : Bool
  /-- Physical lane serving each logical lane, and spares left (R304). -/
  lanes : List Nat
  spares : List Nat
  /-- Logical lane, spare and stroke of a pending swap (R305). -/
  swap : Option (Nat × Nat × Nat)
  /-- The stroke, plus 1, of the last error in a spare's PRBS31 pattern, by physical lane (R304, R305). -/
  prbs : FMap Nat
  /-- ECHO exchanges done in MEASURE, and their sum in units of 2^-16 ns (R330). -/
  echoes : Nat
  echoSum : Nat
  /-- Lost intervals of a stroke, and that stroke (R327). -/
  lostRun : Nat
  lostStroke : Nat
  /-- Transmit side: logical lanes that the peer has moved, and its pending swap (R305). -/
  txLanes : FMap Nat
  txSwap : Option (Nat × Nat × Nat)
  /-- Fabric time of entry into the state. -/
  since : Nat
  /-- Lanes found aligned. -/
  aligned : Nat
  /-- Fabric time of the last training frame or BRINGUP exchange on which the port acted (R341). -/
  acted : Option Nat
  deriving DecidableEq, Repr

/-- A port at reset. -/
def Port.reset : Port :=
  ⟨0, 0, [], [], .empty, [], false, 0, false, [], [], none, .empty, 0, 0, 0, 0, .empty, none, 0, 0, none⟩

/-- An alloy membership (R276): what the registers of R287 do not hold. -/
structure Membership where
  members : List Nat
  hops : List Hop
  paths : List (List Nat)
  tJoin : Nat
  window : Nat
  join : Option Adm
  /-- JOIN_SYNC sent by this member, and devices from which it has come (at the lead). -/
  synced : Bool
  syncs : List Nat
  /-- ABANDON or ACTIVE decided at the lead. -/
  decided : Bool
  undecided : Bool
  /-- Reported S of hops by (device, hop index), WCET digests by (device, index), and members that reported after a reset. -/
  hopS : List (Nat × Nat × Nat)
  digests : List (Nat × Nat × BitVec 256)
  resumed : List Nat
  gapNext : Option (Nat × Nat)
  tLeave : Option Nat
  leaving : List Nat
  deriving DecidableEq, Repr

/-- An alloy tree entry (R321), keyed by alloy identifier. -/
structure TreeEntry where
  up : Option Nat
  down : Nat
  member : Option Nat
  /-- Combined messages seen: type, CMD_SEQ, index, port (8 for the local member). -/
  seen : List (Nat × Nat × Nat × Nat)
  /-- CMD_SEQs for which a VOID has been sent. -/
  voided : List Nat
  deriving DecidableEq, Repr

/-- A remote request that waits for its answer (R317, R318), keyed by TAG. -/
structure RemoteReq where
  ptn : Nat
  seq : Nat
  write : Bool
  device : Nat
  va : Nat
  lines : Nat
  done : Nat
  dst : Nat
  /-- The open access group that issued it, and the deadline that it carries (R411). -/
  group : Nat
  deadline : Nat
  deriving DecidableEq, Repr

/-- A remote write in progress at its target: source, TAG, partition, VA, lines, lines written, and its deadline. -/
structure RemoteWrite where
  srcDevice : Nat
  srcPtn : Nat
  tag : Nat
  ptn : Nat
  va : Nat
  lines : Nat
  done : Nat
  deadline : Nat
  deriving DecidableEq, Repr

/-- Links, alloys and handoff. -/
structure NetState where
  records : FMap HoRecord
  ports : FMap Port
  /-- Slot map entries by (port × 2 + direction) × 8192 + slot: VALID in bit 7, partition in bits 5 to 0 (R312, R347);
  direction 0 transmit, 1 receive. -/
  slots : FMap Nat
  memberships : FMap Membership
  trees : FMap TreeEntry
  /-- Route table (R343); an unlisted entry is unreachable, 0xF (log entry 14). -/
  routes : FMap Nat
  requests : FMap RemoteReq
  remoteWrites : List RemoteWrite
  /-- Streams running and waiting, as record slots in offer order (R293). -/
  streams : List Nat
  /-- Good strokes in ACQUIRING, strokes since the last valid TIME of the parent, step pending, ALT parent in use, and
  the root heard from the parent (R331 to R336). -/
  goodStrokes : Nat
  missStrokes : Nat
  stepPending : Option Nat
  altInUse : Bool
  rootHeard : Option Nat
  /-- The alternate parent's last TIME was valid, named the same root and showed |e| of 5 ps or less (R335). -/
  altGood : Bool
  /-- The fraction of fabric time, in units of 2^-16 ns (R328). -/
  frac : Nat
  deriving DecidableEq, Repr

/-- Links, alloys and handoff after power-on. -/
def NetState.reset : NetState :=
  ⟨.empty, .empty, .empty, .empty, .empty, .empty, .empty, [], [], 0, 0, none, false, none, false, 0⟩

end Sys2Proof.Machine
end

