-- ==== Sys2Proof/Machine/PlantState.lean ====
section
/-! DEFINITION. The state of the plant: pins, tick source, power and thermal control, hallmark unit, boot, resets, assay,
tray interface and test port (R435 to R482, R489 to R506, R534 to R549). -/

namespace Sys2Proof.Machine

/-- Pins (R536). Inputs are as the module sees them after their filters; an active-low pin is `true` while asserted. -/
structure Pins where
  pwrEn : Bool
  perst : Bool
  alert : Bool
  coolFail : Bool
  pwrGood : Bool
  fault : Bool
  thermTrip : Bool
  cycleReq : Bool
  /-- Power-off requested (R456 step 5). -/
  powerOff : Bool
  /-- SLOT_ID as it stood when PWR_EN rose (R544). -/
  slotId : Nat
  deriving DecidableEq, Repr

/-- A tick-source switch in progress (R438): its target, the admin command, whether the standby PLLs have locked and the
items are placed, T_x, and T_sw with the count at which the tick stopped. -/
structure TickSwitch where
  fabric : Bool
  adm : Option Adm
  placed : Bool
  tx : Nat
  tsw : Option Nat
  deriving DecidableEq, Repr

/-- Clocks (R438, R456). -/
structure ClockState where
  /-- The tick is stopped on every die. -/
  stopped : Bool
  /-- Fabric time since the last tick in units of 2⁻¹⁶ ns, times 700 (700 ticks per 1,000 ns, R29). -/
  frac : Int
  switch : Option TickSwitch
  deriving DecidableEq, Repr

/-- The temper controller (R449 to R456). -/
structure PowerState where
  /-- Calibrated energy of each of the last ms, oldest first, in mJ. -/
  hist : List Nat
  gTherm : Nat
  /-- The alert pattern is in force, and the fabric time at which it ends once PWR_ALERT_N has deasserted. -/
  alertEnd : Option Nat
  clampEnd : Option Nat
  quenchAt : Option Nat
  deriving DecidableEq, Repr

/-- A partition's unseal session (R470): the destination object's handle, chunks done and in all, content bytes, the bytes of
the package digest so far (header, entries and tags), and the content key. -/
structure Unseal where
  dst : Handle
  next : Nat
  chunks : Nat
  bytes : Nat
  digested : List Byte
  key : BitVec 256
  deriving DecidableEq, Repr

/-- A request for a report (R472): `pair` is none for the mailbox, else whether the FM pair asked. -/
structure AttestReq where
  pair : Option Bool
  adm : Adm
  ptn : Nat
  capacity : Nat
  dst : Nat
  nonce : BitVec 256
  deriving DecidableEq, Repr

/-- The hallmark unit (R462 to R473). -/
structure SecState where
  unseals : FMap Unseal
  /-- Reported packages of a partition: destination handle and digest. -/
  packages : FMap (List (Nat × BitVec 256))
  /-- Sealed frames, by the index of R388. -/
  sealed : FMap Nat
  attest : List AttestReq
  /-- Bank images written by FW_STAGE or at manufacture, by bank; unlisted is invalid or erased. -/
  banks : FMap FwImage
  /-- Measurements fixed for the boot (R466). -/
  mFw : BitVec 256
  mNvm : BitVec 256
  /-- Banks that have failed to verify in this boot. -/
  failedBanks : List Nat
  deriving DecidableEq, Repr

/-- A running assay (R502): kind 0 for power-up. -/
structure AssayRun where
  kind : Nat
  target : Nat
  adm : Option Adm
  deriving DecidableEq, Repr

/-- A reset that is under way: level 1 context, 2 engine, 3 partition (R489), its partition, slice, order and what remains. -/
structure ResetRun where
  level : Nat
  ptn : Nat
  slice : Nat
  adm : Option Adm
  /-- The overwrite of R477 step 4 is running or due. -/
  overwriting : Bool
  /-- PTN_DESTROY: the partition goes to FREE. -/
  destroy : Bool
  deriving DecidableEq, Repr

/-- Boot, assay and resets (R466, R489 to R506). -/
structure BootState where
  assay : Option AssayRun
  resets : List ResetRun
  /-- Soft repairs not yet fused (R501). -/
  unfused : Nat
  /-- Physical clusters that the power-up assay fenced, as a mask, 17 to a die (R25, R76, R77, R500). -/
  fenced : Nat
  /-- Failed rows and lanes that assay steers out of each tile, by 8 × physical cluster + tile (R76, R77, R501). -/
  steered : FMap (Nat × Nat)
  /-- Slices, channel sets and ports that an on-demand assay found failing, as masks (R503). -/
  failedSlices : Nat
  failedSets : Nat
  failedPorts : Nat
  /-- Hub management cores that missed the last heartbeat check, as a mask (R485). -/
  missed : Nat
  /-- A rail is at its reset level, or has not come into regulation: start-up holds (R496, R542). -/
  held : Bool
  /-- Fabric time from which the start-up sequence counts (R504). -/
  bootAt : Nat
  deriving DecidableEq, Repr

/-- Tray interface and test port (R475, R545 to R548). -/
structure SideState where
  /-- I3C dynamic address. -/
  dynamic : Option Nat
  ibiEnabled : Bool
  /-- In-Band Interrupts that wait. -/
  ibis : List Nat
  /-- Flash lines written through the tray interface, by bank × 2^19 + line; unlisted is erased unless a bank image stands. -/
  flash : FMap Line
  /-- JTAG: boundary cells preloaded, the bypass bit. -/
  cells : BitVec 64
  bypass : Bool
  deriving DecidableEq, Repr

/-- The PCI Express functions (R349 to R352). -/
structure BusState where
  /-- Configuration registers that a request has written, by function × 4096 + offset. -/
  config : FMap (BitVec 32)
  /-- Function levels: link up. -/
  linkUp : Bool
  /-- IDE keys by stream × 16 + sub-stream × 2 + direction, and whether the stream is set to go. -/
  ideKeys : FMap Bool
  /-- Counter slots as the latch last showed them, keyed as the COUNT field (R476, R525). -/
  shown : FMap Nat
  /-- Pages that have gone to an owner of another PROFILE since the last latch (R533). -/
  moved : List Nat
  deriving DecidableEq, Repr

/-- The plant. -/
structure PlantState where
  pins : Pins
  clock : ClockState
  power : PowerState
  sec : SecState
  boot : BootState
  side : SideState
  bus : BusState
  deriving DecidableEq, Repr

/-- A firmware bank as shipped (log entry 2). -/
def shippedBank : FwImage := ⟨0x53584657, 0, true, 0, 0, true, true⟩

/-- The plant right after PWR_EN has risen with every rail in regulation (log entry 1). -/
def PlantState.reset : PlantState where
  pins := ⟨true, false, false, false, true, false, false, false, false, 0⟩
  clock := ⟨false, 0, none⟩
  power := ⟨[], 0, none, none, none⟩
  sec := ⟨.empty, .empty, .empty, [], ⟨[(0, shippedBank), (1, shippedBank)]⟩, 0, 0, []⟩
  boot := ⟨none, [], 0, 0, .empty, 0, 0, 0, 0, false, 0⟩
  side := ⟨none, false, [], .empty, 0, false⟩
  bus := ⟨.empty, true, .empty, .empty, []⟩

end Sys2Proof.Machine
end

