-- ==== Sys2Proof/Machine/State.lean ====
section
/-! DEFINITION. The state of the block, its reset, its faults and refusals. -/

namespace Sys2Proof.Machine

/-- The host side of the hub. -/
structure HostSide where
  insts : FMap Inst
  /-- Queues by 8 × instance + queue. -/
  queues : FMap HostQueue
  objs : FMap MemObj
  fences : FMap Fence
  images : FMap Image
  /-- Generations of slots that have been destroyed, by kind and slot (R374); an unlisted slot has generation 1. -/
  objGens : FMap Nat
  fenceGens : FMap Nat
  imageGens : FMap Nat
  recordGens : FMap Nat
  /-- Argument sets by 256 × partition + set (R370): the 192 bytes. -/
  argsets : FMap (BitVec 1536)
  heaps : FMap Heap
  lines : FMap ExecLine
  adm : AdmPair
  fmPair : AdmPair
  /-- Written-page log bits by instance × 2^25 + frame (R388). -/
  logBits : FMap Nat
  /-- MSI-X table entries by function × 2048 + vector (R349): address, data, masked. -/
  msix : FMap (Nat × Nat × Bool)
  /-- Pending Bit Array. -/
  pba : FMap Nat
  deriving DecidableEq, Repr

/-- The state of the block. -/
structure State where
  /-- Commands that wait, first in, first out. -/
  pending : List Instr
  /-- What has left the module, in order (the model's own; log entry 10). -/
  out : List Out
  /-- How many free values have been drawn (the model's own; log entry 7). -/
  freeCtr : Nat
  /-- Fabric time in whole ns (R328). -/
  now : Nat
  /-- Register fields by field number × 262,144 + instance; an unlisted field holds its Reset value. -/
  regs : FMap Nat
  host : HostSide
  /-- Event controllers 0 to 67 (R419): 0x00 to 0x3F sequencers, 64 to 67 the hub management cores. -/
  evcs : FMap Evc
  msgs : List EventMsg
  mem : MemState
  net : NetState
  /-- Tiles by 8 × slice + tile, and cluster stores by slice (R58). -/
  tiles : FMap Tile
  clusters : FMap ClusterStore
  engines : EngineState
  plant : PlantState
  deriving DecidableEq, Repr

/-- Nothing on the host side: rings closed, no instance, no object. -/
def HostSide.reset : HostSide :=
  ⟨.empty, .empty, .empty, .empty, .empty, .empty, .empty, .empty, .empty, .empty, .empty, .empty,
    ⟨0, true, 0, 0, [], []⟩, ⟨0, true, 0, 0, [], []⟩, .empty, .empty, .empty⟩

/-- The block right after PWR_EN has risen with every rail in regulation: every field at its Reset value, nothing stored (R504,
R505; log entry 1). -/
def State.reset : State :=
  { pending := [], out := [], freeCtr := 0, now := 0, regs := .empty, host := HostSide.reset
    evcs := .empty, msgs := [], mem := MemState.reset, net := NetState.reset, tiles := .empty, clusters := .empty
    engines := EngineState.reset, plant := PlantState.reset }

/-- Faults. Nothing in this hardware stops the block: every fault that the spec describes is an effect on State (R51,
R484), so no meaning raises one. -/
inductive Fault where
  /-- Raised by no command; the type needs a value. Safe: a stop. -/
  | unreachable
  deriving DecidableEq, Repr

/-- Refusals. -/
inductive Refusal where
  /-- The command has no meaning in the model yet. Safe: a stop. -/
  | notModelled (mnemonic : String)
  deriving DecidableEq, Repr

end Sys2Proof.Machine
end

