-- ==== Sys2Proof/Machine/Ops.lean ====
section
/-! DEFINITION. The named operations that every meaning is written over: register fields, pages, events, free values,
completion entries, admin completions, notices and MSI-X writes. -/

namespace Sys2Proof.Machine

/-- The outcome of a meaning. -/
abbrev StepOut := Host.Outcome State Fault Refusal

/-! ### Register fields -/

/-- How far apart the fields' keys lie. -/
def fieldStride : Nat := 262144
/-- The key of a field's instance in `State.regs`. -/
def Field.key (f : Field) (i : Nat) : Nat := f.id * fieldStride + i

/-- The value of a register field. -/
def State.get (s : State) (f : Field) (i : Nat) : Nat := s.regs.getD (f.key i) f.reset

/-- Write a register field, cut to its width. -/
def State.set (s : State) (f : Field) (i v : Nat) : State :=
  { s with regs := s.regs.putD (f.key i) f.reset (v % 2 ^ f.width) }

/-- Whether a one-bit field is set. -/
def State.flag (s : State) (f : Field) (i : Nat) : Bool := s.get f i != 0

/-- Set a one-bit field. -/
def State.raise (s : State) (f : Field) (i : Nat) : State := s.set f i 1

/-- Add to a counter field that saturates. -/
def State.bump (s : State) (f : Field) (i : Nat) : State := s.set f i (satAdd (2 ^ f.width - 1) (s.get f i) 1)

/-- Set or clear bits of a mask field. -/
def State.setBits (s : State) (f : Field) (i mask : Nat) : State := s.set f i (s.get f i ||| mask)
/-- Clear bits of a mask field. -/
def State.clearBits (s : State) (f : Field) (i mask : Nat) : State :=
  s.set f i (s.get f i - (s.get f i &&& mask))

/-! ### Pages (R515, R516) -/

/-- The page number of a PTNP page. -/
def ptnpPage (p : Nat) : Nat := 0x10 + p
/-- The first page of a die's region. -/
def diePage (d : Nat) : Nat := 0x400 * (d + 1)
/-- Page `i` of the cluster of a slice. -/
def clusterPage (slice i : Nat) : Nat := diePage (slice / 16) + 0x10 + 8 * (slice % 16) + i
/-- The MCH page of a device channel. -/
def mchPage (ch : Nat) : Nat := diePage (ch / 192) + 0x100 + ch % 192
/-- The first NME page of an engine. -/
def nmePage (e : Nat) : Nat := diePage (e / 6) + 0x200 + 4 * (e % 6)
/-- The first LNK page of a port. -/
def lnkPage (port : Nat) : Nat := if port < 4 then diePage port + 0x280 else 0x200 + 0x10 * (port - 4)
/-- The BRG page of a bridge of a die. -/
def brgPage (d b : Nat) : Nat := diePage d + 0x290 + b
/-- Hub pages. -/
def glbPage : Nat := 0x0
/-- The CLK page. -/
def clkPage : Nat := 0x1
/-- The PWR page. -/
def pwrPage : Nat := 0x2
/-- The THM page. -/
def thmPage : Nat := 0x3
/-- The SEC page. -/
def secPage : Nat := 0x4
/-- The AST page. -/
def astPage : Nat := 0x5
/-- The HIF page. -/
def hifPage : Nat := 0x6
/-- The QMG page. -/
def qmgPage : Nat := 0x7
/-- The FTM page. -/
def ftmPage : Nat := 0x9
/-- The PTN page. -/
def ptnPage : Nat := 0xC
/-- The RST page. -/
def rstPage : Nat := 0xD
/-- The BWR page. -/
def bwrPage : Nat := 0xE
/-- The MBX page. -/
def mbxPage : Nat := 0xF

/-- The type, the die (4 for the hub) and the instance of a page, where the page exists (R515, R516, R528). The instance
is that of `State.regs`: slice, channel, engine and so on over the whole device. -/
def pageInfo (page : Nat) : Option (Page × Nat × Nat) :=
  if page < 0x400 then
    if page < 0x10 then
      ([Page.glb, .clk, .pwr, .thm, .sec, .ast, .hif, .qmg, .xlt, .ftm, .evc, .mig, .ptn, .rst, .bwr, .mbx][page]?).map
        fun t => (t, 4, if t = .evc then 64 else 0)
    else if page < 0x50 then some (.ptnp, 4, page - 0x10)
    else if 0x200 ≤ page ∧ page < 0x210 then some (.lnk, 4, 4)
    else if 0x210 ≤ page ∧ page < 0x220 then some (.lnk, 4, 5)
    else none
  else if page < 0x1400 then
    let d := page / 0x400 - 1
    let q := page % 0x400
    if q = 0 then some (.die, d, d)
    else if q = 1 then some (.noc, d, d)
    else if q = 2 then some (.xltw, d, d)
    else if 0x10 ≤ q ∧ q < 0x90 then
      let slice := 16 * d + (q - 0x10) / 8
      let i := (q - 0x10) % 8
      if i = 0 then some (.cls, d, slice)
      else if i = 1 then some (.seq, d, slice)
      else if i = 2 then some (.vec, d, 2 * slice)
      else if i = 3 then some (.vec, d, 2 * slice + 1)
      else if i = 4 then some (.mtx, d, slice)
      else if i = 5 then some (.evc, d, slice)
      else if i = 6 then some (.sch, d, slice)
      else some (.rtr, d, slice)
    else if 0x100 ≤ q ∧ q < 0x1C0 then some (.mch, d, 192 * d + (q - 0x100))
    else if 0x200 ≤ q ∧ q < 0x218 then some (.nme, d, 6 * d + (q - 0x200) / 4)
    else if 0x280 ≤ q ∧ q < 0x290 then some (.lnk, d, d)
    else if 0x290 ≤ q ∧ q < 0x293 then some (.brg, d, 3 * d + (q - 0x290))
    else none
  else none

/-- The slice at whose cluster a page lies, if it is a cluster page. -/
def pageSlice (page : Nat) : Option Nat :=
  if 0x400 ≤ page ∧ page < 0x1400 ∧ 0x10 ≤ page % 0x400 ∧ page % 0x400 < 0x90 then
    some (16 * (page / 0x400 - 1) + (page % 0x400 - 0x10) / 8)
  else none

/-! ### Counters, free values, output -/

/-- Count an event in slot `n` of a page's counter area (R532). -/
def State.count (s : State) (page n k : Nat) : State :=
  s.set Reg.countCount (32 * page + n) (s.get Reg.countCount (32 * page + n) + k)

/-- Put something on the list of what has left the module. -/
def State.emit (s : State) (o : Out) : State := { s with out := s.out ++ [o] }

/-- Draw a fresh free value (log entry 7). -/
def State.draw (s : State) : BitVec 64 × State := (Config.freeWord s.freeCtr, { s with freeCtr := s.freeCtr + 1 })

/-- Draw `n` fresh free values. -/
def State.drawN (s : State) (n : Nat) : List (BitVec 64) × State :=
  ((List.range n).map fun k => Config.freeWord (s.freeCtr + k), { s with freeCtr := s.freeCtr + n })

/-! ### Events (R420, R522) -/

/-- The pending and enabled events of a page. -/
def State.evtActive (s : State) (page : Nat) : Bool :=
  s.get Reg.evtPendPend page &&& s.get Reg.evtEnEn page != 0

/-- Send a page's message to the controller that EVT_ROUTE names; a message to no controller, or to the sequencer of an
unavailable slice, is discarded (R419, R420). -/
def State.sendEvent (s : State) (page : Nat) : State :=
  let evc := s.get Reg.evtRouteEvc page
  if evc < 64 ∧ Nat.testBit (s.get Reg.ptnAvailAvail 0) evc ∨ 64 ≤ evc ∧ evc < 68 then
    { s with msgs := s.msgs ++ [⟨page, evc, s.get Reg.evtRouteSource page⟩] }
  else s

/-- A rising edge of an event bit: EVT_PEND is set, and the page sends a message when its pending and enabled events
become non-empty while ENABLE is 1 (R420, R522). -/
def State.event (s : State) (page bit : Nat) : State :=
  let s' := s.setBits Reg.evtPendPend page (2 ^ bit)
  if ¬ s.evtActive page ∧ s'.evtActive page ∧ s.flag Reg.blkCtlEnable page then s'.sendEvent page else s'

/-- Hold an event condition at a level: EVT_RAW follows it, and a rise is an event (R420). -/
def State.level (s : State) (page bit : Nat) (on : Bool) : State :=
  let was := Nat.testBit (s.get Reg.evtRawRaw page) bit
  if on then
    let s' := s.setBits Reg.evtRawRaw page (2 ^ bit)
    if was then s' else s'.event page bit
  else s.clearBits Reg.evtRawRaw page (2 ^ bit)

/-! ### MSI-X (R432, R434) -/

/-- Raise a vector of a function: a masked vector sets its Pending Bit Array bit, an unmasked one is written. -/
def State.raiseVector (s : State) (fn v : Nat) : State :=
  match s.host.msix.getD (2048 * fn + v) (0, 0, true) with
  | (address, data, masked) =>
    if masked then { s with host := { s.host with pba := s.host.pba.put (2048 * fn + v) 1 } }
    else s.emit (.msix fn v address data)

/-! ### Lookup of host objects -/

/-- Change the host side. -/
def State.onHost (s : State) (f : HostSide → HostSide) : State := { s with host := f s.host }

/-- An instance; `none` is FREE. -/
def State.inst (s : State) (i : Nat) : Option Inst := s.host.insts.find i
/-- Write an instance. -/
def State.setInst (s : State) (i : Nat) (x : Inst) : State := s.onHost fun h => { h with insts := h.insts.put i x }
/-- A queue of an instance. -/
def State.queue (s : State) (i q : Nat) : Option HostQueue := s.host.queues.find (8 * i + q)
/-- Write a queue. -/
def State.setQueue (s : State) (i q : Nat) (x : HostQueue) : State :=
  s.onHost fun h => { h with queues := h.queues.put (8 * i + q) x }

/-- The line of a partition with nothing on it. -/
def ExecLine.empty : ExecLine := ⟨[], [], [], 0, 0, none, none, [], none, false, 0⟩
/-- The execution line of a partition. -/
def State.line (s : State) (p : Nat) : ExecLine := s.host.lines.getD p ExecLine.empty
/-- Write a line. -/
def State.setLine (s : State) (p : Nat) (l : ExecLine) : State :=
  s.onHost fun h => { h with lines := h.lines.putD p ExecLine.empty l }

/-- Compatibility mode (R284). -/
def State.compat (s : State) : Bool := s.flag Reg.ptnModeCompat 0

/-- Partition states of PTNP_CFG.STATE (R287). -/
def ptnFree : Nat := 0
/-- ACTIVE. -/
def ptnActive : Nat := 1
/-- FAULTED. -/
def ptnFaulted : Nat := 2
/-- RESETTING. -/
def ptnResetting : Nat := 3
/-- DESTROYING. -/
def ptnDestroying : Nat := 4

/-- The state of a partition. -/
def State.ptnState (s : State) (p : Nat) : Nat := s.get Reg.ptnpCfgState p

/-- The partition that holds a slice (R260). -/
def State.sliceOwner (s : State) (slice : Nat) : Option Nat :=
  (List.range 64).find? fun p => Nat.testBit (s.get Reg.ptnpSlicesSlices p) slice
/-- The partition that holds the channels of a slice: with the slice, or as a channel set (R204, R262). -/
def State.channelsOwner (s : State) (slice : Nat) : Option Nat :=
  (List.range 64).find? fun p =>
    Nat.testBit (s.get Reg.ptnpSlicesSlices p) slice || Nat.testBit (s.get Reg.ptnpSetsSets p) slice
/-- The numbers of the set bits of a 64-bit mask, rising. -/
def bitsSet (mask : Nat) : List Nat := (List.range 64).filter fun n => Nat.testBit mask n
/-- The slices of a partition. -/
def State.slicesOf (s : State) (p : Nat) : List Nat := bitsSet (s.get Reg.ptnpSlicesSlices p)

/-! ### Completion entries of a queue (R372, R373, R434) -/

/-- Write a completion entry into a queue's ring and raise the queue's vector where asked. A queue that a DMA error
stopped writes nothing, and a queue that no longer exists has no ring (R372). -/
def State.postCq (s : State) (i q : Nat) (e : CplEntry) (vector : Bool) : State :=
  match s.queue i q with
  | none => s
  | some x =>
    if x.dmaStop then s else
    let n := 2 ^ (x.cqLog2 + 4)
    let wrap := x.cqTail + 1 = n
    let s' := (s.setQueue i q
      { x with cqTail := if wrap then 0 else x.cqTail + 1
               phase := if wrap then !x.phase else x.phase
               used := x.used + 1 }).emit (.cqEntry i q x.cqTail x.phase e ((s.inst i).bind Inst.pasid))
    match s.inst i with
    | some y =>
      match y.vectors with
      | some (first, cnt) => if vector then s'.raiseVector y.fn (first + q % cnt) else s'
      | none => s'
    | none => s'

/-! ### Admin pairs (R356 to R359) -/

/-- The pair of a queue. -/
def State.pair (s : State) (fm : Bool) : AdmPair := if fm then s.host.fmPair else s.host.adm
/-- Write a pair. -/
def State.setPair (s : State) (fm : Bool) (x : AdmPair) : State :=
  s.onHost fun h => if fm then { h with fmPair := x } else { h with adm := x }
/-- The instance of the MBX registers of a pair. -/
def pairIdx (fm : Bool) : Nat := if fm then 1 else 0
/-- Entries of the submission ring (`cq = false`) or the completion ring of a pair (R391). -/
def State.ringSize (s : State) (fm cq : Bool) : Nat :=
  2 ^ (min 8 (s.get Reg.mbxBaseLog2 (2 * pairIdx fm + if cq then 1 else 0)) + 4)
/-- Free entries of a pair's completion ring. -/
def State.ringFree (s : State) (fm : Bool) : Nat := s.ringSize fm true - (s.pair fm).used

/-- Put an entry in a pair's completion ring: the ring index and PHASE it takes, and the state after. -/
def State.takeEntry (s : State) (fm : Bool) : Nat × Bool × State :=
  let x := s.pair fm
  let wrap := x.cqTail + 1 = s.ringSize fm true
  (x.cqTail, x.phase, s.setPair fm { x with
    cqTail := if wrap then 0 else x.cqTail + 1
    phase := if wrap then !x.phase else x.phase
    used := x.used + 1 })

/-- Write an admin completion into its ring and, with NOTIFY, raise vector 0 or 1 of function 0 (R357, R432). -/
def State.writeCpl (s : State) (fm : Bool) (c : AdmCpl) : State :=
  match s.takeEntry fm with
  | (idx, ph, s') =>
    let s'' := s'.emit (.admCompletion fm idx ph c.tag c.status c.detail c.lo c.hi)
    if c.notify then s''.raiseVector 0 (pairIdx fm) else s''

/-- Write a notice into the FM ring and raise vector 1 (R359, R432). -/
def State.writeNotice (s : State) (n : Notice) : State :=
  match s.takeEntry true with
  | (idx, ph, s') => (s'.emit (.notice idx ph n.status n.ptn n.handle n.time n.detail)).raiseVector 0 1

/-- Whether a notice may take an entry now (R359). -/
def State.noticeRoom (s : State) : Bool :=
  s.flag Reg.mbxStsEnable 1 && decide (s.ringFree true > s.host.fmPair.taken)

/-- Post a notice: at once where an entry is free for it and none waits, else at the end of the queue of 1,024, or
dropped and counted (R359). -/
def State.notice (s : State) (status p handle detail : Nat) : State :=
  let n : Notice := ⟨status, p, handle, s.now, detail⟩
  if s.noticeRoom ∧ s.host.fmPair.notices = [] then s.writeNotice n
  else if s.host.fmPair.notices.length < 1024 then
    s.setPair true { s.host.fmPair with notices := s.host.fmPair.notices ++ [n] }
  else s.bump Reg.mbxStsNoticeLost 1

/-- Write the first waiting notice where an entry is free for it (R359). -/
def State.drainNotice (s : State) : State :=
  match s.host.fmPair.notices with
  | [] => s
  | n :: rest =>
    if s.noticeRoom then (s.setPair true { s.host.fmPair with notices := rest }).writeNotice n else s

/-- Write up to `k` waiting notices. -/
def State.drainNotices : Nat → State → State
  | 0, s => s
  | k + 1, s => State.drainNotices k s.drainNotice

/-- Finish an admin command: its completion is posted, or kept while its pair is stopped (R358). -/
def State.complete (s : State) (fm : Bool) (a : Adm) (status : Nat) (detail : Nat := 0) (lo : Nat := 0)
    (hi : Nat := 0) : State :=
  let x := s.pair fm
  let s' := s.setPair fm { x with taken := x.taken - 1 }
  let c : AdmCpl := ⟨a.tag.toNat, a.notify, status, detail, lo, hi⟩
  if s.flag Reg.mbxStsEnable (pairIdx fm) then s'.writeCpl fm c
  else s'.setPair fm { s'.pair fm with kept := (s'.pair fm).kept ++ [c] }

/-- The boot phase from which the management mailbox is open (R505, R511). -/
def State.released (s : State) : Bool :=
  let ph := s.get Reg.rstBootPhase 0
  decide (4 ≤ ph ∧ ph ≤ 6)

/-- Whether the hub takes the next command of a pair (R358). -/
def State.canTake (s : State) (fm : Bool) : Bool :=
  s.released && s.flag Reg.mbxStsEnable (pairIdx fm) &&
    decide (s.get Reg.mbxStsSqHead (pairIdx fm) ≠ s.get Reg.mbxDbSqTail (pairIdx fm)) &&
    decide (s.ringFree fm ≥ (s.pair fm).taken + 1)

/-- Take the next command of a pair (R358). -/
def State.takeAdm (s : State) (fm : Bool) : State :=
  let x := s.pair fm
  (s.set Reg.mbxStsSqHead (pairIdx fm) ((s.get Reg.mbxStsSqHead (pairIdx fm) + 1) % s.ringSize fm false)).setPair fm
    { x with taken := x.taken + 1 }

end Sys2Proof.Machine
end

