-- ==== Sys2Proof/Machine/Clock.lean ====
section
/-! DEFINITION. The passage of fabric time (R28, R29, R303; log entry 3). -/

namespace Sys2Proof.Machine

/-- The power-up assay starts 30 ms into start-up, once firmware has verified, no rail holds it and COOL_FAIL_N is not
asserted (R504, R509). -/
def State.startAssay (s : State) : State :=
  if s.get Reg.rstBootPhase 0 = 1 ∧ ¬ s.plant.boot.held ∧ ¬ s.plant.pins.coolFail ∧ s.plant.boot.bootAt + 30000000 ≤ s.now then
    (((s.set Reg.rstBootPhase 0 2).set Reg.astStsRunning 0 1).set Reg.astStsKind 0 0).set Reg.astStsTarget 0 0
  else s

/-- The phase of the tick: units of 2⁻¹⁶ ns of fabric time, times 700, in one tick (700 ticks per 1,000 ns). -/
def tickPhase : Int := 65536000
/-- The tick count of each die follows an amount of fabric time, in units of 2⁻¹⁶ ns, while the tick runs: exactly 700 per
1,000 ns. A count never falls; a time that is slewed back is made up first (R28, R29, R303). -/
def State.passTicks (s : State) (d : Int) : State :=
  if s.plant.clock.stopped then s
  else
    let f := s.plant.clock.frac + 700 * d
    let at_ := fun (x : Int) => ({ s with plant := { s.plant with clock := { s.plant.clock with frac := x } } } : State)
    if f < tickPhase then at_ f
    else (List.range 4).foldl (fun s d => s.set Reg.dieTickTick d (s.get Reg.dieTickTick d + (f / tickPhase).toNat))
      (at_ (f % tickPhase))

/-- A number of ns of fabric time passes: whatever moves fabric time on says so through this. -/
def State.pass (s : State) (ns : Nat) : State :=
  ((({ s with now := s.now + ns } : State).startAssay).passTicks (65536 * ns))
/-- Fabric time moved on to an instant. -/
def State.atLeast (s : State) (t : Nat) : State := s.pass (t - s.now)
/-- Fabric time moved on to the next multiple of a period of fabric time, if it is not at one. -/
def State.atMultiple (s : State) (period : Nat) : State := s.atLeast (ceilDiv s.now period * period)
/-- A nanosecond with no command. -/
def State.idle (s : State) : State := s.pass 1

end Sys2Proof.Machine
end

