-- ==== Sys2Proof/Machine/Objects.lean ====
section
/-! DEFINITION. Objects of the hub: handles and generations, reference counts and frees, fences and their signals, and the
heap (R374 to R384). -/

namespace Sys2Proof.Machine

/-! ### Handles (R374) -/

/-- The generation after a destruction: modulo 2^14, skipping 0. -/
def nextGen (g : Nat) : Nat := if g + 1 = 16384 then 1 else g + 1
/-- A handle of a generation and a slot. -/
def mkHandle (gen slot : Nat) : Nat := gen * 262144 + slot
/-- The generation that a handle names. -/
def handleGen (h : Handle) : Nat := h.toNat / 262144
/-- The slot that a handle names. -/
def handleSlot (h : Handle) : Nat := h.toNat % 262144

/-- The memory object that a handle names, with its slot; `none` for a stale handle. -/
def State.findObj (s : State) (h : Handle) : Option (Nat × MemObj) :=
  match s.host.objs.find (handleSlot h) with
  | some o => if o.gen = handleGen h then some (handleSlot h, o) else none
  | none => none

/-- The fence that a handle names. -/
def State.findFence (s : State) (h : Handle) : Option (Nat × Fence) :=
  match s.host.fences.find (handleSlot h) with
  | some f => if f.gen = handleGen h then some (handleSlot h, f) else none
  | none => none

/-- The schedule image that a handle names. -/
def State.findImage (s : State) (h : Handle) : Option (Nat × Image) :=
  match s.host.images.find (handleSlot h) with
  | some i => if i.gen = handleGen h then some (handleSlot h, i) else none
  | none => none

/-- Write an object's slot. -/
def State.setObj (s : State) (slot : Nat) (o : MemObj) : State :=
  s.onHost fun h => { h with objs := h.objs.put slot o }
/-- Write a fence's slot. -/
def State.setFence (s : State) (slot : Nat) (f : Fence) : State :=
  s.onHost fun h => { h with fences := h.fences.put slot f }
/-- Write an image's slot. -/
def State.setImage (s : State) (slot : Nat) (i : Image) : State :=
  s.onHost fun h => { h with images := h.images.put slot i }

/-! ### References (R378, R379) -/

/-- The limit of a host part. -/
def hostLimit : Nat := 65535
/-- The limit of a device part. -/
def devLimit : Nat := 16777215

/-- The device part of an object. -/
def MemObj.dev (o : MemObj) : Nat := o.soft + o.hard

/-- Destroy an object: its slot is empty and its generation advances. -/
def State.destroyObj (s : State) (slot : Nat) : State :=
  s.onHost fun h => { h with
    objs := h.objs.drop slot
    objGens := h.objGens.putD slot 1 (nextGen (h.objGens.getD slot 1)) }
/-- Destroy a fence. -/
def State.destroyFence (s : State) (slot : Nat) : State :=
  s.onHost fun h => { h with
    fences := h.fences.drop slot
    fenceGens := h.fenceGens.putD slot 1 (nextGen (h.fenceGens.getD slot 1)) }
/-- Destroy an image's handle and slot. -/
def State.destroyImage (s : State) (slot : Nat) : State :=
  s.onHost fun h => { h with
    images := h.images.drop slot
    imageGens := h.imageGens.putD slot 1 (nextGen (h.imageGens.getD slot 1)) }

/-- Destroy an object that is freeing and has no device reference left (R379). -/
def State.sweepObj (s : State) (slot : Nat) : State :=
  match s.host.objs.find slot with
  | some o => if o.freeing ∧ o.dev = 0 then s.destroyObj slot else s
  | none => s

/-- Add device references to an object: `soft` for regions and argument sets, else `hard`. -/
def State.refObj (s : State) (slot soft hard : Nat) : State :=
  match s.host.objs.find slot with
  | some o => s.setObj slot { o with soft := o.soft + soft, hard := o.hard + hard }
  | none => s

/-- Drop device references of an object; a freeing object left with none is destroyed (R379). -/
def State.unrefObj (s : State) (slot soft hard : Nat) : State :=
  match s.host.objs.find slot with
  | some o => (s.setObj slot { o with soft := o.soft - soft, hard := o.hard - hard }).sweepObj slot
  | none => s

/-- Drop a device reference of a fence. -/
def State.unrefFence (s : State) (slot : Nat) : State :=
  match s.host.fences.find slot with
  | some f =>
    if f.freeing ∧ f.dev ≤ 1 then s.destroyFence slot else s.setFence slot { f with dev := f.dev - 1 }
  | none => s

/-- The objects on which a handoff record holds a reference, by slot: those of its extents while it holds the state, and
the receive object while it is ARMED or RECEIVING (R290). -/
def HoRecord.holds (r : HoRecord) : List Nat :=
  if r.state = 1 ∨ r.state = 2 ∨ r.state = 6 then
    r.extents.foldl (fun acc e => if acc.contains (handleSlot e.obj) then acc else acc ++ [handleSlot e.obj]) []
  else if r.state = 4 ∨ r.state = 5 then [r.recvObj]
  else []

/-- The end of a partition's unseal session, whose destination becomes VALID or VOID (R470). -/
def State.endSession (s : State) (p : Nat) (valid : Bool) : State :=
  match s.plant.sec.unseals.find p with
  | none => s
  | some u =>
    let s := { s with plant := { s.plant with sec := { s.plant.sec with unseals := s.plant.sec.unseals.drop p } } }
    match s.findObj u.dst with
    | some (k, o) => s.setObj k { o with void := !valid, scratching := o.scratching - 1 }
    | none => s
/-- A session is discarded: its destination is VOID. -/
def State.dropSession (s : State) (p : Nat) : State := s.endSession p false

/-- The free of MO_FREE: the host part becomes 0; the object is destroyed at once, or is freeing. The status is that of
R379. -/
def State.freeObj (s : State) (slot : Nat) : Nat × State :=
  match s.host.objs.find slot with
  | none => (St.objHandle, s)
  | some o =>
    if o.dev = 0 then (St.success, s.destroyObj slot)
    else (St.deferred, s.setObj slot { o with host := 0, freeing := true })

/-- The free of FENCE_FREE (R379). -/
def State.freeFence (s : State) (slot : Nat) : Nat × State :=
  match s.host.fences.find slot with
  | none => (St.objHandle, s)
  | some f =>
    if f.dev = 0 then (St.success, s.destroyFence slot)
    else (St.deferred, s.setFence slot { f with host := 0, freeing := true })

/-! ### Fences (R381) -/

/-- Signal a fence: whether the signal was taken, and the state after. A value not above the current one is refused and
raises FENCE_REGRESSION on the partition's page. -/
def State.signal (s : State) (h : Handle) (value : Nat) : Bool × State :=
  match s.findFence h with
  | none => (false, s)
  | some (slot, f) =>
    if f.value < value then (true, s.setFence slot { f with value := value })
    else (false, s.event (ptnpPage f.ptn) 0)

/-! ### Objects and addresses (R375, R376) -/

/-- The object of a partition that holds a VA. -/
def State.objAt (s : State) (p va : Nat) : Option (Nat × MemObj) :=
  s.host.objs.entries.find? fun e => e.2.ptn = p && decide (e.2.va ≤ va ∧ va < e.2.va + e.2.bytes)

/-- Whether two ranges meet. -/
def rangesMeet (a n b m : Nat) : Bool := decide (a < b + m ∧ b < a + n ∧ 0 < n ∧ 0 < m)

/-! ### The buddy allocator (R383) -/

/-- The bytes of a class. -/
def classBytes (c : Nat) : Nat := 65536 * 2 ^ c

/-- The lowest-addressed free block of a class in a heap object: the first aligned place that meets no allocated block. -/
def Heap.place (hp : Heap) (base bytes c : Nat) : Option Nat :=
  (List.range (bytes / classBytes c)).findSome? fun k =>
    let va := base + k * classBytes c
    if hp.blocks.all fun b => !rangesMeet va (classBytes c) b.1 (classBytes b.2.1) then some va else none

/-- Free the blocks of a heap that a command allocated (R383, at its kill). -/
def State.dropBlocks (s : State) (p seq : Nat) : State :=
  match s.host.heaps.find p with
  | none => s
  | some hp =>
    s.onHost fun h => { h with
      heaps := h.heaps.put p { hp with blocks := hp.blocks.filter fun b => b.2.2 ≠ some seq } }

/-- Free the blocks at the listed addresses and give the command's blocks to the heap (R383, at its commit). -/
def State.settleBlocks (s : State) (p seq : Nat) (frees : List Nat) : State :=
  match s.host.heaps.find p with
  | none => s
  | some hp =>
    s.onHost fun h => { h with
      heaps := h.heaps.put p { hp with
        blocks := (hp.blocks.filter fun b => !frees.contains b.1).map fun b =>
          if b.2.2 = some seq then (b.1, b.2.1, none) else b } }

end Sys2Proof.Machine
end

