-- ==== Sys2Proof/Machine/OuterCode.lean ====
section
/-! DEFINITION. The outer code of a memory line: a Reed-Solomon code over GF(2⁸) (R213, R214). -/

namespace Sys2Proof.Machine

/-! ### The field -/

/-- A symbol multiplied by α, a root of x⁸ + x⁴ + x³ + x² + 1 (R213). -/
def gfStep (a : Nat) : Nat := if 128 ≤ a then (2 * a) ^^^ 0x11D else 2 * a
/-- A product of symbols. -/
def gfMul (a b : Nat) : Nat :=
  (List.range 8).foldr (fun i acc => gfStep acc ^^^ (if Nat.testBit b i then a else 0)) 0
/-- A power of α. -/
def gfAlpha : Nat → Nat
  | 0 => 1
  | n + 1 => gfStep (gfAlpha n)
/-- A power of a symbol. -/
def gfPow (a : Nat) : Nat → Nat
  | 0 => 1
  | n + 1 => gfMul a (gfPow a n)
/-- The inverse of a symbol that is not 0. -/
def gfInv (a : Nat) : Nat := gfPow a 254

/-! ### Code words (R213) -/

/-- Symbols of a line: 64 of ciphertext, then 8 of checks. -/
def rsSymbols : Nat := 72
/-- Symbol `m` of a code word: symbol 8L + p is bit lane p of byte lane L, with beat k in its bit k. -/
def symbolOf (w : BitVec 576) (m : Nat) : Nat := bitsOf w.toNat (8 * m) 8
/-- The locator of a symbol: symbol 0 is the coefficient of x⁷¹ and the last check symbol that of x⁰. The spec does not say which
symbol stands at which power (log entry 97, DESIGN CHOICE). -/
def locator (m : Nat) : Nat := gfAlpha (71 - m)
/-- The eight syndromes of symbols at places: the values at α to α⁸ of the polynomial whose coefficients they are. -/
def syndromes (es : List (Nat × Nat)) : List Nat :=
  (List.range 8).map fun j => es.foldl (fun acc e => acc ^^^ gfMul e.2 (gfPow (locator e.1) (j + 1))) 0
/-- The symbols of a word that are not 0, with their places. -/
def nonZero (w : BitVec 576) : List (Nat × Nat) :=
  ((List.range rsSymbols).map fun m => (m, symbolOf w m)).filter fun e => decide (e.2 ≠ 0)
/-- A word with symbols at places. -/
def ofSymbols (es : List (Nat × Nat)) : BitVec 576 :=
  es.foldl (fun w e => w ^^^ BitVec.ofNat 576 (e.2 * 2 ^ (8 * e.1))) 0

/-- A polynomial, lowest coefficient first, times x − r. -/
def timesRoot (r : Nat) (c : List Nat) : List Nat :=
  (List.range (c.length + 1)).map fun i =>
    (if i = 0 then 0 else c.getD (i - 1) 0) ^^^ gfMul r (c.getD i 0)
/-- The value of a polynomial. -/
def polyAt (c : List Nat) (x : Nat) : Nat := c.foldr (fun a acc => a ^^^ gfMul x acc) 0
/-- The symbols at places that give the first of some syndromes, as many as there are places. -/
def symbolsAt (syn : List Nat) (ps : List Nat) : List (Nat × Nat) :=
  ps.map fun k =>
    let c := (ps.filter (· ≠ k)).foldl (fun c l => timesRoot (locator l) c) [1]
    let top := (c.zip syn).foldl (fun acc e => acc ^^^ gfMul e.1 e.2) 0
    (k, gfMul top (gfInv (gfMul (locator k) (polyAt c (locator k)))))

/-- The check symbols of 64 data symbols: those with which every syndrome is 0 (R213). -/
def rsChecks (data : BitVec 512) : List (Nat × Nat) :=
  symbolsAt (syndromes (nonZero (data.setWidth 576))) [64, 65, 66, 67, 68, 69, 70, 71]
/-- The code word of a line's ciphertext. -/
def rsEncode (data : BitVec 512) : BitVec 576 := data.setWidth 576 ^^^ ofSymbols (rsChecks data)

/-! ### Decoding (R214) -/

/-- The places of a byte lane's symbols. -/
def laneSymbols (lane : Nat) : List Nat := (List.range 8).map fun k => 8 * lane + k
/-- The sets of up to two places. -/
def upToTwo : List (List Nat) :=
  [] :: ((List.range rsSymbols).map fun m => [m]) ++
    (List.range rsSymbols).flatMap fun m => (List.range m).map fun n => [n, m]
/-- The error that the decoder takes away, by its syndromes: one in up to two symbols, or one in the marked lane; none where no
such error fits. -/
def rsDecode (mark : Option Nat) (syn : List Nat) : Option (List (Nat × Nat)) :=
  match mark with
  | some lane => some (symbolsAt syn (laneSymbols lane))
  | none => upToTwo.findSome? fun ps =>
      let es := symbolsAt syn ps
      if syndromes es = syn then some es else none

/-- What the decoder makes of a line: nothing is wrong with it; it is corrected; it is passed on with an error left, corrected or
taken for clean; or it is uncorrectable. -/
inductive Decoded where
  | clean
  | corrected
  | wrong (left : BitVec 576) (counted : Bool)
  | uncorrectable
  deriving DecidableEq, Repr

/-- What the decoder makes of a line with an error, given the marked lane. -/
def decodeError (mark : Option Nat) (err : BitVec 576) : Decoded :=
  if err = 0 then .clean
  else
    let syn := syndromes (nonZero err)
    if syn.all (· = 0) then .wrong err false
    else match rsDecode mark syn with
      | some es => if ofSymbols es = err then .corrected else .wrong (err ^^^ ofSymbols es) true
      | none => .uncorrectable

end Sys2Proof.Machine
end

