-- ==== Sys2Proof/Machine/Memory.lean ====
section
/-! DEFINITION. Memory: device physical addresses, channels and their owners, lines under keys, page tables and walks
(R200 to R225, R234 to R237). -/

namespace Sys2Proof.Machine

/-! ### Geometry (R200, R203, R205, R207) -/

/-- Channel lines per channel, N. -/
def State.channelLines (s : State) : Nat := if s.get Reg.glbInfoOrderCode 0 = 0 then 25165824 else 16777216
/-- The slice whose channels a device channel belongs to (R203). -/
def chSlice (ch : Nat) : Nat := ch / 12
/-- The slice channel index of a device channel. -/
def chIndex (ch : Nat) : Nat := ch % 12
/-- The device channel of a DPA: stack × 32 + stack channel. -/
def dpaChannel (dpa : Nat) : Nat := dpa / 2 ^ 31
/-- The row of a DPA. -/
def dpaRow (dpa : Nat) : Nat := dpa / 64 % 2 ^ 25
/-- The DPA of a channel and a row. -/
def mkDpa (ch row : Nat) : Nat := ch * 2 ^ 31 + row * 64
/-- Rows that a channel offers to software: N less the 349,526 rows, 349,525 from slice channel 4 on, that the reserved lines
fill (R205). -/
def State.offeredRows (s : State) (ch : Nat) : Nat :=
  (if s.get Reg.glbInfoOrderCode 0 = 0 then 24816298 else 16427690) + if chIndex ch < 4 then 0 else 1
/-- The owner of a channel: the partition whose keys it holds, from the key entry of PTN_CREATE or of step 2 of a re-binding
item until its removal (R204, R225, R232, R270). -/
def State.chOwner (s : State) (ch : Nat) : Option Nat :=
  if s.flag Reg.mchKeyStsKeyed ch then some (s.get Reg.mchKeyStsOwner ch) else none
/-- The DPA of reserved line `q` of a slice (R205). -/
def State.reservedDpa (s : State) (slice q : Nat) : Nat :=
  mkDpa (12 * slice + q % 12) (s.channelLines - 1 - q / 12)
/-- Engine and stack channel: the device channel of stack channel `c` of engine `e`. -/
def engineChannel (e c : Nat) : Nat := 32 * e + c
/-- A channel's state beyond its registers. -/
def State.channel (s : State) (ch : Nat) : Channel := s.mem.channels.getD ch Channel.reset
/-- Change memory. -/
def State.onMem (s : State) (f : MemState → MemState) : State := { s with mem := f s.mem }
/-- The canonical form of memory: lines listed by rising key, and table entries by rising key with none listed that is 0,
which is what an unlisted entry reads as (log entry 6). -/
def Memory.wf (m : MemState) : Bool := m.lines.wf && m.tables.wfD 0
/-- Write a channel's state. -/
def State.setChannel (s : State) (ch : Nat) (c : Channel) : State :=
  s.onMem fun m => { m with channels := m.channels.putD ch Channel.reset c }

/-! ### Lines under keys (R221 to R224) -/

/-- The key in force for a channel row: the reserved key for reserved rows, else the owner's partition number and memory
key epoch; the hub's own key number 0xFE where the channel has no owner. -/
def State.keyOf (s : State) (dpa : Nat) : Nat × Nat :=
  let ch := dpaChannel dpa
  if dpaRow dpa ≥ s.offeredRows ch then (0xFF, 0)
  else match s.chOwner ch with
    | some p => (p, s.get Reg.ptnpMemEpochEpoch p)
    | none => (0xFE, 0)

/-- What a read of a line delivers under the key in force: the plain data where the line was written under the same key,
else pseudo-random data, which is a free value of the line, its contents and the key (R224). -/
def State.readLine (s : State) (dpa : Nat) : Line :=
  let n := dpa / 64
  let k := s.keyOf dpa
  match s.mem.lines.find n with
  | some l =>
    if l.part = k.1 ∧ l.epoch = k.2 ∧ l.salt = s.mem.salt then l.data
    else Config.garbageLine [n, k.1, k.2, s.mem.salt, l.part, l.epoch, l.salt, l.data.toNat]
  | none => Config.garbageLine [n, k.1, k.2, s.mem.salt]

/-- Write a whole line under the key in force: its old contents are not decoded, and an error in them is gone (R220). -/
def State.writeLine (s : State) (dpa : Nat) (v : Line) : State :=
  let k := s.keyOf dpa
  s.onMem fun m => { m with lines := m.lines.put (dpa / 64) ⟨k.1, k.2, m.salt, v⟩, bad := m.bad.drop (dpa / 64) }

/-- Write the low bytes of `v` that a byte mask selects: the read-modify-write of R220. -/
def mergeBytes (old v : Line) (mask : Nat) : Line :=
  (List.range 64).foldl (fun acc i =>
    if Nat.testBit mask i then
      (acc &&& ~~~((0xFF : Line) <<< (8 * i))) ||| (v &&& ((0xFF : Line) <<< (8 * i)))
    else acc) old

/-- Log an uncorrectable line in a channel's registers: MCH_ECC_STS.UE, UE_COUNT and the first record (R219, R230). -/
def State.logUe (s : State) (dpa : Nat) (scrub : Bool) : State :=
  let ch := dpaChannel dpa
  let s := (s.raise (if scrub then Reg.mchEccStsScrubUe else Reg.mchEccStsUe) ch).bump Reg.mchEccStsUeCount ch
  if s.flag Reg.mchEccLogValid ch then s else
    let s := (((s.raise Reg.mchEccLogValid ch).set Reg.mchEccLogScrub ch (if scrub then 1 else 0)).set
      Reg.mchEccLogRow ch (dpaRow dpa))
    match s.chOwner ch with
    | some p => (s.set Reg.mchEccLogOwner ch p).set Reg.mchEccLogNoOwner ch 0
    | none => (s.set Reg.mchEccLogOwner ch 0).set Reg.mchEccLogNoOwner ch 1

/-! ### The outer code on accesses (R202, R212 to R214, R219) -/

/-- The marked byte lane of a channel. -/
def State.markedLane (s : State) (ch : Nat) : Option Nat :=
  if s.flag Reg.mchEccStsMarked ch then some (s.get Reg.mchEccStsMarkLane ch) else none
/-- The errors of a list that a line's access meets. -/
def errorsAt (errs : List LineError) (dpa : Nat) : List LineError := errs.filter fun e => decide (e.dpa.toNat / 64 = dpa / 64)
/-- Errors that lie in stored lines stay in them. -/
def State.meetErrors (s : State) (errs : List LineError) : State :=
  (errs.filter LineError.stays).foldl (fun s e => s.onMem fun m =>
    { m with bad := m.bad.putD (e.dpa.toNat / 64) 0 (m.bad.getD (e.dpa.toNat / 64) 0 ^^^ e.err) }) s
/-- What the decoder makes of a line, with the errors on its way (R202, R214). -/
def State.lineState (s : State) (errs : List LineError) (dpa : Nat) : Decoded :=
  let es := errorsAt errs dpa
  if es.any LineError.crc then .uncorrectable
  else decodeError (s.markedLane (dpaChannel dpa))
    ((es.filter fun e => !e.stays).foldl (fun w e => w ^^^ e.err) (s.mem.bad.getD (dpa / 64) 0))
/-- What a reader other than the hub meets: a channel that is exhausted serves it no line (R216; log entry 90, DESIGN CHOICE). -/
def State.decoded (s : State) (errs : List LineError) (dpa : Nat) : Decoded :=
  if s.flag Reg.mchEccStsLaneExhausted (dpaChannel dpa) ∧ dpaRow dpa < s.offeredRows (dpaChannel dpa) then .uncorrectable
  else s.lineState errs dpa
/-- Count and log what a read of a line met; `scrub` names the scrub (R212, R214, R219, R229, R230). -/
def State.noteLine (s : State) (errs : List LineError) (scrub : Bool) (dpa : Nat) : State :=
  let ch := dpaChannel dpa
  let s := ((errorsAt errs dpa).filter LineError.inner).foldl (fun s _ => s.bump Reg.mchEccStsInnerCorr ch) s
  match if scrub then s.lineState errs dpa else s.decoded errs dpa with
  | .clean => s
  | .corrected => s.bump Reg.mchEccStsOuterCorr ch
  | .wrong _ counted => if counted then s.bump Reg.mchEccStsOuterCorr ch else s
  | .uncorrectable => s.logUe dpa scrub
/-- The same for lines. -/
def State.noteLines (s : State) (errs : List LineError) (dpas : List Nat) : State :=
  dpas.foldl (fun s d => s.noteLine errs false d) s
/-- The first of some lines that is uncorrectable. -/
def State.badLine (s : State) (errs : List LineError) (dpas : List Nat) : Option Nat :=
  dpas.find? fun d => decide (s.decoded errs d = .uncorrectable)
/-- What a read delivers of a line that is not uncorrectable: where the decoder leaves an error, a free value of the line and the
error. -/
def State.delivered (s : State) (errs : List LineError) (dpa : Nat) : Line :=
  match s.decoded errs dpa with
  | .wrong left _ => Config.garbageLine [dpa / 64, left.toNat, (s.readLine dpa).toNat]
  | _ => s.readLine dpa
/-- The memory as a reader of some lines sees it. -/
def State.asRead (s : State) (errs : List LineError) (dpas : List Nat) : State :=
  (dpas.filter fun d => match s.decoded errs d with | .wrong _ _ => true | _ => false).foldl
    (fun t d => t.writeLine d (s.delivered errs d)) s
/-- Write a line over a path whose CRC may fail: it then stays unwritten, as an uncorrectable error of the writer (R202). The
answer says whether it failed. -/
def State.putLine (s : State) (errs : List LineError) (dpa : Nat) (v : Line) : Bool × State :=
  if (errorsAt errs dpa).any LineError.crc ∨ s.flag Reg.mchEccStsLaneExhausted (dpaChannel dpa) then (true, s.logUe dpa false) else (false, s.writeLine dpa v)

/-- Write the bytes of a line that a mask selects. A whole line is written without a look at its old contents; a part by
read-modify-write, which an uncorrectable line stops, the writer being its reader (R220). The answer says whether it stopped. -/
def State.putBytes (s : State) (errs : List LineError) (dpa : Nat) (v : Line) (mask : Nat) : Bool × State :=
  if mask = 2 ^ 64 - 1 then s.putLine errs dpa v
  else
    let t := s.noteLine errs false dpa
    if s.decoded errs dpa = .uncorrectable then (true, t)
    else t.putLine errs dpa (mergeBytes (s.delivered errs dpa) v mask)

/-! ### Page tables (R234 to R237) -/

/-- The bytes of a page size code. -/
def pageBytes (size : Nat) : Nat := if size = 0 then 65536 else if size = 1 then 2097152 else 1073741824
/-- The lines of a slice's reserved area that hold translation tables (R235). -/
def tableArea : Nat := 2097152
/-- Where entry `i` of the table at line `q` of a slice is kept. -/
def tableKey (slice q i : Nat) : Nat := (slice * tableArea + q) * 8 + i
/-- An entry of a table: `i` counts from line `q`, eight entries a line. -/
def State.tableEntry (s : State) (slice q i : Nat) : Word := s.mem.tables.getD (tableKey slice q 0 + i) 0
/-- Write an entry of a table. -/
def State.setTableEntry (s : State) (slice q i : Nat) (v : Word) : State :=
  s.onMem fun m => { m with tables := m.tables.putD (tableKey slice q 0 + i) 0 v }

/-- The slice of a record's table. -/
def recSlice (r : TableRec) : Nat := 16 * r.die.toNat + r.cluster.toNat
/-- Write a record's entries (R239). -/
def State.writeTable (s : State) (r : TableRec) : State :=
  ((List.range r.entries.length).zip r.entries).foldl
    (fun s e => s.setTableEntry (recSlice r) r.line.toNat (r.index.toNat + e.1) e.2) s
/-- The V bit. -/
def pteValid (e : Word) : Bool := e.getLsbD 0
/-- The LEAF bit. -/
def pteLeaf (e : Word) : Bool := e.getLsbD 1
/-- The W bit. -/
def pteW (e : Word) : Bool := e.getLsbD 2
/-- The X bit. -/
def pteX (e : Word) : Bool := e.getLsbD 3
/-- The LOG bit. -/
def pteLog (e : Word) : Bool := e.getLsbD 4
/-- The frame's DPA. -/
def pteFrame (e : Word) : Nat := e.toNat / 65536 % 2 ^ 25 * 65536
/-- The slice that a table pointer names. -/
def ptrSlice (e : Word) : Nat := e.toNat / 2 ^ 36 % 4 * 16 + e.toNat / 2 ^ 32 % 16
/-- The line that a table pointer names. -/
def ptrLine (e : Word) : Nat := e.toNat / 1024 % 2 ^ 21

/-- The size code of a leaf at a level. -/
def levelSize (level : Nat) : Nat := if level = 2 then 2 else if level = 3 then 1 else 0
/-- The index of a VA at a level (R234). -/
def levelIndex (level va : Nat) : Nat :=
  if level = 1 then va / 2 ^ 39 % 512 else if level = 2 then va / 2 ^ 30 % 512
  else if level = 3 then va / 2 ^ 21 % 512 else va / 2 ^ 16 % 32

/-- Whether a frame of a size is whole offered rows of one channel that a partition owns (R208, R237). -/
def State.frameOk (s : State) (p frame size : Nat) : Bool :=
  let ch := dpaChannel frame
  decide (frame % pageBytes size = 0) && decide (ch < 768) && decide (s.chOwner ch = some p) &&
    decide (dpaRow frame + pageBytes size / 64 ≤ s.offeredRows ch) &&
    !(decide (size = 2) && decide (s.get Reg.glbInfoOrderCode 0 ≠ 0))

/-- Whether a valid entry at a level is well formed (R237). -/
def State.pteOk (s : State) (p level : Nat) (e : Word) : Bool :=
  let v := e.toNat
  if pteLeaf e then
    decide (level ≠ 1) && decide (v / 2 ^ 41 = 0) && decide (v / 64 % 2 ^ 10 = 0) &&
      s.frameOk p (pteFrame e) (levelSize level)
  else
    decide (level ≠ 4) && decide (v / 2 ^ 38 = 0) && decide (v / 2 ^ 31 % 2 = 0) && decide (v / 4 % 2 ^ 8 = 0) &&
      Nat.testBit (s.get Reg.ptnpSlicesSlices p) (ptrSlice e) &&
      decide (ptrLine e % (if level = 3 then 4 else 64) = 0)

/-- The result of a walk (R234): a leaf with its level and the key of its entry, or no translation, with whether a
malformed entry was met. -/
inductive WalkResult where
  | leaf (pte : Word) (level : Nat) (key : Nat)
  | unmapped (malformed : Bool)
  deriving DecidableEq, Repr

/-- Walk from a table at a level. -/
def State.walkFrom (s : State) (p va : Nat) : Nat → Nat → Nat → Nat → WalkResult
  | 0, _, _, _ => .unmapped false
  | fuel + 1, level, slice, q =>
    let i := levelIndex level va
    let e := s.tableEntry slice q i
    if ¬ pteValid e then .unmapped false
    else if ¬ s.pteOk p level e then .unmapped true
    else if pteLeaf e then .leaf e level (tableKey slice q 0 + i)
    else State.walkFrom s p va fuel (level + 1) (ptrSlice e) (ptrLine e)

/-- The slice of a partition's root table. -/
def State.rootSlice (s : State) (p : Nat) : Nat := 16 * s.get Reg.ptnpXltRootDie p + s.get Reg.ptnpXltRootCluster p
/-- Walk a VA of a partition from its root, which lies in a slice of the partition (R234, R235, R238). -/
def State.walkVa (s : State) (p va : Nat) : WalkResult :=
  if s.flag Reg.ptnpXltRootValid p ∧ Nat.testBit (s.get Reg.ptnpSlicesSlices p) (s.rootSlice p) ∧ va < 2 ^ 48 then
    s.walkFrom p va 4 1 (s.rootSlice p) (s.get Reg.ptnpXltRootLine p)
  else .unmapped false

/-- The lines of the reserved areas that a walk reads from a table on, as DPAs (R235, R254). -/
def State.walkReads (s : State) (p va : Nat) : Nat → Nat → Nat → Nat → List Nat
  | 0, _, _, _ => []
  | fuel + 1, level, slice, q =>
    let i := levelIndex level va
    let e := s.tableEntry slice q i
    s.reservedDpa slice (q + i / 8) ::
      if pteValid e ∧ s.pteOk p level e ∧ ¬ pteLeaf e then State.walkReads s p va fuel (level + 1) (ptrSlice e) (ptrLine e) else []
/-- The first line that a walk of a VA reads and that is uncorrectable (R254). -/
def State.walkBad (s : State) (errs : List LineError) (p va : Nat) : Option Nat :=
  if s.flag Reg.ptnpXltRootValid p ∧ Nat.testBit (s.get Reg.ptnpSlicesSlices p) (s.rootSlice p) ∧ va < 2 ^ 48 then
    s.badLine errs (s.walkReads p va 4 1 (s.rootSlice p) (s.get Reg.ptnpXltRootLine p))
  else none

/-- The translation of a leaf. -/
def leafTrans (e : Word) (level : Nat) : Trans := ⟨levelSize level, pteFrame e, e.toNat / 4 % 16⟩

/-- The DPA of a VA under a translation. -/
def Trans.dpa (t : Trans) (va : Nat) : Nat := t.frame + va % pageBytes t.size
/-- The W flag of a translation. -/
def Trans.w (t : Trans) : Bool := Nat.testBit t.flags 0
/-- The 64 KiB region of a VA under a translation whose page begins at a VA: that region's VA and its own translation (R247). -/
def Trans.region (t : Trans) (page va : Nat) : Nat × Trans := (va / 65536 * 65536, ⟨0, t.frame + (va / 65536 * 65536 - page), t.flags⟩)
/-- The X flag of a translation. -/
def Trans.x (t : Trans) : Bool := Nat.testBit t.flags 1
/-- The LOG flag of a translation. -/
def Trans.log (t : Trans) : Bool := Nat.testBit t.flags 2

/-- An entry of a cluster translation cache (R249). -/
def cacheWord (p page : Nat) (t : Trans) (pin : Bool) : BitVec 128 :=
  BitVec.ofNat 128 (page / 65536 * 2 ^ 96 + p * 2 ^ 90 + t.size * 2 ^ 88 + t.frame + (if pin then 0x80 else 0) + 0x40 + t.flags * 4)
/-- Whether an entry is in use. -/
def cacheValid (w : BitVec 128) : Bool := w.getLsbD 6
/-- Whether it is pinned. -/
def cachePinned (w : BitVec 128) : Bool := w.getLsbD 7
/-- Its partition. -/
def cachePtn (w : BitVec 128) : Nat := w.toNat / 2 ^ 90 % 64
/-- The VA of its page. -/
def cachePage (w : BitVec 128) : Nat := w.toNat / 2 ^ 96 * 65536
/-- Its translation. -/
def cacheTrans (w : BitVec 128) : Trans :=
  ⟨w.toNat / 2 ^ 88 % 4, w.toNat / 65536 % 2 ^ 25 * 65536, w.toNat / 4 % 16⟩
/-- Entries of a cluster translation cache. -/
def cacheEntries : Nat := 4096
/-- The entry of a slice's cache that covers a VA of a partition: its number and word. -/
def State.cacheFind (s : State) (sl p va : Nat) : Option (Nat × BitVec 128) :=
  s.mem.caches.entries.find? fun e => decide (e.1 / cacheEntries = sl ∧ cachePtn e.2 = p) && cacheValid e.2 &&
    decide (cachePage e.2 ≤ va ∧ va < cachePage e.2 + pageBytes (cacheTrans e.2).size)

/-- The translation of a VA by a fresh walk. -/
def State.transOf (s : State) (p va : Nat) : Option Trans :=
  match s.walkVa p va with
  | .leaf e level _ => some (leafTrans e level)
  | .unmapped _ => none

/-! ### The pages of bound images (R133) -/

/-- Whether an image is bound to a partition: it is not staged, and its bind does not wait on the line (R133, R268). -/
def State.imageBound (s : State) (p k : Nat) : Bool :=
  match s.host.images.find k with
  | some im => decide (im.ptn = p) && !im.staged && !((s.line p).items.any fun it => match it.kind with
      | .bind j _ => decide (j = k)
      | _ => false)
  | none => false
/-- The images that are bound. -/
def State.boundImages (s : State) : List Image :=
  s.host.images.entries.filterMap fun e => if s.imageBound e.2.ptn e.1 then some e.2 else none
/-- The objects of the images bound to a partition. -/
def State.imageObjs (s : State) (p : Nat) : List MemObj :=
  s.host.images.entries.filterMap fun e => if s.imageBound p e.1 then s.host.objs.find e.2.obj else none
/-- Whether a page belongs to the object of a bound image. -/
def State.imagePage (s : State) (p va size : Nat) : Bool :=
  (s.imageObjs p).any fun o => rangesMeet (va / pageBytes size * pageBytes size) (pageBytes size) o.va o.bytes
/-- Whether a line lies in a page of a bound image, which nothing writes whatever its leaf says. -/
def State.imageLine (s : State) (p dpa : Nat) : Bool :=
  (s.imageObjs p).any fun o => (List.range (ceilDiv o.bytes 65536)).any fun k => match s.transOf p (o.va + 65536 * k) with
    | some t => decide (t.frame ≤ dpa ∧ dpa < t.frame + pageBytes t.size)
    | none => false

/-- A 64-byte line at a VA, where it is mapped. -/
def State.readVa (s : State) (p va : Nat) : Option Line :=
  (s.transOf p va).map fun t => s.delivered [] (t.dpa va)
/-- The lines at VAs, where they are mapped. -/
def State.vaDpas (s : State) (p : Nat) (vas : List Nat) : List Nat :=
  vas.filterMap fun va => (s.transOf p va).map fun t => t.dpa va
/-- Write a 64-byte line at a VA where it is mapped, and not to a bound image. -/
def State.writeVa (s : State) (p va : Nat) (v : Line) : State :=
  match s.transOf p va with
  | some t => if s.imagePage p va t.size then s else s.writeLine (t.dpa va) v
  | none => s

/-- Bytes of a line, lowest first. -/
def lineBytes (l : Line) : List Byte := (List.range 64).map fun i => (l >>> (8 * i)).setWidth 8
/-- The number that little-endian bytes spell. -/
def leNat : List Byte → Nat
  | [] => 0
  | b :: rest => b.toNat + 256 * leNat rest
/-- The line that 64 bytes spell. -/
def bytesLine (bs : List Byte) : Line := BitVec.ofNat 512 (leNat bs)
/-- `n` little-endian bytes of a number. -/
def natBytes : Nat → Nat → List Byte
  | 0, _ => []
  | n + 1, v => BitVec.ofNat 8 v :: natBytes n (v / 256)

/-! ### The written-page log (R388, R389) -/

/-- The log bit of a DPA. -/
def State.logFrame (s : State) (dpa : Nat) : Nat :=
  dpaChannel dpa * (s.channelLines / 1024) + dpaRow dpa / 1024

/-- Set an instance's log bit for a DPA while its log is on. -/
def State.logWrite (s : State) (i dpa : Nat) : State :=
  match s.inst i with
  | some x =>
    if x.logging then s.onHost fun h => { h with logBits := h.logBits.put (i * 2 ^ 25 + s.logFrame dpa) 1 } else s
  | none => s

/-- Set log bits for every 64 KiB frame of a page. -/
def State.logPage (s : State) (i frame size : Nat) : State :=
  (List.range (pageBytes size / 65536)).foldl (fun s k => s.logWrite i (frame + 65536 * k)) s

/-- Set log bits for a write into an object: the log of its owner, or of every logging instance of its partition. -/
def State.logObject (s : State) (o : MemObj) (dpa : Nat) : State :=
  match o.owner with
  | some i => s.logWrite i dpa
  | none => s.host.insts.keys.foldl (fun s i =>
      match s.inst i with
      | some x => if x.ptn = o.ptn then s.logWrite i dpa else s
      | none => s) s

end Sys2Proof.Machine
end

