-- ==== Sys2Proof/Machine/Operands.lean ====
section
/-! DEFINITION. Element formats of the tiles (R64, R65, R107, R108): exact values, decoding, rounding and packing. -/

namespace Sys2Proof.Machine

/-- A two's-complement value of `w` bits. -/
def signedOf (w v : Nat) : Int := if v < 2 ^ (w - 1) then v else (v : Int) - 2 ^ w

/-! ### Formats (R64) -/

/-- How a format spells infinities and NaNs. -/
inductive Specials where
  /-- Infinities and NaNs in the top exponent, as IEEE 754. -/
  | ieee
  /-- No infinity; one NaN with every bit below the sign set (FP8 E4M3). -/
  | nanOnly
  /-- Neither. -/
  | finite
  deriving DecidableEq, Repr

/-- A floating-point format. -/
structure Fmt where
  eb : Nat
  mb : Nat
  bias : Nat
  specials : Specials
  deriving DecidableEq, Repr

/-- FP32. -/
def Fmt.fp32 : Fmt := ⟨8, 23, 127, .ieee⟩
/-- BF16. -/
def Fmt.bf16 : Fmt := ⟨8, 7, 127, .ieee⟩
/-- FP16. -/
def Fmt.fp16 : Fmt := ⟨5, 10, 15, .ieee⟩
/-- FP8 E4M3. -/
def Fmt.e4m3 : Fmt := ⟨4, 3, 7, .nanOnly⟩
/-- FP8 E5M2. -/
def Fmt.e5m2 : Fmt := ⟨5, 2, 15, .ieee⟩
/-- FP6 E2M3. -/
def Fmt.e2m3 : Fmt := ⟨2, 3, 1, .finite⟩
/-- FP6 E3M2. -/
def Fmt.e3m2 : Fmt := ⟨3, 2, 3, .finite⟩
/-- FP4 E2M1. -/
def Fmt.e2m1 : Fmt := ⟨2, 1, 1, .finite⟩

/-- The floating-point format of a code (R107); none for INT8, INT32 and reserved codes. -/
def fmtOfCode (c : Nat) : Option Fmt :=
  match c with
  | 0 => some .fp32 | 1 => some .bf16 | 2 => some .fp16 | 3 => some .e4m3 | 4 => some .e5m2
  | 5 => some .e2m3 | 6 => some .e3m2 | 7 => some .e2m1
  | _ => none

/-- Bits of an element of a format code (R107); 0 for a reserved code. -/
def codeBits (c : Nat) : Nat := [32, 16, 16, 8, 8, 6, 6, 4, 8, 32].getD c 0

/-- Bits of a format. -/
def Fmt.width (f : Fmt) : Nat := 1 + f.eb + f.mb
/-- The sign bit of a format. -/
def Fmt.signBit (f : Fmt) : Nat := 2 ^ (f.eb + f.mb)
/-- The largest finite magnitude, as its bits. -/
def Fmt.maxFinite (f : Fmt) : Nat :=
  match f.specials with
  | .ieee => (2 ^ f.eb - 1) * 2 ^ f.mb - 1
  | .nanOnly => f.signBit - 2
  | .finite => f.signBit - 1
/-- The bits of +infinity of a format that has one. -/
def Fmt.infBits (f : Fmt) : Nat := (2 ^ f.eb - 1) * 2 ^ f.mb
/-- The canonical NaN (R70, R75, R78). -/
def Fmt.nanBits (f : Fmt) : Nat :=
  match f.specials with
  | .ieee => f.infBits + 2 ^ (f.mb - 1)
  | _ => f.signBit - 1

/-! ### Exact values -/

/-- An exact value: finite magnitudes are whole multiples of a unit that its user states. -/
inductive FVal where
  | nan
  | inf (neg : Bool)
  | fin (neg : Bool) (mag : Nat)
  deriving DecidableEq, Repr

/-- The exponent of the unit of decoded elements: 2^-150. -/
def unitExp : Nat := 150

/-- The value that bits spell in a format, in units of 2^-150. -/
def Fmt.decode (f : Fmt) (bits : Nat) : FVal :=
  let neg := decide (f.signBit ≤ bits % (2 * f.signBit))
  let body := bits % f.signBit
  let e := body / 2 ^ f.mb
  let m := body % 2 ^ f.mb
  let special := match f.specials with
    | .ieee => decide (e = 2 ^ f.eb - 1)
    | .nanOnly => decide (body = f.signBit - 1)
    | .finite => false
  if special then
    if f.specials = .ieee ∧ m = 0 then .inf neg else .nan
  else if e = 0 then .fin neg (m * 2 ^ (unitExp + 1 - f.bias - f.mb))
  else .fin neg ((2 ^ f.mb + m) * 2 ^ (unitExp + e - f.bias - f.mb))

/-- Whether bits spell a signaling NaN of an IEEE format. -/
def Fmt.signaling (f : Fmt) (bits : Nat) : Bool :=
  decide (f.decode bits = .nan) && decide (f.specials = .ieee) && decide (bits / 2 ^ (f.mb - 1) % 2 = 0)

/-- A quotient by a power of two, rounded to nearest with ties to even. -/
def rneShift (n k : Nat) : Nat :=
  let q := n / 2 ^ k
  let r := n % 2 ^ k
  if 2 * r > 2 ^ k ∨ (2 * r = 2 ^ k ∧ q % 2 = 1) then q + 1 else q

/-- The outcome of rounding a magnitude to a format with unbounded exponent range above: the magnitude's bits (at least
those of infinity on overflow), and whether it is inexact. -/
structure Rounded where
  bits : Nat
  inexact : Bool
  deriving DecidableEq, Repr

/-- Round a magnitude of `mag × 2^-u` to nearest with ties to even, subnormals kept (R69, R75, R78). -/
def Fmt.roundMag (f : Fmt) (mag u : Nat) : Rounded :=
  if mag = 0 then ⟨0, false⟩ else
  -- exponent of the quantum, moved up by u + bias + mb so that it is a natural number
  let e := Nat.log2 mag + f.bias
  let ex := max e (u + 1)
  -- shift = ex - bias - mb, of the magnitude in units of 2^-u
  if ex ≥ f.bias + f.mb then
    let sh := ex - f.bias - f.mb
    let n := rneShift mag sh
    ⟨(ex - u - 1) * 2 ^ f.mb + n, decide (mag % 2 ^ sh ≠ 0)⟩
  else
    ⟨(ex - u - 1) * 2 ^ f.mb + mag * 2 ^ (f.bias + f.mb - ex), false⟩

/-- Whether the rounded bits lie above the largest finite magnitude. -/
def Fmt.overflows (f : Fmt) (r : Rounded) : Bool := decide (r.bits > f.maxFinite)
/-- Whether the rounded bits are subnormal or zero. -/
def Fmt.tiny (f : Fmt) (r : Rounded) : Bool := decide (r.bits < 2 ^ f.mb)

/-- Bits with a sign. -/
def Fmt.signed (f : Fmt) (neg : Bool) (body : Nat) : Nat := if neg then f.signBit + body else body

/-! ### Narrowing (R75) -/

/-- What an out-of-range magnitude becomes under R75. -/
def Fmt.beyond (f : Fmt) (sat neg : Bool) : Nat :=
  if sat then f.signed neg f.maxFinite
  else match f.specials with
    | .ieee => f.signed neg f.infBits
    | .nanOnly => f.signed neg (f.signBit - 1)
    | .finite => f.signed neg f.maxFinite

/-- Convert a value (unit 2^-150) to a format under R75: the bits, and whether it overflowed or saturated. An infinite value counts
as an overflow with SAT = 0 too: the spec does not say (log entry 64, DESIGN CHOICE). -/
def Fmt.narrow (f : Fmt) (sat : Bool) (v : FVal) : Nat × Bool :=
  match v with
  | .nan => (f.nanBits, false)
  | .inf neg => (f.beyond sat neg, true)
  | .fin neg mag =>
    let r := f.roundMag mag unitExp
    if f.overflows r then (f.beyond sat neg, true) else (f.signed neg r.bits, false)

/-- Round to a format and saturate to the largest finite value (R82). -/
def Fmt.saturate (f : Fmt) (neg : Bool) (mag u : Nat) : Nat :=
  f.signed neg (min (f.roundMag mag u).bits f.maxFinite)

/-! ### Integers (R71, R79) -/

/-- The signed value of `w` bits. -/
def intOf (w bits : Nat) : Int :=
  let v := bits % 2 ^ w
  if v < 2 ^ (w - 1) then v else (v : Int) - 2 ^ w
/-- The bits of an integer. -/
def intBits (w : Nat) (v : Int) : Nat := (v % 2 ^ w).toNat
/-- Saturate an integer to `w` bits, and whether that changed it. -/
def intSat (w : Nat) (v : Int) : Int × Bool :=
  if v > 2 ^ (w - 1) - 1 then (2 ^ (w - 1) - 1, true)
  else if v < -(2 ^ (w - 1)) then (-(2 ^ (w - 1)), true) else (v, false)

/-- Convert a value (unit 2^-150) to an integer of `w` bits: nearest even, saturating; the bits and NV (R79). -/
def toInt (w : Nat) (v : FVal) : Nat × Bool :=
  match v with
  | .nan => (0, true)
  | .inf neg => (if neg then 2 ^ (w - 1) else 2 ^ (w - 1) - 1, true)
  | .fin neg mag =>
    let n : Int := rneShift mag unitExp
    let r := intSat w (if neg then -n else n)
    (intBits w r.1, r.2)

/-- Convert a signed integer to a format: nearest even (R79); INT32 and INT8 never overflow FP32. -/
def Fmt.ofInt (f : Fmt) (v : Int) : Nat := f.signed (decide (v < 0)) (f.roundMag v.natAbs 0).bits

/-! ### Packing (R108) -/

/-- Element `n` of a packed sequence, as bits of its little-endian image: 6-bit elements go four to three bytes and 4-bit
elements two to a byte, so every width packs from bit `n × width` upward. -/
def packedAt (image width n : Nat) : Nat := image / 2 ^ (width * n) % 2 ^ width
/-- Pack elements from the lowest byte upward. -/
def packAll (width : Nat) (l : List Nat) : Nat := l.foldr (fun x acc => x % 2 ^ width + 2 ^ width * acc) 0
/-- The lanes of a register, lane 0 first. -/
def lanesOf (r : BitVec 16384) : List Nat := (List.range 512).map fun l => packedAt r.toNat 32 l
/-- The register that lanes spell. -/
def ofLanes (l : List Nat) : BitVec 16384 := BitVec.ofNat 16384 (packAll 32 l)

end Sys2Proof.Machine
end

