-- ==== Sys2Proof/Machine/Flags.lean ====
section
/-! DEFINITION. Tile arithmetic with its flags: accumulation in a matrix tile (R69 to R72), vector arithmetic
(R78 to R82) and the transcendental unit (R83). -/

namespace Sys2Proof.Machine

/-! ### Matrix accumulation (R69 to R71) -/

/-- Scale a value by an E8M0 code (R65). -/
def FVal.scale (v : FVal) (code : Nat) : FVal :=
  if code = 255 then .nan
  else match v with
    | .fin neg mag => .fin neg (mag * 2 ^ code / 2 ^ 127)
    | w => w

/-- A product of two elements (unit 2^-300). -/
def FVal.mul (a b : FVal) : FVal :=
  match a, b with
  | .nan, _ => .nan
  | _, .nan => .nan
  | .inf s, .inf t => .inf (s != t)
  | .inf s, .fin t m => if m = 0 then .nan else .inf (s != t)
  | .fin t m, .inf s => if m = 0 then .nan else .inf (s != t)
  | .fin s m, .fin t n => .fin (s != t) (m * n)

/-- A finite value as a signed number of units. -/
def FVal.toInt : FVal → Int
  | .fin neg m => if neg then -(m : Int) else m
  | _ => 0

/-- The result of a cell update: its bits, ACC_INF and ACC_NAN (R93), or INT_SAT in `inf` for INT8. -/
structure CellOut where
  bits : Nat
  inf : Bool
  nan : Bool
  deriving DecidableEq, Repr

/-- Whether a value is an infinity of a sign. -/
def FVal.isInf (v : FVal) (neg : Bool) : Bool := decide (v = .inf neg)
/-- Whether a value is a negative zero. -/
def FVal.negZero (v : FVal) : Bool := decide (v = .fin true 0)

/-- One tick of FP32 accumulation of a cell: the exact sum of the cell and the products, rounded once (R69, R70). -/
def accumulate (cell : Nat) (products : List FVal) : CellOut :=
  if products = [] then ⟨cell, false, false⟩ else
  let c := Fmt.fp32.decode cell
  let pos := products.any (·.isInf false) || c.isInf false
  let neg := products.any (·.isInf true) || c.isInf true
  if products.any (fun v => decide (v = .nan)) || (pos && neg) then ⟨Fmt.fp32.nanBits, false, true⟩
  else if c = .nan then ⟨cell, false, false⟩
  else if pos then ⟨Fmt.fp32.infBits, false, false⟩
  else if neg then ⟨Fmt.fp32.signed true Fmt.fp32.infBits, false, false⟩
  else
    let sum : Int := c.toInt * 2 ^ unitExp + (products.map FVal.toInt).sum
    if sum = 0 then ⟨if c.negZero && products.all FVal.negZero then Fmt.fp32.signBit else 0, false, false⟩
    else
      let r := Fmt.fp32.roundMag sum.natAbs (2 * unitExp)
      if Fmt.fp32.overflows r then ⟨Fmt.fp32.signed (decide (sum < 0)) Fmt.fp32.infBits, true, false⟩
      else ⟨Fmt.fp32.signed (decide (sum < 0)) r.bits, false, false⟩

/-- One tick of INT8 accumulation of a cell, saturating (R71). -/
def accumulateInt (cell : Nat) (products : List Int) : CellOut :=
  let r := intSat 32 (intOf 32 cell + products.sum)
  ⟨intBits 32 r.1, r.2, false⟩

/-! ### Vector flags (R80) -/

/-- The sticky flags that an operation sets in VEC_STS. -/
structure VFlags where
  nv : Bool
  dz : Bool
  ovf : Bool
  unf : Bool
  deriving DecidableEq, Repr

/-- No flag. -/
def VFlags.zero : VFlags := ⟨false, false, false, false⟩
/-- The flags of either. -/
def VFlags.or (a b : VFlags) : VFlags := ⟨a.nv || b.nv, a.dz || b.dz, a.ovf || b.ovf, a.unf || b.unf⟩
/-- NV alone, where a condition holds. -/
def VFlags.invalid (b : Bool) : VFlags := ⟨b, false, false, false⟩

/-- Flags as bits: NV, DZ, OF, UF from bit 0. -/
def VFlags.bits (f : VFlags) : Nat :=
  (if f.nv then 1 else 0) + (if f.dz then 2 else 0) + (if f.ovf then 4 else 0) + if f.unf then 8 else 0

/-- Bits and flags. -/
abbrev VOut := Nat × VFlags

/-- Round a signed sum of units 2^-u to a format with IEEE overflow; `zneg` is the sign of an exact zero. -/
def Fmt.roundSum (f : Fmt) (sum : Int) (u : Nat) (zneg : Bool) : VOut :=
  if sum = 0 then (f.signed zneg 0, .zero) else
  let r := f.roundMag sum.natAbs u
  if f.overflows r then (f.signed (decide (sum < 0)) f.infBits, ⟨false, false, true, false⟩)
  else (f.signed (decide (sum < 0)) r.bits, ⟨false, false, false, r.inexact && f.tiny r⟩)

/-- Whether an operand is a signaling NaN, which sets NV. -/
def Fmt.anySignaling (f : Fmt) (l : List Nat) : VFlags := VFlags.invalid (l.any f.signaling)

/-- a × b + c of exact values, rounded once: values in units 2^-150, the product in units 2^-300. -/
def Fmt.mulAdd (f : Fmt) (a b c : FVal) : VOut :=
  let p := a.mul b
  let bad := decide (p = FVal.nan) && decide (a ≠ FVal.nan) && decide (b ≠ FVal.nan)
  match p, c with
  | .nan, _ => (f.nanBits, .invalid bad)
  | _, .nan => (f.nanBits, .zero)
  | .inf s, .inf t => if s = t then (f.signed s f.infBits, .zero) else (f.nanBits, .invalid true)
  | .inf s, _ => (f.signed s f.infBits, .zero)
  | _, .inf t => (f.signed t f.infBits, .zero)
  | .fin s m, .fin t n =>
    f.roundSum ((FVal.fin s m).toInt + (FVal.fin t n).toInt * 2 ^ unitExp) (2 * unitExp) (s && t && decide (m = 0 ∧ n = 0))

/-- Addition (R78). -/
def Fmt.add (f : Fmt) (a b : Nat) : VOut :=
  let r := match f.decode a, f.decode b with
    | .nan, _ => (f.nanBits, VFlags.zero)
    | _, .nan => (f.nanBits, .zero)
    | .inf s, .inf t => if s = t then (f.signed s f.infBits, .zero) else (f.nanBits, .invalid true)
    | .inf s, _ => (f.signed s f.infBits, .zero)
    | _, .inf t => (f.signed t f.infBits, .zero)
    | .fin s m, .fin t n =>
      f.roundSum ((FVal.fin s m).toInt + (FVal.fin t n).toInt) unitExp (s && t && decide (m = 0 ∧ n = 0))
  (r.1, r.2.or (f.anySignaling [a, b]))

/-- The sign bit changed. -/
def Fmt.negate (f : Fmt) (a : Nat) : Nat := if f.signBit ≤ a then a - f.signBit else a + f.signBit
/-- Subtraction (R78). -/
def Fmt.sub (f : Fmt) (a b : Nat) : VOut := f.add a (f.negate b)
/-- Multiplication (R78). -/
def Fmt.mul (f : Fmt) (a b : Nat) : VOut :=
  let x := f.decode a
  let y := f.decode b
  let r := match x.mul y with
    | .nan => (f.nanBits, VFlags.invalid (decide (x ≠ FVal.nan) && decide (y ≠ FVal.nan)))
    | .inf s => (f.signed s f.infBits, .zero)
    | .fin s m => f.roundSum ((FVal.fin s m).toInt) (2 * unitExp) s
  (r.1, r.2.or (f.anySignaling [a, b]))
/-- Fused multiply-add, rounded once (R78). -/
def Fmt.fma (f : Fmt) (a b c : Nat) : VOut :=
  let r := f.mulAdd (f.decode a) (f.decode b) (f.decode c)
  (r.1, r.2.or (f.anySignaling [a, b, c]))

/-- A key that orders the non-NaN bit patterns of a format, −0 below +0. -/
def Fmt.orderKey (f : Fmt) (a : Nat) : Int := if f.signBit ≤ a then -1 - ((a - f.signBit : Nat) : Int) else a
/-- IEEE 754-2019 minimum (R78). -/
def Fmt.minimum (f : Fmt) (a b : Nat) : VOut :=
  (if f.decode a = .nan ∨ f.decode b = .nan then f.nanBits else if f.orderKey a ≤ f.orderKey b then a else b,
    f.anySignaling [a, b])
/-- IEEE 754-2019 maximum (R78). -/
def Fmt.maximum (f : Fmt) (a b : Nat) : VOut :=
  (if f.decode a = .nan ∨ f.decode b = .nan then f.nanBits else if f.orderKey a ≤ f.orderKey b then b else a,
    f.anySignaling [a, b])

/-- An all-ones lane or zero. -/
def maskOf (b : Bool) : Nat := if b then 0xFFFFFFFF else 0

/-- A comparison of FP32 values: any NaN gives 0, and +0 equals −0 (R119). -/
def fcompare (test : Int → Int → Bool) (a b : Nat) : VOut :=
  let key := fun x => if x = Fmt.fp32.signBit then (0 : Int) else Fmt.fp32.orderKey x + (if Fmt.fp32.signBit ≤ x then 1 else 0)
  (maskOf (decide (Fmt.fp32.decode a ≠ .nan) && decide (Fmt.fp32.decode b ≠ .nan) && test (key a) (key b)),
    Fmt.fp32.anySignaling [a, b])

/-- Apply an operation to both BF16 elements of a lane (R77). -/
def perHalf (g : Nat → Nat → Nat → VOut) (a b c : Nat) : VOut :=
  let lo := g (a % 65536) (b % 65536) (c % 65536)
  let hi := g (a / 65536) (b / 65536) (c / 65536)
  (lo.1 + 65536 * hi.1, lo.2.or hi.2)

/-- A narrowing conversion from FP32 with the flags of R80. -/
def narrowLane (f : Fmt) (sat : Bool) (a : Nat) : VOut :=
  let v := Fmt.fp32.decode a
  let r := f.narrow sat v
  let fl : VFlags := match v with
    | .fin _ mag =>
      let x := f.roundMag mag unitExp
      ⟨false, false, f.overflows x, x.inexact && f.tiny x⟩
    | _ => .zero
  (r.1, fl.or (Fmt.fp32.anySignaling [a]))

/-- A widening conversion to FP32, exact (R121). -/
def widenLane (f : Fmt) (a : Nat) : VOut :=
  let r := match f.decode a with
    | .nan => Fmt.fp32.nanBits
    | .inf neg => Fmt.fp32.signed neg Fmt.fp32.infBits
    | .fin neg mag => Fmt.fp32.signed neg (Fmt.fp32.roundMag mag unitExp).bits
  (r, f.anySignaling [a])

/-! ### Reductions (R81) -/

/-- One level: combine adjacent pairs. -/
def reduceLevel (g : Nat → Nat → VOut) : List Nat → List Nat × VFlags
  | a :: b :: rest =>
    let x := g a b
    let y := reduceLevel g rest
    (x.1 :: y.1, x.2.or y.2)
  | l => (l, .zero)
/-- `n` levels. -/
def reduceLevels (g : Nat → Nat → VOut) : Nat → List Nat → List Nat × VFlags
  | 0, l => (l, .zero)
  | n + 1, l =>
    let x := reduceLevel g l
    let y := reduceLevels g n x.1
    (y.1, x.2.or y.2)

/-! ### MX quantisation (R82) -/

/-- E of a format. -/
def mxE (code : Nat) : Int := if code = 5 ∨ code = 7 then 2 else if code = 6 then 4 else if code = 3 then 8 else 15

/-- Quantise a block of FP32 lanes: the scale code and the elements. -/
def mxBlock (code : Nat) (f : Fmt) (lanes : List Nat) : Nat × List Nat :=
  let vs := lanes.map Fmt.fp32.decode
  let bad := vs.any fun v => match v with | .fin _ _ => false | _ => true
  if bad then (0xFF, lanes.map fun _ => 0) else
  let mags := vs.map fun v => match v with | .fin _ m => m | _ => 0
  let a := mags.foldl max 0
  if a = 0 then (0, lanes.map fun _ => 0) else
  let x0 : Int := (Nat.log2 a : Int) - unitExp - mxE code
  let x := max (-127) (min 127 x0)
  (intBits 8 (x + 127), vs.map fun v => match v with
    -- mag × 2^(-150 - x), written over the unit 2^-(150 + 127)
    | .fin neg m => f.saturate neg (m * 2 ^ ((127 - x).toNat)) (unitExp + 127)
    | _ => 0)

/-! ### The transcendental unit (R83)

Between its exact special values the spec states a bound on each result and no more, so the result is a free value
(`Config.transcendental`) that is taken where it meets the bound and replaced by the correctly truncated value where it does
not. The bound is judged against a fixed-point evaluation whose own error `slack` widens it. -/

/-- Fraction bits of the fixed-point evaluation. -/
def fx : Nat := 256
/-- One. -/
def fxOne : Nat := 2 ^ fx
/-- ln 2 in fixed point, by the series Σ 1 / (k 2^k). -/
def fxLn2 : Nat := ((List.range 270).map fun k => fxOne / ((k + 1) * 2 ^ (k + 1))).sum
/-- e^r for 0 ≤ r < 1 in fixed point, by its Taylor series: next term, index, terms left. -/
def expSeries (r : Nat) : Nat → Nat → Nat → Nat
  | 0, _, _ => 0
  | n + 1, k, term => term + expSeries r n (k + 1) (term * r / fxOne / (k + 1))
/-- e^x for a signed fixed-point x, as a mantissa with `fx` fraction bits and a power of two. -/
def fxExp (x : Int) : Nat × Int :=
  let k := x / (fxLn2 : Int)
  (expSeries (x - k * fxLn2).toNat 80 0 fxOne, k)
/-- The series Σ z^(2k+1) / (2k + 1) of artanh. -/
def atanhSeries (z2 : Nat) : Nat → Nat → Nat → Nat
  | 0, _, _ => 0
  | n + 1, k, p => p / (2 * k + 1) + atanhSeries z2 n (k + 1) (p * z2 / fxOne)
/-- ln of m / 2^t for 2^t ≤ m < 2^(t+1), in fixed point. -/
def fxLnMantissa (m t : Nat) : Nat :=
  let z := (m - 2 ^ t) * fxOne / (m + 2 ^ t)
  2 * atanhSeries (z * z / fxOne) 100 0 z

/-- An exact or approximate real as a signed fixed-point number in units of 2^-400. -/
def fineExp : Nat := 400
/-- A mantissa with `fx` fraction bits times 2^k, in units of 2^-400. -/
def fine (m : Nat) (k : Int) : Int :=
  let sh : Int := k + fineExp - fx
  if 0 ≤ sh then m * 2 ^ sh.toNat else m / 2 ^ (-sh).toNat

/-- The ulp of FP32 at a magnitude in units of 2^-400, in the same units. -/
def ulpAt (mag : Nat) : Nat := 2 ^ (max (Nat.log2 mag) (fineExp - 126) - 23)
/-- The value of FP32 bits in units of 2^-400, if finite. -/
def fineOf (bits : Nat) : Option Int :=
  match Fmt.fp32.decode bits with
  | .fin neg m => some ((if neg then -(m : Int) else m) * 2 ^ (fineExp - unitExp))
  | _ => none
/-- The nearest FP32 bits of a value in units of 2^-400, with overflow to infinity. -/
def fineBits (v : Int) (zneg : Bool) : Nat := (Fmt.fp32.roundSum v fineExp zneg).1

/-- The error of the fixed-point evaluation, in units of 2^-400, for a magnitude. -/
def slack (mag : Nat) : Nat := mag / 2 ^ 100 + 2 ^ 160

/-- The free result where it lies within `bound` of the exact value `v` (units 2^-400), else the nearest value. A result
whose exact magnitude is below 2^-126 is zero and sets UF; one above the range is infinite and sets OF (R83). An exactly zero
result sets no UF: the spec does not say (log entry 64, DESIGN CHOICE). -/
def boundedResult (op a : Nat) (v : Int) (bound : Nat) (zneg : Bool) : VOut :=
  if v.natAbs < 2 ^ (fineExp - 126) then (Fmt.fp32.signed zneg 0, ⟨false, false, false, decide (v ≠ 0)⟩)
  else
    let near := Fmt.fp32.roundSum v fineExp zneg
    if near.2.ovf then near
    else
      let free := (Config.transcendental op (BitVec.ofNat 32 a)).toNat
      match fineOf free with
      | some w => if (w - v).natAbs ≤ bound + slack v.natAbs then (free, .zero) else (near.1, .zero)
      | none => (near.1, .zero)

/-- EXP (R83). -/
def vexp (a : Nat) : VOut :=
  match Fmt.fp32.decode a with
  | .nan => (Fmt.fp32.nanBits, Fmt.fp32.anySignaling [a])
  | .inf neg => (if neg then 0 else Fmt.fp32.infBits, .zero)
  | .fin neg m =>
    if m = 0 then boundedResult 1 a (2 ^ fineExp) (2 * ulpAt (2 ^ fineExp)) false
    else if m ≥ 2 ^ (unitExp + 8) then
      if neg then (0, ⟨false, false, false, true⟩) else (Fmt.fp32.infBits, ⟨false, false, true, false⟩)
    else
      let e := fxExp ((FVal.fin neg m).toInt * 2 ^ (fx - unitExp))
      let v := fine e.1 e.2
      boundedResult 1 a v (2 * ulpAt v.natAbs) false

/-- ln of a finite positive FP32 magnitude (units 2^-150), in units of 2^-400. -/
def fineLn (m : Nat) : Int :=
  let t := Nat.log2 m
  let k : Int := (t : Int) - unitExp
  fine (fxLnMantissa m t) 0 + k * fine fxLn2 0

/-- LOG (R83). -/
def vlog (a : Nat) : VOut :=
  match Fmt.fp32.decode a with
  | .nan => (Fmt.fp32.nanBits, Fmt.fp32.anySignaling [a])
  | .inf neg => if neg then (Fmt.fp32.nanBits, .invalid true) else (Fmt.fp32.infBits, .zero)
  | .fin neg m =>
    if m = 0 then (Fmt.fp32.signed true Fmt.fp32.infBits, ⟨false, true, false, false⟩)
    else if neg then (Fmt.fp32.nanBits, .invalid true)
    else
      let v := fineLn m
      let near := 2 ^ (unitExp - 1) ≤ m ∧ m ≤ 2 ^ (unitExp + 1)
      let b := 2 * ulpAt v.natAbs
      if m = 2 ^ unitExp then (0, .zero)
      else boundedResult 2 a v (if near then min b (2 ^ (fineExp - 21)) else b) (decide (v < 0))

/-- RCP (R83). -/
def vrcp (a : Nat) : VOut :=
  match Fmt.fp32.decode a with
  | .nan => (Fmt.fp32.nanBits, Fmt.fp32.anySignaling [a])
  | .inf neg => (Fmt.fp32.signed neg 0, .zero)
  | .fin neg m =>
    if m = 0 then (Fmt.fp32.signed neg Fmt.fp32.infBits, ⟨false, true, false, false⟩)
    else
      let v : Int := (2 ^ (fineExp + unitExp) / m : Nat)
      boundedResult 3 a (if neg then -v else v) (ulpAt v.natAbs) neg

/-- RSQRT (R83). -/
def vrsqrt (a : Nat) : VOut :=
  match Fmt.fp32.decode a with
  | .nan => (Fmt.fp32.nanBits, Fmt.fp32.anySignaling [a])
  | .inf neg => if neg then (Fmt.fp32.nanBits, .invalid true) else (0, .zero)
  | .fin neg m =>
    if m = 0 then (Fmt.fp32.signed neg Fmt.fp32.infBits, ⟨false, true, false, false⟩)
    else if neg then (Fmt.fp32.nanBits, .invalid true)
    else
      let v := Nat.sqrt (2 ^ (2 * fineExp + unitExp) / m)
      boundedResult 4 a v (ulpAt v) false

/-- 1 / (1 + e^-x) in units of 2^-400, for |x| below 256. -/
def fineSigmoid (x : Int) : Int :=
  let e := fxExp (-x)
  let d := (2 ^ fineExp : Int) + fine e.1 e.2
  2 ^ (2 * fineExp) / d

/-- SIGMOID (R83): an absolute error bound. -/
def vsigmoid (a : Nat) : VOut :=
  match Fmt.fp32.decode a with
  | .nan => (Fmt.fp32.nanBits, Fmt.fp32.anySignaling [a])
  | .inf neg => (if neg then 0 else 0x3F800000, .zero)
  | .fin neg m =>
    if m ≥ 2 ^ (unitExp + 8) then
      if neg then (0, ⟨false, false, false, true⟩) else boundedResult 5 a (2 ^ fineExp) (2 ^ (fineExp - 22)) false
    else boundedResult 5 a (fineSigmoid ((FVal.fin neg m).toInt * 2 ^ (fx - unitExp))) (2 ^ (fineExp - 22)) false

/-- TANH (R83): tanh x = 2 sigmoid(2x) − 1. -/
def vtanh (a : Nat) : VOut :=
  match Fmt.fp32.decode a with
  | .nan => (Fmt.fp32.nanBits, Fmt.fp32.anySignaling [a])
  | .inf neg => (Fmt.fp32.signed neg 0x3F800000, .zero)
  | .fin neg m =>
    if m = 0 then (a, .zero)
    else if m ≥ 2 ^ (unitExp + 7) then boundedResult 6 a (if neg then -2 ^ fineExp else 2 ^ fineExp) (2 ^ (fineExp - 22)) neg
    -- below 2^-51 the cube of x is under the slack: tanh x is x
    else if m < 2 ^ (unitExp - 51) then boundedResult 6 a ((FVal.fin neg m).toInt * 2 ^ (fineExp - unitExp)) (2 ^ (fineExp - 22)) neg
    else boundedResult 6 a (2 * fineSigmoid ((FVal.fin neg m).toInt * 2 ^ (fx - unitExp + 1)) - 2 ^ fineExp)
      (2 ^ (fineExp - 22)) neg

/-- SILU (R83): the SIGMOID result multiplied by x and rounded once; magnitudes below 2^-126 are zero. -/
def vsilu (a : Nat) : VOut :=
  match Fmt.fp32.decode a with
  | .nan => (Fmt.fp32.nanBits, Fmt.fp32.anySignaling [a])
  | .inf neg => if neg then (Fmt.fp32.signBit, .zero) else (Fmt.fp32.infBits, .zero)
  | .fin neg m =>
    let sg := vsigmoid a
    match Fmt.fp32.decode sg.1 with
    | .fin sneg n =>
      if m * n < 2 ^ (2 * unitExp - 126) then
        (Fmt.fp32.signed (neg != sneg) 0, ⟨false, false, false, decide (m * n ≠ 0) || sg.2.unf⟩)
      else
        let r := Fmt.fp32.roundSum (FVal.fin (neg != sneg) (m * n)).toInt (2 * unitExp) (neg != sneg)
        (r.1, r.2.or sg.2)
    | _ => (Fmt.fp32.nanBits, .zero)

end Sys2Proof.Machine
end

