-- ==== Sys2Proof/Machine/TileEngine.lean ====
section
/-! DEFINITION. The tile engine: storage, the accesses of operations in flight tick by tick, bank conflicts, writes and
accumulation, and bundle sequencing (R61, R99 to R106, R110 to R117, R124 to R127). -/

namespace Sys2Proof.Machine

/-! ### Tiles and their storage -/

/-- A tile. -/
def State.tile (s : State) (sl ti : Nat) : Tile := s.tiles.getD (8 * sl + ti) Tile.reset
/-- Write a tile. -/
def State.setTile (s : State) (sl ti : Nat) (t : Tile) : State :=
  { s with tiles := s.tiles.putD (8 * sl + ti) Tile.reset t }
/-- The cluster store of a slice. -/
def State.cluster (s : State) (sl : Nat) : ClusterStore := s.clusters.getD sl ClusterStore.reset
/-- Write a cluster store. -/
def State.setCluster (s : State) (sl : Nat) (c : ClusterStore) : State :=
  { s with clusters := s.clusters.putD sl ClusterStore.reset c }

/-- A graver tile: 6 or 7. -/
def isGraver (ti : Nat) : Bool := decide (6 ≤ ti)
/-- Lines of a tile's SRAM (R102). -/
def sramLines (ti : Nat) : Nat := if isGraver ti then 32768 else 65536
/-- Lines of the cluster store (R102). -/
def csLines : Nat := 98304
/-- Where storage lies, for the values of unwritten storage: kind 0 SRAM, 1 accumulator, 2 register, 3 cluster store. -/
def placeOf (kind sl ti n : Nat) : Nat := ((kind * 64 + sl) * 16 + ti) * 2 ^ 20 + n

/-- What unlisted storage holds: zero after zeroising (R444, R477, R491), else undefined (R63). -/
def unwritten (fill place : Nat) : BitVec 16384 := if fill = 0 then 0 else Config.garbageStore fill place

/-- An SRAM line. -/
def Tile.sramAt (t : Tile) (sl ti l : Nat) : Line :=
  t.sram.getD l ((unwritten t.fill (placeOf 0 sl ti l)).setWidth 512)
/-- An accumulator row. -/
def Tile.accAt (t : Tile) (sl ti bank row : Nat) : AccRow :=
  t.acc.getD (128 * bank + row) ((unwritten t.fillRegs (placeOf 1 sl ti (128 * bank + row))).setWidth 4096)
/-- A vector register. -/
def Tile.vregAt (t : Tile) (sl ti r : Nat) : VReg :=
  t.vregs.getD r (unwritten t.fillRegs (placeOf 2 sl ti r))
/-- A cluster-store line. -/
def ClusterStore.at (c : ClusterStore) (sl l : Nat) : CsLine :=
  c.lines.getD l ((unwritten c.fill (placeOf 3 sl 0 l)).setWidth 2048)
/-- An address register. -/
def Tile.ar (t : Tile) (r : Nat) : AddrReg := t.ars.getD r ⟨0, 0⟩

/-! ### MMA operands (R67, R110, R111) -/

/-- K steps per tick of a format code, as numerator and denominator (R67). -/
def codeRate (c : Nat) : Nat × Nat :=
  if 5 ≤ c ∧ c ≤ 7 then (2, 1) else if c = 3 ∨ c = 4 ∨ c = 8 then (1, 1) else if c = 0 then (1, 8) else (1, 2)
/-- κ of an MMA (R67): the slower format's row, doubled when sparse. -/
def mmaRate (f : MmaSlot) : Nat × Nat :=
  let a := codeRate f.fmtA.toNat
  let b := codeRate f.fmtB.toNat
  let r := if a.1 * b.2 ≤ b.1 * a.2 then a else b
  (if f.sparse then 2 * r.1 else r.1, r.2)
/-- Issue ticks of an MMA. -/
def mmaTicks (f : MmaSlot) : Nat := ceilDiv (f.k.toNat * (mmaRate f).2) (mmaRate f).1
/-- The tick, from its first, at which K step `k` is needed. -/
def mmaNeeded (f : MmaSlot) (k : Nat) : Nat := k * (mmaRate f).2 / (mmaRate f).1
/-- The tick in which the product of K step `k` is completed (R69): the last tick of the step. -/
def mmaCompleted (f : MmaSlot) (k : Nat) : Nat := if (mmaRate f).1 = 1 then (k + 1) * (mmaRate f).2 - 1 else k / (mmaRate f).1

/-- Layout of an operand (R110). -/
structure OperandLayout where
  bits : Nat
  mx : Bool
  sparse : Bool
  deriving DecidableEq, Repr

/-- Bytes of a K step. -/
def OperandLayout.stepBytes (o : OperandLayout) : Nat := 16 * o.bits
/-- Bytes of four K steps of a sparse operand. -/
def OperandLayout.groupBytes (o : OperandLayout) : Nat := 64 + 2 * o.stepBytes
/-- Bytes of an MX block. -/
def OperandLayout.blockBytes (o : OperandLayout) : Nat :=
  128 + if o.sparse then 8 * o.groupBytes else 32 * o.stepBytes
/-- Byte offset of K step `k` of a dense operand, or of the group that holds it of a sparse one. -/
def OperandLayout.offset (o : OperandLayout) (k : Nat) : Nat :=
  if o.sparse then
    if o.mx then k / 32 * o.blockBytes + 128 + k % 32 / 4 * o.groupBytes else k / 4 * o.groupBytes
  else if o.mx then k / 32 * o.blockBytes + 128 + k % 32 * o.stepBytes else k * o.stepBytes
/-- Bytes of an operand of `k` K steps. -/
def OperandLayout.total (o : OperandLayout) (k : Nat) : Nat :=
  if o.mx then ceilDiv k 32 * o.blockBytes
  else if o.sparse then ceilDiv k 4 * o.groupBytes else k * o.stepBytes
/-- The K step whose item holds a byte: the scales of a block count as its first step, and a group as its first step. -/
def OperandLayout.stepOf (o : OperandLayout) (byte : Nat) : Nat :=
  if o.mx then
    let q := byte / o.blockBytes
    let r := byte % o.blockBytes
    if r < 128 then 32 * q
    else if o.sparse then 32 * q + 4 * ((r - 128) / o.groupBytes) else 32 * q + (r - 128) / o.stepBytes
  else if o.sparse then 4 * (byte / o.groupBytes) else byte / o.stepBytes

/-- The layout of A. -/
def mmaLayoutA (f : MmaSlot) : OperandLayout := ⟨codeBits f.fmtA.toNat, f.mxA, f.sparse⟩
/-- The layout of B. -/
def mmaLayoutB (f : MmaSlot) : OperandLayout := ⟨codeBits f.fmtB.toNat, f.mxB, false⟩

/-- The lines of an operand that are read in tick `j`: each line in the tick at which the item that holds its first byte
is needed (R111). -/
def mmaLinesAt (f : MmaSlot) (o : OperandLayout) (j : Nat) : List Nat :=
  (List.range (ceilDiv (o.total f.k.toNat) 64)).filter fun l => mmaNeeded f (o.stepOf (64 * l)) == j

/-- Bits of an operand from the lines read of it. -/
def operandBits (lines : FMap Line) (missing : Line) (pos width : Nat) : Nat :=
  ((lines.getD (pos / 512) missing).toNat + 2 ^ 512 * (lines.getD (pos / 512 + 1) missing).toNat) /
    2 ^ (pos % 512) % 2 ^ width

/-- The value of element `n` at byte offset `off`, scaled by its block's code where the operand is in MX form. -/
def elementValue (o : OperandLayout) (code : Nat) (lines : FMap Line) (missing : Line) (k off n : Nat) : FVal :=
  let v := match fmtOfCode code with
    | some f => f.decode (operandBits lines missing (8 * off + o.bits * n) o.bits)
    | none => .nan
  if o.mx then v.scale (operandBits lines missing (8 * (k / 32 * o.blockBytes + n)) 8) else v

/-- The products that complete in tick `j` for cell (i, c) (R66, R73, R112). A sparse product takes the tick of the row 4g + p that
its index selects, and the last tick where the row is past K: the spec does not give its tick (R111; log entry 64, DESIGN
CHOICE). -/
def mmaProducts (f : MmaSlot) (la lb : FMap Line) (missing : Line) (j i c : Nat) : List FVal :=
  let oa := (mmaLayoutA f)
  let ob := (mmaLayoutB f)
  let bAt := fun k =>
    if k < f.k.toNat then elementValue ob f.fmtB.toNat lb missing k (ob.offset k) c else .fin false 0
  if f.sparse then
    (List.range (ceilDiv f.k.toNat 4)).flatMap fun g =>
      let off := oa.offset (4 * g)
      let nib := operandBits la missing (8 * off + 4 * i) 4
      ([0, 1].filter fun v =>
        min ((mmaTicks f) - 1) (mmaCompleted f (4 * g + nib / 4 ^ v % 4)) == j).map fun v =>
          (elementValue oa f.fmtA.toNat la missing (4 * g) (off + 64 + v * oa.stepBytes) i).mul (bAt (4 * g + nib / 4 ^ v % 4))
  else
    ((List.range f.k.toNat).filter fun k => mmaCompleted f k == j).map fun k =>
      (elementValue oa f.fmtA.toNat la missing k (oa.offset k) i).mul (bAt k)

/-- The same for INT8 operands. -/
def mmaIntProducts (f : MmaSlot) (la lb : FMap Line) (missing : Line) (j i c : Nat) : List Int :=
  ((List.range f.k.toNat).filter fun k => mmaCompleted f k == j).map fun k =>
    intOf 8 (operandBits la missing (8 * (128 * k + i)) 8) * intOf 8 (operandBits lb missing (8 * (128 * k + c)) 8)

/-! ### Accumulator rows in SRAM (R114, R115) -/

/-- Rows moved in a tick: ρ. -/
def rowsPerTick (code : Nat) : Nat := 32 / codeBits code
/-- Ticks of a LOAD or STORE. -/
def accTicks (code : Nat) : Nat := 128 / rowsPerTick code
/-- The cells of a row. -/
def cellsOf (r : AccRow) : List Nat := (List.range 128).map fun c => packedAt r.toNat 32 c
/-- A row of cells. -/
def ofCells (l : List Nat) : AccRow := BitVec.ofNat 4096 (packAll 32 l)

/-- Convert a cell on a store (R75): its bits and OUT_SAT. -/
def storeCell (int : Bool) (code : Nat) (sat : Bool) (cell : Nat) : Nat × Bool :=
  if int then if code = 9 then (cell, false) else (Fmt.fp32.ofInt (intOf 32 cell), false)
  else match fmtOfCode code with
    | some f => f.narrow sat (Fmt.fp32.decode cell)
    | none => (cell, false)

/-- Widen a cell on a load. -/
def loadCell (code bits : Nat) : Nat := if code = 1 then bits * 65536 else bits

/-! ### Accesses of a tick -/

/-- A read or write of a tile's tick: the storage (0 SRAM, 1 cluster store), the line, the operand (0 A or only, 1 B) and
number under which a read is kept, the data of a write, and the operation that makes it (its position in `ops`). -/
structure TileAccess where
  store : Bool
  line : Nat
  write : Bool
  operand : Nat
  key : Nat
  data : CsLine
  opIdx : Nat
  slot : Nat
  bundle : Nat
  deriving DecidableEq, Repr

/-- The bank of an access (R102). -/
def TileAccess.bank (a : TileAccess) : Nat := if a.store then a.line % 24 else a.line % 16

/-- The SRAM and cluster-store accesses of an operation in its tick `j`. -/
def TileOp.accesses (o : TileOp) (ti idx j : Nat) : List TileAccess :=
  let n := sramLines ti
  let rd := fun (line operand key : Nat) => (⟨false, line % n, false, operand, key, 0, idx, o.slot, o.bundle⟩ : TileAccess)
  let wr := fun (line : Nat) (data : Line) =>
    (⟨false, line % n, true, 0, 0, data.setWidth 2048, idx, o.slot, o.bundle⟩ : TileAccess)
  match o.kind with
  | .mma f a b _ _ =>
    if j < o.issue then
      (mmaLinesAt f (mmaLayoutA f) j).map (fun l => rd (a + l) 0 l) ++ (mmaLinesAt f (mmaLayoutB f) j).map (fun l => rd (b + l) 1 l)
    else []
  | .clear _ _ => []
  | .load _ _ line _ => if j < o.issue then (List.range 8).map fun c => rd (line + 8 * j + c) 0 (8 * j + c) else []
  | .store _ _ _ line rows =>
    if 7 ≤ j ∧ j - 7 < o.issue then
      (List.range 8).map fun c => wr (line + 8 * (j - 7) + c) (rows.getD (8 * (j - 7) + c) 0)
    else []
  | .toCs t c len buf =>
    (if j < len then (List.range 4).map fun k => rd (t + 4 * j + k) 0 (4 * j + k) else []) ++
    (if 7 ≤ j ∧ j - 7 < len then
      [⟨true, c + (j - 7), true, 0, 0, buf.getD (j - 7) 0, idx, o.slot, o.bundle⟩] else [])
  | .fromCs t c len buf =>
    (if j < len then [⟨true, c + j, false, 0, j, 0, idx, o.slot, o.bundle⟩] else []) ++
    (if 7 ≤ j ∧ j - 7 < len then
      (List.range 4).map fun k => wr (t + 4 * (j - 7) + k) ((buf.getD (j - 7) 0 >>> (512 * k)).setWidth 512) else [])
  | .vec _ _ _ => []
  | .ld _ line _ => if j < 2 then (List.range 16).map fun k => rd (line + 16 * j + k) 0 (16 * j + k) else []
  | .st line data =>
    if j = 5 ∨ j = 6 then
      (List.range 16).map fun k => wr (line + 16 * (j - 5) + k) ((data >>> (512 * (16 * (j - 5) + k))).setWidth 512)
    else []

/-- Keep a line that an operation has read. -/
def TileOp.keepRead (o : TileOp) (a : TileAccess) (v : CsLine) : TileOp :=
  let l : Line := v.setWidth 512
  { o with kind := match o.kind with
    | .mma f x y la lb => if a.operand = 0 then .mma f x y (la.put a.key l) lb else .mma f x y la (lb.put a.key l)
    | .load b f x ls => .load b f x (ls.put a.key l)
    | .toCs t c n ls =>
      .toCs t c n (ls.put (a.key / 4) (ls.getD (a.key / 4) 0 ||| (v.setWidth 512).setWidth 2048 <<< (512 * (a.key % 4))))
    | .fromCs t c n ls => .fromCs t c n (ls.put a.key v)
    | .ld r x ls => .ld r x (ls.put a.key l)
    | k => k }

/-- Change the operation at a position. -/
def changeAt {α : Type} (l : List α) (n : Nat) (f : α → α) : List α :=
  match l, n with
  | [], _ => []
  | x :: rest, 0 => f x :: rest
  | x :: rest, n + 1 => x :: changeAt rest n f

/-! ### Faults of a tile (R130, R131) -/

/-- CAUSE codes of R131. -/
def Bf.illegal : Nat := 1
/-- UNIT_BUSY. -/
def Bf.unitBusy : Nat := 2
/-- BANK_CONFLICT. -/
def Bf.bankConflict : Nat := 3
/-- REG_COLLISION. -/
def Bf.regCollision : Nat := 4
/-- MODE_MISMATCH. -/
def Bf.modeMismatch : Nat := 5
/-- ADDR_RANGE. -/
def Bf.addrRange : Nat := 6

/-- The key of an anvil tile's MTX registers. -/
def mtxKey (sl ti : Nat) : Nat := 6 * sl + ti
/-- The key of a graver tile's VEC page. -/
def vecKey (sl ti : Nat) : Nat := 2 * sl + (ti - 6)

/-- Record a bundle fault: the first since VALID was cleared, and the status bit (R130, R131). -/
def State.bundleFault (s : State) (sl ti slot bundle cause : Nat) : State :=
  if isGraver ti then
    let k := vecKey sl ti
    let s := if cause = Bf.bankConflict then s.raise Reg.vecStsBankConflict k else s
    if s.flag Reg.vecBfaultValid k then s else
      (((s.raise Reg.vecBfaultValid k).set Reg.vecBfaultBundle k bundle).set Reg.vecBfaultSlot k slot).set
        Reg.vecBfaultCause k cause
  else
    let k := mtxKey sl ti
    let s := if cause = Bf.bankConflict then s.raise Reg.mtxStsBankConflict k
      else if cause = Bf.modeMismatch then s.raise Reg.mtxStsModeMismatch k else s
    if s.flag Reg.mtxBfaultValid k then s else
      (((s.raise Reg.mtxBfaultValid k).set Reg.mtxBfaultBundle k bundle).set Reg.mtxBfaultSlot k slot).set
        Reg.mtxBfaultCause k cause

/-- Set the sticky flags of a vector operation (R80). -/
def State.vecFlags (s : State) (sl ti flags : Nat) : State :=
  let k := vecKey sl ti
  let s := if flags.testBit 0 then s.raise Reg.vecStsNv k else s
  let s := if flags.testBit 1 then s.raise Reg.vecStsDz k else s
  let s := if flags.testBit 2 then s.raise Reg.vecStsOf k else s
  if flags.testBit 3 then s.raise Reg.vecStsUf k else s

/-! ### One tick -/

/-- Pairs of an operation list with positions. -/
def withIdx {α : Type} (l : List α) : List (Nat × α) := (List.range l.length).zip l

/-- Register results due at the end of a tick. -/
def TileOp.results (o : TileOp) (tick : Nat) : List (Nat × VReg × Nat × Nat) :=
  match o.kind with
  | .vec due ws _ => if due = tick then ws.map fun w => (w.1, w.2, o.slot, o.bundle) else []
  | .ld r _ ls =>
    if o.t0 + 6 = tick then
      [(r, (List.range 32).foldr (fun k acc => acc <<< 512 ||| (ls.getD k 0).setWidth 16384) 0, o.slot, o.bundle)]
    else []
  | _ => []

/-- The rows that a STORE reads in its tick `j`, as SRAM lines, with OUT_SAT. -/
def storeRows (t : Tile) (sl ti bank code : Nat) (sat : Bool) (j : Nat) : List (Nat × Line) × Bool :=
  let r := rowsPerTick code
  let cells := (List.range r).flatMap fun k => cellsOf (t.accAt sl ti bank (r * j + k))
  let outs := cells.map (storeCell (t.intMode.contains bank) code sat)
  let image := packAll (codeBits code) (outs.map Prod.fst)
  ((List.range 8).map fun c => (8 * j + c, BitVec.ofNat 512 (image / 2 ^ (512 * c))), outs.any Prod.snd)

/-- Accumulator writes of a tick: rows that a LOAD writes. -/
def loadRows (code j : Nat) (lines : FMap Line) (missing : Line) : List (Nat × AccRow) :=
  let r := rowsPerTick code
  (List.range r).map fun k =>
    (r * j + k, ofCells ((List.range 128).map fun c =>
      loadCell code (operandBits lines missing (4096 * j + (128 * k + c) * codeBits code) (codeBits code))))

/-- An access of a bank in a tick, as R61 counts it: the endpoint (0 to 7 the tiles' SRAM, 8 the cluster store) and its bank,
and the tile that makes it (8 for the router's local port), with the tick in which its operation issued, the slot and the
bundle: 7 is a bundle fetch, 6 the local port (R131). -/
structure BankUse where
  endpoint : Nat
  bank : Nat
  tile : Nat
  issued : Nat
  slot : Nat
  bundle : Nat
  deriving DecidableEq, Repr

/-- Whether two accesses or more reach a bank. -/
def clashes (us : List BankUse) (endpoint bank : Nat) : Bool :=
  decide (2 ≤ (us.filter fun u => decide (u.endpoint = endpoint ∧ u.bank = bank)).length)
/-- The access that a record names: the earlier-issued operation, then the lower slot (R131). -/
def firstUse : List BankUse → Option BankUse
  | [] => none
  | u :: rest =>
    match firstUse rest with
    | none => some u
    | some v => if v.issued < u.issued ∨ v.issued = u.issued ∧ v.slot < u.slot then some v else some u

/-- The bundle fetches of a tile in a tick: that of the bundle which issues in it. -/
def Tile.fetches (t : Tile) (fetchOf : Tile → List (Nat × Nat)) (tick : Nat) : List (Nat × Nat) :=
  if t.busy ∧ ¬ t.ended ∧ t.ctl.isSome ∧ t.tick = tick then fetchOf t else []
/-- Every SRAM and cluster-store access of a tile in a tick. -/
def Tile.accesses (t : Tile) (ti tick : Nat) (fetches : List (Nat × Nat)) : List TileAccess :=
  (fetches.map fun f => (⟨false, f.2, false, 2, 0, 0, 0, 7, f.1⟩ : TileAccess)) ++
    (withIdx t.ops).flatMap fun io => if tick ≥ io.2.t0 then io.2.accesses ti io.1 (tick - io.2.t0) else []
/-- A tile's access as R61 counts it. -/
def TileAccess.use (a : TileAccess) (t : Tile) (ti tick : Nat) : BankUse :=
  ⟨if a.store then 8 else ti, a.bank, ti, if a.slot = 7 then tick else ((t.ops[a.opIdx]?).map TileOp.t0).getD tick, a.slot,
    a.bundle⟩

/-- One tick of a tile: its reads against the contents at the tick's start, then its writes. An access that meets another in its
bank is not performed: a read delivers a free value (`lost` names them; R61, R117; log entry 64). The answer says whether
register results collided. Where a CLEAR and an earlier LOAD reach one bank in a tick, the LOAD's row stands; of colliding
results the record names the first in order of issue: the spec decides neither (R116, R127; log entry 64, DESIGN CHOICE). -/
def State.tileTick (s : State) (sl ti tick : Nat) (fetches : List (Nat × Nat)) (clash : TileAccess → Bool) (lost : Nat) :
    Bool × State :=
  let t := s.tile sl ti
  let missing : Line := (Config.garbageStore t.fill (placeOf 0 sl ti (2 ^ 19))).setWidth 512
  -- issue ticks counted (R532)
  let s := t.ops.foldl (fun s o =>
    if o.t0 ≤ tick ∧ tick < o.t0 + o.issue then
      if isGraver ti then
        if 1 ≤ o.slot ∧ o.slot ≤ 3 then s.count (clusterPage sl (2 + (ti - 6))) (o.slot - 1) 1 else s
      else if o.slot = 1 then s.count (clusterPage sl 4) ti 1 else s
    else s) s
  let acc := t.accesses ti tick fetches
  let cl := s.cluster sl
  let good := acc.filter fun a => !clash a
  -- reads
  let value := fun (n : Nat) (a : TileAccess) =>
    if clash a then (Config.garbageStore lost (placeOf 5 sl ti n)).setWidth 2048
    else if a.store then cl.at sl a.line else (t.sramAt sl ti a.line).setWidth 2048
  let ops := (withIdx acc).foldl (fun ops a =>
    if a.2.write ∨ a.2.slot = 7 then ops else changeAt ops a.2.opIdx fun o => o.keepRead a.2 (value a.1 a.2)) t.ops
  let fetch := (withIdx acc).foldl (fun fb a =>
    if a.2.slot = 7 then (fb ++ [(a.2.line, (value a.1 a.2).setWidth 512)]).drop ((fb.length + 1) - 3) else fb) t.fetch
  -- rows that stores read
  let stores := ops.map fun o => match o.kind with
    | .store bank code sat line rows =>
      if tick ≥ o.t0 ∧ tick - o.t0 < o.issue then
        let x := storeRows t sl ti bank code sat (tick - o.t0)
        ({ o with kind := .store bank code sat line (x.1.foldl (fun m e => m.put e.1 e.2) rows) }, x.2)
      else (o, false)
    | _ => (o, false)
  let ops := stores.map Prod.fst
  let s := if stores.any Prod.snd then s.raise Reg.mtxStsOutSat (mtxKey sl ti) else s
  -- accumulation of products due in this tick (R111), at the rows that no CLEAR or LOAD writes (R116)
  let cleared := ops.filterMap fun o => match o.kind with
    | .clear bank int => if o.t0 = tick then some (bank, int) else none
    | _ => none
  let rows := ops.flatMap fun o => match o.kind with
    | .load bank code _ ls =>
      if o.t0 + 7 ≤ tick ∧ tick - o.t0 - 7 < o.issue then
        (loadRows code (tick - o.t0 - 7) ls missing).map fun e => (128 * bank + e.1, e.2)
      else []
    | _ => []
  let updates := ops.flatMap fun o => match o.kind with
    | .mma f _ _ la lb =>
      if o.t0 + 5 ≤ tick ∧ tick - o.t0 - 5 < o.issue then
        let j := tick - o.t0 - 5
        let bank := f.bank.toNat
        if cleared.any fun c => c.1 = bank then [] else
        ((List.range 128).filter fun i => !(rows.any fun e => e.1 = 128 * bank + i)).map fun i =>
          let cells := cellsOf (t.accAt sl ti bank i)
          let outs := (withIdx cells).map fun c =>
            if f.fmtA.toNat = 8 then
              let ps := mmaIntProducts f la lb missing j i c.1
              if ps = [] then (⟨c.2, false, false⟩ : CellOut) else accumulateInt c.2 ps
            else accumulate c.2 (mmaProducts f la lb missing j i c.1)
          (128 * bank + i, ofCells (outs.map CellOut.bits), decide (f.fmtA.toNat = 8), outs.any CellOut.inf, outs.any CellOut.nan)
      else []
    | _ => []
  let mk := mtxKey sl ti
  let s := if updates.any fun u => u.2.2.1 && u.2.2.2.1 then s.raise Reg.mtxStsIntSat mk else s
  let s := if updates.any fun u => !u.2.2.1 && u.2.2.2.1 then s.raise Reg.mtxStsAccInf mk else s
  let s := if updates.any fun u => u.2.2.2.2 then s.raise Reg.mtxStsAccNan mk else s
  let accM := updates.foldl (fun m u => m.put u.1 u.2.1) t.acc
  let accM := cleared.foldl (fun m c => (List.range 128).foldl (fun m r => m.put (128 * c.1 + r) 0) m) accM
  let accM := rows.foldl (fun m e => m.put e.1 e.2) accM
  let modes := ops.foldl (fun ms o =>
    if o.t0 = tick then match o.kind with
      | .clear bank int => if int then bank :: ms.filter (· ≠ bank) else ms.filter (· ≠ bank)
      | .load bank code _ _ => if code = 9 then bank :: ms.filter (· ≠ bank) else ms.filter (· ≠ bank)
      | _ => ms
    else ms) t.intMode
  -- register results, of which two that reach one register are neither written (R127)
  let res := ops.flatMap fun o => o.results tick
  let s := ops.foldl (fun s o => match o.kind with
    | .vec due _ fl => if due = tick then s.vecFlags sl ti fl else s
    | _ => s) s
  let twice := res.filter fun r => decide ((res.filter fun q => q.1 = r.1).length ≥ 2)
  let vregs := (res.filter fun r => !(twice.any fun q => q.1 = r.1)).foldl (fun m r => m.put r.1 r.2.1) t.vregs
  let s := match twice with
    | [] => s
    | r :: _ => s.bundleFault sl ti r.2.2.1 r.2.2.2 Bf.regCollision
  -- writes of SRAM and of the cluster store
  let sram := good.foldl (fun m a => if a.write ∧ ¬ a.store then m.put a.line (a.data.setWidth 512) else m) t.sram
  let cs := good.foldl (fun m a => if a.write ∧ a.store then m.put a.line a.data else m) cl.lines
  let s := s.setCluster sl { s.cluster sl with lines := cs }
  let s := s.setTile sl ti { t with
    ops := ops.filter fun o => decide (tick + 1 < o.finish), fetch := fetch, sram := sram, acc := accM, intMode := modes
    vregs := vregs }
  (!twice.isEmpty, s)

/-- The BUSY bit of a tile (R93, R94). -/
def State.setTileBusy (s : State) (sl ti : Nat) (b : Bool) : State :=
  let v := if b then 1 else 0
  let s := if isGraver ti then s.set Reg.vecStsBusy (vecKey sl ti) v else s.set Reg.mtxStsBusy (mtxKey sl ti) v
  s.setTile sl ti { s.tile sl ti with busy := b }

/-! ### Bundles (R99 to R106) -/

/-- Start a tile at its first bundle of a segment (R99 to R101): address registers zero, no loop, its first two fetch lines
read in launch ticks 0 and 1. The modes of its accumulator banks stand over the launch: the spec does not say (R113; log entry 64,
DESIGN CHOICE). -/
def State.startTile (s : State) (sl ti first : Nat) : State :=
  let t := s.tile sl ti
  let l := first / 2
  let t' : Tile := { Tile.reset with
    busy := true, index := first, fill := t.fill, fillRegs := t.fillRegs, sram := t.sram, acc := t.acc, vregs := t.vregs, intMode := t.intMode
    fetch := [l, l + 1].map fun k => (k, t.sramAt sl ti (k % sramLines ti)) }
  (s.setTile sl ti t').setTileBusy sl ti true

/-- After the last bundle of its body a loop returns or ends (R105): the loops, the next bundle and whether it is reached
by a loop's return. -/
def loopStep (idx : Nat) : List LoopFrame → List LoopFrame × Nat × Bool
  | [] => ([], idx + 1, false)
  | f :: rest =>
    if idx + 1 = f.start + f.len then
      if 2 ≤ f.left then ({ f with left := f.left - 1 } :: rest, f.start, true) else loopStep idx rest
    else (f :: rest, idx + 1, false)

/-- The bundle of an index, from the buffers. -/
def Tile.bundleCopy (t : Tile) (idx : Nat) : BitVec 256 :=
  match t.loopBuf.find? fun e => e.1 = idx with
  | some e => e.2
  | none => match t.fetch.find? fun e => e.1 = idx / 2 with
    | some e => (e.2 >>> (256 * (idx % 2))).setWidth 256
    | none => 0

/-- The bundle at issue. -/
def Tile.word (t : Tile) : BitVec 256 := t.bundleCopy t.index

/-- The line that the issue of a bundle fetches (R101): none where it issues from the loop buffer or has an odd index. Past the
tile's last line the line wraps to the first ones: the spec does not say which line is read there (log entry 64, DESIGN
CHOICE). -/
def Tile.fetchOf (ti : Nat) (t : Tile) : List (Nat × Nat) :=
  if t.index % 2 = 0 ∧ ¬ (t.loopBuf.any fun e => e.1 = t.index) then [(t.index, (t.index / 2 + 2) % sramLines ti)] else []

/-- A tile after the issue tick of its bundle: posted registers have advanced, SETAR overrides, the loops have stepped, and the
next bundle issues WAIT + 1 ticks later; after END none does (R99, R103 to R106). -/
def Tile.advance (t : Tile) (c : TileCtl) : Tile :=
  let loops := match c.loop with
    | some f => f :: t.loops
    | none => t.loops
  let next := loopStep t.index loops
  let buf := if loops = [] ∨ next.1 = [] then [] else
    if t.loopBuf.any fun e => e.1 = t.index then t.loopBuf else t.loopBuf ++ [(t.index, t.word)]
  let ars := (withIdx t.ars).map fun r =>
    let v := { r.2 with value := (r.2.value + t.posts.count r.1 * r.2.stride) % 2 ^ 20 }
    match c.setar with
    | some (n, x) => if r.1 = n then x else v
    | none => v
  { t with
    ars := ars, posts := [], started := [], ctl := none, fault := false
    loops := next.1, index := next.2.1, returned := next.2.2, loopBuf := buf, tick := t.tick + c.wait + 1, ended := c.last }

end Sys2Proof.Machine
end

