-- ==== Sys2Proof/Machine/Terms.lean ====
section
/-! DEFINITION. The terms of a promise: effective rates of the regulators (R407, R408), open access groups (R413, R414),
link terms (R41, R316, R344, R345), pre-translation counts (R251, R253) and the descriptor's fields (R369). -/

namespace Sys2Proof.Machine

/-- The field of `n` bytes at byte offset `off` of a record. -/
def recField {w : Nat} (r : BitVec w) (off n : Nat) : Nat := r.toNat / 2 ^ (8 * off) % 2 ^ (8 * n)
/-- A 64-bit address plus a signed offset. -/
def addrAdd (a : Nat) (off : Int) : Nat := ((a + off) % 2 ^ 64).toNat

/-! ### Effective rates (R407, R408) -/

/-- Sum of a function over a list of numbers. -/
def sumOver (l : List Nat) (f : Nat → Nat) : Nat := (l.map f).sum
/-- A configured rate scaled down at an overcommitted point. -/
def effective (configured capacity total : Nat) : Nat :=
  if total ≤ capacity then configured else configured * capacity / total
/-- The channels of a partition. -/
def State.channelsOf (s : State) (p : Nat) : List Nat :=
  (bitsSet (s.get Reg.ptnpSlicesSlices p ||| s.get Reg.ptnpSetsSets p)).flatMap fun sl =>
    (List.range 12).map (12 * sl + ·)
/-- The least of a function over a list; 0 for an empty list. -/
def leastOver : List Nat → (Nat → Nat) → Nat
  | [], _ => 0
  | [x], f => f x
  | x :: y :: rest, f => min (f x) (leastOver (y :: rest) f)
/-- The largest of a function over a list; 0 for an empty list. -/
def greatestOver (l : List Nat) (f : Nat → Nat) : Nat := l.foldl (fun m x => max m (f x)) 0
/-- Capacity of a channel's open window for a partition, in MB/s. -/
def State.chCapacity (s : State) (p : Nat) : Nat :=
  leastOver (s.channelsOf p) (fun ch => s.get Reg.mchWincfgOpenMin ch) * 846015625 / 1000000
/-- The effective CH_MBPS of a class. -/
def State.chRate (s : State) (p c : Nat) : Nat :=
  effective (s.get Reg.ptnpClassChMbps (16 * p + c)) (s.chCapacity p)
    (sumOver (List.range 16) fun k => s.get Reg.ptnpClassChMbps (16 * p + k))
/-- Whether a port is OPEN (R339). -/
def State.portOpen (s : State) (n : Nat) : Bool := s.get Reg.lnkStsState n == 6
/-- The OPEN ports. -/
def State.openPorts (s : State) : List Nat := (List.range 6).filter fun n => s.portOpen n
/-- Capacity of a port's open slots, in MB/s. -/
def State.linkCapacity (s : State) : Nat := 256 * leastOver s.openPorts fun n => s.get Reg.bwrLinkOpenReserve n
/-- What every master of a link point is configured to. -/
def State.linkTotal (s : State) : Nat :=
  sumOver (List.range 1024) (fun k => s.get Reg.ptnpClassLinkMbps k) +
    sumOver (List.range 16) (fun c => s.get Reg.bwrTransitTransitMbps c)
/-- The effective LINK_MBPS of a class. -/
def State.linkRate (s : State) (p c : Nat) : Nat :=
  effective (s.get Reg.ptnpClassLinkMbps (16 * p + c)) s.linkCapacity s.linkTotal
/-- GT/s × 10 of a RATE code (R392). -/
def rateTenths (code : Nat) : Nat :=
  if code = 1 then 25 else if code = 2 then 50 else if code = 3 then 80 else if code = 4 then 160
  else if code = 5 then 320 else if code = 6 then 640 else 0
/-- Capacity of the aperture engine, in MB/s. -/
def State.apCapacity (s : State) : Nat :=
  min 64000 (625 * s.get Reg.hifStsWidth 0 * rateTenths (s.get Reg.hifStsRate 0) / 100)

/-! ### Addresses of descriptors (R226) -/

/-- Whether an address is a local VA. -/
def vaLocal (a : Nat) : Bool := decide (a < 2 ^ 48)
/-- Whether an address is a global VA. -/
def vaGlobal (a : Nat) : Bool := decide (a / 2 ^ 62 % 4 = 1)
/-- The device of a global VA. -/
def vaDevice (a : Nat) : Nat := a / 2 ^ 48 % 2 ^ 14
/-- The device identifier in force. -/
def State.deviceId (s : State) : Nat := s.get Reg.glbDevidDeviceId 0
/-- The membership of a partition beyond its registers. -/
def Membership.empty : Membership :=
  ⟨[], [], [], 0, 0, none, false, [], false, false, [], [], [], none, none, []⟩
/-- The membership of a partition. -/
def State.member (s : State) (p : Nat) : Membership := s.net.memberships.getD p Membership.empty
/-- Change links, alloys and handoff. -/
def State.onNet (s : State) (f : NetState → NetState) : State := { s with net := f s.net }
/-- Write a membership. -/
def State.setMember (s : State) (p : Nat) (m : Membership) : State :=
  s.onNet fun n => { n with memberships := n.memberships.putD p Membership.empty m }
/-- The membership state of a partition. -/
def State.mstate (s : State) (p : Nat) : Nat := s.get Reg.ptnpAlloyMstate p
/-- The gap numerator in force for a partition, as PTNP_PWR.G_NOW and sxgap report it; a FREE number has none (R89, R449 to R453). -/
def State.gapOf (s : State) (p : Nat) : Nat :=
  if s.ptnState p = ptnFree then 0
  else if s.flag Reg.pwrStsClamp 0 then 8
  else if s.mstate p = Ms.none then s.get Reg.pwrStsG 0 else s.get Reg.ptnpPwrAlloyG p
/-- Whether the hub takes no descriptor from the queues of a partition: its line is closed while it joins, and a member that
is not the lead waits while the membership is ACTIVE or LEAVING (R276, R277). -/
def State.closedToQueues (s : State) (p : Nat) : Bool :=
  decide (s.mstate p = Ms.joining) ||
    (decide (s.mstate p = Ms.active ∨ s.mstate p = Ms.leaving) && !s.flag Reg.ptnpCfgLead p)

/-- Whether an address of a command breaks the decode of R226. -/
def State.breaksDecode (s : State) (p : Nat) (alloyCmd : Bool) (a : Nat) : Bool :=
  if vaLocal a then false
  else if vaGlobal a then !alloyCmd || !(s.member p).members.contains (vaDevice a)
  else true

/-- The local VA that an address names, for a global VA of this device too; `none` for another device's. -/
def State.localVa (s : State) (a : Nat) : Option Nat :=
  if vaLocal a then some a
  else if vaGlobal a ∧ vaDevice a = s.deviceId then some (a % 2 ^ 48) else none

/-! ### Stream records (R243, R244) -/

/-- Whether the stream writes. -/
def srWrite (r : BitVec 512) : Bool := recField r 3 1 % 2 == 1
/-- Image slice of a stream. -/
def srSlice (r : BitVec 512) : Nat := recField r 1 1
/-- Stream number. -/
def srStream (r : BitVec 512) : Nat := recField r 2 1
/-- Segment of a stream record. -/
def srSegment (r : BitVec 512) : Nat := recField r 4 2
/-- Translation chain. -/
def srChain (r : BitVec 512) : Nat := recField r 6 1
/-- PAGE size code. -/
def srPage (r : BitVec 512) : Nat := recField r 7 1 % 16
/-- PLACE size code. -/
def srPlace (r : BitVec 512) : Nat := recField r 7 1 / 16
/-- CH_MASK. -/
def srMask (r : BitVec 512) : Nat := recField r 8 2
/-- ROT. -/
def srRot (r : BitVec 512) : Nat := recField r 0xA 1
/-- PAGE_BUDGET. -/
def srBudget (r : BitVec 512) : Nat := recField r 0xC 4
/-- ROW_LINES. -/
def srRowLines (r : BitVec 512) : Nat := recField r 0x18 4
/-- ROWS. -/
def srRows (r : BitVec 512) : Nat := recField r 0x1C 4
/-- START. -/
def srStart (r : BitVec 512) : Nat := recField r 0x28 4
/-- LPU. -/
def srLpu (r : BitVec 512) : Nat := recField r 0x2C 1
/-- The base of a stream for a command's arguments (R244). -/
def srBase (r : BitVec 512) (args : List Word) : Nat :=
  let arg := recField r 0xB 1
  addrAdd (if arg = 0xFF then 0 else (args.getD arg 0).toNat) (signedOf 64 (recField r 0x10 8))
/-- The VA of row `k`. -/
def srRowVa (r : BitVec 512) (base k : Nat) : Nat := addrAdd base (k * signedOf 64 (recField r 0x20 8))
/-- The VA of line `n` (R244). -/
def srVa (r : BitVec 512) (base n : Nat) : Nat :=
  addrAdd (srRowVa r base (n / srRowLines r)) (64 * (n % srRowLines r : Nat))
/-- The `k`-th set bit of a channel mask. -/
def nthBit (mask k : Nat) : Nat := ((List.range 12).filter fun i => Nat.testBit mask i).getD k 0
/-- The slice channel index on which a line of a stream must lie (R246). -/
def srPlacement (r : BitVec 512) (base va : Nat) : Nat :=
  let sz := pageBytes (srPlace r)
  let c := ((List.range 12).filter fun i => Nat.testBit (srMask r) i).length
  nthBit (srMask r) (((va - base / sz * sz) / sz + srRot r) % (max c 1))

/-! ### Open access groups (R413, R414) -/

/-- START. -/
def descStart (d : Line) : Nat := recField d 4 4
/-- END. -/
def descEnd (d : Line) : Nat := recField d 8 4
/-- Whether a group is a COPY. -/
def ogCopy (r : BitVec 512) : Bool := recField r 0 1 == 1
/-- Service class of a group. -/
def ogClass (r : BitVec 512) : Nat := recField r 1 1
/-- Channels over which each end is spread. -/
def ogChannels (r : BitVec 512) : Nat := recField r 2 2
/-- START of a group. -/
def ogStart (r : BitVec 512) : Nat := recField r 8 4
/-- NEED of a group. -/
def ogNeed (r : BitVec 512) : Nat := recField r 0xC 4
/-- LINES of a group. -/
def ogLines (r : BitVec 512) : Nat := recField r 0x10 4
/-- The source address of a COPY. -/
def ogSrc (r : BitVec 512) (args : List Word) : Nat :=
  let a := recField r 6 1
  addrAdd (if a = 0xFF then 0 else (args.getD a 0).toNat) (signedOf 64 (recField r 0x18 8))
/-- The destination address of a COPY. -/
def ogDst (r : BitVec 512) (args : List Word) : Nat :=
  let a := recField r 7 1
  addrAdd (if a = 0xFF then 0 else (args.getD a 0).toNat) (signedOf 64 (recField r 0x20 8))
/-- The records of a segment. -/
def segGroups (im : ImageContent) (sg : Segment) : List (BitVec 512) := (im.openGroups.drop sg.openFirst).take sg.openCount

/-- Whether an end of a group lies on another device. -/
def State.endRemote (s : State) (a : Nat) : Bool := vaGlobal a && decide (vaDevice a ≠ s.deviceId)

/-- The term of a group in ns; `none` where G is 0 (R414). -/
def State.groupTerm (s : State) (p : Nat) (r : BitVec 512) (args : List Word) : Option Nat :=
  let remote := ogCopy r && (vaGlobal (ogSrc r args) || vaGlobal (ogDst r args))
  let v := if ogCopy r ∧ ¬ remote then 128 * ogLines r else 64 * ogLines r
  let g0 := ogChannels r * s.chRate p (ogClass r)
  let g := if remote then min g0 (s.linkRate p (ogClass r)) else g0
  if g = 0 then none else some (ceilDiv (v * 1000) g + 1500)

/-- M_open of a list of groups; `none` where some G is 0. -/
def State.mOpen (s : State) (p : Nat) (args : List Word) : List (BitVec 512) → Option Nat
  | [] => some 0
  | r :: rest =>
    match s.groupTerm p r args, State.mOpen s p args rest with
    | some a, some b => some (a + b)
    | _, _ => none

/-! ### Link terms (R41, R306, R316, R344, R345) -/

/-- The start of a slot within the stroke, in units of 1/3200 ns: 0.46875 + 0.15625 j + 20 k (R306). -/
def slotStart (slot : Nat) : Nat := 64000 * (slot / 125) + 1500 + 500 * (slot % 125)
/-- The largest gap between consecutive slot starts of a rising list, taken cyclically over the stroke. -/
def largestGap (slots : List Nat) : Nat :=
  match slots with
  | [] => 0
  | first :: _ =>
    let next := slots.drop 1 ++ [first]
    ((slots.zip next).map fun ab =>
      if ab.1 < ab.2 then slotStart ab.2 - slotStart ab.1 else 3200000 + slotStart ab.2 - slotStart ab.1).foldl max 0
/-- The slots that a partition holds in a map. -/
def State.slotsOf (s : State) (port dir p : Nat) : List Nat :=
  (List.range 6250).filter fun sl => s.net.slots.getD ((2 * port + dir) * 8192 + sl) 0 == 0x80 + p
/-- S of a partition on a port's transmit direction, in whole ns (R316). -/
def State.slotSpacing (s : State) (port p : Nat) : Nat := ceilDiv (largestGap (s.slotsOf port 0 p)) 3200

/-- The flight time of a hop of a membership. -/
def Membership.flight (m : Membership) (hop : Nat) : Nat := ((m.hops[hop]?).map fun h => h.flight.toNat).getD 0
/-- The sum over a path of 20 + 120 + ⌈F⌉, plus 2 (R41). -/
def Membership.pathNs (m : Membership) (path : List Nat) : Nat := (path.map fun h => 140 + m.flight h).sum + 2
/-- L_launch, and L_commit, which is the same sum over the return path. The lead is a member too, by an empty path. -/
def Membership.launchNs (m : Membership) : Nat := (m.paths.map m.pathNs).foldl max (m.pathNs [])
/-- S of a hop: this device's own from its slot map, another's from its HOP_REPORT (R345). -/
def State.hopSpacing (s : State) (p hop : Nat) : Nat :=
  let m := s.member p
  match m.hops[hop]? with
  | none => 0
  | some h =>
    if h.device.toNat = s.deviceId then s.slotSpacing h.port.toNat p
    else ((m.hopS.find? fun e => e.1 = h.device.toNat ∧ e.2.1 = hop).map fun e => e.2.2).getD 0
/-- The term of a TRAVERSAL record. -/
def State.traversalNs (s : State) (p : Nat) (r : BitVec 256) : Nat :=
  let hop := recField r 4 2
  120 + (s.member p).flight hop + (if recField r 1 1 % 2 = 1 then 20 else s.hopSpacing p hop) + 2
/-- M_link of a segment of an alloy image. -/
def State.mLink (s : State) (p : Nat) (im : ImageContent) (sg : Segment) : Nat :=
  2 * (s.member p).launchNs + (((im.linkSlots.drop sg.linkFirst).take sg.linkCount).map (s.traversalNs p)).sum

/-! ### Regions that a command names (R251, R253) -/

/-- Remove repeats, keeping first places. -/
def dedup (l : List Nat) : List Nat := l.foldl (fun acc x => if acc.contains x then acc else acc ++ [x]) []

/-- The aligned regions of a size that a byte range touches. -/
def regionsOf (sz va n : Nat) : List Nat :=
  if n = 0 then [] else (List.range ((va + n - 1) / sz - va / sz + 1)).map fun k => (va / sz + k) * sz

/-- The hub's own walks of a range, one for each 64 KiB, add to MALFORMED of the root's die each malformed entry that they meet
(R237; log entry 92, DESIGN CHOICE). -/
def State.hubWalks (s : State) (p va n : Nat) : State :=
  (regionsOf 65536 va n).foldl (fun t a => match s.walkVa p a with
    | .unmapped true => t.bump Reg.xltwStsMalformed (s.get Reg.ptnpXltRootDie p)
    | _ => t) s

/-- The regions of its PAGE size that a stream touches. -/
def srRegions (r : BitVec 512) (base : Nat) : List Nat :=
  dedup ((List.range (srRows r)).flatMap fun k => regionsOf (pageBytes (srPage r)) (srRowVa r base k) (64 * srRowLines r))

/-- The die of an image slice. -/
def imgDie (im : ImageContent) (slice : Nat) : Nat := im.sliceMap.getD slice 0 / 16

/-- The streams of a segment, in record order. -/
def segStreams (im : ImageContent) (k : Nat) : List (BitVec 512) := im.streams.filter fun r => srSegment r = k

/-- Key of a store entry: partition, quarter, first 64 KiB page. -/
def storeKey (p q page : Nat) : Nat := (4 * p + q) * 2 ^ 32 + page

/-- The first 64 KiB page, as a VA, of a key of the store or of the aperture's cache. -/
def keyVa (k : Nat) : Nat := k % 2 ^ 32 * 65536
/-- Store entries, stale ones last. -/
def MemState.allStore (m : MemState) : List (Nat × StoreEntry) := m.store.entries ++ m.stales
/-- The store entry of a partition in a quarter that covers the region of a PAGE size at a VA: for a command that holds one, a
stale entry that it holds (R241, R251). -/
def State.storeFind (s : State) (p q : Nat) (who : Option Nat) (page va : Nat) : Option (Nat × StoreEntry) :=
  let held := fun (e : StoreEntry) => match who with
    | some n => e.holders.contains n
    | none => false
  match s.mem.stales.find? fun e => decide (e.1 / 2 ^ 32 = 4 * p + q ∧ page ≤ e.2.trans.size ∧ keyVa e.1 ≤ va ∧
      va < keyVa e.1 + pageBytes e.2.trans.size) && held e.2 with
  | some e => some e
  | none => ([0, 1, 2].filter (page ≤ ·)).findSome? fun size =>
      let k := storeKey p q (va / pageBytes size * pageBytes size / 65536)
      match s.mem.store.find k with
      | some e => if e.trans.size = size then some (k, e) else none
      | none => none

/-- A region that a command names: its quarter, its PAGE size code and its VA (R251). -/
structure Region64 where
  quarter : Nat
  page : Nat
  va : Nat
  deriving DecidableEq, Repr
/-- The regions that a segment names on this device: its streams and the local ends of its groups (R251). -/
def State.namedRegions (s : State) (im : ImageContent) (k : Nat) (args : List Word) : List Region64 :=
  let own := (segStreams im k).flatMap fun r =>
    (srRegions r (srBase r args)).map fun va => ⟨imgDie im (srSlice r), srPage r, va⟩
  let sg := im.segments.getD k ⟨false, 0, [], [], 0, 0, 0, 0, 0, 0⟩
  let groups := (segGroups im sg).flatMap fun r =>
    if ogCopy r then
      ([ogSrc r args, ogDst r args].flatMap fun a =>
        match s.localVa a with
        | some va => (regionsOf 65536 va (64 * ogLines r)).map fun v => ⟨imgDie im 0, 0, v⟩
        | none => [])
    else []
  own ++ groups
/-- The regions that a command names in some segments of an image: their own, and those that global VAs of the other members of
its alloy name on this device, each once (R228, R251). -/
def State.cmdRegions (s : State) (im : ImageContent) (segs : List Nat) (args named : List Word) : List Region64 :=
  let others : List Region64 := named.map fun a => ⟨imgDie im 0, 0, a.toNat % 2 ^ 48 / 65536 * 65536⟩
  ((segs.flatMap fun k => s.namedRegions im k args) ++ others).foldl (fun acc x => if acc.contains x then acc else acc ++ [x]) []

/-- The named regions that no store entry covers, for a command or, before its acceptance, for none. -/
def State.newRegions (s : State) (p : Nat) (who : Option Nat) (rs : List Region64) : List Region64 :=
  rs.filter fun x => (s.storeFind p x.quarter who x.page x.va).isNone
/-- The store entries that cover named regions. -/
def State.coveredEntries (s : State) (p : Nat) (rs : List Region64) : List Nat :=
  dedup (rs.filterMap fun x => (s.storeFind p x.quarter none x.page x.va).map Prod.fst)

/-- Entries that a partition's commands hold in a quarter, and reservations there (R251). -/
def State.heldInQuarter (s : State) (p q : Nat) : Nat :=
  (s.mem.allStore.filter fun e => e.1 / 2 ^ 32 = 4 * p + q ∧ e.2.holders ≠ []).length +
    ((s.line p).items.map fun it =>
      match it.kind with
      | .command c => c.reserved.getD q 0
      | _ => 0).sum
/-- Free quota of a partition in a quarter (R251). -/
def State.freeQuota (s : State) (p q : Nat) : Nat := s.get Reg.ptnpXltQuotaQuota p - s.heldInQuarter p q
/-- W of R41. -/
def State.walksAtOnce (s : State) (p : Nat) : Nat := min 16 (4 * (s.slicesOf p).length)

/-! ### The descriptor (R369) -/

/-- A submission descriptor's fields. -/
structure Desc where
  op : Nat
  flags : Nat
  cls : Nat
  imgIndex : Nat
  segment : Nat
  argset : Nat
  deadline : Nat
  waitFence : Handle
  waitValue : Nat
  signalFence : Handle
  signalValue : Nat
  userTag : Nat
  args : List Word
  objs : List ObjUse
  zeroOk : Bool
  deriving DecidableEq, Repr

/-- The 192 argument bytes: ARG0 to ARG15. -/
def argWords (b : BitVec 1536) : List Word := (List.range 16).map fun k => BitVec.ofNat 64 (recField b (8 * k) 8)
/-- The object entries among the 192 bytes, roles 0 left out. -/
def argObjs (b : BitVec 1536) : List ObjUse :=
  ((List.range 8).map fun k =>
    (⟨BitVec.ofNat 32 (recField b (128 + 8 * k) 4), recField b (132 + 8 * k) 1, recField b (133 + 8 * k) 3⟩ : ObjUse)).filter
      fun o => o.role ≠ 0
/-- Whether every object entry is well laid out: a role of 0 to 4, APPEND_LINES only with role 3, a role 0 entry zero. -/
def argObjsOk (b : BitVec 1536) : Bool :=
  (List.range 8).all fun k =>
    let role := recField b (132 + 8 * k) 1
    decide (role ≤ 4) && (decide (role = 3) || decide (recField b (133 + 8 * k) 3 = 0)) &&
      (decide (role ≠ 0) || decide (recField b (128 + 8 * k) 8 = 0))

/-- Read a descriptor. `zeroOk` says that every field its operation does not use is zero (R369, R371 FORMAT). -/
def parseDesc (d : BitVec 2048) : Desc :=
  let f := recField d
  let body : BitVec 1536 := BitVec.ofNat 1536 (d.toNat / 2 ^ 512)
  let op := f 0 1
  let flags := f 1 1
  { op := op, flags := flags, cls := f 2 1, imgIndex := f 3 1, segment := f 4 2, argset := f 6 1
    deadline := f 8 8, waitFence := BitVec.ofNat 32 (f 0x10 4), waitValue := f 0x18 8
    signalFence := BitVec.ofNat 32 (f 0x20 4), signalValue := f 0x28 8, userTag := f 0x30 8
    args := argWords body, objs := argObjs body
    zeroOk :=
      decide (flags / 16 = 0) && decide (f 2 1 / 16 = 0) && decide (f 7 1 = 0) && decide (f 0x14 4 = 0) &&
      decide (f 0x24 4 = 0) && decide (f 0x38 8 = 0) &&
      (Nat.testBit flags 1 || decide (f 0x10 4 = 0 ∧ f 0x18 8 = 0)) &&
      (Nat.testBit flags 2 || decide (f 0x20 4 = 0 ∧ f 0x28 8 = 0)) &&
      (if op = 1 then decide (f 3 1 = 0 ∧ f 6 1 = 0) && argObjsOk body
       else if op = 2 then decide (f 3 1 / 16 = 0) && decide (body = 0)
       else if op = 3 then decide (f 3 1 = 0 ∧ f 4 2 = 0 ∧ f 6 1 = 0) && decide (body = 0)
       else false) }

end Sys2Proof.Machine
end

