-- ==== Sys2Proof/Machine/Descriptors.lean ====
section
/-! DEFINITION. Planish descriptors: their references, fields, limits, extents and counts (R177 to R180, R188). -/

namespace Sys2Proof.Machine

/-! ### Operand references (R177) and fields (R178) -/

/-- An operand reference. -/
structure Ref where
  line : Nat
  engine : Nat
  region : Nat
  zeroOk : Bool
  deriving DecidableEq, Repr

/-- The 8-byte reference `k` of a descriptor. -/
def descRef (d : Line) (k : Nat) : Ref :=
  let v := recField d (0x10 + 8 * k) 8
  ⟨v / 2 ^ 34, v / 1024 % 64, v % 1024, decide (v / 2 ^ 16 % 2 ^ 18 = 0)⟩
/-- OP of a descriptor. -/
def descOp (d : Line) : Nat := recField d 0 1
/-- FLAGS. -/
def descFlags (d : Line) : Nat := recField d 1 1
/-- FMT. -/
def descFmt (d : Line) : Nat := recField d 2 1
/-- Parameter `k`. -/
def descP (d : Line) (k : Nat) : Nat := recField d (0x30 + 4 * k) 4
/-- A flag of a descriptor. -/
def descFlag (d : Line) (k : Nat) : Bool := Nat.testBit (descFlags d) k

/-- H_q of ATTN. -/
def atHq (d : Line) : Nat := descP d 0 / 65536
/-- MB of ATTN. -/
def atMb (d : Line) : Nat := descP d 0 % 65536
/-- BT of ATTN. -/
def atBt (d : Line) : Nat := descP d 1 / 65536 % 256
/-- LOG2G of ATTN. -/
def atG (d : Line) : Nat := descP d 1 / 4096 % 16
/-- d of ATTN. -/
def atD (d : Line) : Nat := descP d 1 % 512
/-- H_kv of ATTN. -/
def atHkv (d : Line) : Nat := atHq d / 2 ^ atG d
/-- BB / 64 of ATTN (R188). -/
def atBlockLines (d : Line) : Nat :=
  ceilDiv (2 * atBt d * atHkv d * atD d * codeBits (descFmt d) / 8 + if descFlag d 0 then 8 * atHkv d else 0) 64
/-- M of REDUCE. -/
def rdM (d : Line) : Nat := descP d 0 / 65536
/-- MODE of REDUCE. -/
def rdMode (d : Line) : Nat := descP d 0 % 4
/-- Bytes of an output element. -/
def outBytes (bf16 : Bool) : Nat := if bf16 then 2 else 4
/-- Lines of an index list of a capacity. -/
def listLines (n : Nat) : Nat := ceilDiv (8 + 4 * n) 64
/-- Lines of a REDUCE input or output. -/
def rdLines (d : Line) : Nat :=
  if rdMode d = 3 then ceilDiv (4 * descP d 3 * descP d 1) 64 + ceilDiv (8 * descP d 3) 64 else ceilDiv (4 * descP d 1) 64

/-- Whether the fields that an operation does not use are zero and its limits hold (R178, R179). -/
def descLayoutOk (d : Line) : Bool :=
  let fl := descFlags d
  let f := descFmt d
  let p := descP d
  let refs := fun (used : List Nat) => (List.range 4).all fun k =>
    if used.contains k then (descRef d k).zeroOk else decide (recField d (0x10 + 8 * k) 8 = 0)
  let dOk := fun n => decide (n % 16 = 0 ∧ 16 ≤ n ∧ n ≤ 256)
  let within := fun lo hi n => decide (lo ≤ n ∧ n ≤ hi)
  decide (recField d 3 1 = 0 ∧ recField d 0xC 4 = 0) &&
    match descOp d with
    | 1 => decide (fl < 16) && [1, 3, 4].contains f && refs [0, 1, 2, 3] && decide (p 3 = 0) &&
        decide (p 1 / 2 ^ 24 = 0 ∧ p 1 / 512 % 8 = 0) && within 1 256 (atHq d) && dOk (atD d) &&
        [16, 32, 64, 128].contains (atBt d) && decide (atG d ≤ 4 ∧ atHq d % 2 ^ atG d = 0) && within 1 65535 (atMb d)
    | 2 => decide (fl / 32 = 0 ∧ fl / 4 % 2 = 0) && [1, 3, 4, 5, 6, 7].contains f &&
        refs (if descFlag d 0 then [0, 1, 2, 3] else [0, 1, 3]) && decide (p 0 % 128 = 0) && within 1 1048576 (p 0) &&
        within 1 1048576 (p 1) && within 1 16 (p 2) && (descFlag d 4 || decide (f < 5)) && !(descFlag d 4 && decide (f = 1)) &&
        decide (p 0 * codeBits f / 8 + (if descFlag d 4 then ceilDiv (p 0) 32 else 0) ≤ 64 * p 3)
    | 3 | 4 => decide (fl = 0 ∧ f = 0) && refs [0, 1, 2] && within 1 4096 (p 0) && within 1 65535 (p 1) &&
        decide (p 2 = 0 ∧ p 3 = 0) &&
        decide (((descRef d 0).engine, (descRef d 0).region) ≠ ((descRef d 2).engine, (descRef d 2).region))
    | 5 => decide (fl = 0 ∧ f ≤ 1) && refs [0, 1, 2] && within 1 262144 (p 0) && within 1 1024 (p 1) && within 1 64 (p 2) &&
        decide (p 3 = 0)
    | 6 => decide (fl = 0 ∧ f = 0) && refs [0, 1] && decide (p 0 / 4 % 2 ^ 14 = 0) && within 2 256 (rdM d) &&
        (if rdMode d = 3 then dOk (p 1) && within 1 256 (p 3) else within 1 1048576 (p 1) && decide (p 3 = 0))
    | 7 => decide (fl = 0 ∧ f = 0) && refs [0, 2] && within 1 (2 ^ 30 - 1) (p 0) && decide (p 1 = 0 ∧ p 2 = 0 ∧ p 3 = 0)
    | 8 => decide (fl = 0 ∨ fl = 32) && decide (f = 0) && refs [2] && within 1 (2 ^ 30 - 1) (p 0) &&
        decide (p 2 = 0 ∧ p 3 = 0)
    | _ => false

/-- The extents that a descriptor's fields fix (R180): reference, lines, whether written; 0 lines where an index list selects
the extent. -/
def descExtents (d : Line) : List (Nat × Nat × Bool) :=
  let p := descP d
  let o := outBytes (descFlag d 1)
  match descOp d with
  | 1 => [(0, ceilDiv (2 * atHq d * atD d) 64, false), (1, listLines (atMb d), false), (2, 0, false),
      (3, ceilDiv (atHq d * atD d * o) 64 + (if descFlag d 2 then ceilDiv (8 * atHq d) 64 else 0), true)]
  | 2 => [(0, p 1 * p 3, false), (1, p 2 * ceilDiv (2 * p 0) 64, false), (3, p 2 * ceilDiv (p 1 * o) 64, true)] ++
      if descFlag d 0 then [(2, ceilDiv (4 * p 1) 64, false)] else []
  | 3 => [(0, 0, false), (1, listLines (p 1), false), (2, p 1 * p 0, true)]
  | 4 => [(0, p 1 * p 0, false), (1, listLines (p 1), false), (2, 0, true)]
  | 5 => [(0, p 2 * ceilDiv (p 0 * outBytes (decide (descFmt d = 1))) 64, false), (1, p 2 * ceilDiv (4 * p 1) 64, true),
      (2, p 2 * ceilDiv (4 * p 1) 64, true)]
  | 6 => [(0, (rdM d - 1) * p 2 + rdLines d, false), (1, rdLines d, true)]
  | 7 => [(0, p 0, false), (2, p 0, true)]
  | _ => [(2, p 0, true)]

/-- Lines counted of R179. -/
def descLines (d : Line) : Nat :=
  match descOp d with
  | 1 => ceilDiv (2 * atHq d * atD d) 64 + listLines (atMb d) + atMb d * atBlockLines d +
      ceilDiv (atHq d * atD d * outBytes (descFlag d 1)) 64 + (if descFlag d 2 then ceilDiv (8 * atHq d) 64 else 0)
  | 2 => ((descExtents d).map fun e => e.2.1).sum
  | 3 | 4 => 2 * descP d 1 * descP d 0 + listLines (descP d 1)
  | 5 => ((descExtents d).map fun e => e.2.1).sum
  | 6 => (rdM d + 1) * rdLines d
  | 7 => 2 * descP d 0
  | _ => descP d 0
/-- W_c of R179 for a group of size `c`. -/
def descTicks (d : Line) (c : Nat) : Nat :=
  let p := descP d
  let f := 128 * c
  match descOp d with
  | 1 => Nat.max (ceilDiv (atHq d * atMb d * atBt d * (2 * atD d + 32)) f) (ceilDiv (atHq d * atMb d * atBt d) (2 * c))
  | 2 => ceilDiv (p 1 * p 0 * p 2) f
  | 3 | 4 => ceilDiv (p 1) 16
  | 5 => ceilDiv (p 2 * p 0) (2 * c) * ceilDiv (p 1) 128 + 64
  | 6 => if rdMode d = 3 then ceilDiv (rdM d * p 3 * (p 1 + 32)) f else ceilDiv (rdM d * p 1) f
  | _ => 0
/-- SRAM need of R179. -/
def descSram (d : Line) : Nat :=
  65536 + match descOp d with
    | 1 => 6 * atHq d * atD d
    | 2 => 2 * descP d 2 * descP d 0
    | 5 => 8 * descP d 2 * descP d 1
    | _ => 0

/-- The engine whose open queue takes an ORDER of a command's group: that of what it reads, or of what a FILL writes (R195). -/
def orderEngine (d : Line) : Nat := if descOp d = 8 then (descRef d 2).engine else (descRef d 0).engine
/-- The regions that a descriptor names; OP 0 stands for an anneal fill, which names none (R197). -/
def descRegions (d : Line) : List (Nat × Nat) := if descOp d = 0 then [] else (descExtents d).map fun x => ((descRef d x.1).engine, (descRef d x.1).region)

end Sys2Proof.Machine
end

