-- ==== Sys2Proof/WellFormed.lean ====
section
/-! DEFINITION. Well-formedness of commands: the loader's checks of bundle slots (R129) and the numbers of units that
exist (R19, R135, R419). A command that is not well formed still has a meaning: a slot that fails R129 raises ILLEGAL at
issue (R130), and a command to a unit that does not exist has no occasion. -/

namespace Sys2Proof

/-- Formats that have an MX form (R107). -/
def hasMx (c : Nat) : Bool := decide (3 ≤ c ∧ c ≤ 7)

/-- K steps of which an MMA's K must be a multiple (R67): the slower operand group's row. -/
def kMultiple (fmtA fmtB : Nat) (mx sparse : Bool) : Nat :=
  let small := fun c => decide (5 ≤ c ∧ c ≤ 7)
  let mid := fun c => decide (c = 3 ∨ c = 4)
  if small fmtA && small fmtB then if mx then 32 else if sparse then 4 else 2
  else if (small fmtA || mid fmtA) && (small fmtB || mid fmtB) then if mx then 32 else if sparse then 2 else 1
  else 1

/-- The MMA slot passes R129. -/
def MmaSlot.ok (f : MmaSlot) : Bool :=
  let a := f.fmtA.toNat
  let b := f.fmtB.toNat
  decide (f.zero = 0) && decide (a ≤ 8) && decide (b ≤ 8) && (decide (a = 8) == decide (b = 8)) &&
    (!f.mxA || hasMx a) && (!f.mxB || hasMx b) && (!f.sparse || (hasMx a && hasMx b)) &&
    decide (f.k.toNat ≠ 0) && decide (f.k.toNat % kMultiple a b (f.mxA || f.mxB) f.sparse = 0)

/-- The ACC slot of a CLEAR passes R129. -/
def AccSlot.clearOk (f : AccSlot) : Bool :=
  decide (f.zero = 0) && (decide (f.fmt = 0) || decide (f.fmt = 9)) && !f.sat && decide (f.ar = 0) && !f.post
/-- The ACC slot of a LOAD passes R129. -/
def AccSlot.loadOk (f : AccSlot) : Bool :=
  decide (f.zero = 0) && (decide (f.fmt = 0) || decide (f.fmt = 1) || decide (f.fmt = 9)) && !f.sat
/-- The ACC slot of a STORE passes R129. -/
def AccSlot.storeOk (f : AccSlot) : Bool :=
  decide (f.zero = 0) && (decide (f.fmt.toNat ≤ 4) || decide (f.fmt = 9))
/-- The XFER slot passes R129. -/
def XferSlot.ok (f : XferSlot) : Bool := decide (f.zero = 0) && decide (f.len ≠ 0)

/-- A LANE slot whose operands are a, b and, where `c`, c; `half` for BF16 (R120). -/
def LaneSlot.okData (f : LaneSlot) (c half : Bool) : Bool :=
  !f.sat && (c || decide (f.sc = 0)) &&
    if f.useImm then decide (f.sb = 0) && (!half || decide (f.imm.toNat / 65536 = 0)) else decide (f.imm = 0)
/-- A CVT slot of a conversion code (R121): the parts that it admits and whether SAT is used. -/
def LaneSlot.okCvt (f : LaneSlot) (code parts : Nat) (sat : Bool) : Bool :=
  !f.useImm && decide (f.sb = 0) && decide (f.sc = 0) && (sat || !f.sat) && decide (f.imm.toNat % 256 = code) &&
    decide (f.imm.toNat / 256 < parts)
/-- A PERM slot. -/
def LaneSlot.okPerm (f : LaneSlot) : Bool := !f.sat && !f.useImm && decide (f.sc = 0) && decide (f.imm = 0)
/-- A BCAST slot. -/
def LaneSlot.okBcast (f : LaneSlot) : Bool :=
  !f.sat && !f.useImm && decide (f.sb = 0) && decide (f.sc = 0) && decide (f.imm.toNat < 512)
/-- A reduction slot. -/
def LaneSlot.okReduce (f : LaneSlot) : Bool :=
  !f.sat && !f.useImm && decide (f.sb = 0) && decide (f.sc = 0) && decide (f.imm = 0)
/-- An MXQ slot (R122). -/
def LaneSlot.okMxq (f : LaneSlot) : Bool :=
  !f.sat && !f.useImm && decide (f.sb = 0) && decide (f.sc ≠ f.dst) && decide (3 ≤ f.imm.toNat ∧ f.imm.toNat ≤ 7)
/-- A TRANS slot. -/
def TransSlot.ok (f : TransSlot) : Bool := decide (f.zero = 0)
/-- An LDST slot. -/
def LdstSlot.ok (f : LdstSlot) : Bool := decide (f.zero = 0)

/-- An anvil tile. -/
def TileRef.anvil (t : TileRef) : Bool := decide (t.tile.toNat < 6)
/-- A graver tile. -/
def TileRef.graver (t : TileRef) : Bool := decide (6 ≤ t.tile.toNat)

/-- A port number. -/
def portOk (n : PortNo) : Bool := decide (n.toNat < 6)
/-- A device channel. -/
def channelOk (n : BitVec 10) : Bool := decide (n.toNat < 768)
/-- A planish engine. -/
def engineOk (n : BitVec 5) : Bool := decide (n.toNat < 24)
/-- An event controller and a source of it. -/
def evcOk (e : BitVec 7) (source : BitVec 10) : Bool := decide (e.toNat < 68) && decide (source.toNat < 1024)

/-- A well-formed command. -/
def Instr.wf : Instr → Bool
  | .setar _ _ _ _ _ zero _ => decide (zero = 0)
  | .loop _ _ count _ zero _ => decide (count ≠ 0) && decide (zero = 0)
  | .tileEnd _ wait _ => decide (wait = 0)
  | .mma t f => t.anvil && f.ok
  | .clear t f => t.anvil && f.clearOk
  | .load t f => t.anvil && f.loadOk
  | .store t f => t.anvil && f.storeOk
  | .toCs _ f => f.ok
  | .fromCs _ f => f.ok
  | .fadd t f | .fsub t f | .fmul t f | .fmin t f | .fmax t f | .fceq t f | .fclt t f | .fcle t f
  | .iadd t f | .isub t f | .imul t f | .and t f | .or t f | .xor t f | .shl t f | .shr t f | .sra t f
  | .iceq t f | .iclt t f => t.graver && f.okData false false
  | .fma t f | .sel t f => t.graver && f.okData true false
  | .hadd t f | .hsub t f | .hmul t f | .hmin t f | .hmax t f => t.graver && f.okData false true
  | .hfma t f => t.graver && f.okData true true
  | .cvtFp32ToInt32 t f => t.graver && f.okCvt 0x00 1 false
  | .cvtInt32ToFp32 t f => t.graver && f.okCvt 0x01 1 false
  | .cvtFp32ToBf16 t f => t.graver && f.okCvt 0x02 1 true
  | .cvtBf16ToFp32 t f => t.graver && f.okCvt 0x03 2 false
  | .cvtFp32ToFp16 t f => t.graver && f.okCvt 0x04 1 true
  | .cvtFp16ToFp32 t f => t.graver && f.okCvt 0x05 2 false
  | .cvtFp32ToE4m3 t f => t.graver && f.okCvt 0x06 1 true
  | .cvtE4m3ToFp32 t f => t.graver && f.okCvt 0x07 4 false
  | .cvtFp32ToE5m2 t f => t.graver && f.okCvt 0x08 1 true
  | .cvtE5m2ToFp32 t f => t.graver && f.okCvt 0x09 4 false
  | .cvtFp32ToInt8 t f => t.graver && f.okCvt 0x0A 1 false
  | .cvtInt8ToFp32 t f => t.graver && f.okCvt 0x0B 4 false
  | .perm t f => t.graver && f.okPerm
  | .bcast t f => t.graver && f.okBcast
  | .rsum t f | .rmax t f | .rmin t f => t.graver && f.okReduce
  | .mxq t f => t.graver && f.okMxq
  | .exp t f | .log t f | .rcp t f | .rsqrt t f | .sigmoid t f | .tanh t f | .silu t f => t.graver && f.ok
  | .ld t f | .st t f => t.graver && f.ok
  | .refreshWindow ch _ _ | .holdRefresh ch | .openMask ch _ | .openMin ch _ | .selfRefreshReturn ch => channelOk ch
  | .attn e _ _ _ | .matvec e _ _ _ | .gather e _ _ _ | .scatter e _ _ _ | .topk e _ _ _ | .sum e _ _ _
  | .max e _ _ _ | .min e _ _ _ | .merge e _ _ _ | .copy e _ _ _ | .fill e _ _ _ => engineOk e
  | .descriptorEnd e _ | .openEntryStart e _ | .openEntryEnd e _ _ => engineOk e
  | .evcDoorbell e s | .evcMessage e s | .evcTimeExpiry e s | .evcComplete e s => evcOk e s
  | .evcClaim e _ | .stackClr e _ => evcOk e 0
  | .lnkOwn n _ | .openReserve n _ | .retrain n | .enable n _ | .trainingFrame n _ | .trainDone n _ | .alignDone n _
  | .hello n _ _ _ _ | .encap n _ | .portStateTimeout n | .interval n _ _ | .lostInterval n | .laneSwap n _ _ _
  | .laneSwapStroke n | .keyRefresh n | .echoReq n _ _ | .echoRsp n _ _ _ | .close n _ | .pause n _
  | .scheduledSlot n _ | .openSlot n _ | .scheduledFlit n _ _ _ _ _ _ _ | .markerDiscontinuity n | .holdBegin _ n =>
    portOk n
  | _ => true

end Sys2Proof
end

