-- ==== Sys2Proof/Machine/Words.lean ====
section
/-! DEFINITION. The words of bundles: their slots (R96, R104 to R124), the checks of R129 that one bundle can show, and the
operation that each word spells. -/

namespace Sys2Proof.Machine

/-! ### Slots -/

/-- Bits of a bundle, as a bit vector. -/
def bundleBits (b : BitVec 256) (lo w : Nat) : BitVec w := BitVec.ofNat w (b.toNat / 2 ^ lo)
/-- CTL_OP. -/
def ctlOp (b : BitVec 256) : Nat := bitsOf b.toNat 60 4
/-- WAIT. -/
def ctlWait (b : BitVec 256) : Nat := bitsOf b.toNat 48 12
/-- The matrix slot of an anvil bundle (R109). -/
def mmaOf (b : BitVec 256) : MmaSlot :=
  let f := fun lo w => bundleBits b (64 + lo) w
  ⟨f 58 2, f 54 4, f 50 4, decide (f 49 1 = 1), decide (f 48 1 = 1), decide (f 47 1 = 1), f 43 4, f 39 4, decide (f 38 1 = 1),
    decide (f 37 1 = 1), f 16 21, f 0 16⟩
/-- The accumulator slot (R114). -/
def accOf (b : BitVec 256) : AccSlot :=
  let f := fun lo w => bundleBits b (128 + lo) w
  ⟨f 58 2, f 54 4, decide (f 53 1 = 1), f 49 4, decide (f 48 1 = 1), f 0 48⟩
/-- The transfer slot of either kind of bundle (R117). -/
def xferOf (b : BitVec 256) : XferSlot :=
  let f := fun lo w => bundleBits b (192 + lo) w
  ⟨f 56 4, f 52 4, decide (f 51 1 = 1), decide (f 50 1 = 1), f 16 34, f 0 16⟩
/-- The lane slot of a graver bundle (R118). -/
def laneOf (b : BitVec 256) : LaneSlot :=
  let f := fun lo w => bundleBits b (64 + lo) w
  ⟨decide (f 57 1 = 1), decide (f 56 1 = 1), f 50 6, f 44 6, f 38 6, f 32 6, f 0 32⟩
/-- The transcendental slot (R123). -/
def transOf (b : BitVec 256) : TransSlot := ⟨bundleBits b 150 6, bundleBits b 144 6, bundleBits b 128 16⟩
/-- The load and store slot (R124). -/
def ldstOf (b : BitVec 256) : LdstSlot := ⟨bundleBits b 184 6, bundleBits b 180 4, decide (bundleBits b 179 1 = 1), bundleBits b 160 19⟩

/-- The control slot passes the checks that one bundle can show (R104, R129). -/
def ctlOk (b : BitVec 256) : Bool :=
  let v := b.toNat
  match ctlOp b with
  | 0 => decide (bitsOf v 0 48 = 0)
  | 1 => decide (bitsOf v 0 4 = 0)
  | 2 => decide (bitsOf v 0 28 = 0 ∧ bitsOf v 32 16 ≠ 0)
  | 3 => decide (bitsOf v 0 60 = 0)
  | _ => false
/-- The lane slot passes R129. -/
def laneOk (op : Nat) (f : LaneSlot) : Bool :=
  let two := fun (l : List Nat) => l.contains op
  if op = 4 ∨ op = 0x0A then f.okData true false
  else if op = 0x13 then f.okData true true
  else if two [1, 2, 3, 5, 6, 7, 8, 9, 0x20, 0x21, 0x22, 0x23, 0x24, 0x25, 0x26, 0x27, 0x28, 0x29, 0x2A] then f.okData false false
  else if two [0x10, 0x11, 0x12, 0x14, 0x15] then f.okData false true
  else if op = 0x30 then
    let code := f.imm.toNat % 256
    decide (code ≤ 0x0B) && f.okCvt code (if [3, 5].contains code then 2 else if [7, 9, 0x0B].contains code then 4 else 1)
      ([2, 4, 6, 8].contains code)
  else if op = 0x31 then f.okPerm
  else if op = 0x32 then f.okBcast
  else if op = 0x38 ∨ op = 0x39 ∨ op = 0x3A then f.okReduce
  else if op = 0x3C then f.okMxq
  else false
/-- The transfer slot passes R129. -/
def xferOk (b : BitVec 256) : Bool :=
  let op := bitsOf b.toNat 252 4
  if op = 0 then decide (bitsOf b.toNat 192 64 = 0) else decide (op ≤ 2) && (xferOf b).ok

/-- The opcode of a slot; 0 is NOP (R96, R97). -/
def slotOp (graver : Bool) (b : BitVec 256) (slot : Nat) : Nat :=
  let v := b.toNat
  if slot = 0 then ctlOp b
  else if graver then
    if slot = 1 then bitsOf v 122 6 else if slot = 2 then bitsOf v 156 4 else if slot = 3 then bitsOf v 190 2
    else if slot = 4 then bitsOf v 252 4 else 0
  else if slot = 1 then bitsOf v 124 4 else if slot = 2 then bitsOf v 188 4 else if slot = 3 then bitsOf v 252 4
  else 0
/-- The slots of a bundle, beside the control slot, that are not NOP. -/
def slotsOf (graver : Bool) (b : BitVec 256) : List Nat := [1, 2, 3, 4].filter fun k => decide (slotOp graver b k ≠ 0)
/-- A slot passes the checks of R129 that one bundle can show. -/
def slotOk (graver : Bool) (b : BitVec 256) (slot : Nat) : Bool :=
  let v := b.toNat
  let op := slotOp graver b slot
  if slot = 0 then ctlOk b
  else if graver then
    if slot = 1 then if op = 0 then decide (bitsOf v 64 64 = 0) else laneOk op (laneOf b)
    else if slot = 2 then if op = 0 then decide (bitsOf v 128 32 = 0) else decide (op ≤ 7) && (transOf b).ok
    else if slot = 3 then if op = 0 then decide (bitsOf v 160 32 = 0) else decide (op ≤ 2) && (ldstOf b).ok
    else xferOk b
  else if slot = 1 then if op = 0 then decide (bitsOf v 64 64 = 0) else decide (op = 1) && (mmaOf b).ok
  else if slot = 2 then
    match op with
    | 0 => decide (bitsOf v 128 64 = 0)
    | 1 => (accOf b).clearOk
    | 2 => (accOf b).loadOk
    | 3 => (accOf b).storeOk
    | _ => false
  else if slot = 3 then xferOk b
  else true
/-- A bundle of a tile passes the checks of R129 that one bundle can show. -/
def bundleOk (graver : Bool) (b : BitVec 256) : Bool := (List.range 5).all (slotOk graver b)

/-- Whether a LOOP may stand at a bundle: an even index, a count, at most two loops, and a body inside the outer one (R105,
R129). -/
def Tile.loopOk (t : Tile) (count len : Nat) : Bool :=
  decide (t.index % 2 = 0) && decide (count ≠ 0) &&
    match t.loops with
    | [] => true
    | [o] => decide (t.index + len ≤ o.start + o.len)
    | _ => false
/-- Bundles in the body of a LOOP word (R104). -/
def loopLen (b : BitVec 256) : Nat := 2 * (bitsOf b.toNat 28 4 + 1)
/-- The control slot at a tile's bundle passes what R105 and R129 ask beyond one bundle: where a LOOP that acts stands, and that
END lies in no body. -/
def Tile.placedOk (t : Tile) (b : BitVec 256) : Bool :=
  if ctlOp b = 2 then decide (t.index % 2 = 0) && (t.returned || t.loopOk (bitsOf b.toNat 32 16) (loopLen b))
  else if ctlOp b = 3 then t.loops.isEmpty
  else true
/-- The lowest slot of a tile's bundle that fails R129. -/
def Tile.illegalSlot (t : Tile) (graver : Bool) (b : BitVec 256) : Option Nat :=
  (List.range 5).find? fun k => !slotOk graver b k || (decide (k = 0) && !t.placedOk b)

/-- The loops of a range of bundles, by index: each has an even index, lies in no more than one other, and does not leave it,
and no END lies in a body (R105, R129). -/
def loopsOk (bs : List (Nat × BitVec 256)) : Bool :=
  let loops := (bs.filter fun b => decide (ctlOp b.2 = 2)).map fun b => (b.1, loopLen b.2)
  let inside := fun (i : Nat) (o : Nat × Nat) => decide (o.1 < i ∧ i < o.1 + o.2)
  (loops.all fun l => decide (l.1 % 2 = 0) && decide ((loops.filter (inside l.1)).length ≤ 1) &&
    (loops.filter (inside l.1)).all fun o => decide (l.1 + l.2 ≤ o.1 + o.2)) &&
  bs.all fun b => decide (ctlOp b.2 ≠ 3) || loops.all fun o => !decide (o.1 ≤ b.1 ∧ b.1 < o.1 + o.2)

/-! ### What a word spells (R104, R109, R114, R117, R119, R123, R124) -/

/-- Whether a word's control slot is NOP with a WAIT. -/
def spellsNop (wait : BitVec 12) (b : BitVec 256) : Bool := decide (ctlOp b = 0 ∧ ctlWait b = wait.toNat)
/-- Whether a word's control slot is SETAR with the fields. -/
def spellsSetar (wait : BitVec 12) (ar : BitVec 4) (value stride : BitVec 20) (zero : BitVec 4) (b : BitVec 256) : Bool :=
  decide (ctlOp b = 1 ∧ ctlWait b = wait.toNat ∧ bundleBits b 44 4 = ar ∧ bundleBits b 24 20 = value ∧
    bundleBits b 4 20 = stride ∧ bundleBits b 0 4 = zero)
/-- Whether a word's control slot is LOOP with the fields. -/
def spellsLoop (wait : BitVec 12) (count : BitVec 16) (halfLen : BitVec 4) (zero : BitVec 28) (b : BitVec 256) : Bool :=
  decide (ctlOp b = 2 ∧ ctlWait b = wait.toNat ∧ bundleBits b 32 16 = count ∧ bundleBits b 28 4 = halfLen ∧
    bundleBits b 0 28 = zero)
/-- Whether a word's control slot is END with a WAIT. -/
def spellsEnd (wait : BitVec 12) (b : BitVec 256) : Bool := decide (ctlOp b = 3 ∧ ctlWait b = wait.toNat)
/-- Whether an anvil word's matrix slot is an MMA with the fields. -/
def spellsMma (f : MmaSlot) (ti : Nat) (b : BitVec 256) : Bool := !isGraver ti && decide (slotOp false b 1 = 1 ∧ mmaOf b = f)
/-- Whether an anvil word's accumulator slot has an opcode, 1 CLEAR, 2 LOAD, 3 STORE, with the fields. -/
def spellsAcc (op : Nat) (f : AccSlot) (ti : Nat) (b : BitVec 256) : Bool :=
  !isGraver ti && decide (slotOp false b 2 = op ∧ accOf b = f)
/-- Whether a word's transfer slot has an opcode, 1 TO_CS, 2 FROM_CS, with the fields. -/
def spellsXfer (op : Nat) (f : XferSlot) (b : BitVec 256) : Bool := decide (bitsOf b.toNat 252 4 = op ∧ xferOf b = f)
/-- Whether a graver word's lane slot has an opcode of R119 with the fields. -/
def spellsLane (op : Nat) (f : LaneSlot) (ti : Nat) (b : BitVec 256) : Bool :=
  isGraver ti && decide (slotOp true b 1 = op ∧ laneOf b = f)
/-- Whether a graver word's lane slot is a CVT of a code of R121 with the fields. -/
def spellsCvt (code : Nat) (f : LaneSlot) (ti : Nat) (b : BitVec 256) : Bool :=
  spellsLane 0x30 f ti b && decide (f.imm.toNat % 256 = code)
/-- Whether a graver word's transcendental slot has an opcode of R123 with the fields. -/
def spellsTrans (op : Nat) (f : TransSlot) (ti : Nat) (b : BitVec 256) : Bool :=
  isGraver ti && decide (slotOp true b 2 = op ∧ transOf b = f)
/-- Whether a graver word's load and store slot has an opcode, 1 LD, 2 ST, with the fields. -/
def spellsLdst (op : Nat) (f : LdstSlot) (ti : Nat) (b : BitVec 256) : Bool :=
  isGraver ti && decide (slotOp true b 3 = op ∧ ldstOf b = f)

end Sys2Proof.Machine
end

