-- ==== Sys2Proof/Machine/Ticks.lean ====
section
/-! DEFINITION. Segment ticks of the tiles and of the router's local ports: the accesses of a tick are judged together, bank by
bank, and none of those that meet is performed (R61, R85, R98, R99, R104, R117, R130, R131, R145, R146, R167). -/

namespace Sys2Proof.Machine

/-! ### Running segments -/

/-- Change the planish engines and the on-die network. -/
def State.onEngines (s : State) (f : EngineState → EngineState) : State := { s with engines := f s.engines }
/-- The segment that a partition runs. -/
def State.seg (s : State) (p : Nat) : Option SegRun := s.engines.segs.find p
/-- Write the segment that a partition runs. -/
def State.setSeg (s : State) (p : Nat) (r : SegRun) : State := s.onEngines fun m => { m with segs := m.segs.put p r }
/-- Whether the schedule-driven units of a partition act: it is not held, whose ticks act as gap ticks, and the tick runs (R27,
R98, R148, R315, R414). -/
def State.ticking (s : State) (p : Nat) : Bool := (s.line p).hold.isNone && !s.plant.clock.stopped

/-- The counters of a SCH block at a segment tick: the tick run, and the gap ticks that a gap ratio puts beside it, g to every
64 - g (R31, R98, R532; log entry 96). -/
def State.countTick (s : State) (sl tick g : Nat) : State :=
  (s.count (clusterPage sl 6) 1 1).count (clusterPage sl 6) 2 ((tick + 1) * g / (64 - g) - tick * g / (64 - g))

/-- Whether a tile has operations in flight. -/
def State.anyOps (s : State) (slices : List Nat) : Bool :=
  slices.any fun sl => (List.range 8).any fun ti => !(s.tile sl ti).ops.isEmpty
/-- The least of a list. -/
def leastOf : List Nat → Option Nat
  | [] => none
  | x :: rest => match leastOf rest with
    | some y => some (min x y)
    | none => some x

/-! ### The local port (R145) -/

/-- Lines of an endpoint that an entry reaches: for a tile 64-byte lines, for the cluster store 256-byte lines. -/
def localLines (endpoint addr n w : Nat) : List Nat :=
  if endpoint = 8 then (List.range (w / 4)).map fun k => addr + n * w / 4 + k
  else (List.range w).map fun k => (addr + n * w + k) % sramLines endpoint
/-- The bank of a line of an endpoint (R102). -/
def bankOf (endpoint line : Nat) : Nat := if endpoint = 8 then line % 24 else line % 16
/-- The accesses of lines by the local port: it issued them when the units were taken (R131). -/
def portUses (endpoint taken : Nat) (lines : List Nat) : List BankUse :=
  lines.map fun l => ⟨endpoint, bankOf endpoint l, 8, taken, 6, 0⟩

/-- Write what has come to a local port and meets no other access. -/
def State.portWrite (s : State) (us : List BankUse) (w : PortWrite) : State :=
  if w.endpoint < 8 then
    let t := s.tile w.slice w.endpoint
    s.setTile w.slice w.endpoint { t with sram := w.lines.foldl (fun m e =>
      if clashes us w.endpoint (bankOf w.endpoint e.1) then m else m.put e.1 (e.2.setWidth 512)) t.sram }
  else if w.endpoint = 8 then
    let c := s.cluster w.slice
    s.setCluster w.slice { c with lines := w.lines.foldl (fun m e =>
      if clashes us 8 (bankOf 8 e.1) then m else m.put e.1 e.2) c.lines }
  else
    s.onMem fun m => { m with streams := w.lines.foldl (fun st e => st.adjust (64 * w.slice + e.1) fun x =>
      { x with buffer := x.buffer ++ [(e.2.setWidth 512, w.due)], taken := x.taken + 1 }) m.streams }

/-! ### One tick of a slice -/

/-- The tile that a tick's fault of a slice names, by unit code of R513. -/
abbrev TickFault := Nat × Nat

/-- The accesses of a slice in a tick: its tiles', and the local port's reads and writes. -/
def State.sliceUses (s : State) (sl tick : Nat) (reads : List BankUse) (writes : List PortWrite) : List BankUse :=
  ((List.range 8).flatMap fun ti =>
    let t := s.tile sl ti
    (t.accesses ti tick (t.fetches (Tile.fetchOf ti) tick)).map fun a => a.use t ti tick) ++
  reads ++ writes.flatMap fun w => if w.slice = sl ∧ w.endpoint ≤ 8 then portUses w.endpoint w.taken (w.lines.map Prod.fst) else []

/-- A tick of one tile of a slice whose accesses are known, with the conflict that its record names: one of its own accesses, or
an access of the local port to its SRAM (R61, R131). The faults that act at the tick's end follow. -/
def State.runTile (s : State) (sl ti tick lost : Nat) (us : List BankUse) : List TickFault × State :=
  let t := s.tile sl ti
  let fetches := t.fetches (Tile.fetchOf ti) tick
  let bad := us.filter fun u => clashes us u.endpoint u.bank && (decide (u.tile = ti) || decide (u.endpoint = ti))
  let issues := t.busy && !t.ended && t.ctl.isSome && decide (t.tick = tick)
  if t.ops.isEmpty && !issues && bad.isEmpty then ([], s)
  else
    let s := match firstUse bad with
      | some u => s.bundleFault sl ti u.slot u.bundle Bf.bankConflict
      | none => s
    let s := if issues then
        if isGraver ti then s.count (clusterPage sl (2 + (ti - 6))) 3 1 else s.count (clusterPage sl 4) (6 + ti) 1
      else s
    let r := s.tileTick sl ti tick fetches
      (fun a => clashes us (if a.store then 8 else ti) a.bank) lost
    let x := r.2.tile sl ti
    let y : Tile := match x.ctl with
      | some c => if issues then x.advance c else x
      | none => x
    let s := r.2.setTile sl ti y
    let s := if y.ended ∧ y.busy ∧ y.ops.isEmpty then s.setTileBusy sl ti false else s
    (if !bad.isEmpty || r.1 || (issues && x.fault) then [(sl, ti)] else [], s)

/-- A tick of a slice: every tile's, then the local port's writes. A conflict of the port's accesses alone is the router's. -/
def State.sliceTick (s : State) (sl tick : Nat) (reads : List BankUse) (writes : List PortWrite) :
    List TickFault × List BankUse × State :=
  let us := s.sliceUses sl tick reads writes
  let met := us.any fun u => clashes us u.endpoint u.bank
  let lost := s.freeCtr + 2
  let s := if met then { s with freeCtr := s.freeCtr + 1 } else s
  let r := (List.range 8).foldl (fun (r : List TickFault × State) ti =>
    let x := r.2.runTile sl ti tick lost us
    (r.1 ++ x.1, x.2)) ([], s)
  let s := (writes.filter fun w => decide (w.slice = sl)).foldl (fun s w => s.portWrite us w) r.2
  (r.1 ++ if met ∧ r.1 = [] then [(sl, 9)] else [], us, s)

/-- A tick of slices: the faults that act at its end, and the accesses of each slice. `reads` are the local ports' reads by
slice. -/
def State.tickSlices (s : State) (slices : List Nat) (tick : Nat) (reads : List (Nat × BankUse)) (writes : List PortWrite) :
    List TickFault × List (Nat × List BankUse) × State :=
  slices.foldl (fun (r : List TickFault × List (Nat × List BankUse) × State) sl =>
    let x := r.2.2.sliceTick sl tick ((reads.filter fun e => decide (e.1 = sl)).map Prod.snd) writes
    (r.1 ++ x.1, r.2.1 ++ [(sl, x.2.1)], x.2.2)) ([], [], s)

/-! ### Draining (R85, R167) -/

/-- The last tick in which something is in flight. -/
def State.lastTick (s : State) (slices : List Nat) (r : SegRun) : Nat :=
  ((slices.flatMap fun sl => (List.range 8).flatMap fun ti => (s.tile sl ti).ops.map TileOp.finish) ++
    r.writes.map fun (w : PortWrite) => w.due + 1).foldl max r.tick
/-- Run ticks until no operation and no local write of a partition is in flight; the faults that they meet act at the seam. -/
def State.drainSeg (p : Nat) (slices : List Nat) : Nat → State → State
  | 0, s => s
  | fuel + 1, s =>
    match s.seg p with
    | none => s
    | some r =>
      match if s.anyOps slices then some r.tick else leastOf (r.writes.map PortWrite.due) with
      | none => s
      | some tick =>
        let x := s.tickSlices slices tick [] (r.writes.filter fun w => decide (w.due = tick))
        State.drainSeg p slices fuel (x.2.2.setSeg p { r with
          tick := tick + 1, writes := r.writes.filter fun w => decide (w.due ≠ tick), faults := r.faults ++ x.1 })

/-- A tile issues no further bundle: what the bundle at issue has started is taken back, since its tick has not come, and it is
no longer busy (R85). -/
def State.haltTile (s : State) (sl ti : Nat) : State :=
  let t := s.tile sl ti
  (s.setTile sl ti { t with
    ops := if t.busy ∧ ¬ t.ended then t.ops.filter fun o => decide (o.t0 < t.tick) else t.ops
    posts := [], started := [], ctl := none, fault := false }).setTileBusy sl ti false
/-- Stop the tiles of slices (R85, R395). -/
def State.haltTiles (s : State) (slices : List Nat) : State :=
  slices.foldl (fun s sl => (List.range 8).foldl (fun s ti => s.haltTile sl ti) s) s
/-- Stop the tiles of slices of a partition after a kill: no further bundle issues, and what has issued completes, however long
it runs (R85, R104, R167, R395). -/
def State.stopTiles (s : State) (p : Nat) (slices : List Nat) : State :=
  let s := s.haltTiles slices
  match s.seg p with
  | some r =>
    let s := s.setSeg p { r with flows := [] }
    State.drainSeg p slices (s.lastTick slices r - r.tick + 2) s
  | none => s

end Sys2Proof.Machine
end

