-- ==== Sys2Proof/Machine/Place.lean ====
section
/-! DEFINITION. Fields by the page they lie on, the parts of State that resets act on, slice power states and the pool (R17,
R263, R440 to R446, R523). -/

namespace Sys2Proof.Machine

/-! ### Fields by place -/

/-- The register that holds the field of an identifier. -/
def regOf (id : Nat) : Option (RegDef × Field) :=
  allRegs.findSome? fun r => (r.fields.find? fun f => f.id = id).map fun f => (r, f)

/-- Return to Reset the fields that a test of page, instance (BAR0 page number for the common header) and field picks. -/
def State.dropFields (s : State) (test : Page → Nat → Field → Bool) : State :=
  { s with regs := s.regs.keep fun k _ =>
      match regOf (k / fieldStride) with
      | some (r, f) => !test r.page (k % fieldStride / (if r.page = .hdr ∧ r.count = 31 then 32 else r.count)) f
      | none => true }

/-- Whether a Kept code is – or C. -/
def Kept.upToC (k : Kept) : Bool := decide (k = .none ∨ k = .context)
/-- Whether a Kept code is –, C or E. -/
def Kept.upToE (k : Kept) : Bool := decide (k = .none ∨ k = .context ∨ k = .engine)

/-- Whether a page of a cluster belongs to a slice. -/
def onSlice (page : Page) (inst slice : Nat) : Bool :=
  match page with
  | .cls | .seq | .mtx | .sch | .rtr => decide (inst = slice)
  | .vec => decide (inst / 2 = slice)
  | .hdr => decide (pageSlice inst = some slice)
  | _ => false

/-- Change the plant. -/
def State.onPlant (s : State) (f : PlantState → PlantState) : State := { s with plant := f s.plant }
/-- Change the pins. -/
def State.onPins (s : State) (f : Pins → Pins) : State := s.onPlant fun p => { p with pins := f p.pins }
/-- Change power control. -/
def State.onPower (s : State) (f : PowerState → PowerState) : State := s.onPlant fun p => { p with power := f p.power }
/-- Change the clocks. -/
def State.onClock (s : State) (f : ClockState → ClockState) : State := s.onPlant fun p => { p with clock := f p.clock }
/-- Change the hallmark unit. -/
def State.onSec (s : State) (f : SecState → SecState) : State := s.onPlant fun p => { p with sec := f p.sec }
/-- Change boot, assay and resets. -/
def State.onBoot (s : State) (f : BootState → BootState) : State := s.onPlant fun p => { p with boot := f p.boot }
/-- Change the tray interface. -/
def State.onSide (s : State) (f : SideState → SideState) : State := s.onPlant fun p => { p with side := f p.side }
/-- Change the PCI Express functions. -/
def State.onBus (s : State) (f : BusState → BusState) : State := s.onPlant fun p => { p with bus := f p.bus }
/-- An engine. -/
def State.engine (s : State) (e : Nat) : Engine := s.engines.engines.getD e Engine.reset
/-- Write an engine. -/
def State.setEngine (s : State) (e : Nat) (x : Engine) : State :=
  s.onEngines fun m => { m with engines := m.engines.putD e Engine.reset x }
/-- A node of the on-die network. -/
def State.node (s : State) (n : Nat) : Node := s.engines.nodes.getD n Node.reset
/-- Write a node. -/
def State.setNode (s : State) (n : Nat) (x : Node) : State :=
  s.onEngines fun m => { m with nodes := m.nodes.putD n Node.reset x }
/-- A sequencer. -/
def State.seqr (s : State) (sl : Nat) : Sequencer := s.engines.seqs.getD sl Sequencer.reset
/-- Write a sequencer. -/
def State.setSeqr (s : State) (sl : Nat) (x : Sequencer) : State :=
  s.onEngines fun m => { m with seqs := m.seqs.putD sl Sequencer.reset x }
/-- A line of a sequencer's local memory. Where the hub has loaded firmware, the lowest lines hold it and the rest zero. What a
line holds before anything writes it the spec does not say: a free value (log entry 6, DESIGN CHOICE), and zero after a
zeroising (R270, R444, R477). -/
def State.localLine (s : State) (sl l : Nat) : Line :=
  let x := s.seqr sl
  x.local_.getD l (if x.fill = 2 then
      if l < Config.firmwareLines s.plant.sec.mFw then Config.firmwareLine s.plant.sec.mFw l else 0
    else (unwritten x.fill (placeOf 4 sl 0 l)).setWidth 512)
/-- Write a line of a sequencer's local memory. -/
def State.setLocalLine (s : State) (sl l : Nat) (v : Line) : State :=
  s.setSeqr sl { s.seqr sl with local_ := (s.seqr sl).local_.put l v }
/-- An event controller. -/
def State.evc (s : State) (n : Nat) : Evc := s.evcs.getD n Evc.reset
/-- Write an event controller. -/
def State.setEvc (s : State) (n : Nat) (x : Evc) : State := { s with evcs := s.evcs.putD n Evc.reset x }

/-! ### Slice power states (R440, R460) -/

/-- The power state of a slice, 0 to 4. -/
def State.slicePower (s : State) (sl : Nat) : Nat := s.get Reg.pwrSpState (sl / 16) / 16 ^ (sl % 16) % 16

/-- The device state that the slices show (R446): DS0 while a slice is above SP2, else DS1; DS2 and DS3 stand until left. -/
def State.settleDs (s : State) : State :=
  if s.get Reg.pwrStsDstate 0 = 3 then s
  else
    let low := (List.range 64).all fun sl => decide (2 ≤ s.slicePower sl)
    if s.get Reg.pwrStsDstate 0 = 2 ∧ low then s else s.set Reg.pwrStsDstate 0 (if low then 1 else 0)

/-- The channels of a slice. -/
def sliceChannels (sl : Nat) : List Nat := (List.range 12).map (12 * sl + ·)

/-- Fields with an asterisk of a slice's pages return to Reset and its storage reads zero, with the sequencer's firmware reloaded: the
exit from SP4 (R444). HALT is one of them, so the sequencer is not running (R92). -/
def State.exitSp4 (s : State) (sl : Nat) : State :=
  let s := (s.dropFields fun pg i f => onSlice pg i sl && f.star).set Reg.seqStsRunning sl 0
  let s := (List.range 8).foldl (fun s ti => s.setTile sl ti { Tile.reset with fill := 0, fillRegs := 0 }) s
  let s := (s.setCluster sl { ClusterStore.reset with fill := 0 }).setSeqr sl (Sequencer.reset.filled 2)
  s.setEvc sl Evc.reset

/-- A channel refreshes itself where no access wakes it: its set is free, the device is in DS2 or quenched, or the partition's
slice that it belongs to is in SP3 or SP4 (R445). -/
def State.chAtRest (s : State) (ch : Nat) : Bool :=
  let sl := chSlice ch
  Nat.testBit (s.get Reg.ptnSetsFreeSetsFree 0) sl || decide (s.get Reg.pwrStsDstate 0 = 2) || s.flag Reg.pwrStsQuenched 0 ||
    (!Nat.testBit (s.get Reg.ptnFreeFree 0) sl && decide (3 ≤ s.slicePower sl))

/-- Put a slice in a power state: the exit from SP4 restores its pages (R444), and its channels refresh themselves in SP3
and SP4 (R445). -/
def State.setSlicePower (s : State) (sl st : Nat) : State :=
  let was := s.slicePower sl
  let v := s.get Reg.pwrSpState (sl / 16)
  let s := s.set Reg.pwrSpState (sl / 16) (v - was * 16 ^ (sl % 16) + st * 16 ^ (sl % 16))
  let s := if was = 4 ∧ st ≠ 4 then s.exitSp4 sl else s
  let s := s.set Reg.clkGateDieCls (sl / 16)
    (let m := s.get Reg.clkGateDieCls (sl / 16)
     if st = 0 then m ||| 2 ^ (sl % 16) else m - (m &&& 2 ^ (sl % 16)))
  let s := (sliceChannels sl).foldl (fun s ch =>
    s.setChannel ch { s.channel ch with selfRefresh := s.chAtRest ch, returnAt := none }) s
  s.settleDs

/-- The exit time of a power state, in ns (R440). -/
def exitNs (st : Nat) : Nat := [0, 50, 500, 5000, 50000].getD st 0

/-- The state in which pool slices stand (R460 POOL_STATE). -/
def State.poolState (s : State) : Nat :=
  let v := s.get Reg.pwrLadderPoolState 0
  if 1 ≤ v ∧ v ≤ 4 then v else 4

/-- Pages that go to an owner of another PROFILE show coarsened counters until the next latch (R533). -/
def State.notePages (s : State) (pages : List Nat) (owner : Option Nat) : State :=
  let exact := owner.any fun p => s.flag Reg.ptnpSecProfile p
  let differs := pages.filter fun page =>
    let o := s.get Reg.blkCtlOwner page
    (decide (64 ≤ o) && s.flag Reg.ptnpSecProfile (o % 64)) != exact
  if differs = [] then s else s.onBus fun b => { b with moved := differs ++ b.moved }
/-- OWNER of the pages of slices and of channels (R523). -/
def State.setOwner (s : State) (slices chans : List Nat) (owner : Option Nat) : State :=
  let s := s.notePages ((slices.flatMap fun sl => (List.range 8).map (clusterPage sl)) ++ chans.map mchPage) owner
  let v := match owner with | some p => 64 + p | none => 0
  let s := slices.foldl (fun s sl => (List.range 8).foldl (fun s i => s.set Reg.blkCtlOwner (clusterPage sl i) v) s) s
  chans.foldl (fun s ch =>
    ((s.set Reg.blkCtlOwner (mchPage ch) v).set Reg.mchKeyStsKeyed ch (if owner.isSome then 1 else 0)).set
      Reg.mchKeyStsOwner ch (owner.getD 0)) s

/-- Return slices and channel sets to the pool (R263). -/
def State.toPool (s : State) (slices sets : Nat) : State :=
  let s := (s.setBits Reg.ptnFreeFree 0 slices).setBits Reg.ptnSetsFreeSetsFree 0 sets
  let s := s.setOwner (bitsSet slices) ((bitsSet (slices ||| sets)).flatMap sliceChannels) none
  let s := (bitsSet slices).foldl (fun s sl => s.setSlicePower sl s.poolState) s
  (bitsSet sets).foldl (fun s sl => (sliceChannels sl).foldl (fun s ch =>
    s.setChannel ch { s.channel ch with selfRefresh := true }) s) s

end Sys2Proof.Machine
end

