-- ==== Sys2Proof/Machine/Line.lean ====
section
/-! DEFINITION. The execution line: times of items, records, release, internal commit, kills, voiding and partition faults
(R34 to R57, R376, R395 to R398, R483, R484). -/

namespace Sys2Proof.Machine

/-- The encoding of PTNP_GUAR_STS.LAST_CAUSE (R57). -/
def Cause.code : Cause → Nat
  | .none => 0 | .fault => 1 | .pwrAlert => 2 | .quench => 3 | .lockLost => 4 | .preempt => 5 | .adminReset => 6

/-- The rank of causes that reach a command in one nanosecond, highest first (R54). -/
def Cause.rank : Cause → Nat
  | .quench => 6 | .pwrAlert => 5 | .fault => 4 | .lockLost => 3 | .preempt => 2 | .adminReset => 1 | .none => 0

/-! ### Items -/

/-- The command of an item. -/
def Item.cmd : Item → Option Cmd
  | ⟨.command c, _, _, _, _, _⟩ => some c
  | _ => none
/-- Replace the command of an item. -/
def Item.withCmd (it : Item) (c : Cmd) : Item := { it with kind := .command c }
/-- Whether an item is a tick-source switch, which waits on the line through what clears it (R457). -/
def Item.isSwitch (it : Item) : Bool := match it.kind with | .tickSwitch .. => true | _ => false
/-- Whether an item is a direct launch. -/
def Item.isDirect (it : Item) : Bool := match it.kind with | .direct .. => true | _ => false
/-- Whether an item is a debug item. -/
def Item.isDebug (it : Item) : Bool := match it.kind with | .debug .. => true | _ => false
/-- The commands of a line's items, in order. -/
def ExecLine.cmds (l : ExecLine) : List Cmd := l.items.filterMap Item.cmd
/-- Whether nothing is on the line. -/
def ExecLine.isEmpty (l : ExecLine) : Bool := l.items.isEmpty && l.held.isEmpty && l.killed.isEmpty
/-- The span of an item: D + M of a command, the duration of another item. -/
def Item.span (it : Item) : Nat :=
  match it.kind with
  | .command c => c.d + c.m
  | _ => it.duration
/-- Whether a power alert left an item's command on the line without its promise (R51, R55). -/
def Item.leftOver (it : Item) : Bool := (it.cmd.map fun c => decide (c.voided = some .pwrAlert)).getD false
/-- How many items stand on the line up to the last command that a power alert left. -/
def leftCount : List Item → Nat
  | [] => 0
  | it :: rest => if leftCount rest = 0 ∧ ¬ it.leftOver then 0 else leftCount rest + 1
/-- What is left of the bound of an item at an instant (R55). -/
def Item.remaining (it : Item) (now : Nat) : Nat :=
  match it.started with
  | some t => it.span - (now - t)
  | none => it.span
/-- T_queue_free (R39) at an instant: the latest promised end on the line, held commands included, or 0 for an empty line.
Commands that a power alert left have no promise: the line is free of them when the last one completes by what is left of
its bound and of the bounds ahead of it (R55; log entry 25). -/
def ExecLine.queueFree (l : ExecLine) (now : Nat) : Nat :=
  let k := leftCount l.items
  let left := if k = 0 then 0 else (l.items.take k).foldl (fun t it => t + it.remaining now) now
  max (max left (((l.items.drop k).map Item.tEnd).foldl max 0)) ((l.held.map Cmd.tPromise).foldl max 0)

/-- The earliest instant of an item: T_now + A of a command. -/
def Item.earliest (it : Item) : Nat :=
  match it.kind with
  | .command c => c.tNow + Config.admitNs
  | _ => it.tNow

/-- The bound ends of items in order, after a predecessor's bound end (R398). -/
def boundEnds (pred : Nat) : List Item → List Nat
  | [] => []
  | it :: rest =>
    let b := match it.started with
      | some t => t + it.span
      | none => max it.earliest pred + it.span
    b :: boundEnds b rest

/-- The bound end of the last item, 0 for an empty line (R398, PTNP_LINE_BOUND). -/
def ExecLine.bound (l : ExecLine) : Nat := (boundEnds 0 l.items).getLastD 0

/-- Insert a held command by T_promise (R48). -/
def insertHeld (c : Cmd) : List Cmd → List Cmd
  | [] => [c]
  | h :: rest => if c.tPromise < h.tPromise then c :: h :: rest else h :: insertHeld c rest

/-- Put an item at the end of a line (R34). -/
def State.placeItem (s : State) (p : Nat) (k : ItemKind) (duration : Nat) : State :=
  let l := s.line p
  let tEnd := max s.now (l.queueFree s.now) + duration
  s.setLine p { l with items := l.items ++ [⟨k, s.now, duration, tEnd, none, 0⟩] }

/-! ### Units of a partition -/

/-- Set a field of every slice of a list. -/
def State.setSlices (s : State) (f : Field) (slices : List Nat) (v : Nat) : State :=
  slices.foldl (fun s sl => s.set f sl v) s

/-! ### Uses of regions (R176) -/

/-- Count a use of the regions that a descriptor names (R176). -/
def State.useRegions (s : State) (d : Line) : State :=
  (descRegions d).foldl (fun s r =>
    let x := s.engine r.1
    s.setEngine r.1 { x with regions := x.regions.adjust r.2 fun g => { g with uses := g.uses + 1 } }) s
/-- Remove a region that is freeing and unused, with its reference on the object. -/
def State.sweepRegion (s : State) (e n : Nat) : State :=
  match (s.engine e).regions.find n with
  | some g =>
    if g.freeing ∧ g.uses = 0 then
      (s.setEngine e { s.engine e with regions := (s.engine e).regions.drop n }).unrefObj g.obj 1 0
    else s
  | none => s
/-- End a use of the regions that a descriptor names. -/
def State.unuseRegions (s : State) (d : Line) : State :=
  (descRegions d).foldl (fun s r =>
    let x := s.engine r.1
    (s.setEngine r.1 { x with regions := x.regions.adjust r.2 fun g => { g with uses := g.uses - 1 } }).sweepRegion r.1 r.2) s


/-- Whether an open-queue entry belongs to an open access group of a partition. -/
def OpenEntry.ofGroup (o : OpenEntry) (p : Nat) : Bool :=
  decide (o.ptn = p) && match o.origin with
    | .group _ _ => true
    | _ => false
/-- Whether an open-queue entry is a seam copy of a partition. -/
def OpenEntry.ofMove (o : OpenEntry) (p : Nat) : Bool :=
  decide (o.ptn = p) && match o.origin with
    | .move _ => true
    | _ => false
/-- Take entries of every open queue, and orders that wait for one, away: the regions that they name are used no more (R176,
R187). -/
def State.dropEntries (s : State) (gone : OpenEntry → Bool) : State :=
  let ds := s.engines.engines.vals.flatMap fun e => ((e.queue.vals ++ e.waiting).filter gone).map OpenEntry.desc
  let s := { s with engines := { s.engines with engines := s.engines.engines.mapVal fun _ e => { e with
    queue := e.queue.keep fun _ o => !gone o
    waiting := e.waiting.filter fun o => !gone o } } }
  ds.foldl (fun s d => s.unuseRegions d) s

/-- Stop the planish work of a partition's commands: its groups' descriptors, and the entries and requests of its open
access groups (R187, R195). -/
def State.stopPlanish (s : State) (p : Nat) : State :=
  let s := { s with engines := { s.engines with
    engines := s.engines.engines.mapVal fun _ e => { e with
      running := e.running.drop p }
    points := s.engines.points.mapVal fun _ x => { x with
      reqs := x.reqs.filter fun r => !(decide (r.ptn = p) && r.group.isSome) } } }
  let s := s.dropEntries fun o => o.ofGroup p
  s.engines.engines.entries.foldl (fun s e =>
    let s := if e.2.running.entries = [] then s.set Reg.nmeStsActive e.1 0 else s
    if e.2.queue.vals.any OpenEntry.started then s else s.set Reg.nmeStsOpenBusy e.1 0) s

/-- Count units and answers that a drain discards, in SCH_DISCARD of a slice (R167, R168). -/
def State.noteDiscard (s : State) (sl k : Nat) : State :=
  s.set Reg.schDiscardCount sl (satAdd (2 ^ 32 - 1) (s.get Reg.schDiscardCount sl) k)
/-- Count, after a kill, what is left of a partition's units on the nodes, each at its node's slice or the partition's first, and of
what its streams have read (R167; log entry 98). -/
def State.discardUnits (s : State) (p : Nat) : State :=
  let sls := s.slicesOf p
  let s := s.engines.nodes.entries.foldl (fun s n =>
    let k := (n.2.units.vals.filter fun u => decide (u.ptn = p)).length
    if k = 0 then s else s.noteDiscard (if sls.contains n.1 then n.1 else sls.headD 0) k) s
  s.mem.streams.entries.foldl (fun s e =>
    if e.2.ptn = p ∧ sls.contains (e.1 / 64) ∧ e.2.buffer ≠ [] then s.noteDiscard (e.1 / 64) e.2.buffer.length else s) s
/-- A partition's hop runs and streams are gone, with their units. -/
def State.dropFlows (s : State) (p : Nat) : State :=
  let sl := s.slicesOf p
  let s := s.onEngines fun m => { m with
    nodes := m.nodes.mapVal fun _ n => { n with
      runs := n.runs.filter fun r => decide (r.ptn ≠ p)
      units := n.units.keep fun _ u => decide (u.ptn ≠ p) } }
  s.onMem fun m => { m with streams := m.streams.keep fun k _ => !sl.contains (k / 64) }

/-- Stop the tiles, engines, hop runs, streams and ports of a partition after a kill order: its SCH blocks drain (R167, R168,
R395). -/
def State.stopUnits (s : State) (p : Nat) : State :=
  let sl := s.slicesOf p
  let s := ((s.stopPlanish p).setSlices Reg.schStsState sl 3).stopTiles p sl
  ((s.discardUnits p).dropFlows p).onNet fun n => { n with
    ports := n.ports.mapVal fun _ x => { x with tx := x.tx.filter fun u => decide (u.ptn ≠ p) } }

/-- A partition's segment is over: outside segments the frames of its slices' channels run on from where it left them (R157; log
entry 89, DESIGN CHOICE). -/
def State.endSeg (s : State) (p : Nat) : State :=
  match s.seg p with
  | none => s
  | some r =>
    let sls := s.slicesOf p
    s.onEngines fun m => { m with
      segs := m.segs.drop p
      frames := sls.foldl (fun f sl => f.putD sl 0 (s.get Reg.dieTickTick (sl / 16) - r.tick % 4096)) m.frames }

/-- The transmit and receive queues of a partition are emptied, and its entry in every PAUSE set that a port has sent is cleared, of
which a PAUSE message tells (R314, R323, R342). -/
def State.emptyQueues (s : State) (p : Nat) : State :=
  (List.range 6).foldl (fun s n =>
    let x := s.net.ports.getD n Port.reset
    let mine := fun (l : List PortUnit) => l.filter fun u => decide (u.ptn ≠ p)
    let set := if Nat.testBit x.pausing p then x.pausing - 2 ^ p else x.pausing
    let s := s.onNet fun m => { m with ports := m.ports.putD n Port.reset { x with tx := mine x.tx, rx := mine x.rx, pausing := set } }
    if set = x.pausing then s else s.emit (.control n 0x06 0 0 (BitVec.ofNat 64 set))) s

/-- The partition's SCH blocks are idle, its segment, its hop runs and its streams are gone, and no port holds its units: the seam
(R165, R168). -/
def State.idleUnits (s : State) (p : Nat) : State :=
  let sl := s.slicesOf p
  let s := ((s.endSeg p).dropFlows p).setSlices Reg.schStsState sl 0
  let s := s.setSlices Reg.schStsSegTick sl 0
  let s := s.onNet fun n => { n with
    ports := n.ports.mapVal fun _ x => { x with tx := x.tx.filter fun u => decide (u.ptn ≠ p) } }
  let s := s.onMem fun m => { m with
    caches := m.caches.mapVal fun k w => if sl.contains (k / cacheEntries) then w &&& ~~~(0x80#128) else w }
  s.setLine p { s.line p with idleAt := s.now }

/-! ### References of a command (R378) -/

/-- Take the references of an accepted command. -/
def State.holdRefs (s : State) (c : Cmd) : State :=
  let s := c.objs.foldl (fun s o =>
    match s.host.objs.find (handleSlot o.handle) with
    | some x => s.setObj (handleSlot o.handle)
        { x with hard := x.hard + 1, scratching := x.scratching + if o.role = 2 then 1 else 0 }
    | none => s) s
  let s := c.fences.foldl (fun s k =>
    match s.host.fences.find k with
    | some f => s.setFence k { f with dev := f.dev + 1 }
    | none => s) s
  match s.host.images.find c.image with
  | some i => if c.op = 3 then s else s.setImage c.image { i with dev := i.dev + 1 }
  | none => s

/-- Drop a device reference of an image; the unbind item of a freeing one is placed when none is left (R553). -/
def State.unrefImage (s : State) (k : Nat) : State :=
  match s.host.images.find k with
  | none => s
  | some i =>
    let i' := { i with dev := i.dev - 1 }
    if i'.freeing ∧ i'.dev = 0 ∧ ¬ i'.unbinding then
      (s.setImage k { i' with unbinding := true }).placeItem i.ptn (.unbind k none) 2000
    else s.setImage k i'

/-- Drop the references of an ended command, whose entries of role SCRATCH become VALID or VOID and whose APPEND extents
advance if it was released (R375, R376). -/
def State.dropRefs (s : State) (c : Cmd) (released : Bool) : State :=
  let s := c.objs.foldl (fun s o =>
    let k := handleSlot o.handle
    match s.host.objs.find k with
    | some x =>
      (s.setObj k { x with
        hard := x.hard - 1
        scratching := if o.role = 2 then x.scratching - 1 else x.scratching
        void := if o.role = 2 then !released else x.void
        extent := if o.role = 3 ∧ released then x.extent + 64 * o.lines else x.extent }).sweepObj k
    | none => s) s
  let s := c.fences.foldl (fun s k => s.unrefFence k) s
  if c.op = 3 then s else s.unrefImage c.image

/-- Insert a pair into a list that rises by first component. -/
def insertPair (x : Nat × Nat) : List (Nat × Nat) → List (Nat × Nat)
  | [] => [x]
  | y :: rest => if x.1 < y.1 then x :: y :: rest else y :: insertPair x rest
/-- Sort pairs by first component. -/
def sortPairs (l : List (Nat × Nat)) : List (Nat × Nat) := l.foldl (fun acc x => insertPair x acc) []

/-- Remove unheld entries of a partition in a quarter of the store, least recently used first, until its entries there are
no more than a limit (R253). -/
def State.trimStore (s : State) (p q limit : Nat) : State :=
  let mine := s.mem.allStore.filter fun e => decide (e.1 / 2 ^ 32 = 4 * p + q)
  let unheld := sortPairs ((mine.filter fun e => e.2.holders.isEmpty).map fun e => (e.2.used, e.1))
  let gone := unheld.take (mine.length - limit)
  if gone = [] then s else s.onMem fun m => { m with
    store := m.store.keep fun k e => !gone.contains (e.used, k)
    stales := m.stales.filter fun e => !gone.contains (e.2.used, e.1) }

/-- Release the translation store entries that a command holds (R252); entries beyond a lowered QUOTA and stale entries
go with their last holder (R241, R253). -/
def State.releaseStore (s : State) (p : Nat) (c : Cmd) : State :=
  let drop := fun (e : StoreEntry) => { e with holders := e.holders.filter (· ≠ c.seq) }
  let s := s.onMem fun m => { m with
    store := m.store.mapVal fun k e => if k / 2 ^ 34 = p then drop e else e
    stales := (m.stales.map fun e => if e.1 / 2 ^ 34 = p then (e.1, drop e.2) else e).filter fun e =>
      decide (e.1 / 2 ^ 34 ≠ p) || !e.2.holders.isEmpty }
  (List.range 4).foldl (fun s q => s.trimStore p q (s.get Reg.ptnpXltQuotaQuota p)) s

/-! ### Records (R50, R373) -/

/-- A record of a command. -/
def Cmd.record (c : Cmd) (type status : Nat) (cause : Nat) : CplEntry :=
  { type := type, dep := false, fenceRefused := false, committed := false, status := status, cause := cause
    queue := c.queue, sqHead := c.sqHead, userTag := c.userTag, lineSeq := if c.op = 2 then c.cmdSeq else c.seq, faultCode := 0
    detailCode := 0
    tPromise := c.tPromise, tCommit := 0, tRelease := 0, detail := 0 }

/-- Empty the rings of an instance as INST_RESET does (R365, R366). -/
def State.emptyRings (s : State) (i : Nat) : State :=
  s.onHost fun h => { h with queues := h.queues.mapVal fun k q =>
    if k / 8 = i then
      { q with sqHead := 0, sqTail := 0, cqHead := 0, cqTail := 0, phase := true, used := 0, dmaStop := false,
               waiting := none, bells := [] }
    else q }
/-- Whether a line still has an accepted command of an instance; commands held for paced release count where asked. -/
def ExecLine.busyWith (l : ExecLine) (i : Nat) (withHeld : Bool) : Bool :=
  (l.cmds ++ l.killed.map Prod.fst ++ if withHeld then l.held else []).any fun c => decide (c.inst = i) && !c.remote
/-- An instance whose commands are gone moves on: DRAINING to FREE, where its INST_DESTROY completes, SUSPENDING to SUSPENDED,
and RESETTING, which does not wait for a held command, to ACTIVE or FAULTED, where its INST_RESET completes (R363, R365). -/
def State.settleInst (s : State) (i : Nat) : State :=
  match s.inst i with
  | none => s
  | some x =>
    let l := s.line x.ptn
    if l.busyWith i false then s
    else if x.state = Is.resetting then
      let s := s.emptyRings i
      let s := s.setInst i { x with
        state := if s.ptnState x.ptn = ptnFaulted then Is.faulted else Is.active, wasSuspended := false, reset := none }
      match x.reset with
      | some a => s.complete false a St.success
      | none => s
    else if l.busyWith i true then s
    else if x.state = Is.draining then
      let s := s.onHost fun h => { h with
        insts := h.insts.drop i
        queues := h.queues.keep fun k _ => decide (k / 8 ≠ i)
        logBits := h.logBits.keep fun k _ => decide (k / 2 ^ 25 ≠ i) }
      let s := s.set Reg.ptnpCfgInstances x.ptn (s.get Reg.ptnpCfgInstances x.ptn - 1)
      let owned := (s.host.objs.entries.filter fun e => e.2.owner = some i ∧ ¬ e.2.freeing).map Prod.fst
      let s := owned.foldl (fun s k => (s.freeObj k).2) s
      match x.destroy with
      | some a => s.complete false a St.success
      | none => s
    else if x.state = Is.suspending then
      s.setInst i { x with state := Is.suspended }
    else s
/-- The end of a taken descriptor: its queue has one command fewer without a final record. -/
def State.endTaken (s : State) (c : Cmd) : State :=
  if c.remote then s else
  match s.queue c.inst c.queue with
  | some q => s.setQueue c.inst c.queue { q with taken := q.taken - 1 }
  | none => s

/-- Post a final record and finish the bookkeeping of its command. A member's part of an alloy command has no queue: where a
cause ended it, its record leaves as the member's own (R53). -/
def State.postFinal (s : State) (p : Nat) (c : Cmd) (e : CplEntry) : State :=
  if c.remote then if e.cause = 0 then s else s.emit (.memberRecord p e)
  else ((s.postCq c.inst c.queue e c.notify).endTaken c).settleInst c.inst

/-- Release a command (R46, R47): its fence signal, extents and record become visible. -/
def State.release (s : State) (p : Nat) (c : Cmd) : State :=
  let sig := if c.signalEn then s.signal c.signalFence c.signalValue else (true, s)
  let s := sig.2.dropRefs c true
  let cause := (c.voided.map Cause.code).getD 0
  let status := if c.voided.isSome then St.doneVoided else St.done
  let e := { c.record 3 status cause with
    fenceRefused := !sig.1, committed := true, tCommit := c.commit, tRelease := s.now }
  (if c.voided.isSome then s else s.count (ptnpPage p) 2 1).postFinal p c e

/-- Void a promise: the counter, the cause and the events (R51, R57, R531). -/
def State.voidPromise (s : State) (p : Nat) (cause : Cause) : State :=
  (((s.bump Reg.ptnpGuarStsVoidCount p).set Reg.ptnpGuarStsLastCause p cause.code).event (ptnpPage p) 2).event qmgPage 1

/-- Withdraw a promise: the PROMISE_WITHDRAWN notice is posted, counted and signalled before any part of the kill (R52). -/
def State.withdraw (s : State) (p : Nat) (c : Cmd) (cause : Cause) : State :=
  let s := if c.remote then s else
    s.postCq c.inst c.queue (c.record 2 St.promiseWithdrawn cause.code) true
  (((s.bump Reg.ptnpGuarStsWithdrawnCount p).set Reg.ptnpGuarStsLastCause p cause.code).event (ptnpPage p) 3).event qmgPage 2

/-- Steps 4 and 5 of a kill (R395): scratch-out objects become VOID, tails are discarded, heap blocks freed, holds
released, the final record posted and references dropped. -/
def State.finishKill (s : State) (p : Nat) (k : Cmd × Ending) : State :=
  match k with
  | (c, x) =>
    let s := (((s.dropBlocks p c.seq).releaseStore p c).dropRefs c false).count (ptnpPage p) 3 1
    s.postFinal p c { c.record 3 x.status x.cause.code with
      dep := x.dep.isSome, faultCode := x.faultCode, detail := x.dep.getD x.detail }

/-- The objects that a command writes: SCRATCH, APPEND or HEAP (R376). -/
def Cmd.writes (c : Cmd) : List Nat := (c.objs.filter fun o => decide (2 ≤ o.role)).map fun o => handleSlot o.handle
/-- The objects that a command depends on: INPUT, APPEND or HEAP (R376). -/
def Cmd.reads (c : Cmd) : List Nat := (c.objs.filter fun o => decide (o.role ≠ 2)).map fun o => handleSlot o.handle

/-- What the commands killed so far write: object slot, LINE_SEQ of the command that started the chain, and its ending. -/
abbrev Written := List (Nat × Nat × Ending)

/-- The commands of a line that a kill takes, in line order: those named, and those behind them that R376 kills with them. A
command taken for what it names has the ending of the command that started the chain, with DEP and its LINE_SEQ. -/
def killSet (ks : List (Cmd × Ending)) : Written → List Item → List (Cmd × Ending)
  | _, [] => []
  | w, it :: rest =>
    match it.cmd with
    | none => killSet ks w rest
    | some c =>
      match c.reads.findSome? fun k => w.find? fun e => e.1 = k with
      | some (_, o, e) =>
        let x := ((ks.find? fun k => k.1.seq = c.seq).map Prod.fst).getD c
        (x, { e with dep := some o }) :: killSet ks (w ++ c.writes.map fun k => (k, o, e)) rest
      | none =>
        match ks.find? fun k => k.1.seq = c.seq with
        | some k => k :: killSet ks (w ++ c.writes.map fun j => (j, c.seq, k.2)) rest
        | none => killSet ks w rest

/-- Kill the listed commands of a line: one that has launched waits for the seam, the others end at once (R395). -/
def State.killCmds (s : State) (p : Nat) (ks : List (Cmd × Ending)) : State :=
  let seqs := ks.map fun k => k.1.seq
  let l := s.line p
  let gone := fun (it : Item) => (it.cmd.map fun c => seqs.contains c.seq).getD false
  let launched := (ks.filter fun k => k.1.phase ≠ .waiting).map fun k =>
    (if k.1.voided.isSome then k.1 else { k.1 with causeAt := s.now }, k.2)
  let fresh := ks.filter fun k => k.1.phase = .waiting
  let s := s.setLine p { l with items := l.items.filter fun it => !gone it, killed := l.killed ++ launched }
  let s := if launched = [] then s else s.stopUnits p
  fresh.foldl (fun s k => s.finishKill p k) s

/-- Kill commands of a line with those that depend on them (R376, R395). -/
def State.killWith (s : State) (p : Nat) (ks : List (Cmd × Ending)) : State := s.killCmds p (killSet ks [] (s.line p).items)
/-- Kill one command with those that depend on it. -/
def State.killOne (s : State) (p : Nat) (c : Cmd) (e : Ending) : State := s.killWith p [(c, e)]
/-- Void the promises of commands and of those that depend on them, and kill them (R51, R376). -/
def State.voidAll (s : State) (p : Nat) (cause : Cause) (ks : List (Cmd × Ending)) : State :=
  let all := killSet ks [] (s.line p).items
  let s := all.foldl (fun s k => if k.1.voided.isNone ∧ ¬ k.1.withdrawn then s.voidPromise p cause else s) s
  s.killCmds p all

/-- Give an image's hop blocks back. -/
def State.freeImageBlocks (s : State) (im : Image) : State :=
  im.blocks.foldl (fun s n =>
    let x := s.node n.1
    s.setNode n.1 { x with
      owners := x.owners.keep fun b _ => !n.2.contains b, store := x.store.keep fun k _ => !n.2.contains (k / 4096) }) s
/-- The admin command that placed an item completes with ADM_STATE and the cause, the item having changed nothing (R133);
a debug item that has started ends (R475). -/
def State.cancelItem (s : State) (p : Nat) (cause : Cause) (it : Item) : State :=
  match it.kind with
  | .command _ => s
  | .bind k a =>
    let s := match s.host.images.find k with
      | some im => ((s.freeImageBlocks im).destroyImage k).unrefObj im.obj 0 1
      | none => s
    s.complete false a St.admState cause.code
  | .unbind k a =>
    let s := match s.host.images.find k with
      | some i => s.setImage k { i with unbinding := false, freeing := a.isNone }
      | none => s
    match a with
    | some a => s.complete false a St.admState cause.code
    | none => s
  | .update _ a => s.complete false a St.admState cause.code
  | .reshape _ slices sets plan a =>
    let s := plan.unbinds.foldl (fun s h => match s.findImage h with
      | some (k, im) => s.setImage k { im with freeing := false, unbinding := false }
      | none => s) s
    let s := s.dropEntries fun o => o.ofMove p
    let back := slices - (slices &&& s.get Reg.ptnpSlicesSlices p)
    let backSets := sets - (sets &&& s.get Reg.ptnpSetsSets p)
    (s.toPool back backSets).complete false a St.admState cause.code
  | .park _ a => s.complete false a St.admState cause.code
  | .wake a => match a with
    | some a => s.complete false a St.admState cause.code
    | none => s
  | .debug a => if it.started.isSome then s.set Reg.ptnpSecDbgItem p 0 else s.complete false a St.admState cause.code
  | .direct _ _ _ => s
  | .tickSwitch _ _ => s
  | .leave _ _ a => s.complete true a St.admState cause.code

/-- How the record of a killed command reads: a promise that was voided before keeps its cause (R54). -/
def Cmd.ending (c : Cmd) (now : Nat) (e : Ending) : Ending :=
  match c.voided with
  | some v =>
    if c.causeAt = now ∧ v.rank < e.cause.rank then { e with status := St.killedVoided }
    else { e with status := St.killedVoided, cause := v, faultCode := if v = .fault then e.faultCode else 0 }
  | none => e
/-- A condition that lets a command run on reaches it: the first cause stays, but for one of a higher rank in the same
nanosecond (R51, R54). -/
def Cmd.meet (c : Cmd) (now : Nat) (cause : Cause) : Cmd :=
  if c.withdrawn then c
  else match c.voided with
    | none => { c with voided := some cause, causeAt := now }
    | some v => if c.causeAt = now ∧ v.rank < cause.rank then { c with voided := some cause } else c
/-- A kill that waits for its seam takes a cause of a higher rank that comes in the nanosecond of its own (R54). -/
def State.rankKilled (s : State) (p : Nat) (cause : Cause) (code : Nat) : State :=
  let l := s.line p
  s.setLine p { l with killed := l.killed.map fun k =>
    if k.1.causeAt = s.now ∧ 0 < k.2.cause.rank ∧ k.2.cause.rank < cause.rank then
      (k.1, { k.2 with status := St.killedVoided, cause := cause, faultCode := code })
    else k }
/-- Clear a line for a fault, quench or reset (R51, R133, R274): commands are killed, items that have not started are
removed, a direct launch stops, a debug item ends, and a re-binding item in steps 1 to 3 ends (R271); other started items stay. -/
def State.killLine (s : State) (p : Nat) (e : Ending) : State :=
  let l := s.line p
  let started := fun (it : Item) => it.started.isSome
  let stays := fun (it : Item) =>
    match it.kind with
    | .command _ => true
    | .reshape .. => started it && decide (4 ≤ it.step)
    | .direct .. => false
    | .debug .. => false
    | .tickSwitch .. => true
    | .unbind _ none => true
    | _ => started it
  let gone := l.items.filter fun it => !stays it
  let s := s.setLine p { l with items := l.items.filter stays }
  let s := gone.foldl (fun s it => s.cancelItem p e.cause it) s
  let s := if gone.any fun it => started it then s.set Reg.ptnpCfgItem p 0 else s
  let s := if gone.any fun it => started it && it.isDirect then s.stopUnits p else s
  (s.rankKilled p e.cause e.faultCode).killCmds p ((s.line p).cmds.map fun c => (c, c.ending s.now e))

/-- Void every promise of a line that is still whole; a cause of a higher rank in the same nanosecond is the latest one
(R54, R57). -/
def State.voidLine (s : State) (p : Nat) (cause : Cause) : State :=
  let cs := (s.line p).cmds
  let s' := (cs.filter fun c => c.voided.isNone && !c.withdrawn).foldl (fun s _ => s.voidPromise p cause) s
  if cs.any fun c => decide (c.causeAt = s.now ∧ 0 < (c.voided.getD .none).rank ∧ (c.voided.getD .none).rank < cause.rank) then
    s'.set Reg.ptnpGuarStsLastCause p cause.code
  else s'

/-- Release every held command of a partition at once, voided by a cause; a promise that was voided before keeps its cause
(R49, R54). -/
def State.releaseHeld (s : State) (p : Nat) (cause : Cause) : State :=
  let l := s.line p
  let s := s.setLine p { l with held := [] }
  l.held.foldl (fun s c =>
    (if c.voided.isNone then s.voidPromise p cause else s).release p { c with voided := some (c.voided.getD cause) }) s

/-! ### Alloy messages -/

/-- The tree entry through which a membership sends. -/
def State.tree (s : State) (alloy : Nat) : Option TreeEntry := s.net.trees.find alloy

/-- Send a message on the ports of a mask. -/
def State.sendMask (s : State) (mask opcode seq alloy : Nat) (arg : BitVec 64) : State :=
  ((List.range 6).filter fun n => Nat.testBit mask n && s.portOpen n).foldl
    (fun s n => s.emit (.control n opcode seq alloy arg)) s

/-- Send a VOID for a command on every tree port of an alloy, once for each CMD_SEQ (R321). -/
def State.sendVoid (s : State) (alloy seq : Nat) (cause : Cause) (code : Nat) (from_ : Option Nat) : State :=
  match s.tree alloy with
  | none => s
  | some t =>
    if t.voided.contains seq then s else
    let up := match t.up with | some n => 2 ^ n | none => 0
    let mask := (t.down ||| up) - ((t.down ||| up) &&& (match from_ with | some n => 2 ^ n | none => 0))
    let s := s.onNet fun n => { n with trees := n.trees.put alloy { t with voided := seq :: t.voided } }
    s.sendMask mask 0x13 seq alloy (BitVec.ofNat 64 (code * 256 + cause.code))

/-- Tell the members of an alloy that its commands on this partition are void (R53). -/
def State.voidAlloy (s : State) (p : Nat) (cause : Cause) (code : Nat) : State :=
  let alloy := s.get Reg.ptnpAlloyAlloyId p
  ((s.line p).cmds.filter fun c => c.op = 2).foldl (fun s c => s.sendVoid alloy c.cmdSeq cause code none) s

/-! ### Handoff streams (R293) -/

/-- HOLD_QUERY of a partition, in ns (R301). -/
def State.holdQueryNs (s : State) (p : Nat) : Nat := Nat.max 1 (s.get Reg.ptnpHoCfgHoldQueryMs p) * 1000000
/-- HOLD_LIMIT of a partition, in ns (R301). -/
def State.holdLimitNs (s : State) (p : Nat) : Nat := Nat.max (s.get Reg.ptnpHoCfgHoldLimitMs p * 1000000) (s.holdQueryNs p)
/-- Whether a waiting flit belongs to the handoff stream of a record slot. -/
def State.streamFlit (s : State) (k : Nat) (f : OpenFlit) : Bool :=
  decide (f.otype = 6 ∧ f.tag = k ∧ f.src = s.deviceId) && !f.transit
/-- Stop the stream of an OFFERED record, running or waiting: its unsent flits go and stream end is set (R293 step 4). -/
def State.stopStream (s : State) (k : Nat) : State :=
  match s.net.records.find k with
  | none => s
  | some r =>
    if r.state ≠ 2 ∨ r.streamEnd.isSome then s
    else s.onNet fun n => { n with
      records := n.records.put k { r with
        streaming := false, streamEnd := some s.now, received := [], sends := 0, nextSend := some (s.now + s.holdQueryNs r.ptn) }
      streams := n.streams.filter (· ≠ k)
      ports := n.ports.mapVal fun _ x => { x with openQueue := x.openQueue.filter fun f => !s.streamFlit k f } }
/-- Stop the streams whose route leaves by a port that closes (R293 step 4). -/
def State.stopStreamsOn (s : State) (n : Nat) : State :=
  (s.net.records.entries.filter fun e =>
    e.2.streaming && decide (e.2.peerDevice ≠ s.deviceId ∧ s.net.routes.getD e.2.peerDevice 0xF = n)).foldl
    (fun s e => s.stopStream e.1) s
/-- Stop every stream of a partition. -/
def State.stopStreams (s : State) (p : Nat) : State :=
  (s.net.records.entries.filter fun e => decide (e.2.ptn = p)).foldl (fun s e => s.stopStream e.1) s

/-! ### Partition faults (R484) -/

/-- Change the state of every instance of a partition. -/
def State.onInsts (s : State) (p : Nat) (f : Nat → Inst → Inst) : State :=
  s.onHost fun h => { h with insts := h.insts.mapVal fun i x => if x.ptn = p then f i x else x }

/-- A fault with no unit. -/
def FaultAt.none : FaultAt := ⟨15, 0, 0⟩
/-- A unit of a slice's cluster. -/
def FaultAt.inSlice (unit slice : Nat) : FaultAt := ⟨unit, slice / 16, slice % 16⟩
/-- A channel: die and die-local stack. -/
def FaultAt.channel (ch : Nat) : FaultAt := ⟨10, ch / 192, ch % 192 / 32⟩
/-- A planish engine: die and die-local stack. -/
def FaultAt.engine (e : Nat) : FaultAt := ⟨11, e / 6, e % 6⟩

/-- Set the membership state of a partition, with the register fields that follow it. -/
def State.setMstate (s : State) (p m : Nat) : State :=
  (s.set Reg.ptnpAlloyMstate p m).set Reg.ptnpCfgMember p (if m = Ms.none then 0 else 1)

/-! ### Long messages (R319, R322, R343) -/

/-- Send a long message by the route table. Port 7 stands for the device itself, and a message for an unreachable device is
discarded and counted. -/
def State.sendLong (s : State) (dst kind : Nat) (body : List Nat) : State :=
  let r := s.net.routes.getD dst 0xF
  if r = 0xE ∨ dst = s.deviceId then s.emit (.long 7 kind body)
  else if r < 6 ∧ s.portOpen r then s.emit (.long r kind body)
  else s.bump Reg.lnkCntMisrouted 0

/-- The lead of a partition's alloy. -/
def State.leadDevice (s : State) (p : Nat) : Nat := s.get Reg.ptnpAlloyLeadDevice p

/-- A member's report after a fault reaches the lead; a member keeps its own as well (R283). -/
def State.noteResumed (s : State) (p device : Nat) : State :=
  let m := s.member p
  if m.resumed.contains device then s else s.setMember p { m with resumed := m.resumed ++ [device] }
/-- A member of a FAULTED membership whose partition is ACTIVE and at a seam tells the lead, once (R283). -/
def State.tellResume (s : State) (p : Nat) : State :=
  if s.mstate p ≠ Ms.faulted ∨ s.ptnState p ≠ ptnActive ∨ (s.member p).resumed.contains s.deviceId then s
  else
    let t := s.noteResumed p s.deviceId
    if s.flag Reg.ptnpCfgLead p then t else t.sendLong (s.leadDevice p) 0 [p, 255, s.deviceId]
/-- A membership becomes FAULTED (R279). -/
def State.failMember (s : State) (p : Nat) : State :=
  (s.setMstate p Ms.faulted).setMember p { s.member p with resumed := [] }

/-- Whether the item at the head of a line is a re-binding item that has begun step 4 (R274). -/
def ExecLine.pastMoves (l : ExecLine) : Bool :=
  match l.items.head? with
  | some ⟨.reshape .., _, _, _, some _, n⟩ => decide (4 ≤ n)
  | _ => false

/-- A fault of a partition (R484); one that meets a re-binding item from its step 4 on waits for the item's end (R274). -/
def State.faultPtn (s : State) (p code : Nat) (at_ : FaultAt) : State :=
  let st := s.ptnState p
  if st = ptnFaulted then s.bump Reg.ptnpFaultFaultCount p
  else if st ≠ ptnActive then s
  else if (s.line p).pastMoves then
    if (s.line p).faultDue.isSome then s else s.setLine p { s.line p with faultDue := some (code, at_) }
  else
    let s := s.set Reg.ptnpCfgState p ptnFaulted
    let s := s.onInsts p fun _ x =>
      if x.state = Is.active then { x with state := Is.faulted, wasSuspended := false }
      else if x.state = Is.suspending ∨ x.state = Is.suspended then { x with state := Is.faulted, wasSuspended := true }
      else x
    let s := s.voidAlloy p .fault code
    let s := if s.mstate p = Ms.active ∨ s.mstate p = Ms.leaving then s.failMember p else s
    let s := (s.voidLine p .fault).killLine p ⟨St.killedVoided, .fault, code, none, 0⟩
    let s := s.stopStreams p
    let s := if s.flag Reg.ptnpFaultValid p then s else
      (((((s.raise Reg.ptnpFaultValid p).set Reg.ptnpFaultFaultCode p code).set Reg.ptnpFaultUnit p at_.unit).set
        Reg.ptnpFaultDie p at_.die).set Reg.ptnpFaultCluster p at_.cluster).set Reg.ptnpFaultTimeTFault p s.now
    let s := (s.bump Reg.ptnpFaultFaultCount p).level (ptnpPage p) 20 true
    s.notice St.nFault p (if s.mstate p = Ms.none then 0 else s.get Reg.ptnpAlloyAlloyId p) code

/-- Read lines on behalf of a partition, each counted: the first that is uncorrectable faults the partition, and nothing is passed
on (R219; log entry 91, DESIGN CHOICE for readers that R219 does not list). -/
def State.reading (s : State) (p : Nat) (dpas : List Nat) (bad good : State → State) : State :=
  match s.badLine [] dpas with
  | some d => bad ((s.noteLines [] dpas).faultPtn p Fc.memUe (.channel (dpaChannel d)))
  | none => good (s.noteLines [] dpas)

/-- A fault of the partition that holds a slice, if one does. -/
def State.faultSlice (s : State) (slice code unit : Nat) : State :=
  match s.sliceOwner slice with
  | some p => s.faultPtn p code (.inSlice unit slice)
  | none => s

/-- What an access met in the SECDED codes (R60): a corrected error is counted, and an uncorrectable one is flagged and faults
the partition. -/
def State.bitErrors (s : State) (sl ti : Nat) : BitErrors → State
  | .clean => s
  | .corrected store =>
    if store then s.bump Reg.clsStsStoreEccCorr sl
    else if isGraver ti then s.bump Reg.vecStsEccCorr (vecKey sl ti) else s.bump Reg.mtxStsEccCorr (mtxKey sl ti)
  | .uncorrectable store =>
    (if store then s.raise Reg.clsStsStoreEccUncorr sl
      else if isGraver ti then s.raise Reg.vecStsEccUncorr (vecKey sl ti)
      else s.raise Reg.mtxStsEccUncorr (mtxKey sl ti)).faultSlice sl Fc.tileEcc ti
/-- What several accesses met (R60). -/
def State.allBitErrors (s : State) (sl ti : Nat) (bits : List BitErrors) : State :=
  bits.foldl (fun s b => s.bitErrors sl ti b) s

/-- Fault every partition of a list. -/
def State.faultAll (s : State) (ps : List Nat) (code : Nat) (at_ : FaultAt) : State :=
  ps.foldl (fun s p => s.faultPtn p code at_) s

/-! ### Internal commit and seam -/

/-- Effects that fall at a seam (R165): window writes that waited, the images that INST_IMAGE named, a member's report (R283), and
a fault that the drain before it has met (R85, R130). -/
def State.seamEffects (s : State) (p : Nat) : State :=
  let due := ((s.seg p).map SegRun.faults).getD []
  let s := s.idleUnits p
  let s := (s.channelsOf p).foldl (fun s ch =>
    let c := s.channel ch
    let s := match c.maskNext with | some v => s.set Reg.mchWindowOpenMask ch v | none => s
    let s := match c.minNext with | some v => s.set Reg.mchWincfgOpenMin ch v | none => s
    if c.maskNext.isSome ∨ c.minNext.isSome then s.setChannel ch { c with maskNext := none, minNext := none } else s) s
  let changed := (s.host.insts.entries.filter fun e => decide (e.2.ptn = p) && e.2.nextImage.isSome).map Prod.fst
  let s := s.onInsts p fun _ x => match x.nextImage with
    | some k => { x with image := k, nextImage := none }
    | none => x
  let l := s.line p
  let s := match l.resident with
    | some i => (if changed.contains i then s.setLine p { l with resident := none } else s).tellResume p
    | none => s.tellResume p
  match due with
  | f :: _ => s.faultPtn p Fc.bundle (.inSlice f.2 f.1)
  | [] => s

/-- Finish every kill that waits for the seam (R395 steps 4 and 5). -/
def State.finishKills (s : State) (p : Nat) : State :=
  let l := s.line p
  let s := s.setLine p { l with killed := [] }
  l.killed.foldl (fun s k => s.finishKill p k) s

/-- Internal commit of the running command at the head of the line (R46, R47): its heap calls settle, and it is released
or held for its paced release; the seam falls here (R166). A paced command whose promise a loss of fabric lock voided is
released at its commit, as one that the loss finds held is released at once: the spec speaks only of the latter (R49; log
entry 27, DESIGN CHOICE). -/
def State.commitHead (s : State) (p : Nat) : State :=
  let l := s.line p
  match l.items with
  | ⟨.command c, _, _, _, _, _⟩ :: rest =>
    let c := { c with commit := s.now, phase := .held }
    let s := ((s.settleBlocks p c.seq c.frees).releaseStore p c)
    let late := c.voided.isSome && (decide (c.tPromise < s.now) || decide (c.voided = some .lockLost))
    let s := if c.paced ∧ ¬ late then s.setLine p { l with items := rest, held := insertHeld c l.held }
      else (s.setLine p { l with items := rest }).release p c
    s.seamEffects p
  | _ => s

end Sys2Proof.Machine
end

