-- ==== Sys2Proof/Machine/Scope.lean ====
section
/-! DEFINITION. What resets act on: storage, anneal, context, engine, partition and device resets (R300, R365, R366, R477,
R489 to R507). -/

namespace Sys2Proof.Machine

/-! ### Storage -/

/-- Zeroise everything of a slice that R477 step 3 and R270 step 7 name. -/
def State.zeroiseSlice (s : State) (sl : Nat) : State :=
  let s := (List.range 8).foldl (fun s ti =>
    (s.setTile sl ti { Tile.reset with fill := 0, fillRegs := 0 }).setTileBusy sl ti false) s
  (s.setCluster sl { ClusterStore.reset with fill := 0 }).setSeqr sl ((s.seqr sl).filled 0)

/-- The frames per channel of the bitmaps of R388. -/
def State.framesPerChannel (s : State) : Nat := s.channelLines / 1024

/-- The HANDOFF records of a partition after a partition reset (R300). -/
def State.resetRecords (s : State) (p : Nat) : State :=
  let s := s.stopStreams p
  let gone := (s.net.records.entries.filter fun e => decide (e.2.ptn = p) && decide (e.2.state ≠ 2)).map Prod.fst
  let s := gone.foldl (fun s k => s.onHost fun h => { h with
    recordGens := h.recordGens.putD k 1 (nextGen (h.recordGens.getD k 1)) }) s
  s.onNet fun n => { n with
    records := (n.records.keep fun k _ => !gone.contains k).mapVal fun _ r =>
      if r.ptn = p then { r with dataLost := true } else r
    streams := n.streams.filter fun k => !gone.contains k }

/-! ### Anneal (R477) -/

/-- Steps 1 to 3 of an anneal: the key epoch, seals and sessions, storage, records, images, regions, argument sets and heap
(R477, R507). -/
def State.anneal (s : State) (p : Nat) : State :=
  let sl := s.slicesOf p
  let chans := s.channelsOf p
  -- step 1: the debug item ends, and open requests are granted nothing
  let s := s.set Reg.ptnpSecDbgItem p 0
  -- step 2: crypto-erase
  let s := s.set Reg.ptnpMemEpochEpoch p (s.get Reg.ptnpMemEpochEpoch p + 1)
  let s := s.dropSession p
  let fpc := s.framesPerChannel
  let s := s.onSec fun x => { x with
    unseals := x.unseals.drop p
    sealed := x.sealed.keep fun k _ => !chans.contains (k / fpc) }
  -- step 3: storage of the slices, planish work, records
  let s := sl.foldl (fun s k => s.zeroiseSlice k) s
  let s := sl.foldl (fun s k => (s.setSeqr k (((s.seqr k).filled 2).halted s.now)).setEvc k Evc.reset) s
  let s := (s.resetRecords p).emptyQueues p
  let orders := (s.engines.engines.entries.flatMap fun e =>
    (e.2.queue.vals ++ e.2.waiting).filterMap fun o =>
      match o.origin with
      | .order a => if o.ptn = p then some a else none
      | _ => none)
  let s := s.onEngines fun m => { m with
    engines := m.engines.mapVal fun _ e => { e with
      regions := e.regions.keep fun _ r => decide (r.ptn ≠ p)
      queue := e.queue.keep fun _ o => decide (o.ptn ≠ p)
      waiting := e.waiting.filter fun o => decide (o.ptn ≠ p)
      running := e.running.drop p }
    points := m.points.mapVal fun _ x => { x with reqs := x.reqs.filter fun r => decide (r.ptn ≠ p) }
    nodes := m.nodes.mapVal fun _ n => { n with
      owners := n.owners.keep fun _ q => decide (q ≠ p)
      runs := n.runs.filter fun r => decide (r.ptn ≠ p)
      units := n.units.keep fun _ u => decide (u.ptn ≠ p) } }
  let s := orders.foldl (fun s a => s.complete false a St.admState Cause.adminReset.code) s
  -- R507: images, root, argument sets, heap blocks, objects
  let images := (s.host.images.entries.filter fun e => decide (e.2.ptn = p)).map Prod.fst
  let s := images.foldl (fun s k => s.destroyImage k) s
  let s := s.onHost fun h => { h with
    argsets := h.argsets.keep fun k _ => decide (k / 256 ≠ p)
    heaps := h.heaps.mapVal fun k x => if k = p then { x with blocks := [] } else x
    objs := h.objs.mapVal fun k o =>
      if o.ptn = p then { o with
        void := true, scratching := 0, soft := 0, extent := 0
        hard := (s.net.records.vals.filter fun r => r.holds.contains k).length +
          if (h.heaps.find p).any fun x => decide (x.obj = k) then 1 else 0 } else o
    fences := h.fences.mapVal fun _ f => if f.ptn = p then { f with dev := 0 } else f
    insts := h.insts.mapVal fun _ x => if x.ptn = p then { x with nextImage := none } else x }
  let s := (s.host.objs.entries.filter fun e => decide (e.2.ptn = p)).foldl (fun s e => s.sweepObj e.1) s
  let s := (s.host.fences.entries.filter fun e => decide (e.2.ptn = p) && e.2.freeing).foldl
    (fun s e => s.destroyFence e.1) s
  let s := s.onMem fun m => { m with
    store := m.store.keep fun k _ => decide (k / 2 ^ 34 ≠ p)
    stales := m.stales.filter fun e => decide (e.1 / 2 ^ 34 ≠ p)
    caches := m.caches.keep fun k _ => !sl.contains (k / cacheEntries)
    streams := m.streams.keep fun k _ => !sl.contains (k / 64)
    apCache := m.apCache.keep fun k _ => decide (k / 2 ^ 34 ≠ p) }
  let s := s.set Reg.ptnpXltRootValid p 0
  -- fields with Kept –, C and E of the partition's pages
  s.dropFields fun pg i f => f.kept.upToE &&
    (decide (pg = .ptnp ∧ i = p) || sl.any (onSlice pg i) || (decide (pg = .mch) && chans.contains i) ||
      (decide (pg = .hdr) && (decide (i = ptnpPage p) || chans.any fun c => decide (mchPage c = i))))

/-- Step 5 of an anneal: counters reset, OVERWRITTEN, and the partition is ACTIVE, with its FAULTED instances, or FREE with
its slices, sets, slots and quota back in the pool (R265, R266, R366, R477). -/
def State.endAnneal (s : State) (r : ResetRun) (overwritten : Bool) : State :=
  let p := r.ptn
  let sl := s.slicesOf p
  let pages := ptnpPage p :: (sl.flatMap fun k => (List.range 8).map (clusterPage k)) ++ (s.channelsOf p).map mchPage
  let s := s.dropFields fun pg i f => decide (pg = .hdr ∧ f.id = Reg.countCount.id) && pages.contains i
  let s := s.onBus fun b => { b with shown := b.shown.keep fun k _ => !pages.contains (k / 32) }
  let s := s.set Reg.ptnpSecOverwritten p (if overwritten then 1 else 0)
  let s := (s.level (ptnpPage p) 20 false).onBoot fun b => { b with
    resets := b.resets.filter fun x => decide (¬ (x.level = 3 ∧ x.ptn = p)) }
  let s := s.setLine p { ExecLine.empty with
    items := (s.line p).items, seq := (s.line p).seq, cmdSeq := (s.line p).cmdSeq, held := (s.line p).held, idleAt := s.now }
  let s :=
    if r.destroy then
      let slices := s.get Reg.ptnpSlicesSlices p
      let sets := s.get Reg.ptnpSetsSets p
      let s := ((s.set Reg.ptnpSlicesSlices p 0).set Reg.ptnpSetsSets p 0).toPool slices sets
      let s := (s.set Reg.ptnpXltQuotaQuota p 0).set Reg.blkCtlOwner (ptnpPage p) 0
      let s := s.onNet fun n => { n with slots := n.slots.keep fun _ v => decide (v ≠ 0x80 + p) }
      let s := s.onSec fun x => { x with packages := x.packages.drop p }
      let s := match s.host.heaps.find p with
        | some hp => (s.onHost fun h => { h with heaps := h.heaps.drop p }).unrefObj hp.obj 0 1
        | none => s
      s.set Reg.ptnpCfgState p ptnFree
    else
      let back := (s.host.insts.entries.filter fun e => decide (e.2.ptn = p) && decide (e.2.state = Is.faulted)).map Prod.fst
      let s := back.foldl (fun s i => s.emptyRings i) s
      let s := s.onInsts p fun _ x =>
        if x.state = Is.faulted then { x with state := if x.wasSuspended then Is.suspended else Is.active } else x
      s.set Reg.ptnpCfgState p ptnActive
  match r.adm with
  | some a => s.complete false a St.success
  | none => s

/-- Start the reset of a partition whose line has been killed: its seam is reached, its slices come to SP0, and it anneals;
without an overwrite it ends at once (R441, R477, R492). -/
def State.startAnneal (s : State) (p : Nat) (destroy : Bool) (adm : Option Adm) : State :=
  let s := s.finishKills p
  let s := s.idleUnits p
  let s := (s.line p).items.foldl (fun s it => s.cancelItem p .adminReset it) s
  let s := s.setLine p { (s.line p) with
    items := (s.line p).items.filter Item.isSwitch, resident := none, hold := none, arrivals := [], seq := 0 }
  let ow := s.flag Reg.ptnpSecOverwrite p
  let s := ((s.slicesOf p).foldl (fun s sl => s.setSlicePower sl 0) s).anneal p
  let r : ResetRun := ⟨3, p, 0, adm, ow, destroy⟩
  if ow then s.onBoot fun b => { b with resets := b.resets ++ [r] } else s.endAnneal r false

/-! ### Context reset (R365, R493) -/

/-- The commands of an instance on its line that a reset kills: not those held for paced release (R49). -/
def State.instVictims (s : State) (i : Nat) : List Cmd :=
  match s.inst i with
  | some x => (s.line x.ptn).cmds.filter fun c => decide (c.inst = i) && !c.remote
  | none => []

/-- PROMISE_WITHDRAWN for a victim, and for an alloy command an ABORT down the lead's tree (R52, R405). -/
def State.withdrawAbort (s : State) (p : Nat) (c : Cmd) (cause : Cause) : State :=
  let s := s.withdraw p c cause
  let alloy := s.get Reg.ptnpAlloyAlloyId p
  if c.op = 2 ∧ ¬ c.remote then
    match s.tree alloy with
    | some t => s.sendMask t.down 0x14 c.cmdSeq alloy (BitVec.ofNat 64 cause.code)
    | none => s
  else s
/-- Withdraw and kill commands of a line with those that depend on them: every notice before any kill (R52, R376, R395). -/
def State.withdrawAll (s : State) (p : Nat) (cause : Cause) (ks : List (Cmd × Ending)) : State :=
  let all := killSet ks [] (s.line p).items
  let s := all.foldl (fun s k => s.withdrawAbort p k.1 cause) s
  s.killCmds p (all.map fun k => ({ k.1 with withdrawn := true }, k.2))
/-- Withdraw and kill the commands of an instance, with cause ADMIN_RESET (R52, R365). -/
def State.squash (s : State) (i : Nat) : State :=
  match s.inst i with
  | none => s
  | some x => s.withdrawAll x.ptn .adminReset
      ((s.instVictims i).map fun c => (c, c.ending s.now ⟨St.killed, .adminReset, 0, none, 0⟩))
/-- The context reset of an instance: its victims are killed, and it is RESETTING until they are gone (R363, R365). -/
def State.contextReset (s : State) (i : Nat) (adm : Option Adm) : State :=
  let s := s.squash i
  match s.inst i with
  | some x => (s.setInst i { x with state := Is.resetting, reset := adm }).settleInst i
  | none => s

/-! ### Engine reset (R491) -/

/-- Out of HALT: the sequencer starts at BOOT_PC, whose bit 0 is ignored, and a heartbeat period begins (R90, R92). -/
def State.startSeq (s : State) (sl : Nat) : State :=
  let s := (s.set Reg.seqCtlHalt sl 0).set Reg.seqStsRunning sl 1
  s.setSeqr sl { s.seqr sl with
    beatAt := s.now, beat := s.get Reg.seqHeartbeatCount sl, launchAt := none
    core := .start (BitVec.ofNat 64 (s.get Reg.seqBootBootPc sl / 2 * 2)) s.now }

/-- Reset the named tiles of a cluster, or the whole cluster for a mask of 0. -/
def State.engineReset (s : State) (sl mask : Nat) : State :=
  let tiles := if mask = 0 then List.range 8 else (List.range 8).filter fun t => Nat.testBit mask t
  let s := tiles.foldl (fun s ti =>
    let t := s.tile sl ti
    (s.setTile sl ti { Tile.reset with fill := t.fill, fillRegs := 0, sram := t.sram }).setTileBusy sl ti false) s
  let s :=
    if mask = 0 then
      let s := ((s.setSeqr sl (Sequencer.reset.filled 2)).setEvc sl Evc.reset).set Reg.schStsState sl 0
      s.dropFields fun pg i f => onSlice pg i sl && f.kept.upToC &&
        decide (pg ≠ .rtr ∧ ¬ (pg = .hdr ∧ i = clusterPage sl 7))
    else
      s.dropFields fun pg i f => f.kept.upToC &&
        ((decide (pg = .vec) && tiles.any fun t => decide (6 ≤ t ∧ i = 2 * sl + (t - 6))))
  -- the reloaded firmware starts
  if mask = 0 then s.startSeq sl else s

/-! ### Device reset (R495, R497, R507) -/

/-- The final record of every accepted command at the end of the device: KILLED_VOIDED with cause FAULT, or with the cause
that reached the command first, for one that has not committed, and DONE_VOIDED for one held for its paced release (R49,
R50, R51, R54, R485, R495 step 1). Members of its alloys are told (R53). -/
def State.recordsOfAll (s : State) (code : Nat) : State :=
  (List.range 64).foldl (fun s p =>
    let s := s.voidAlloy p .fault code
    let l := s.line p
    let ending : Ending := ⟨St.killedVoided, .fault, code, none, 0⟩
    let ends := (l.cmds.map fun c => (c, c.ending s.now ending)) ++ l.killed
    let s := s.setLine p { l with items := l.items.filter fun it => it.cmd.isNone, held := [], killed := [] }
    let s := l.held.foldl (fun s c =>
      let cause := c.voided.getD .fault
      s.postFinal p c { c.record 3 St.doneVoided cause.code with
        committed := true, tCommit := c.commit, tRelease := s.now, faultCode := if cause = .fault then code else 0 }) s
    ends.foldl (fun s k =>
      s.postFinal p k.1 { k.1.record 3 k.2.status k.2.cause.code with
        dep := k.2.dep.isSome, faultCode := k.2.faultCode, detail := k.2.dep.getD k.2.detail }) s) s

/-- Send CLOSE on every OPEN port (R342). -/
def State.closeAll (s : State) (cause : Nat) : State :=
  s.openPorts.foldl (fun s n => s.emit (.control n 0x05 0 0 (BitVec.ofNat 64 cause))) s

/-- What a boot loads from OTP and the NVM record (R19, R287, R392, R529): fields that they back stay, DEVICE_ID comes from
ID_NEXT, the mode from COMPAT_NEXT and the bifurcation from BIFURCATE_NEXT. -/
def State.reload (s : State) : State :=
  ((s.set Reg.glbDevidDeviceId 0 (s.get Reg.glbDevidIdNext 0)).set Reg.ptnModeCompat 0 (s.get Reg.ptnModeCompatNext 0)).set
    Reg.hifCfgBifurcated 0 (s.get Reg.hifCfgBifurcateNext 0)

/-- Everything but the always-on domain is in reset: fields keep D, memory is unreadable under a new salt, and the boot ROM
runs (R495 steps 2 and 3, R507). A PWR_ALERT_N that stays asserted stays in force (R454). -/
def State.restart (s : State) (cause fault : Nat) : State :=
  let s := s.dropFields fun _ _ f => decide (f.kept ≠ .device)
  let s := { s with
    host := HostSide.reset, evcs := .empty, msgs := [], net := { NetState.reset with frac := s.net.frac }, tiles := .empty, clusters := .empty
    engines := EngineState.reset
    mem := { MemState.reset with lines := s.mem.lines, salt := s.mem.salt + 1 } }
  let s := s.onPlant fun p => { p with
    clock := ⟨false, 0, none⟩
    power := PlantState.reset.power
    sec := { PlantState.reset.sec with banks := p.sec.banks }
    boot := { PlantState.reset.boot with
      unfused := p.boot.unfused, fenced := p.boot.fenced, steered := p.boot.steered, failedSlices := p.boot.failedSlices, failedSets := p.boot.failedSets
      failedPorts := p.boot.failedPorts, held := p.boot.held, bootAt := s.now }
    bus := { p.bus with shown := .empty, moved := [] } }
  let s := if s.plant.pins.alert then s.raise Reg.pwrStsAlert 0 else s
  (((s.set Reg.rstStsLastCause 0 cause).set Reg.rstStsLastFault 0 fault).set Reg.rstBootPhase 0 0).reload

/-- Assert FAULT_N and its In-Band Interrupt (R485, R547). -/
def State.assertFault (s : State) : State :=
  if s.plant.pins.fault then s else
    (s.onPins fun x => { x with fault := true }).onSide fun x => { x with ibis := x.ibis ++ [1] }

/-- A device reset (R495). -/
def State.deviceReset (s : State) (records : Bool) (cause fault : Nat) : State :=
  let s := if records then (s.recordsOfAll fault).closeAll 5 else s
  s.assertFault.restart cause fault

/-- A power-cycle request (R497): the accepted commands have their final records, and what runs of them stops. -/
def State.powerCycle (s : State) : State :=
  let s := (List.range 64).foldl (fun s p => if (s.line p).cmds = [] then s else s.stopUnits p) s
  let s := ((s.recordsOfAll 0x62).closeAll 5).assertFault
  let s := (s.raise Reg.rstStsCycleReq 0).onPins fun x => { x with cycleReq := true }
  s.onSide fun x => { x with ibis := x.ibis ++ [3] }

/-- A hub fault (R485): FAULT_N, records, and a device reset with cause 3. -/
def State.hubFault (s : State) (posted : Bool) : State :=
  let s := s.assertFault
  let s := if posted then s.recordsOfAll 0x60 else s.raise Reg.rstStsRecordsLost 0
  s.deviceReset false 3 0x60

/-- Fault a partition, or reset the level above, when a reset overruns (R489, R490). -/
def State.escalated (s : State) : State := s.raise Reg.rstStsOverrun 0

end Sys2Proof.Machine
end

