-- ==== Sys2Proof/Machine/Admin.lean ====
section
/-! DEFINITION. How the hub takes an admin command (R356 to R358). -/

namespace Sys2Proof.Machine

/-- Take an admin command from its ring and act on it: ADM_FORMAT where its layout or an argument value breaks R357, else its
effect. Nothing happens where the ring gives the hub no command. -/
def State.takeAnd (s : State) (fm : Bool) (a : Adm) (ok : Bool) (go : State → State) : State :=
  if s.canTake fm then
    let s := s.takeAdm fm
    if ¬ a.layoutOk ∨ ¬ ok then s.complete fm a St.admFormat else go s
  else s
/-- The same, with ADM_DMA where a DMA of a buffer that it names failed (R352, R358). -/
def State.admin (s : State) (fm : Bool) (a : Adm) (ok : Bool) (go : State → State) : State :=
  s.takeAnd fm a ok fun s => if a.dmaErr then (s.raise Reg.hifStsDmaErr 0).complete fm a St.admDma else go s

/-- Whether a partition number is one of the 64, in a byte (R357). -/
def ptnOk (p : Byte) : Bool := decide (p.toNat < 64)

end Sys2Proof.Machine
end

