-- ==== Sys2Proof/Machine/Ports.lean ====
section
/-! DEFINITION. Link ports: bring-up, closing, loss, lanes, fabric time, slots and flow control (R302 to R342). -/

namespace Sys2Proof.Machine

/-! ### Ports -/

/-- A port beyond its registers. -/
def State.port (s : State) (n : Nat) : Port := s.net.ports.getD n Port.reset
/-- Write a port. -/
def State.setPort (s : State) (n : Nat) (x : Port) : State :=
  s.onNet fun m => { m with ports := m.ports.putD n Port.reset x }
/-- The state code of a port (R339). -/
def State.portState (s : State) (n : Nat) : Nat := s.get Reg.lnkStsState n
/-- Enter a port state. -/
def State.enterPort (s : State) (n st : Nat) : State :=
  (s.set Reg.lnkStsState n st).setPort n { s.port n with since := s.now }
/-- A port as the place of a fault. -/
def FaultAt.port (n : Nat) : FaultAt := ⟨12, if n < 4 then n else 0, 0⟩

/-- Whether a partition holds a slot of a port direction. -/
def State.holdsSlots (s : State) (n dir p : Nat) : Bool :=
  s.net.slots.entries.any fun e => decide (e.1 / 8192 = 2 * n + dir) && decide (e.2 = 0x80 + p)
/-- How many slots of a port direction a partition holds. -/
def State.slotCount (s : State) (n dir p : Nat) : Nat :=
  (s.net.slots.entries.filter fun e => decide (e.1 / 8192 = 2 * n + dir) && decide (e.2 = 0x80 + p)).length

/-- Whether a tree entry uses a port. -/
def TreeEntry.uses (t : TreeEntry) (n : Nat) : Bool := decide (t.up = some n) || Nat.testBit t.down n

/-- The partitions that a loss on a port faults: those that hold scheduled slots on the lost directions, and local members
of alloys whose tree uses the port (R327). -/
def State.portUsers (s : State) (n : Nat) (dirs : List Nat) : List Nat :=
  (List.range 64).filter fun p =>
    (dirs.any fun d => s.holdsSlots n d p) ||
      s.net.trees.entries.any fun e => e.2.uses n && decide (e.2.member = some p)

/-! ### Loss of fabric lock (R51, R56, R334) -/

/-- The device is locked to fabric time or is a fabric of one (R333). -/
def State.timeLocked (s : State) : Bool :=
  let l := s.get Reg.ftmStsLstate 0
  decide (l = Ts.local ∨ l = Ts.root ∨ l = Ts.locked)

/-- Loss of fabric lock on one partition: every promise is voided, local commands that run go on, alloy commands and those
that have not launched are killed, and held commands are released at once (R49, R51). -/
def State.loseLockPtn (s : State) (p : Nat) : State :=
  let s := s.releaseHeld p .lockLost
  let whole := (s.line p).cmds.filter fun c => c.voided.isNone && !c.withdrawn
  let s := whole.foldl (fun s _ => s.voidPromise p .lockLost) s
  let l := s.line p
  let s := s.setLine p { l with items := l.items.map fun it =>
    match it.cmd with
    | some c => it.withCmd (c.meet s.now .lockLost)
    | none => it }
  let s := (s.voidAlloy p .lockLost 0).rankKilled p .lockLost 0
  let victims := (s.line p).cmds.filter fun c => decide (c.op = 2) || decide (c.phase = .waiting)
  s.killCmds p (victims.map fun c => (c, ⟨St.killedVoided, c.voided.getD .lockLost, 0, none, 0⟩))

/-- The device has lost fabric lock: promises, the event and the notice. -/
def State.loseLock (s : State) : State :=
  let s := (List.range 64).foldl (fun s p => if (s.line p).isEmpty then s else s.loseLockPtn p) s
  s.event qmgPage 4

/-- The port of the parent in use (R335), 7 for none. -/
def State.parentPort (s : State) : Nat :=
  if s.net.altInUse then s.get Reg.ftmCfgAltParent 0 else s.get Reg.ftmCfgParent 0
/-- TIME_PARENT of every port follows the parent in use. -/
def State.settleParent (s : State) : State :=
  (List.range 6).foldl (fun s n => s.set Reg.lnkStsTimeParent n
    (if s.get Reg.ftmCfgRole 0 = 2 ∧ s.parentPort = n then 1 else 0)) s

/-- ROLE, with 3 taken as 0 (R348). -/
def State.role (s : State) : Nat := if s.get Reg.ftmCfgRole 0 = 3 then 0 else s.get Reg.ftmCfgRole 0

/-- Send TIME on every OPEN port but one (R331). -/
def State.sendTime (s : State) (valid : Bool) (hops root except : Nat) : State :=
  (s.openPorts.filter (· ≠ except)).foldl (fun s n =>
    s.emit (.control n 0x01 ((if valid then 0x80 else 0) + hops % 64) root
      (BitVec.ofNat 64 (s.now / 1000 * 1000)))) s

/-- The stroke begins: a device in ROOT sends TIME from every open port, with HOPS 0 (R331; a child sends its own when its parent's
arrives, log entry 95). -/
def State.strokeTime (s : State) : State :=
  if s.now % 1000 = 0 ∧ s.get Reg.ftmStsLstate 0 = Ts.root then s.sendTime true 0 s.deviceId 6 else s

/-- The parent is lost (R334, R335): LOCKED moves to the alternate parent where that is good, else to HOLDOVER; ACQUIRING
falls to UNLOCKED. -/
def State.loseParent (s : State) : State :=
  let l := s.get Reg.ftmStsLstate 0
  if l = Ts.locked then
    let alt := s.get Reg.ftmCfgAltParent 0
    if ¬ s.net.altInUse ∧ s.net.altGood ∧ alt < 6 ∧ s.portOpen alt then
      ((s.raise Reg.ftmStsFailover 0).onNet fun m => { m with altInUse := true, missStrokes := 0 }).settleParent
    else
      let s := (s.set Reg.ftmStsLstate 0 Ts.holdover).raise Reg.ftmStsLost 0
      let s := s.onNet fun m => { m with goodStrokes := 0, missStrokes := 0, rootHeard := none }
      let s := (s.loseLock.notice St.nLockLost 0 0 0)
      s.sendTime false 0 (s.get Reg.ftmStsRootDevice 0) 7
  else if l = Ts.acquiring then
    (s.set Reg.ftmStsLstate 0 Ts.unlocked).onNet fun m => { m with goodStrokes := 0, missStrokes := 0, rootHeard := none }
  else s

/-- PARENT_LOST: the conditions of R334 hold for the parent in use. -/
def execParentLost (s : State) : StepOut := .next s.loseParent

/-- PARENT_USABLE (R336): from HOLDOVER to ACQUIRING, once the parent's port is OPEN. -/
def execParentUsable (s : State) : StepOut :=
  .next (if s.get Reg.ftmStsLstate 0 = Ts.holdover ∧ s.parentPort < 6 ∧ s.portOpen s.parentPort then
    (s.set Reg.ftmStsLstate 0 Ts.acquiring).onNet fun m => { m with goodStrokes := 0, missStrokes := 0 }
  else s)

/-! ### Closing (R339, R342) -/

/-- Close a port that has left DOWN, with a cause code of LAST_CLOSE. -/
def State.closePort (s : State) (n cause : Nat) : State :=
  let st := s.portState n
  if st < 2 then s
  else
    let x := s.port n
    let s := if x.keys then s.emit (.control n 0x05 0 0 (BitVec.ofNat 64 cause)) else s
    let s := s.setPort n { x with
      keys := false, keyEpoch := 0, helloOk := false, swap := none, txSwap := none, txLanes := .empty, lanes := []
      spares := [], echoes := 0, echoSum := 0, lostRun := 0, aligned := 0 }
    let s := (s.set Reg.lnkStsLastClose n cause).enterPort n 1
    let s := if s.get Reg.clkAonTrimSrc 0 = 2 + n then s.set Reg.clkAonTrimmed 0 0 else s
    let s := s.notice St.nPortClosed 0 0 (n + 256 * cause)
    if st = 6 then
      let s := (s.stopStreamsOn n).faultAll (s.portUsers n [0, 1]) Fc.strokeLoss (.port n)
      if s.flag Reg.lnkStsTimeParent n then s.loseParent else s
    else s

/-- Close cause PEER. -/
def Cl.peer : Nat := 1
/-- Close cause LOSS. -/
def Cl.loss : Nat := 2
/-- Close cause LANES. -/
def Cl.lanes : Nat := 3
/-- Close cause ADMIN. -/
def Cl.admin : Nat := 4
/-- Close cause KEY. -/
def Cl.key : Nat := 6
/-- Close cause TIMEOUT. -/
def Cl.timeout : Nat := 7

/-- CLOSE from the peer (R339). -/
def execClose (port : PortNo) (_cause : Byte) (s : State) : StepOut :=
  let n := port.toNat
  .next (if n < 6 ∧ 3 ≤ s.portState n then s.closePort n Cl.peer else s)

/-- A port state overran its bound: 100 ms in TRAIN, 1 ms in ALIGN, 40 ms in SECURE, 100 µs in MEASURE (R339). -/
def portBound (st : Nat) : Option Nat :=
  if st = 2 then some 100000000 else if st = 3 then some 1000000 else if st = 4 then some 40000000
  else if st = 5 then some 100000 else none

/-- PORT_STATE_TIMEOUT (R339). -/
def execPortStateTimeout (port : PortNo) (s : State) : StepOut :=
  let n := port.toNat
  .next (match portBound (s.portState n) with
    | some b =>
      if n < 6 then (s.atLeast ((s.port n).since + b)).closePort n Cl.timeout else s
    | none => s)

/-! ### Bring-up (R304, R324, R330, R339) -/

/-- How many bits are set. -/
def popcount (w v : Nat) : Nat := ((List.range w).filter fun k => Nat.testBit v k).length

/-- A received training frame or BRINGUP exchange of a port that is not OPEN: it acts on at most one every 10 µs, and discards and
counts the others (R341). -/
def State.received (s : State) (n : Nat) (act : State → State) : State :=
  if ((s.port n).acted.map fun t => decide (s.now < t + 10000)).getD false then s.bump Reg.lnkCntMisrouted n
  else act (s.setPort n { s.port n with acted := some s.now })
/-- A message or flit other than those for a port that is not OPEN is discarded and counted (R341). -/
def State.strayed (s : State) (n : Nat) : State := if n < 6 ∧ ¬ s.portOpen n then s.bump Reg.lnkCntMisrouted n else s
/-- A BRINGUP flit in state OPEN is discarded and counted (R311). -/
def State.lateBringUp (s : State) (n : Nat) : State := if n < 6 ∧ s.portOpen n then s.bump Reg.lnkCntMisrouted n else s

/-- TRAINING_FRAME: peer frames on 64 or more lanes take a port from DOWN to TRAIN (R339). -/
def execTrainingFrame (port : PortNo) (lanes : BitVec 68) (s : State) : StepOut :=
  let n := port.toNat
  .next (if n < 6 ∧ s.portState n = 1 then
      s.received n fun s => if 64 ≤ popcount 68 lanes.toNat then s.enterPort n 2 else s
    else s)

/-- The lanes of a training result, lowest ratio first. -/
def insertLane (x : Nat × Nat) : List (Nat × Nat) → List (Nat × Nat)
  | [] => [x]
  | y :: rest => if x.1 < y.1 then x :: y :: rest else y :: insertLane x rest

/-- Lanes by ratio and then by number. -/
def sortLanes (ber : List (BitVec 32)) : List (Nat × Nat) :=
  (((List.range ber.length).zip ber).foldl (fun acc e => insertLane (e.2.toNat, e.1) acc) [])

/-- TRAIN_DONE (R304): the 64 lanes of the lowest bit error ratio, each below 10⁻⁵ (the ratios come in units of 10⁻⁹),
become logical lanes in physical order and the others spares; training fails with fewer. -/
def execTrainDone (port : PortNo) (ber : List (BitVec 32)) (s : State) : StepOut :=
  let n := port.toNat
  if n < 6 ∧ s.portState n = 2 ∧ ber.length = 68 then
    let chosen := (sortLanes ber).take 64
    if chosen.all fun e => decide (e.1 < 10000) then
      let act := chosen.map Prod.snd
      let x := s.port n
      let s := s.setPort n { x with
        lanes := (List.range 68).filter fun l => act.contains l
        spares := (List.range 68).filter fun l => !act.contains l
        txLanes := .empty, swap := none, txSwap := none, prbs := .empty }
      .next ((s.set Reg.lnkStsSparesLeft n 4).enterPort n 3)
    else .next (s.closePort n Cl.lanes)
  else .next s

/-- ALIGN_DONE: markers on all 64 lanes; back to OPEN where keys are held, else to SECURE with a HELLO that carries a
random nonce (R339). -/
def execAlignDone (port : PortNo) (lanes : BitVec 64) (s : State) : StepOut :=
  let n := port.toNat
  if n < 6 ∧ s.portState n = 3 then
    let x := s.port n
    let s := s.setPort n { x with aligned := popcount 64 lanes.toNat }
    if lanes = BitVec.allOnes 64 then
      if x.keys then .next (s.enterPort n 6)
      else
        let d := s.draw
        .next ((d.2.enterPort n 4).emit (.bringUp n 1 d.1.toNat))
    else .next s
  else .next s

/-- HELLO (R324, R533): an identifier clash closes the port with cause PEER, a bad certificate with cause KEY; else the
answer is ENCAP. -/
def execHello (port : PortNo) (certOk : Bool) (device : DeviceId) (peerPort : BitVec 3) (_nonce : BitVec 256) (s : State) :
    StepOut :=
  let n := port.toNat
  .next (if n < 6 ∧ s.portState n = 4 then
      s.received n fun s =>
        if device.toNat = s.deviceId then (s.raise Reg.glbStsIdClash 0).closePort n Cl.peer
        else if ¬ certOk then s.closePort n Cl.key
        else
          let s := s.setPort n { s.port n with helloOk := true }
          ((s.set Reg.lnkStsPeerDevice n device.toNat).set Reg.lnkStsPeerPort n peerPort.toNat).emit (.bringUp n 2 0)
    else s.lateBringUp n)

/-- The next of the 1,024 echo requests of a measurement, with its number in byte 1; one goes at a time (R330; log entry 95). -/
def State.askEcho (s : State) (n : Nat) : State := s.emit (.control n 0x02 ((s.port n).echoes % 256) 0 0)

/-- ENCAP (R324): with the first verified interval the keys are confirmed and the port measures; a failed tag closes it with
cause KEY. -/
def execEncap (port : PortNo) (ok : Bool) (s : State) : StepOut :=
  let n := port.toNat
  .next (if n < 6 ∧ s.portState n = 4 ∧ (s.port n).helloOk then
      s.received n fun s =>
        if ok then ((s.setPort n { s.port n with keys := true, keyEpoch := 0, echoes := 0, echoSum := 0 }).enterPort n 5).askEcho n
        else s.closePort n Cl.key
    else s.lateBringUp n)

/-- The first phase with a port that trains (R505). -/
def State.bootPhase (s : State) : Nat := s.get Reg.rstBootPhase 0

/-- ECHO_REQ: the peer's request, answered with Δ, also where this end has measured first and its port is OPEN (R330). -/
def execEchoReq (port : PortNo) (seq : Byte) (delta : BitVec 48) (s : State) : StepOut :=
  let n := port.toNat
  .next (if n < 6 ∧ (s.portState n = 5 ∨ s.portOpen n) then s.emit (.control n 0x03 seq.toNat 0 (delta.setWidth 64)) else s)

/-- The mean of `n` round trips in units of 2⁻¹⁶ ns, halved and rounded to the nearest. -/
def halfMean (sum n : Nat) : Nat := (sum + n) / (2 * n)

/-- ECHO_RSP: a round trip is `elapsed` less Δ, in units of 2⁻¹⁶ ns; the 1,024th records F and opens the port (R330). -/
def execEchoRsp (port : PortNo) (_seq : Byte) (delta elapsed : BitVec 48) (s : State) : StepOut :=
  let n := port.toNat
  if n < 6 ∧ s.portState n = 5 then
    let x := s.port n
    let sum := x.echoSum + (elapsed.toNat - delta.toNat)
    let s := s.setPort n { x with echoes := x.echoes + 1, echoSum := sum }
    if x.echoes + 1 < 1024 then .next (s.askEcho n)
    else
      let f := halfMean sum 1024
      .next (((s.set Reg.lnkFlightFNs n (f / 65536)).set Reg.lnkFlightFFrac n (f % 65536)).enterPort n 6).settleParent
  else .next s

/-- MARKER_DISCONTINUITY: an OPEN port re-enters ALIGN with its keys; a parent that leaves OPEN is lost (R339). -/
def execMarkerDiscontinuity (port : PortNo) (s : State) : StepOut :=
  let n := port.toNat
  if n < 6 ∧ s.portOpen n then
    let s := s.enterPort n 3
    .next (if s.flag Reg.lnkStsTimeParent n then s.loseParent else s)
  else .next s

/-- RETRAIN (R346). -/
def execRetrain (port : PortNo) (s : State) : StepOut := .next (s.closePort port.toNat Cl.admin)

/-- Write LNK_CTL.ENABLE: stored in the NVM record; 0 takes the port to DISABLED, 1 to DOWN (R339, R346). -/
def State.enablePort (s : State) (n : Nat) (on : Bool) : State :=
  let s := s.set Reg.lnkCtlEnable n (if on then 1 else 0)
  if on then if s.portState n = 0 then s.enterPort n 1 else s
  else (s.closePort n Cl.admin).enterPort n 0

/-- ENABLE (R339). -/
def execEnable (port : PortNo) (value : Bool) (s : State) : StepOut :=
  .next (if port.toNat < 6 then s.enablePort port.toNat value else s)

/-! ### Intervals, lanes and keys (R305, R325 to R327) -/

/-- The spare that a swap takes: of those with no PRBS error over the last 16 strokes the one of the lowest physical number
(R305). -/
def Port.swapSpare (x : Port) (stroke : Nat) : Option Nat := x.spares.find? fun l => decide (x.prbs.getD l 0 + 16 ≤ stroke + 1 ∨ x.prbs.getD l 0 = 0)
/-- A lane error count above the threshold starts a swap, or degrades the port where no spare qualifies (R305). -/
def State.laneErrors (s : State) (n : Nat) (e : BitVec 6 × BitVec 16) : State :=
  let x := s.port n
  if e.2.toNat ≤ s.get Reg.lnkCtlSwapTh n ∨ x.swap.isSome then s
  else match x.swapSpare (s.now / 1000) with
    | none => s.raise Reg.lnkStsLaneDegraded n
    | some sp =>
      let stroke := (s.now / 1000 + 3) % 2 ^ 20
      (s.setPort n { x with swap := some (e.1.toNat, sp, stroke) }).emit
        (.control n 0x04 0 0 (BitVec.ofNat 64 (e.1.toNat * 2 ^ 56 + sp * 2 ^ 48 + stroke)))

/-- INTERVAL: an interval whose tag verifies, with the flits that the FEC corrected, each lane's symbol errors in the stroke so far
and the spares whose PRBS31 pattern had an error (R304, R305, R325). -/
def execInterval (port : PortNo) (corrected : BitVec 16) (lanes : LaneReport) (s : State) : StepOut :=
  let n := port.toNat
  if n < 6 ∧ (s.portState n = 5 ∨ s.portOpen n) then
    let s := s.set Reg.lnkCntCorrFlits n (satAdd 65535 (s.get Reg.lnkCntCorrFlits n) corrected.toNat)
    let s := s.setPort n { s.port n with
      prbs := lanes.prbs.foldl (fun m l => m.put l.toNat (s.now / 1000 + 1)) (s.port n).prbs }
    .next (if s.portOpen n then lanes.symbols.foldl (fun s e => s.laneErrors n e) s else s)
  else .next s

/-- LOST_INTERVAL (R327): the receive direction's users fault; three in a stroke close the port. -/
def execLostInterval (port : PortNo) (s : State) : StepOut :=
  let n := port.toNat
  if n < 6 ∧ (s.portState n = 5 ∨ s.portOpen n) then
    let x := s.port n
    let stroke := s.now / 1000
    let run := if x.lostStroke = stroke then x.lostRun + 1 else 1
    let s := (s.bump Reg.lnkCntLostIntervals n).setPort n { x with lostRun := run, lostStroke := stroke }
    let s := s.faultAll (s.portUsers n [1]) Fc.strokeLoss (.port n)
    .next (if 3 ≤ run then s.closePort n Cl.loss else s)
  else .next s

/-- LANE_SWAP from the peer's receiver: a transmit lane moves at a stroke (R305). -/
def execLaneSwap (port : PortNo) (logical spare : Byte) (stroke : BitVec 20) (s : State) : StepOut :=
  let n := port.toNat
  .next (if n < 6 ∧ s.portOpen n then
      s.setPort n { s.port n with txSwap := some (logical.toNat, spare.toNat, stroke.toNat) }
    else s.strayed n)

/-- The fabric time at which a stroke begins that a message names by the low 20 bits of its number: the next such stroke, or now for
one of the last 2^19 (R305). -/
def State.strokeAt (s : State) (k : Nat) : Nat :=
  let d := (k + 2 ^ 20 - s.now / 1000 % 2 ^ 20) % 2 ^ 20
  if d = 0 ∨ 2 ^ 19 ≤ d then s.now else (s.now / 1000 + d) * 1000
/-- The receiver's swap: the spare takes the logical lane, and the failed lane is used no more (R305). -/
def State.swapLane (s : State) (n lane sp : Nat) : State :=
  let x := s.port n
  (s.setPort n { x with
    lanes := (List.range x.lanes.length).map fun k => if k = lane then sp else x.lanes.getD k 0
    spares := x.spares.filter (· ≠ sp), swap := none }).set Reg.lnkStsSparesLeft n (s.get Reg.lnkStsSparesLeft n - 1)
/-- LANE_SWAP_STROKE: the stroke of the next pending swap begins, and the lanes of each swap whose stroke has come move (R305). -/
def execLaneSwapStroke (port : PortNo) (s : State) : StepOut :=
  let n := port.toNat
  if n < 6 ∧ s.portOpen n then
    let rx := (s.port n).swap
    let tx := (s.port n).txSwap
    match (rx.toList ++ tx.toList).map fun w => s.strokeAt w.2.2 with
    | [] => .next s
    | t :: ts =>
      let due := ts.foldl Nat.min t
      let s := s.atLeast due
      let s := match rx with
        | some (lane, sp, k) => if s.strokeAt k ≤ due then s.swapLane n lane sp else s
        | none => s
      .next (match tx with
        | some (lane, sp, k) =>
          if s.strokeAt k ≤ due then s.setPort n { s.port n with txLanes := (s.port n).txLanes.put lane sp, txSwap := none } else s
        | none => s)
  else .next s

/-- KEY_REFRESH (R326). -/
def execKeyRefresh (port : PortNo) (s : State) : StepOut :=
  let n := port.toNat
  .next (if n < 6 ∧ (s.port n).keys then s.setPort n { s.port n with keyEpoch := (s.port n).keyEpoch + 1 } else s)

/-! ### Fabric time (R328 to R338) -/

/-- Fabric time in units of 2⁻¹⁶ ns. -/
def State.fine (s : State) : Nat := s.now * 65536 + s.net.frac
/-- Set fabric time in units of 2⁻¹⁶ ns. -/
def State.setFine (s : State) (t : Nat) : State := { s with now := t / 65536 }.onNet fun m => { m with frac := t % 65536 }
/-- Slew fabric time by an amount in units of 2⁻¹⁶ ns; the tick of a device locked to fabric time follows it (R29, R331). -/
def State.slew (s : State) (d : Int) : State :=
  let s := if s.get Reg.ftmStsLstate 0 = Ts.locked then s.passTicks d else s
  s.setFine ((s.fine : Int) + d).toNat

/-- An error in units of 2⁻¹⁶ ns as ERR_PS shows it: ps, two's complement, saturating. -/
def errPs (e : Int) : Nat :=
  let ps := e * 1000 / 65536
  ((min 32767 (max (-32768) ps)) % 65536).toNat

/-- |e| of 5 ps or less. -/
def within5ps (e : Int) : Bool := decide (e.natAbs * 1000 ≤ 5 * 65536)

/-- Whether a command runs on any line. -/
def State.anyRunning (s : State) : Bool :=
  s.host.lines.vals.any fun l => l.cmds.any fun c => decide (c.phase ≠ .waiting)

/-- Correct fabric time by an error: a step in UNLOCKED or ACQUIRING above 1 ns, once no command runs, else a slew of at
most 1 ps (R331, R336). -/
def State.correctTime (s : State) (e : Int) : State :=
  let l := s.get Reg.ftmStsLstate 0
  if (l = Ts.unlocked ∨ l = Ts.acquiring) ∧ 65536 < e.natAbs then
    if s.anyRunning then s.onNet fun m => { m with stepPending := some e.natAbs }
    else (s.setFine ((s.fine : Int) - e).toNat).onNet fun m => { m with stepPending := none }
  else
    let d : Int := if e < 0 then -(min e.natAbs 65 : Nat) else (min e.natAbs 65 : Nat)
    (s.slew (-d)).onNet fun m => { m with stepPending := none }

/-- TIME with VALID = 1 from the parent in use: the error, the correction, and the time state (R331, R333, R334). -/
def State.followTime (s : State) (n hops root : Nat) (e : Int) : State :=
  let l := s.get Reg.ftmStsLstate 0
  let known := s.net.rootHeard
  let s := (((s.set Reg.ftmStsErrPs 0 (errPs e)).set Reg.ftmStsHops 0 (hops + 1)).set Reg.ftmStsRootDevice 0 root).set
    Reg.ftmStsTooDeep 0 0
  let s := s.onNet fun m => { m with missStrokes := 0, rootHeard := some root }
  if (l = Ts.locked ∨ l = Ts.acquiring) ∧ known.isSome ∧ known ≠ some root then s.loseParent
  else if l = Ts.locked ∧ ¬ within5ps e then (s.correctTime e).loseParent
  else
    let s := s.correctTime e
    let s :=
      if l = Ts.unlocked ∧ s.portOpen n ∧ s.flag Reg.clkTickSource 0 then
        (s.set Reg.ftmStsLstate 0 Ts.acquiring).onNet fun m => { m with goodStrokes := 0 }
      else if l = Ts.acquiring then
        let good := if within5ps e then s.net.goodStrokes + 1 else 0
        let s := s.onNet fun m => { m with goodStrokes := good }
        if 16 ≤ good then s.set Reg.ftmStsLstate 0 Ts.locked else s
      else s
    s.sendTime (decide (s.get Reg.ftmStsLstate 0 = Ts.locked) && s.net.stepPending.isNone) (hops + 1) root n

/-- The device reaches locked time, or is a fabric of one: boot phase 6 (R505). -/
def State.settlePhase (s : State) : State :=
  let ph := s.bootPhase
  let s := if (ph = 4 ∨ ph = 5) ∧ s.timeLocked then s.set Reg.rstBootPhase 0 6 else s
  if s.bootPhase = 4 ∧ (List.range 6).any fun n => decide (2 ≤ s.portState n) then s.set Reg.rstBootPhase 0 5 else s

/-- TIME from a peer. `arrival` is the fabric time, in units of 2⁻¹⁶ ns, at which the stroke marker arrived (R331). -/
def execTime (port : PortNo) (valid : Bool) (hops : BitVec 6) (root : DeviceId) (start : Word) (arrival : BitVec 80)
    (s : State) : StepOut :=
  let n := port.toNat
  if ¬ (n < 6 ∧ s.portOpen n ∧ s.role = 2) then .next (s.strayed n)
  else
    let f := s.get Reg.lnkFlightFNs n * 65536 + s.get Reg.lnkFlightFFrac n
    let e : Int := (arrival.toNat : Int) - ((start.toNat * 65536 + f : Nat) : Int)
    if n = s.parentPort then
      if hops = 63 ∨ ¬ valid then
        let s := if hops = 63 then s.raise Reg.ftmStsTooDeep 0 else s
        let miss := s.net.missStrokes + 1
        let s := s.onNet fun m => { m with missStrokes := miss }
        .next (if 4 ≤ miss then s.loseParent else s)
      else .next (s.followTime n hops.toNat root.toNat e).settlePhase
    else if n = s.get Reg.ftmCfgAltParent 0 ∧ ¬ s.net.altInUse then
      .next (s.onNet fun m => { m with
        altGood := valid && decide (m.rootHeard = some root.toNat) && within5ps e })
    else .next s

/-- TIME_PPS (R338). -/
def execTimePps (s : State) : StepOut :=
  .next (if s.flag Reg.ftmCfgPpsEn 0 then s.set Reg.ftmPpsPpsNs 0 s.now else s)

/-! ### Scheduled slots and flow control (R311 to R315, R323) -/

/-- ⌈F⌉ of a port. -/
def State.flightCeil (s : State) (n : Nat) : Nat :=
  s.get Reg.lnkFlightFNs n + if s.get Reg.lnkFlightFFrac n = 0 then 0 else 1
/-- A partition's share of a port direction's buffer for a count of slots (R314). -/
def bufferShare (g : Nat) : Nat := (65536 + 4194304 * g / 6200) / 64 * 64
/-- The pause threshold T_p (R314). -/
def pauseThreshold (g flight : Nat) : Nat := 256 * g * ceilDiv (2 * flight + 400) 1000
/-- Bytes that a partition's units hold in a queue list. -/
def queuedBytes (l : List PortUnit) (p : Nat) : Nat := 64 * (l.filter fun u => decide (u.ptn = p)).length

/-- Pause or resume a sending partition by the free space in its receive share, with a PAUSE message on a change (R314). -/
def State.settlePause (s : State) (n p : Nat) : State :=
  let x := s.port n
  let g := s.slotCount n 1 p
  let free := bufferShare g - queuedBytes x.rx p
  let t := pauseThreshold g (s.flightCeil n)
  let on := Nat.testBit x.pausing p
  let set := if ¬ on ∧ free < t then x.pausing ||| 2 ^ p else if on ∧ 2 * t ≤ free then x.pausing - 2 ^ p else x.pausing
  if set = x.pausing then s
  else (s.setPort n { x with pausing := set }).emit (.control n 0x06 0 0 (BitVec.ofNat 64 set))

/-- PAUSE from the peer: the sending partitions that it has paused (R314). -/
def execPause (port : PortNo) (set : Word) (s : State) : StepOut :=
  let n := port.toNat
  .next (if n < 6 ∧ s.portOpen n then s.setPort n { s.port n with paused := set.toNat } else s.strayed n)

/-- The partition that holds a slot of a port direction. -/
def State.slotHolder (s : State) (n dir slot : Nat) : Option Nat :=
  let v := s.net.slots.getD ((2 * n + dir) * 8192 + slot) 0
  if 0x80 ≤ v then some (v % 64) else none

/-- The point of a partition that a slot serves: from the point after the last served, the first with units (R313). -/
def Port.nextPoint (x : Port) (p : Nat) : Option Nat :=
  let last := x.lastPoint.getD p 3
  ([1, 2, 3, 4].map fun k => (last + k) % 4).find? fun pt => x.tx.any fun u => decide (u.ptn = p ∧ u.point = pt)

/-- Take the first `k` units of a partition's point from a queue. -/
def takeUnits (p pt : Nat) : Nat → List PortUnit → List PortUnit × List PortUnit
  | _, [] => ([], [])
  | 0, l => ([], l)
  | k + 1, u :: rest =>
    if u.ptn = p ∧ u.point = pt then
      let r := takeUnits p pt k rest
      (u :: r.1, r.2)
    else
      let r := takeUnits p pt (k + 1) rest
      (r.1, u :: r.2)

/-- CMD_SEQ of the alloy command under way on a partition. -/
def State.runningCmdSeq (s : State) (p : Nat) : Nat :=
  (((s.line p).cmds.find? fun c => decide (c.phase ≠ .waiting ∧ c.op = 2)).map Cmd.cmdSeq).getD 0

/-- The device is quenched (R456). -/
def State.quenched (s : State) : Bool := s.flag Reg.pwrStsQuenched 0

/-- An access that reaches a channel in self-refresh brings it to active, for 1 ms after the last (R445). -/
def State.touchChannel (s : State) (ch : Nat) : State :=
  let c := s.channel ch
  if (c.selfRefresh ∨ c.returnAt.isSome) ∧ ¬ s.quenched then
    s.setChannel ch { c with selfRefresh := false, returnAt := some (s.now + 1000000) }
  else s

/-- SCHEDULED_SLOT: a scheduled slot of the transmit direction sends up to 4 units, or filler (R313, R314, R342). -/
def execScheduledSlot (port : PortNo) (slot : BitVec 13) (s : State) : StepOut :=
  let n := port.toNat
  if ¬ (n < 6 ∧ s.portOpen n ∧ slot.toNat % 125 ≠ 0 ∧ slot.toNat < 6250) then .next s
  else match s.slotHolder n 0 slot.toNat with
    | none => .next s
    | some p =>
      let x := s.port n
      let filler := s.emit (.flit n slot.toNat 0 [] [])
      if Nat.testBit x.paused p ∨ s.quenched ∨ s.ptnState p ≠ ptnActive then .next filler
      else match x.nextPoint p with
        | none => .next filler
        | some pt =>
          let r := takeUnits p pt 4 x.tx
          let s := s.setPort n { x with tx := r.2, lastPoint := x.lastPoint.put p pt }
          .next ((s.emit (.flit n slot.toNat 2
            [r.1.length - 1, pt, s.runningCmdSeq p % 2 ^ 18, p, s.get Reg.ptnpAlloyAlloyId p] (r.1.map PortUnit.data))).count
              (lnkPage n) 0 1)

/-! ### Holds (R315) -/

/-- End a hold: its ticks are counted in the partition's SCH blocks (R532). -/
def State.endHold (s : State) (p : Nat) : State :=
  let l := s.line p
  match l.hold with
  | none => s
  | some (_, t) =>
    let s := s.setLine p { l with hold := none }
    (s.slicesOf p).foldl (fun s sl => s.count (clusterPage sl 6) 3 ((s.now - t) * 7 / 10)) s

/-- HOLD_LIMIT_US: a hold longer than its limit is stroke loss (R315). -/
def execHoldLimitUs (p : PtnNo) (s : State) : StepOut :=
  let q := p.toNat
  match (s.line q).hold with
  | some (.link n, t) =>
    let s := s.atLeast (t + 1000 * max 1 (s.get Reg.lnkCtlHoldLimitUs n))
    .next ((s.endHold q).faultPtn q Fc.strokeLoss (.port n))
  | some (.barrier _, t) =>
    let least := leastOver (List.range 6) fun n => max 1 (s.get Reg.lnkCtlHoldLimitUs n)
    let s := s.atLeast (t + 1000 * least)
    .next ((s.endHold q).faultPtn q Fc.strokeLoss .none)
  | _ => .next s

end Sys2Proof.Machine
end

