-- ==== Sys2Proof/Machine/Network.lean ====
section
/-! DEFINITION. The on-die network, memory streams and channels (R142 to R154, R157 to R161, R214 to R219, R243 to
R250). -/

namespace Sys2Proof.Machine

/-! ### Hop entries (R144) -/

/-- START of an entry. -/
def hopStart (e : BitVec 128) : Nat := bitsOf e.toNat 104 24
/-- LEN_M1. -/
def hopLenM1 (e : BitVec 128) : Nat := bitsOf e.toNat 92 12
/-- REPEAT. -/
def hopRepeat (e : BitVec 128) : Nat := bitsOf e.toNat 80 12
/-- PERIOD. -/
def hopPeriod (e : BitVec 128) : Nat := bitsOf e.toNat 64 16
/-- IN of a router entry. -/
def hopIn (e : BitVec 128) : Nat := bitsOf e.toNat 61 3
/-- OUT of a router entry. -/
def hopOut (e : BitVec 128) : Nat := bitsOf e.toNat 56 5
/-- SRC_EP. -/
def hopSrcEp (e : BitVec 128) : Nat := bitsOf e.toNat 52 4
/-- DST_EP. -/
def hopDstEp (e : BitVec 128) : Nat := bitsOf e.toNat 48 4
/-- SRC_ADDR. -/
def hopSrc (e : BitVec 128) : Nat := bitsOf e.toNat 30 18
/-- DST_ADDR. -/
def hopDst (e : BitVec 128) : Nat := bitsOf e.toNat 12 18
/-- IN_PT of a hub switch entry. -/
def hopInPt (e : BitVec 128) : Nat := bitsOf e.toNat 59 5
/-- OUT_PT. -/
def hopOutPt (e : BitVec 128) : Nat := bitsOf e.toNat 54 5
/-- W. -/
def hopW (e : BitVec 128) : Nat := bitsOf e.toNat 8 4 + 1
/-- The hub switch. -/
def hubNode : Nat := 64
/-- The input that an entry takes at: 0 to 4 for N, S, E, W, L of a router, a point of the hub switch. -/
def hopPort (node : Nat) (e : BitVec 128) : Nat := if node = hubNode then hopInPt e else hopIn e
/-- Flow tick `i` of repetition `r` (R146). -/
def hopTick (e : BitVec 128) (r i : Nat) : Nat := hopStart e + r * hopPeriod e + i
/-- Whether some flow tick of an entry falls on a segment tick. -/
def hopFires (e : BitVec 128) (tick : Nat) : Bool :=
  if hopRepeat e = 0 then decide (hopStart e ≤ tick ∧ tick ≤ hopStart e + hopLenM1 e)
  else
    decide (hopStart e ≤ tick) &&
      let d := tick - hopStart e
      decide (d % hopPeriod e ≤ hopLenM1 e) && decide (d / hopPeriod e ≤ hopRepeat e)

/-! ### Topology (R151 to R153) -/

/-- What an output leads to: the input of another node, with the ticks from presentation, or a link-port attachment. -/
inductive FarEnd where
  | node (n port delay : Nat)
  | link (port point : Nat)
  deriving DecidableEq, Repr

/-- The far end of a router's output 0 N, 1 S, 2 E, 3 W. -/
def farEnd (n dir : Nat) : FarEnd :=
  let d := n / 16
  let row := n % 16 / 4
  let col := n % 4
  if dir = 0 then
    if row ≠ 0 then .node (n - 4) 1 0 else if d < 2 then .link d col else .node (16 * (d - 2) + 12 + col) 1 6
  else if dir = 1 then
    if row ≠ 3 then .node (n + 4) 0 0 else if 2 ≤ d then .link d col else .node (16 * (d + 2) + col) 0 6
  else if dir = 2 then
    if col ≠ 3 then .node (n + 1) 3 0
    else if d % 2 = 0 then .node (16 * (d + 1) + 4 * row) 3 6 else .node hubNode (4 * d + row) 6
  else
    if col ≠ 0 then .node (n - 1) 2 0
    else if d % 2 = 1 then .node (16 * (d - 1) + 4 * row + 3) 2 6 else .node hubNode (4 * d + row) 6

/-- The far end of a hub switch point. -/
def hubFar (q : Nat) : FarEnd :=
  if q < 16 then
    let d := q / 4
    if d % 2 = 0 then .node (16 * d + 4 * (q % 4)) 3 6 else .node (16 * d + 4 * (q % 4) + 3) 2 6
  else .link (4 + (q - 16) / 4) (q % 4)

/-- The far end of an output of any node. -/
def State.farOf (_s : State) (n out : Nat) : FarEnd := if n = hubNode then hubFar out else farEnd n out

/-- The link attachment that feeds an input, if one does. -/
def linkAt (n port : Nat) : Option (Nat × Nat) :=
  match if n = hubNode then hubFar port else farEnd n port with
  | .link a b => if n = hubNode ∨ port < 4 then some (a, b) else none
  | .node _ _ _ => none

/-! ### Router faults (R150) -/

/-- The partitions with a bound image that holds entries on a node. -/
def State.nodeUsers (s : State) (n : Nat) : List Nat :=
  dedup ((s.boundImages.filter fun i => i.blocks.any fun b => decide (b.1 = n)).map Image.ptn)

/-- ROUTER_FAULT on a node. -/
def State.routerFault (s : State) (n : Nat) : State :=
  let s := if n < 64 then
      ((s.bump Reg.rtrStsCheckErr n).raise Reg.rtrStsFaultyRun n).setBits Reg.nocStsFaultyRun (n / 16) (2 ^ (n % 16))
    else s
  s.faultAll (s.nodeUsers n) Fc.router (if n < 64 then .inSlice 9 n else ⟨13, 0, 0⟩)

/-! ### Local endpoints (R145) -/

/-- Quarters of a cluster-store line, lowest first. -/
def quarters (l : CsLine) : List Line := (List.range 4).map fun k => (l >>> (512 * k)).setWidth 512
/-- A cluster-store line of four quarters. -/
def ofQuarters (l : List Line) : CsLine := BitVec.ofNat 2048 (packAll 512 (l.map BitVec.toNat))
/-- Units in lines of four. -/
def inFours : List Line → List CsLine
  | a :: b :: c :: d :: rest => ofQuarters [a, b, c, d] :: inFours rest
  | _ => []
/-- What a flow tick writes at an endpoint: lines with their data; for a memory stream its number with each line. -/
def portLines (ep addr n : Nat) (units : List Line) : List (Nat × CsLine) :=
  if ep = 8 then (localLines ep addr n units.length).zip (inFours units)
  else if ep = 9 then units.map fun u => (addr % 64, u.setWidth 2048)
  else (localLines ep addr n units.length).zip (units.map fun u => u.setWidth 2048)
/-- Whether a flow tick's lines of an endpoint exist (R145). -/
def portInRange (ep addr n w : Nat) : Bool := decide (ep ≠ 8) || (localLines ep addr n w).all fun l => decide (l < csLines)

/-- Take lines of a stream for the local port, those available by a tick (R244). -/
def State.takeStream (s : State) (key w tick : Nat) : List Line × State :=
  match s.mem.streams.find key with
  | some st =>
    let ready := (st.buffer.take w).filter fun e => decide (e.2 ≤ tick)
    (ready.map Prod.fst, s.onMem fun m => { m with
      streams := m.streams.put key { st with buffer := st.buffer.drop ready.length, taken := st.taken + ready.length } })
  | none => ([], s)

/-! ### Moving units (R146 to R153) -/

/-- Key of a unit at an input. -/
def unitKey (port tick u : Nat) : Nat := (port * 2 ^ 32 + tick) * 16 + u

/-- Whether a running entry of a node takes at an input in a tick. -/
def Node.takes (x : Node) (node port tick : Nat) : Bool :=
  x.runs.any fun r => (List.range r.count).any fun k =>
    match x.store.find (r.first + k) with
    | some e => decide (hopPort node e = port) && hopFires e tick
    | none => false

/-- Present units at a node's output in a tick. A node that holds no entry for them discards them: it is the node that raises
ROUTER_FAULT (R150). -/
def State.present (s : State) (p n out tick : Nat) (units : List Line) : List Nat × State :=
  match s.farOf n out with
  | .link port point =>
    ([], if s.portOpen port then
      s.setPort port { s.port port with tx := (s.port port).tx ++ units.map fun u => ⟨p, point, u⟩ }
    else s)
  | .node m port delay =>
    let x := s.node m
    let t := tick + delay
    if x.takes m port t then
      ([], s.setNode m { x with units := (withIdx units).foldl (fun us e => us.put (unitKey port t e.1) ⟨e.2, p, true⟩) x.units })
    else ([m], s)

/-- Take `w` units at an input of a node in a tick: from a link port's receive queue, or from the units present. -/
def State.takeUnits (s : State) (p n port tick w : Nat) : List NocUnit × State :=
  match linkAt n port with
  | some (lp, point) =>
    let x := s.port lp
    let r := Machine.takeUnits p point w x.rx
    (r.1.map fun u => ⟨u.data, u.ptn, true⟩, (s.setPort lp { x with rx := r.2 }).settlePause lp p)
  | none =>
    let x := s.node n
    let us := (List.range w).filterMap fun u => x.units.find (unitKey port tick u)
    (us, s.setNode n { x with units := (List.range w).foldl (fun m u => m.drop (unitKey port tick u)) x.units })

/-! ### Owners of link directions (R154, R155) -/

/-- The register field of a router's direction: OUT_N, OUT_S, OUT_E, OUT_W, IN_N, IN_S, IN_E, IN_W. -/
def rtrOwnField (k : Nat) : Field :=
  if k = 0 then Reg.rtrOwnOutN else if k = 1 then Reg.rtrOwnOutS else if k = 2 then Reg.rtrOwnOutE
  else if k = 3 then Reg.rtrOwnOutW else if k = 4 then Reg.rtrOwnInN else if k = 5 then Reg.rtrOwnInS
  else if k = 6 then Reg.rtrOwnInE else Reg.rtrOwnInW

/-- The owner that a 7-bit field names. -/
def ownerOf (v : Nat) : Option Nat := if 64 ≤ v % 128 then some (v % 64) else none

/-- The owner of a router's direction: interior directions need both ends to agree, edge directions toward the hub or a
link port are the router's alone. `out` is the sense. -/
def State.dirOwner (s : State) (n dir : Nat) (out : Bool) : Option Nat :=
  let own := ownerOf (s.get (rtrOwnField (if out then dir else 4 + dir)) n)
  match farEnd n dir with
  | .link _ _ => own
  | .node m port _ =>
    if m = hubNode then own
    else if own = ownerOf (s.get (rtrOwnField (if out then 4 + port else port)) m) then own else none

/-- The owner of a hub switch point's direction: toward a die it is the edge router's field, toward LP4 or LP5 the LNK_OWN
field. `out` is the sense at the hub switch. -/
def State.pointOwner (s : State) (q : Nat) (out : Bool) : Option Nat :=
  if q < 16 then
    match hubFar q with
    | .node n port _ => ownerOf (s.get (rtrOwnField (if out then 4 + port else port)) n)
    | .link _ _ => none
  else
    let lp := 4 + (q - 16) / 4
    let k := q % 4
    ownerOf ((if out then s.get Reg.lnkOwnFromHub lp else s.get Reg.lnkOwnToHub lp) / 2 ^ (7 * k))

/-- Whether an entry of a node uses a direction: 0 to 3 outputs and 4 to 7 inputs of a router, else hub points as inputs,
and as outputs at 32 on. -/
def hopUsesDir (node k : Nat) (e : BitVec 128) : Bool :=
  if node = hubNode then if k < 32 then decide (hopInPt e = k) else decide (hopOutPt e = k - 32)
  else if k < 4 then Nat.testBit (hopOut e) k else decide (hopIn e = k - 4)

/-- Whether a bound image uses a direction of a node. -/
def State.dirUsed (s : State) (n k : Nat) : Bool :=
  s.boundImages.any fun im => im.content.hops.any fun h => decide (h.1 = n) && h.2.any (hopUsesDir n k)

/-- Write the owners of a router's directions: a direction that a bound image uses, seen from either end, keeps its owner,
with OWN_REFUSED (R155). -/
def State.writeRtrOwn (s : State) (n value : Nat) : State :=
  (List.range 8).foldl (fun s k =>
    let v := value / 2 ^ (7 * k) % 128
    let f := rtrOwnField k
    if v = s.get f n then s
    else
      let far : Bool := match farEnd n (k % 4) with
        | .node m port _ =>
          if m = hubNode then s.dirUsed hubNode (if k < 4 then port else 32 + port)
          else s.dirUsed m (if k < 4 then 4 + port else port)
        | .link _ _ => false
      if s.dirUsed n k || far then s.raise Reg.rtrStsOwnRefused n else s.set f n v) s

/-- Write LNK_OWN of LNK4 or LNK5 (R155, R346). -/
def State.writeLnkOwn (s : State) (lp value : Nat) : State :=
  (List.range 8).foldl (fun s k =>
    let v := value / 2 ^ (7 * k) % 128
    let f := if k < 4 then Reg.lnkOwnToHub else Reg.lnkOwnFromHub
    let sh := 7 * (k % 4)
    let old := s.get f lp
    if v = old / 2 ^ sh % 128 then s
    else
      let q := 16 + 4 * (lp - 4) + k % 4
      if s.dirUsed hubNode (if k < 4 then q else 32 + q) then s.raise Reg.lnkStsOwnRefused lp
      else s.set f lp (old - old / 2 ^ sh % 128 * 2 ^ sh + v * 2 ^ sh)) s

/-! ### Memory streams (R243 to R250) -/

/-- The translation that covers a VA in a list of (VA, translation). -/
def coverOf (l : List (Nat × Trans)) (va : Nat) : Option Trans :=
  (l.find? fun e => decide (e.1 ≤ va ∧ va < e.1 + pageBytes e.2.size)).map Prod.snd

/-- The pinned entry of a slice's cache that covers a VA. -/
def State.pinnedTrans (s : State) (sl p va : Nat) : Option (Nat × Trans) :=
  (s.cacheFind sl p va).bind fun e => if cachePinned e.2 then some (cachePage e.2, cacheTrans e.2) else none
/-- The command that runs on a partition, by its LINE_SEQ. -/
def State.runSeq (s : State) (p : Nat) : Option Nat := ((s.line p).items.head?.bind Item.cmd).map Cmd.seq
/-- The pinned or stored translation of a VA for a stream of a slice (R250, R252). -/
def State.heldTrans (s : State) (sl p va : Nat) : Option (Nat × Trans) :=
  match s.pinnedTrans sl p va with
  | some e => some e
  | none => (s.storeFind p (sl / 16) (s.runSeq p) 0 va).map fun e => (keyVa e.1, e.2.trans)
/-- A use of a store entry orders it behind the others (R253). -/
def State.noteUse (s : State) (sl p va : Nat) : State :=
  match s.pinnedTrans sl p va, s.storeFind p (sl / 16) (s.runSeq p) 0 va with
  | none, some e => s.onMem fun m => { m with
      store := m.store.adjust e.1 fun x => { x with used := m.clock + 1 }, clock := m.clock + 1 }
  | _, _ => s

/-- MICRO_TLB_REQUEST: the translation of a line, 512 ticks ahead (R250). -/
def execMicroTlbRequest (slice : SliceNo) (stream : BitVec 6) (line : BitVec 40) (s : State) : StepOut :=
  let sl := slice.toNat
  let key := 64 * sl + stream.toNat
  .next (match s.mem.streams.find key with
    | none => s
    | some st =>
      let va := srVa st.record st.base line.toNat
      if (coverOf st.tlb va).isSome then s
      else match s.heldTrans sl st.ptn va with
        | some e => (s.noteUse sl st.ptn va).onMem fun m => { m with
            streams := m.streams.put key { st with tlb := (st.tlb ++ [e]).drop (st.tlb.length + 1 - 8) } }
        | none => s)

/-! ### Frames and windows (R157 to R159) -/

/-- The unit of a frame in which a tick of it falls. -/
def unitOf (tick : Nat) : Nat := tick / 64 % 64
/-- The image whose segment runs on a partition. -/
def State.runningImage (s : State) (p : Nat) : Option Image := (s.seg p).bind fun r => s.host.images.find r.slot
/-- The open mask of a channel (R159): during a segment the one that the image's WINDOWS section gives for it, else the
register's. -/
def State.openMaskOf (s : State) (ch : Nat) : Nat :=
  let own := s.get Reg.mchWindowOpenMask ch
  match (s.chOwner ch).bind s.runningImage with
  | some im => (((im.content.windows.find? fun w => w.1 = ch).map fun w => w.2.toNat)).getD own
  | none => own
/-- The refresh units (R158). -/
def refreshMask : Nat := 0x0001000100010001
/-- The die tick of a channel's die. -/
def State.dieTick (s : State) (ch : Nat) : Nat := s.get Reg.dieTickTick (chSlice ch / 16)
/-- The partition whose segment times a channel's frame (R157). -/
def State.framePtn (s : State) (ch : Nat) : Option Nat := (s.sliceOwner (chSlice ch)).filter fun p => (s.seg p).isSome
/-- Where a channel's frames stand, in ticks from the start of the first: during a segment its tick, else the die tick (R157). -/
def State.frameTick (s : State) (ch : Nat) : Nat :=
  match (s.framePtn ch).bind s.seg with
  | some r => r.tick
  | none => s.dieTick ch - s.engines.frames.getD (chSlice ch) 0
/-- The unit of its frame at which a channel stands. -/
def State.frameUnit (s : State) (ch : Nat) : Nat := unitOf (s.frameTick ch)
/-- Whether a channel's frame is paused: its partition is held, every partition under a power alert, or the tick has stopped
(R148, R315, R438, R454). -/
def State.framePaused (s : State) (ch : Nat) : Bool :=
  s.plant.clock.stopped || (s.sliceOwner (chSlice ch)).any fun p =>
    (s.line p).hold.isSome || s.flag Reg.pwrStsAlert 0
/-- Whether a channel serves its open path: in an open unit of its frame, while it is neither paused nor exhausted (R159, R160,
R216, R438). -/
def State.openUnit (s : State) (ch : Nat) : Bool :=
  !s.framePaused ch && !s.flag Reg.mchEccStsLaneExhausted ch && Nat.testBit (s.openMaskOf ch) (s.frameUnit ch)
/-- A refresh round of a channel, counted by kind: 2 in a refresh window, 3 in a hold (R218, R532). -/
def State.refreshRound (s : State) (ch kind : Nat) : State :=
  (s.setChannel ch { s.channel ch with refreshedAt := s.dieTick ch }).count (mchPage ch) kind 1
/-- Every channel that is not in self-refresh makes a hold refresh round (R438). -/
def State.refreshAll (s : State) : State :=
  (List.range 768).foldl (fun s ch => if (s.channel ch).selfRefresh then s else s.refreshRound ch 3) s
/-- Every channel's frame restarts at unit 0 (R438). -/
def State.restartFrames (s : State) : State :=
  let s := s.onEngines fun m => { m with
    frames := (List.range 64).foldl (fun f sl => f.putD sl 0 (s.get Reg.dieTickTick (sl / 16))) m.frames }
  s.onMem fun m => { m with channels := m.channels.mapVal fun _ c => { c with window := none } }
/-- Every line that channels offer to software is overwritten with values that nobody reads again: what an unlisted line reads as
(R197). -/
def State.overwrite (s : State) (chans : List Nat) : State :=
  let gone := fun (n : Nat) => chans.contains (dpaChannel (64 * n)) && decide (dpaRow (64 * n) < s.offeredRows (dpaChannel (64 * n)))
  s.onMem fun m => { m with lines := m.lines.keep fun n _ => !gone n, bad := m.bad.keep fun n _ => !gone n }
/-- Whether a unit of a frame is scheduled under a mask. -/
def scheduledUnit (mask u : Nat) : Bool := !Nat.testBit (mask ||| refreshMask) (u % 64)
/-- The first `n` scheduled units at or after one. -/
def unitsFrom (mask : Nat) : Nat → Nat → Nat → List Nat
  | 0, _, _ => []
  | _, _, 0 => []
  | fuel + 1, u, n + 1 =>
    if scheduledUnit mask u then u :: unitsFrom mask fuel (u + 1) n else unitsFrom mask fuel (u + 1) (n + 1)
/-- The channels of a mask of a slice. -/
def maskChannels (sl mask : Nat) : List Nat := ((List.range 12).filter fun i => Nat.testBit mask i).map fun i => 12 * sl + i
/-- Lines of a stream. -/
def srLines (r : BitVec 512) : Nat := srRows r * srRowLines r
/-- The unit, from segment tick 0, in which a stream of a slice accesses its next line; none when it has accessed them all
(R244). -/
def State.streamUnit (s : State) (sl : Nat) (st : Stream) : Option Nat :=
  let r := st.record
  if srLines r ≤ st.next then none
  else
    let mask := (maskChannels sl (srMask r)).foldl (fun m ch => m ||| s.openMaskOf ch) 0
    (unitsFrom mask 262208 (ceilDiv (srStart r) 64) (st.next / srLpu r + 1)).getLast?

/-- Whether the granule rule bars a stream of the running command from a line of the heap: a read needs a block that is
allocated and not freed, a write one that this run allocated (R376). -/
def State.heapBars (s : State) (p : Nat) (write : Bool) (va : Nat) : Bool :=
  match s.host.heaps.find p, (s.line p).items with
  | some hp, ⟨.command c, _, _, _, _, _⟩ :: _ =>
    match s.host.objs.find hp.obj with
    | some o =>
      (c.objs.any fun e => decide (e.role = 4 ∧ handleSlot e.handle = hp.obj)) && decide (o.va ≤ va ∧ va < o.va + o.bytes) &&
        !(hp.blocks.any fun b => decide (b.1 ≤ va ∧ va < b.1 + classBytes b.2.1) && !c.frees.contains b.1 &&
          (!write || decide (b.2.2 = some c.seq)))
    | none => false
  | _, _ => false

/-! ### Channels (R215 to R218) -/

/-- The byte lanes of a failing mask, among the nine that carry data and check symbols. -/
def failingLanes (fails : Nat) : List Nat := (List.range 9).filter fun l => decide (fails / 2 ^ (8 * l) % 256 ≠ 0)

/-- A channel is exhausted: the owner faults at once, and only the hub is served from then on (R216). -/
def State.exhaust (s : State) (ch : Nat) : State :=
  if s.flag Reg.mchEccStsLaneExhausted ch then s
  else
    let s := s.raise Reg.mchEccStsLaneExhausted ch
    match s.chOwner ch with
    | some p => s.faultPtn p Fc.laneExhausted (.channel ch)
    | none => s

/-- The least `n` numbers from 0 to 1 that a mask does not name. -/
def freeSpares (mask n : Nat) : List Nat := ((List.range 2).filter fun k => !Nat.testBit mask k).take n
/-- Take spare lanes of a channel, each once (R215, R216). -/
def State.takeSpares (s : State) (ch : Nat) (lanes : List Nat) : State :=
  let c := s.channel ch
  let fresh := (dedup lanes).filter fun k => !Nat.testBit c.spares k
  (s.set Reg.mchLaneSparesLeft ch (s.get Reg.mchLaneSparesLeft ch - fresh.length)).setChannel ch
    { c with spares := c.spares + (fresh.map (2 ^ ·)).sum }
/-- Steering, in the window after the one that marked a lane: its failing bit lanes go onto spares and the mark is cleared, or the
channel is exhausted (R216). -/
def State.steerMarked (s : State) (ch : Nat) : State :=
  let c := s.channel ch
  let need := popcount 8 c.failing
  let free := freeSpares c.spares need
  if free.length = need ∧ need ≤ s.get Reg.mchLaneSparesLeft ch then
    let s := ((s.takeSpares ch free).set Reg.mchEccStsMarked ch 0).set Reg.mchEccStsMarkLane ch 15
    (s.setChannel ch { s.channel ch with failing := 0 }).onBoot fun b => { b with unfused := b.unfused + 1 }
  else s.exhaust ch
/-- The lane check, against the mark that stood during the window (R215). Bits 72 and 73 of `fails` are the spare lanes: a failure
found only there removes the spare. -/
def State.laneCheck (s : State) (ch : Nat) (marked : Option Nat) (fails : LaneFails) : State :=
  let bad := failingLanes fails.toNat
  let s := if fails = 0 then s else s.bump Reg.mchLaneCheckFails ch
  match marked, bad with
  | _, [] => s.takeSpares ch ((List.range 2).filter fun k => fails.getLsbD (72 + k))
  | some lane, l => if l.any fun x => decide (x ≠ lane) then s.exhaust ch else s
  | none, [l] =>
    ((s.raise Reg.mchEccStsMarked ch).set Reg.mchEccStsMarkLane ch l).setChannel ch
      { s.channel ch with failing := fails.toNat / 2 ^ (8 * l) % 256 }
  | none, _ => s.exhaust ch
/-- The scrub of a channel's next line: a corrected line is written back, an uncorrectable one is logged and left (R217). -/
def State.scrub (s : State) (ch : Nat) (errs : List LineError) : State :=
  let c := s.channel ch
  let dpa := mkDpa ch c.scrubRow
  let s := (s.setChannel ch { c with scrubRow := (c.scrubRow + 1) % s.channelLines }).noteLine errs true dpa
  match s.lineState errs dpa with
  | .corrected => s.onMem fun m => { m with bad := m.bad.drop (dpa / 64) }
  | .wrong left true => s.onMem fun m => { m with bad := m.bad.put (dpa / 64) left }
  | _ => s
/-- The device reserve's lines of a channel, by their number from reserved line 2,097,152 of the slice on (R206). -/
def State.reserveLines (s : State) (ch : Nat) (lines : List (BitVec 21)) : List Nat :=
  ((lines.filter fun q => decide (q.toNat % 12 = (chIndex ch + 4) % 12)).take 16).map fun q =>
    s.reservedDpa (chSlice ch) (tableArea + q.toNat)
/-- The hub's accesses of the device reserve in the rest of a refresh window: an uncorrectable line is a hub fault (R206). -/
def State.reserveReads (s : State) (ch : Nat) (errs : List LineError) (lines : List (BitVec 21)) : State :=
  let dpas := s.reserveLines ch lines
  let bad := dpas.any fun d => decide (s.lineState errs d = .uncorrectable)
  let s := s.noteLines errs dpas
  if bad then s.hubFault true else s

/-- REFRESH_WINDOW: in a refresh unit of its frame a channel performs a refresh round, the steering of a marked lane, the lane check
and the scrub of one line, and then serves the hub's accesses of the device reserve, which bring it from self-refresh to active
(R158, R206, R215 to R218, R445). -/
def execRefreshWindow (channel : BitVec 10) (fails : LaneFails) (reads : WindowReads) (s : State) :
    StepOut :=
  let ch := channel.toNat
  let s := if s.reserveLines ch reads.reserve = [] then s else s.touchChannel ch
  let c := s.channel ch
  if 768 ≤ ch ∨ c.selfRefresh ∨ s.framePaused ch ∨ ¬ Nat.testBit refreshMask (s.frameUnit ch) ∨ c.window = some (s.frameTick ch / 64)
  then .next s
  else
    let s := (s.meetErrors reads.errs).refreshRound ch 2
    let s := s.setChannel ch { s.channel ch with window := some (s.frameTick ch / 64) }
    let marked := s.markedLane ch
    let s := if marked.isSome ∧ ¬ s.flag Reg.mchEccStsLaneExhausted ch then s.steerMarked ch else s
    .next (((s.laneCheck ch marked fails).scrub ch reads.errs).reserveReads ch reads.errs reads.reserve)

/-- HOLD_REFRESH: while its frame is paused, a channel makes a hold refresh round whenever 1,024 die ticks have passed since its last
round (R218, R315). -/
def execHoldRefresh (channel : BitVec 10) (s : State) : StepOut :=
  let ch := channel.toNat
  .next (if ch < 768 ∧ ¬ (s.channel ch).selfRefresh ∧ s.framePaused ch ∧
      (s.channel ch).refreshedAt + 1024 ≤ s.dieTick ch then s.refreshRound ch 3 else s)

end Sys2Proof.Machine
end

