-- ==== Sys2Proof/Machine/Segment.lean ====
section
/-! DEFINITION. Running segments: what a segment waits for, its ticks over tiles, hop runs and local ports, FLOW_TICK and
STREAM_ACCESS (R60, R61, R98, R99, R140, R144 to R150, R157 to R160, R165 to R168, R186, R244, R250, R315, R414). A segment runs
its ticks as far as the commands that act in them have come (log entry 12). -/

namespace Sys2Proof.Machine

/-! ### What a segment waits for -/

/-- The command at the head of a line. -/
def State.headCmd (s : State) (p : Nat) : Option Cmd :=
  match (s.line p).items with
  | it :: _ => it.cmd
  | [] => none

/-- The first flow tick of an entry at or after a tick (R146). -/
def hopNext (e : BitVec 128) (tick : Nat) : Option Nat :=
  if tick ≤ hopStart e then some (hopStart e)
  else
    let period := if hopRepeat e = 0 then hopLenM1 e + 1 else hopPeriod e
    let d := tick - hopStart e
    if d % period ≤ hopLenM1 e ∧ d / period ≤ hopRepeat e then some tick
    else if d / period < hopRepeat e then some (hopStart e + (d / period + 1) * period)
    else none
/-- The repetition and the number of the flow tick of an entry at a tick. -/
def hopAt (e : BitVec 128) (tick : Nat) : Nat × Nat :=
  if hopRepeat e = 0 then (0, tick - hopStart e)
  else ((tick - hopStart e) / hopPeriod e, (tick - hopStart e) % hopPeriod e)

/-- An entry of a running hop run: its node, its number in the node's store and its word. -/
structure RunEntry where
  node : Nat
  entry : Nat
  word : BitVec 128
  deriving DecidableEq, Repr

/-- The entries of a partition's hop runs (R143). -/
def State.runEntries (s : State) (p : Nat) : List RunEntry :=
  s.engines.nodes.entries.flatMap fun n => (n.2.runs.filter fun r => decide (r.ptn = p)).flatMap fun r =>
    (List.range r.count).filterMap fun k => (n.2.store.find (r.first + k)).map fun w => ⟨n.1, r.first + k, w⟩
/-- The entries with a flow tick in a tick. -/
def State.dueFlows (s : State) (p tick : Nat) : List RunEntry := (s.runEntries p).filter fun e => hopFires e.word tick
/-- The flow tick of an entry that has been commanded for a tick. -/
def SegRun.flow (r : SegRun) (e : RunEntry) (tick : Nat) : Option FlowTick :=
  r.flows.find? fun f => decide (f.node = e.node ∧ f.entry = e.entry ∧ (f.rep, f.i) = hopAt e.word tick)
/-- Whether the units that a flow tick takes from a link port are there: the partition is held until they are (R315). -/
def State.linkReady (s : State) (p : Nat) (e : RunEntry) : Bool :=
  match linkAt e.node (hopPort e.node e.word) with
  | some (lp, point) =>
    decide (hopW e.word ≤ ((s.port lp).rx.filter fun u => decide (u.ptn = p ∧ u.point = point)).length)
  | none => true

/-- The descriptors of an image's programs for an engine and a segment (R182). -/
def ImageContent.progOf (im : ImageContent) (e k : Nat) : List Line :=
  (im.programs.filter fun g => decide (g.1 = e ∧ g.2.1 = k)).flatMap fun g => g.2.2
/-- Ticks that a segment may not run before its planish work has come: START of a descriptor that has not started, END of one
under way (R186). -/
def State.descGates (s : State) (p : Nat) (im : ImageContent) (r : SegRun) : List Nat :=
  ((dedup ((im.programs.filter fun g => decide (g.2.1 = r.segment)).map Prod.fst)).flatMap fun e =>
    ((withIdx (im.progOf e r.segment)).filter fun d => !r.descs.contains (e, d.1)).map fun d => descStart d.2) ++
  s.engines.engines.vals.filterMap fun e => (e.running.find p).map fun d => descEnd d.desc
/-- The same for its open access groups: START of one whose requests are not issued, NEED of one that is not complete (R413,
R414). -/
def State.groupGates (s : State) (p : Nat) (im : ImageContent) (r : SegRun) : List Nat :=
  match s.headCmd p, im.segments[r.segment]? with
  | some c, some sg =>
    (withIdx ((im.openGroups.drop sg.openFirst).take sg.openCount)).filterMap fun g =>
      if c.openDone.contains g.1 then none
      else if ¬ c.openIssued.contains g.1 then some (ogStart g.2)
      else if ogNeed g.2 = 0xFFFFFFFF then none
      else some (ogNeed g.2)
  | _, _ => []
/-- The same for barriers that it has not reached (R344). -/
def barrierGates (im : ImageContent) (r : SegRun) : List Nat :=
  (im.linkSlots.filter fun b => decide (recField b 0 1 = 3 ∧ recField b 4 2 = r.segment) &&
    !r.barriers.contains (recField b 12 2)).map fun b => recField b 8 4
/-- The units in which the streams of a partition's segment access their next lines (R244). -/
def State.streamUnits (s : State) (p : Nat) : List Nat :=
  (s.mem.streams.entries.filter fun e => decide (e.2.ptn = p)).filterMap fun e => s.streamUnit (e.1 / 64) e.2
/-- The ticks that a segment may not run yet. -/
def State.segGates (s : State) (p : Nat) (r : SegRun) : List Nat :=
  ((s.streamUnits p).map fun u => 64 * (u + 1)) ++
  match s.host.images.find r.slot with
  | some im => s.descGates p im.content r ++ s.groupGates p im.content r ++ barrierGates im.content r
  | none => []

/-- The tiles of slices. -/
def tilesOf (slices : List Nat) : List (Nat × Nat) := slices.flatMap fun sl => (List.range 8).map fun ti => (sl, ti)
/-- Ticks, from the next one on, in which something of a segment happens. -/
def State.segTicks (s : State) (p : Nat) (r : SegRun) (slices : List Nat) : List Nat :=
  ((tilesOf slices).filterMap fun t =>
    let x := s.tile t.1 t.2
    if x.busy ∧ ¬ x.ended then some x.tick else none) ++
  (if s.anyOps slices then [r.tick] else []) ++
  ((s.runEntries p).filterMap fun e => hopNext e.word r.tick) ++
  r.writes.map PortWrite.due ++
  ((s.streamUnits p).filter fun u => decide (r.tick ≤ 64 * u)).map (64 * ·) ++ s.segGates p r

/-- Whether a tick of a segment may run: the partition's units act, the control slots of the bundles that issue in it and its flow
ticks have come, what it takes from link ports is there, and nothing bars it. -/
def State.tickReady (s : State) (p : Nat) (r : SegRun) (slices : List Nat) (tick : Nat) : Bool :=
  s.ticking p &&
  ((tilesOf slices).all fun t =>
    let x := s.tile t.1 t.2
    !(x.busy && !x.ended && decide (x.tick = tick)) || x.ctl.isSome) &&
  ((s.dueFlows p tick).all fun e => (r.flow e tick).isSome && s.linkReady p e) &&
  (s.segGates p r).all fun g => decide (tick < g)

/-! ### One tick -/

/-- What a segment tick has found that acts at its end: faults of slices' units with bundles, and nodes that raise
ROUTER_FAULT. -/
structure TickFaults where
  tiles : List TickFault
  nodes : List Nat

/-- What a flow tick meets in the codes of tiles and the cluster store, at its destination and its source (R60). -/
def State.flowErrors (s : State) (e : RunEntry) (bits : List (Bool × Bool)) : State :=
  bits.foldl (fun s b =>
    let ep := if b.1 then hopDstEp e.word else hopSrcEp e.word
    if ep ≤ 8 then
      s.bitErrors e.node (if ep = 8 then 9 else ep) (if b.2 then .uncorrectable (decide (ep = 8)) else .corrected (decide (ep = 8)))
    else s) s

/-- The local reads of a flow tick from tiles and the cluster store. -/
def flowReads (e : RunEntry) (f : FlowTick) (tick : Nat) : List (Nat × BankUse) :=
  if e.node ≠ hubNode ∧ hopPort e.node e.word = 4 ∧ hopSrcEp e.word ≤ 8 then
    (portUses (hopSrcEp e.word) tick
      (localLines (hopSrcEp e.word) (hopSrc e.word) (f.rep * (hopLenM1 e.word + 1) + f.i) (hopW e.word))).map fun u => (e.node, u)
  else []

/-- The units that a flow tick of a local source takes, as the tick's start holds them: an access that meets another is not
performed, and a free value stands for it (R61, R145). -/
def State.localUnits (s : State) (us : List BankUse) (sl ep addr n w lost : Nat) : List Line :=
  let free := fun k => Config.garbageStore lost (placeOf 6 sl ep k)
  if ep = 8 then
    (localLines 8 addr n w).flatMap fun l =>
      quarters (if clashes us 8 (bankOf 8 l) then (free l).setWidth 2048 else (s.cluster sl).at sl l)
  else (localLines ep addr n w).map fun l =>
    if clashes us ep (bankOf ep l) then (free l).setWidth 512 else (s.tile sl ep).sramAt sl ep l

/-- The units that a flow tick takes, or the reason why it takes none: a line outside the cluster store, or a check at its
node. -/
def State.flowUnits (s old : State) (us : List BankUse) (p tick : Nat) (e : RunEntry) (f : FlowTick) :
    (Option (List Line) × TickFaults) × State :=
  let n := e.node
  let w := hopW e.word
  let k := f.rep * (hopLenM1 e.word + 1) + f.i
  let port := hopPort n e.word
  if n ≠ hubNode ∧ (port = 4 ∧ ¬ portInRange (hopSrcEp e.word) (hopSrc e.word) k w ∨
      Nat.testBit (hopOut e.word) 4 ∧ ¬ portInRange (hopDstEp e.word) (hopDst e.word) k w) then
    ((none, ⟨[(n, 9)], []⟩), s.bundleFault n 0 6 0 Bf.addrRange)
  else if n ≠ hubNode ∧ port = 4 then
    let ep := hopSrcEp e.word
    let r := if ep = 9 then s.takeStream (64 * n + hopSrc e.word % 64) w tick
      else (old.localUnits us n ep (hopSrc e.word) k w old.freeCtr.succ, s)
    if r.1.length < w then ((none, ⟨[], [n]⟩), r.2)
    else ((some r.1, ⟨[], []⟩), r.2.count (clusterPage n 7) 1 w)
  else
    let r := s.takeUnits p n port tick w
    if f.fail ∨ r.1.length < w ∨ ¬ (r.1.all fun u => u.ok && decide (u.ptn = p)) then ((none, ⟨[], [n]⟩), r.2)
    else ((some (r.1.map NocUnit.data), ⟨[], []⟩), if n < 64 then r.2.count (clusterPage n 7) 0 w else r.2)

/-- One flow tick: it takes its units, and presents them at every output; what goes to a local port is written two ticks later
(R142, R146, R152, R153). -/
def State.runFlow (s old : State) (us : List BankUse) (p tick : Nat) (e : RunEntry) (f : FlowTick) : TickFaults × State :=
  let n := e.node
  match s.flowUnits old us p tick e f with
  | ((none, bad), s) => (bad, s)
  | ((some units, _), s) =>
    let outs := if n = hubNode then [hopOutPt e.word] else (List.range 4).filter fun d => Nat.testBit (hopOut e.word) d
    let r := outs.foldl (fun (r : List Nat × State) d =>
      let x := r.2.present p n d (tick + if n = hubNode then 4 else 2) units
      (r.1 ++ x.1, x.2)) ([], s)
    let s := r.2.flowErrors e f.bits
    (⟨[], r.1⟩,
      if n ≠ hubNode ∧ Nat.testBit (hopOut e.word) 4 then
        let k := f.rep * (hopLenM1 e.word + 1) + f.i
        match s.seg p with
        | some g => s.setSeg p { g with writes := g.writes ++
            [⟨tick + 2, tick, n, hopDstEp e.word, portLines (hopDstEp e.word) (hopDst e.word) k units⟩] }
        | none => s
      else s)

/-- One tick of a segment: its flow ticks' local reads and every tile's accesses against the contents at its start, the writes
that are due, the units that move, and then the faults that it has found (R61, R98, R99, R130, R146, R150). -/
def State.segTick (s : State) (p : Nat) (r : SegRun) (slices : List Nat) (tick : Nat) : State :=
  let s := s.setSlices Reg.schStsState (slices.filter fun sl => decide (s.get Reg.schStsState sl = 1)) 2
  let s := slices.foldl (fun s sl => s.countTick sl tick (s.gapOf p)) s
  let flows := (s.dueFlows p tick).filterMap fun e => (r.flow e tick).map fun f => (e, f)
  let errs := (tilesOf slices).filterMap fun t =>
    let x := s.tile t.1 t.2
    if x.busy ∧ x.tick = tick then x.ctl.map fun c => (t, c.bits) else none
  let x := s.tickSlices slices tick (flows.flatMap fun f => flowReads f.1 f.2 tick)
    (r.writes.filter fun w => decide (w.due = tick))
  let usesOf := fun n => ((x.2.1.find? fun e => decide (e.1 = n)).map Prod.snd).getD []
  let t := x.2.2.setSeg p { r with
    tick := tick + 1, writes := r.writes.filter fun w => decide (w.due ≠ tick)
    flows := r.flows.filter fun f => !flows.any fun e => decide (e.2 = f) }
  let y := flows.foldl (fun (y : TickFaults × State) f =>
    let z := y.2.runFlow s (usesOf f.1.node) p tick f.1 f.2
    (⟨y.1.tiles ++ z.1.tiles, y.1.nodes ++ z.1.nodes⟩, z.2)) (⟨x.1, []⟩, t)
  let t := errs.foldl (fun t e => t.allBitErrors e.1.1 e.1.2 e.2) y.2
  let t := y.1.tiles.foldl (fun t f => t.faultSlice f.1 Fc.bundle f.2) t
  y.1.nodes.foldl (fun t n => t.routerFault n) t

/-- Run the next tick of a partition's segment, or wait at it; none where it waits already, or nothing is left to run. -/
def State.segStep (s : State) (p : Nat) : Option State :=
  match s.seg p with
  | none => none
  | some r =>
    let slices := s.slicesOf p
    if ¬ s.ticking p then none
    else match leastOf (s.segTicks p r slices) with
      | none => none
      | some t =>
        let tick := max t r.tick
        if s.tickReady p r slices tick then some (s.segTick p r slices tick)
        else if r.tick < tick then some (s.setSeg p { r with tick := tick })
        else none
/-- Run a partition's segment as far as it goes. -/
def State.runSegFor (p : Nat) : Nat → State → State
  | 0, s => s
  | fuel + 1, s =>
    match s.segStep p with
    | some t => State.runSegFor p fuel t
    | none => s
/-- Run a partition's segment as far as it goes: a segment has fewer than 2^24 + 48 ticks, and waits at no more (R138). -/
def State.runSeg (s : State) (p : Nat) : State := State.runSegFor p 33554528 s
/-- The same for the partition that holds a slice. -/
def State.runSlice (s : State) (sl : Nat) : State :=
  match s.sliceOwner sl with
  | some p => s.runSeg p
  | none => s

/-- Whether nothing of a partition's segment is left: no tile issues or has an operation in flight, no flow tick, local write,
stream access, descriptor or group is outstanding, and no link slot carries its data (R165). -/
def State.segIdle (s : State) (p : Nat) : Bool :=
  match s.seg p with
  | none => true
  | some r => (s.segTicks p r (s.slicesOf p)).isEmpty &&
      (List.range 6).all fun n => !s.portOpen n || !(s.port n).tx.any fun u => decide (u.ptn = p)

/-! ### Hop runs (R146) -/

/-- FLOW_TICK: flow tick `i` of repetition `rep` of an entry of a node's hop store acts when the segment comes to its tick, with what
its units meet (R60, R146). -/
def execFlowTick (node : BitVec 7) (entry : BitVec 18) (rep i : BitVec 12) (fails : FlowFails) (s : State) : StepOut :=
  let n := node.toNat
  let x := s.node n
  match x.runs.find? fun r => decide (r.first ≤ entry.toNat ∧ entry.toNat < r.first + r.count), x.store.find entry.toNat with
  | some run, some e =>
    match s.seg run.ptn with
    | none => .next s
    | some g =>
      let f : FlowTick := ⟨n, entry.toNat, rep.toNat, i.toNat, fails.check, fails.bits⟩
      if hopRepeat e < rep.toNat ∨ hopLenM1 e < i.toNat ∨ hopTick e rep.toNat i.toNat < g.tick ∨
          (g.flow ⟨n, entry.toNat, e⟩ (hopTick e rep.toNat i.toNat)).isSome then .next s
      else .next ((s.setSeg run.ptn { g with flows := g.flows ++ [f] }).runSeg run.ptn)
  | _, _ => .next s

/-! ### Scheduled flits and holds (R311, R313 to R315, R323, R341) -/

/-- SCHEDULED_FLIT: a received flit, with the discards of R311, R323 and R341. -/
def execScheduledFlit (port : PortNo) (slot : BitVec 13) (kind : BitVec 4) (point : BitVec 2) (cmd : BitVec 18)
    (_srcPart : PtnNo) (alloy : BitVec 32) (units : List Line) (s : State) : StepOut :=
  let n := port.toNat
  if ¬ (n < 6) then .next s
  else
    let misrouted := s.bump Reg.lnkCntMisrouted n
    let control := slot.toNat % 125 = 0
    if ¬ s.portOpen n then .next (if kind = 4 then s else misrouted)
    else if 4 ≤ kind.toNat then .next misrouted
    else if kind = 1 ∧ ¬ control ∨ kind ≠ 1 ∧ control then .next misrouted
    else if kind = 0 ∨ kind = 1 then .next s
    else match s.slotHolder n 1 slot.toNat with
      | none => .next (if kind = 2 then misrouted else s.count (lnkPage n) 3 1)
      | some p =>
        if kind = 3 ∨ s.get Reg.ptnpAlloyAlloyId p ≠ alloy.toNat ∨ s.mstate p = Ms.none then .next misrouted
        else if (s.line p).killed.any fun k => decide (k.1.op = 2 ∧ k.1.cmdSeq % 2 ^ 18 = cmd.toNat) then
          .next (s.bump Reg.lnkCntKillDiscard n)
        else
          let x := s.port n
          let s := s.setPort n { x with rx := x.rx ++ units.map fun u => ⟨p, point.toNat, u⟩ }
          .next (((s.count (lnkPage n) 2 1).settlePause n p).runSeg p)

/-- Bytes of its transmit share below which a partition is held for a port (R314). -/
def holdFree : Nat := 16384
/-- The sending condition of a hold: less than 16 KiB of the partition's transmit share of a port is free (R314). -/
def State.sendHolds (s : State) (n p : Nat) : Bool :=
  decide (bufferShare (s.slotCount n 0 p) < queuedBytes (s.port n).tx p + holdFree)
/-- The receiving condition: within four ticks a flow tick takes units from the port that are not all there (R315). -/
def State.receiveHolds (s : State) (n p : Nat) : Bool :=
  match s.seg p with
  | none => false
  | some r => (s.runEntries p).any fun e =>
      ((linkAt e.node (hopPort e.node e.word)).map Prod.fst = some n) && !s.linkReady p e &&
        ((hopNext e.word r.tick).map fun t => decide (t ≤ r.tick + 4)).getD false
/-- A condition of R315 stands for a partition at a port. -/
def State.linkHolds (s : State) (n p : Nat) : Bool := s.sendHolds n p || s.receiveHolds n p
/-- HOLD_BEGIN: a running partition is held for a port at which a condition stands (R315). -/
def execHoldBegin (p : PtnNo) (port : PortNo) (s : State) : StepOut :=
  let q := p.toNat
  let l := s.line q
  .next (if l.hold.isNone ∧ (s.seg q).isSome ∧ port.toNat < 6 ∧ s.linkHolds port.toNat q then
      s.setLine q { l with hold := some (.link port.toNat, s.now) }
    else s)
/-- HOLD_END: the condition has cleared, and the partition's units go on (R315). -/
def execHoldEnd (p : PtnNo) (s : State) : StepOut :=
  let q := p.toNat
  .next (match (s.line q).hold with
    | some (.link n, _) => if s.linkHolds n q then s else (s.endHold q).runSeg q
    | _ => s)

/-! ### Stream accesses (R244, R250) -/

/-- Change a stream. -/
def State.setStream (s : State) (key : Nat) (st : Stream) : State := s.onMem fun m => { m with streams := m.streams.put key st }
/-- Whether a stream may access its next line: the segment has come to the unit of that line, which the tick names, and has not
passed it (R160, R244). -/
def State.streamReady (s : State) (sl : Nat) (st : Stream) (tick : Nat) : Bool :=
  s.ticking st.ptn && match s.seg st.ptn, s.streamUnit sl st with
  | some r, some u => decide (tick / 64 = u ∧ 64 * u ≤ r.tick ∧ r.tick ≤ 64 * (u + 1))
  | _, _ => false
/-- The access of a stream's next line at a DPA in a unit that starts at a tick (R202, R219, R244). -/
def State.accessLine (s : State) (key : Nat) (st : Stream) (dpa start : Nat) (errs : List LineError) : State :=
  let ch := dpaChannel dpa
  let s := s.count (mchPage ch) 0 1
  if srWrite st.record then
    match st.buffer with
    | (l, at_) :: rest =>
      if at_ < start then
        let r := s.putLine errs dpa l
        let s := r.2.setStream key { st with next := st.next + 1, buffer := rest }
        if r.1 then s.faultPtn st.ptn Fc.memUe (.channel ch) else s
      else s
    | [] => s
  else
    let s := (s.meetErrors errs).noteLine errs false dpa
    if s.decoded errs dpa = .uncorrectable then s.faultPtn st.ptn Fc.memUe (.channel ch)
    else s.setStream key { st with next := st.next + 1, buffer := st.buffer ++ [(s.delivered errs dpa, start + 64)] }

/-- STREAM_ACCESS: a stream accesses its next line in a tick of its scheduled unit (R160, R244, R250). A missing translation is
XLT_LATE and an uncorrectable line faults the partition. -/
def execStreamAccess (slice : SliceNo) (stream : BitVec 6) (tick : BitVec 24) (errs : List LineError) (s : State) : StepOut :=
  let sl := slice.toNat
  let key := 64 * sl + stream.toNat
  let s := s.runSlice sl
  match s.mem.streams.find key with
  | none => .next s
  | some st =>
    if ¬ s.streamReady sl st tick.toNat then .next s
    else
      let start := tick.toNat / 64 * 64
      let va := srVa st.record st.base st.next
      match coverOf st.tlb va with
      | none => .next (s.faultPtn st.ptn Fc.xltLate (.inSlice 15 sl))
      | some t =>
        if s.heapBars st.ptn (srWrite st.record) va then
          match s.headCmd st.ptn with
          | some c => .next (s.killOne st.ptn c ⟨St.unmapped, .none, 0, none, va⟩)
          | none => .next s
        else .next ((s.accessLine key st (t.dpa va) start errs).runSeg st.ptn)

end Sys2Proof.Machine
end

