-- ==== Sys2Proof/Machine/Power.lean ====
section
/-! DEFINITION. Clocks, power states, capping, alerts and quench (R435 to R461). -/

namespace Sys2Proof.Machine

/-! ### Gap ratios (R31, R449 to R451, R453) -/

/-- g_a of a membership whose epoch has passed takes its place (R451). -/
def State.applyGap (s : State) (p : Nat) : State :=
  match (s.member p).gapNext with
  | some (g, epoch) =>
    if epoch ≤ s.now then (s.setMember p { s.member p with gapNext := none }).set Reg.ptnpPwrAlloyG p g else s
  | none => s
/-- Every g_a whose epoch fell within an alert or a quench applies as that ends (R457). -/
def State.applyGaps (s : State) : State := (List.range 64).foldl (fun s p => s.applyGap p) s

/-- CAP_W as it acts (R460). -/
def State.capW (s : State) : Nat := min 3600 (max 1800 (s.get Reg.pwrCapCapW 0))
/-- The window in ms. -/
def State.windowMs (s : State) : Nat := 1000 * min 10 (max 1 (s.get Reg.pwrCapWindowS 0))
/-- LIMIT_C as it acts (R461). -/
def State.limitC (s : State) : Nat := min 105 (max 85 (s.get Reg.thmCfgLimitC 0))
/-- Set every entry of the capping history to CAP_W × 1 ms (R449). -/
def State.fillHist (s : State) : State := s.onPower fun x => { x with hist := List.replicate s.windowMs s.capW }

/-- Enter the saturation of R450: the event and one notice; every partition shows it (R57). -/
def State.saturateCap (s : State) : State :=
  if s.flag Reg.pwrStsCapSaturated 0 then s
  else
    let s := (s.raise Reg.pwrStsCapSaturated 0).level qmgPage 5 true
    s.notice St.nCapSaturated 0 0 0
/-- Leave the saturation. -/
def State.clearCap (s : State) : State :=
  (s.set Reg.pwrStsCapSaturated 0 0).level qmgPage 5 false

/-- A common multiple of 56 to 64. -/
def gapScale : Nat := (List.range 9).foldl (fun l k => Nat.lcm l (64 - k)) 1
/-- Predicted power at a device gap, times `gapScale`: a fixed part, the alloys' parts as (power, previous, next gap), and
the other part with its previous gap (R449). -/
def predicted (fixed other prev g : Nat) (alloys : List (Nat × Nat × Nat)) : Nat :=
  fixed * gapScale +
    (alloys.map fun a => a.1 * (64 - a.2.2) * (gapScale / (64 - a.2.1))).sum +
    other * (64 - g) * (gapScale / (64 - prev))

/-- The alloy gaps that hold in the next ms: partition, gap in force, gap next. -/
def State.alloyGaps (s : State) : List (Nat × Nat × Nat) :=
  ((List.range 64).filter fun p => decide (s.mstate p ≠ Ms.none)).map fun p =>
    let cur := s.get Reg.ptnpPwrAlloyG p
    (p, cur, match (s.member p).gapNext with
      | some (g, epoch) => if epoch ≤ s.now then g else cur
      | none => cur)

/-- CAP_LOOP (R449): the energy of the last ms in mJ, its fixed and other issue-proportional power in W, and each alloy
member's, in order of partition. -/
def execCapLoop (lastMs fixed other : BitVec 32) (alloys : List (BitVec 32)) (s : State) : StepOut :=
  let s := s.atMultiple 1000000
  let w := s.windowMs
  let hist := s.plant.power.hist ++ [lastMs.toNat]
  let hist := hist.drop (hist.length - w)
  let s := s.onPower fun x => { x with hist := hist }
  let sum := hist.sum
  let s := (s.set Reg.pwrStsEstW 0 (min 65535 lastMs.toNat)).set Reg.pwrStsAvgW 0 (min 65535 (sum / w))
  let s := if s.flag Reg.pwrStsCapSaturated 0 ∧ ¬ s.flag Reg.thmStsThermal 0 ∧ 64 * sum ≤ 63 * s.capW * w then s.clearCap
    else s
  let allow : Int := (s.capW * w : Nat) - ((sum - hist.headD 0 : Nat) : Int)
  let fits := fun (p : Nat) => decide ((p : Int) ≤ allow * gapScale)
  let prev := s.get Reg.pwrStsG 0
  let gaps := (s.alloyGaps.zip alloys).map fun e => (e.2.toNat, e.1.2.1, e.1.2.2)
  let at_ := fun g => predicted fixed.toNat other.toNat prev g gaps
  let g := ((List.range 9).find? fun g => fits (at_ g)).getD 8
  let g := max g s.plant.power.gTherm
  let s := s.set Reg.pwrStsG 0 g
  if fits (at_ g) then .next s
  else
    let with_ := fun ga => predicted fixed.toNat other.toNat prev g (gaps.map fun a => (a.1, a.2.1, ga))
    match if gaps = [] then none else (List.range 9).find? fun ga => fits (with_ ga) with
    | some ga => .next ((s.set Reg.pwrStsG 0 8).notice St.nCapSaturated 0 0 (256 + ga))
    | none => .next s.saturateCap

/-- CALIBRATION (R448): measured energy over the uncalibrated estimate, in units of 1/4096, clamped to 0.75 to 1.33; the
quotient of nothing by nothing is a free value within the clamp. -/
def execCalibration (measured estimated : BitVec 48) (s : State) : StepOut :=
  let s := s.atMultiple 10000000
  if estimated = 0 ∧ measured = 0 then
    let d := s.draw
    .next (d.2.set Reg.pwrCalCal 0 (3072 + d.1.toNat % 2376))
  else
    let r := if estimated = 0 then 5448 else measured.toNat * 4096 / estimated.toNat
    let s := if r < 3072 ∨ 5447 < r then s.raise Reg.pwrCalCalRange 0 else s
    .next (s.set Reg.pwrCalCal 0 (min 5447 (max 3072 r)))

/-! ### Quench (R455 to R457) -/

/-- Every partition's line is killed with a cause, its promises voided, and alloy members told (R51, R53). -/
def State.killAll (s : State) (cause : Cause) : State :=
  (List.range 64).foldl (fun s p =>
    if (s.line p).items = [] ∧ (s.line p).killed = [] then s
    else ((s.voidAlloy p cause 0).voidLine p cause).killLine p ⟨St.killedVoided, cause, 0, none, 0⟩) s

/-- A partition reaches its seam: its kills finish, and what waits for a seam takes place. -/
def State.reachSeam (s : State) (p : Nat) : State := (s.finishKills p).seamEffects p

/-- Quench: steps 1 to 4 of R456. -/
def State.quench (s : State) : State :=
  if s.quenched then s
  else
    let s := (s.raise Reg.pwrStsQuenched 0).killAll .quench
    let s := (List.range 64).foldl (fun s p =>
      if (s.line p).pastMoves then s.setLine p { s.line p with afterQuench := true } else s) s
    let s := (List.range 64).foldl (fun s p => if s.ptnState p = ptnFree then s else s.reachSeam p) s
    let s := s.onPower fun x => { x with quenchAt := some s.now }
    let s := s.onClock fun x => { x with stopped := true }
    (List.range 768).foldl (fun s ch => s.setChannel ch { s.channel ch with selfRefresh := true }) s

/-- Recovery from a quench: COOL_FAIL_N is deasserted, MAX_C is below LIMIT_C and power-off has not been requested. The tick
count advances by the ticks of the stopped interval at 700 per 1,000 ns (R456). -/
def State.tryRecover (s : State) : State :=
  match s.plant.power.quenchAt with
  | none => s
  | some t =>
    if s.plant.pins.coolFail ∨ s.plant.pins.powerOff ∨ s.limitC ≤ s.get Reg.thmStsMaxC 0 then s
    else
      let s := (s.set Reg.pwrStsQuenched 0 0).onPower fun x => { x with quenchAt := none }
      let s := (List.range 64).foldl (fun s sl =>
        if 3 ≤ s.slicePower sl then s
        else (sliceChannels sl).foldl (fun s ch => s.setChannel ch { s.channel ch with selfRefresh := s.chAtRest ch }) s) s
      ((s.onClock fun x => { x with stopped := false }).passTicks (65536 * (s.now - t : Nat))).applyGaps

/-- A thermal trip: THERM_TRIP_N asserts, and the device quenches (R455, R456). -/
def State.trip (s : State) : State :=
  let s := (s.raise Reg.thmStsTrip 0).onPins fun x => { x with thermTrip := true }
  (s.onSide fun x => { x with ibis := x.ibis ++ [4] }).quench

/-- THERMAL_FLOOR (R455): each ms, with the hottest junction and where it is; at 115 °C the device trips. -/
def execThermalFloor (maxC hotDie : Byte) (s : State) : StepOut :=
  let s := (s.set Reg.thmStsMaxC 0 maxC.toNat).set Reg.thmStsHotDie 0 hotDie.toNat
  let l := s.limitC
  let was := s.plant.power.gTherm
  let g := if l < maxC.toNat then min 8 (was + 1) else if maxC.toNat + 3 < l then was - 1 else was
  let s := s.onPower fun x => { x with gTherm := g }
  let s := if 115 ≤ maxC.toNat ∧ ¬ s.plant.pins.thermTrip then s.trip else s
  let s := if l + 5 < maxC.toNat ∧ g = 8 then (s.raise Reg.thmStsThermal 0).saturateCap else s.set Reg.thmStsThermal 0 0
  .next s.tryRecover

/-- THERM_TRIP (R455, R456). -/
def execThermTrip (s : State) : StepOut := .next s.trip

/-- Whether a pulse of a width in ns is recognised: always from `hi`, never up to `lo`, and a free value between (R543). -/
def State.recognised (s : State) (width lo hi : Nat) : Bool × State :=
  if hi ≤ width then (true, s) else if width ≤ lo then (false, s)
  else
    let d := s.draw
    (d.1.getLsbD 0, d.2)

/-- COOL_FAIL_N_ASSERT (R456). -/
def execCoolFailNAssert (widthNs : BitVec 16) (s : State) : StepOut :=
  let r := s.recognised widthNs.toNat 200 1000
  .next (if r.1 then (r.2.onPins fun x => { x with coolFail := true }).quench else r.2)

/-- COOL_FAIL_N_DEASSERT (R456). -/
def execCoolFailNDeassert (s : State) : StepOut := .next (s.onPins fun x => { x with coolFail := false }).tryRecover

/-- QUENCH_POWER_OFF_REQUEST: step 5 of R456. -/
def execQuenchPowerOffRequest (s : State) : StepOut :=
  .next (match s.plant.power.quenchAt with
    | some t =>
      let s := s.atLeast (t + 100000000)
      let s := (s.onPins fun x => { x with powerOff := true }).onSide fun x => { x with ibis := x.ibis ++ [2] }
      s.assertFault
    | none => s)

/-! ### PWR_ALERT_N (R51, R55, R454) -/

/-- The alert voids every promise on a line; its commands run on. -/
def State.alertLine (s : State) (p : Nat) : State :=
  let s := ((s.voidAlloy p .pwrAlert 0).voidLine p .pwrAlert).rankKilled p .pwrAlert 0
  let l := s.line p
  s.setLine p { l with items := l.items.map fun it =>
    match it.cmd with
    | some c => it.withCmd (c.meet s.now .pwrAlert)
    | none => it }

/-- PWR_ALERT_N_ASSERT: step 1 of R454. -/
def execPwrAlertNAssert (widthNs : BitVec 16) (s : State) : StepOut :=
  let r := s.recognised widthNs.toNat 20 50
  if ¬ r.1 then .next r.2
  else
    let s := (r.2.onPins fun x => { x with alert := true }).onPower fun x => { x with alertEnd := none }
    if s.flag Reg.pwrStsAlert 0 then .next s
    else
      let s := s.raise Reg.pwrStsAlert 0
      .next ((List.range 64).foldl (fun s p =>
        if (s.line p).items = [] ∧ (s.line p).killed = [] then s else s.alertLine p) s)

/-- PWR_ALERT_N_DEASSERT (R454). -/
def execPwrAlertNDeassert (s : State) : StepOut :=
  .next (if s.plant.pins.alert then
    (s.onPins fun x => { x with alert := false }).onPower fun x => { x with
      alertEnd := some (s.now + 1000 * max 1 (s.get Reg.pwrCapAlertHoldUs 0)) }
  else s)

/-- ALERT_HOLD_END: step 3 of R454. -/
def execAlertHoldEnd (s : State) : StepOut :=
  match s.plant.power.alertEnd with
  | none => .next s
  | some t =>
    let s := (s.atLeast t).onPower fun x => { x with alertEnd := none }
    .next ((s.set Reg.pwrStsAlert 0 0).applyGaps)

/-! ### Supply, droop, oscillator -/

/-- SUPPLY_WARNING (R453). -/
def execSupplyWarning (rail : BitVec 3) (s : State) : StepOut :=
  let s := ((s.raise Reg.pwrSupplyWarn 0).bump Reg.pwrSupplyWarnCount 0).set Reg.pwrSupplyLastRail 0 rail.toNat
  let s := s.onPower fun x => { x with clampEnd := some (s.now + 100000) }
  .next (s.raise Reg.pwrStsClamp 0)

/-- CLAMP_END (R453). -/
def execClampEnd (s : State) : StepOut :=
  .next (match s.plant.power.clampEnd with
    | some t => ((s.atLeast t).set Reg.pwrStsClamp 0 0).onPower fun x => { x with clampEnd := none }
    | none => s)

/-- DROOP (R32, R452): stretched ticks and the total stretch, in ps, within 1,000 ns. -/
def execDroop (stretchedTicks : BitVec 16) (totalPs : BitVec 32) (s : State) : StepOut :=
  if s.plant.clock.stopped then .next s
  else
    let s := s.set Reg.pwrDroopStretched 0
      (satAdd (2 ^ 32 - 1) (s.get Reg.pwrDroopStretched 0) stretchedTicks.toNat)
    let s := s.set Reg.pwrDroopWorstNs 0 (max (s.get Reg.pwrDroopWorstNs 0) (min 65535 (totalPs.toNat / 1000)))
    .next (if 25000 < totalPs.toNat then
      s.faultAll ((List.range 64).filter fun p => decide (s.get Reg.ptnpSlicesSlices p ≠ 0)) Fc.droopBudget .none
    else s)

/-- TRIM (R436): the measured error in ppm, in two's complement, against the reference that TRIM_SRC names. -/
def execTrim (errPpm : BitVec 16) (refPresent : Bool) (s : State) : StepOut :=
  let s := s.atMultiple 10000000
  let src := s.get Reg.clkAonTrimSrc 0
  let present := refPresent && decide (1 ≤ src) && decide (src < 8) && (decide (src = 1) || s.portOpen (src - 2))
  .next (if present then
    (s.set Reg.clkAonErrPpm 0 errPpm.toNat).set Reg.clkAonTrimmed 0 (if (errPpm.toInt).natAbs ≤ 50 then 1 else 0)
  else s.set Reg.clkAonTrimmed 0 0)

/-! ### The ladder (R440 to R447) -/

/-- Whether a slice is bound to a partition whose line is idle: no item, at a seam, no hop run of it (R441). -/
def State.sliceIdle (s : State) (sl : Nat) : Bool :=
  match s.sliceOwner sl with
  | none => false
  | some p =>
    decide ((s.line p).items = []) && decide ((s.line p).killed = []) && decide (s.get Reg.schStsState sl = 0) &&
      s.engines.nodes.vals.all fun n => n.runs.all fun r => decide (r.ptn ≠ p)

/-- Fabric time at which the line of a slice's partition last became idle. -/
def State.idleSince (s : State) (sl : Nat) : Nat := ((s.sliceOwner sl).map fun p => (s.line p).idleAt).getD 0
/-- IDLE_SP1: the line has been idle for IDLE_SP1_NS (R441, R460). -/
def execIdleSp1 (slice : SliceNo) (s : State) : StepOut :=
  let sl := slice.toNat
  .next (if s.slicePower sl = 0 ∧ s.sliceIdle sl then
    (s.atLeast (s.idleSince sl + max 1 (s.get Reg.pwrLadderIdleSp1Ns 0))).setSlicePower sl 1 else s)
/-- IDLE_SP2: the line has been idle for IDLE_SP2_US (R441, R460). -/
def execIdleSp2 (slice : SliceNo) (s : State) : StepOut :=
  let sl := slice.toNat
  .next (if s.slicePower sl = 1 ∧ s.sliceIdle sl then
    (s.atLeast (s.idleSince sl + 1000 * max 1 (s.get Reg.pwrLadderIdleSp2Us 0))).setSlicePower sl 2 else s)

/-- SELF_REFRESH_RETURN: a channel woken by an access goes back 1 ms after its last one (R445). -/
def execSelfRefreshReturn (channel : BitVec 10) (s : State) : StepOut :=
  let ch := channel.toNat
  let c := s.channel ch
  .next (match c.returnAt with
    | some t =>
      let s := s.atLeast t
      s.setChannel ch { c with returnAt := none, selfRefresh := s.chAtRest ch }
    | none => s)

/-- Whether an instance is resident on any line. -/
def State.anyResident (s : State) : Bool := s.host.lines.vals.any fun l => l.resident.isSome
/-- Slices that are available and in the pool. -/
def State.poolSlices (s : State) : List Nat := bitsSet (s.get Reg.ptnFreeFree 0)
/-- Slices that a partition holds. -/
def State.boundSlices (s : State) : List Nat := (List.range 64).filter fun sl => (s.sliceOwner sl).isSome

/-- Pages of the always-on domain, which keep their fields through DS3: GLB, CLK, PWR, THM and RST (R507). -/
def alwaysOnPages : List Nat := [glbPage, clkPage, pwrPage, thmPage, rstPage]
/-- Whether a field lies on a page of the always-on domain, its common header included. -/
def alwaysOn (pg : Page) (i : Nat) : Bool :=
  match pg with
  | .glb | .clk | .pwr | .thm | .rst => true
  | .hdr => alwaysOnPages.contains i
  | _ => false
/-- A warm boot: the exit from DS3 (R447, R507). Fields of the GLB, CLK, PWR, THM and RST pages stay, those of their common
headers too. -/
def State.warmBoot (s : State) : State :=
  let s := s.dropFields fun pg i f => f.star || (decide (f.kept ≠ .device) && !alwaysOn pg i)
  let s := { s with
    host := HostSide.reset, evcs := .empty, msgs := [], net := { NetState.reset with frac := s.net.frac }
    tiles := .empty, clusters := .empty, engines := EngineState.reset
    mem := { MemState.reset with salt := s.mem.salt + 1 } }
  let s := s.onPlant fun p => { p with
    clock := ⟨false, 0, none⟩
    sec := { PlantState.reset.sec with banks := p.sec.banks }
    boot := { PlantState.reset.boot with
      unfused := p.boot.unfused, fenced := p.boot.fenced, steered := p.boot.steered, failedSlices := p.boot.failedSlices, failedSets := p.boot.failedSets
      failedPorts := p.boot.failedPorts, bootAt := s.now }
    bus := { p.bus with shown := p.bus.shown.keep fun k _ => alwaysOnPages.contains (k / 32), moved := [] } }
  (((s.set Reg.pwrStsDstate 0 0).set Reg.rstBootPhase 0 0).set Reg.rstStsLastCause 0 6).reload

/-- DEV_STATE 0 (R446). -/
def execDevStateDs0 (a : Adm) (s : State) : StepOut :=
  .next (s.admin false a true fun s =>
    let d := s.get Reg.pwrStsDstate 0
    if d = 3 then (s.complete false a St.success).warmBoot
    else if d = 2 then
      let s := s.set Reg.pwrStsDstate 0 0
      let s := s.boundSlices.foldl (fun s sl => s.setSlicePower sl 0) s
      let s := (List.range 64).foldl (fun s p => s.set Reg.ptnpPwrParked p 0) s
      let s := s.poolSlices.foldl (fun s sl => s.setSlicePower sl s.poolState) s
      s.complete false a St.success
    else s.complete false a St.success)

/-- DEV_STATE 2 (R447). -/
def execDevStateDs2 (a : Adm) (s : State) : StepOut :=
  .next (s.admin false a true fun s =>
    if (s.host.lines.vals.all fun l => l.isEmpty) ∧ (List.range 64).all (fun p => decide (s.mstate p = Ms.none)) ∧
        ¬ s.anyResident then
      let s := (s.boundSlices ++ s.poolSlices).foldl (fun s sl => s.setSlicePower sl 4) s
      let s := (List.range 64).foldl (fun s p => if s.ptnState p = ptnFree then s else s.raise Reg.ptnpPwrParked p) s
      let s := (List.range 768).foldl (fun s ch => s.setChannel ch { s.channel ch with selfRefresh := true }) s
      (s.set Reg.pwrStsDstate 0 2).complete false a St.success
    else s.complete false a St.admState)

/-- DEV_STATE 3 (R447). -/
def execDevStateDs3 (a : Adm) (s : State) : StepOut :=
  .next (s.admin false a true fun s =>
    if (List.range 64).all (fun p => decide (s.ptnState p = ptnFree)) ∧ s.net.records.entries = [] ∧
        s.net.trees.entries = [] then
      let s := (List.range 6).foldl (fun s n => s.closePort n Cl.admin) s
      let s := s.set Reg.ftmStsLstate 0 (if s.role = 0 then Ts.local else Ts.unlocked)
      let s := s.onSide fun x => { x with ibis := x.ibis ++ [5] }
      let s := s.onClock fun x => { x with stopped := true }
      (s.complete false a St.success).set Reg.pwrStsDstate 0 3
    else s.complete false a St.admState)

/-! ### Alloy gap (R451) -/

/-- ALLOY_GAP, an alloy order, which compatibility mode refuses (R284, R451). -/
def execAlloyGap (a : Adm) (p gap : Byte) (epoch : Word) (s : State) : StepOut :=
  .next (s.admin true a (ptnOk p && decide (gap.toNat ≤ 8) && decide (epoch.toNat % 1000000 = 0)) fun s =>
    let q := p.toNat
    if s.compat then s.complete true a St.alloyCompat
    else if s.mstate q = Ms.none ∨ epoch.toNat < s.now then s.complete true a St.admState
    else (s.setMember q { s.member q with gapNext := some (gap.toNat, epoch.toNat) }).complete true a St.success)

/-- ALLOY_GAP_EPOCH: g_a changes at the first issue tick at or after the epoch (R451); while an alert or a quench is in force it
stays recorded until that ends (R457). -/
def execAlloyGapEpoch (p : PtnNo) (s : State) : StepOut :=
  .next (match (s.member p.toNat).gapNext with
    | some (_, epoch) =>
      let s := s.atLeast epoch
      if s.flag Reg.pwrStsAlert 0 ∨ s.quenched then s else s.applyGap p.toNat
    | none => s)

/-! ### Counters and views (R476) -/

/-- Whether a page shows exact counters: PROFILE is set for its owner, which does not anneal, and which has held the page with
that PROFILE since before the last latch (R476, R478, R533). -/
def State.profiled (s : State) (page : Nat) : Bool :=
  let o := s.get Reg.blkCtlOwner page
  let st := s.ptnState (o % 64)
  decide (64 ≤ o) && s.flag Reg.ptnpSecProfile (o % 64) && decide (st = ptnActive ∨ st = ptnFaulted) &&
    !s.plant.bus.moved.contains page
/-- What the counter area of a page shows in a slot (R476, R525). -/
def State.shownCount (s : State) (page n : Nat) : Nat :=
  if s.profiled page ∧ ¬ s.flag Reg.blkCtlFreeze page then s.get Reg.countCount (32 * page + n)
  else s.plant.bus.shown.getD (32 * page + n) 0

/-- COUNTER_LATCH: coarsened counts of every page that is not frozen (R476); pages that changed hands show what they are to
(R533). -/
def execCounterLatch (s : State) : StepOut :=
  let s := s.atMultiple 10000000
  let counts := s.regs.entries.filter fun e => decide (e.1 / fieldStride = Reg.countCount.id)
  let shown := counts.foldl (fun (m : FMap Nat) e =>
    let k := e.1 % fieldStride
    if s.flag Reg.blkCtlFreeze (k / 32) then m else m.putD k 0 (e.2 / 65536 * 65536)) s.plant.bus.shown
  .next (s.onBus fun b => { b with shown := shown, moved := [] })

/-- Write FREEZE: on a set, the area keeps what it shows (R525). -/
def State.freezePage (s : State) (page : Nat) (v : Bool) : State :=
  if v ∧ ¬ s.flag Reg.blkCtlFreeze page then
    let held := (List.range 31).map fun n => (32 * page + n, s.shownCount page n)
    (s.onBus fun b => { b with shown := held.foldl (fun m e => m.putD e.1 0 e.2) b.shown }).raise Reg.blkCtlFreeze page
  else s.set Reg.blkCtlFreeze page (if v then 1 else 0)

/-- PWR_VIEW_UPDATE: each second, the partitions' calibrated power in W (R476). -/
def execPwrViewUpdate (powers : List (BitVec 16)) (s : State) : StepOut :=
  let s := s.atMultiple 1000000000
  .next (((List.range 64).zip powers).foldl (fun s e => s.set Reg.ptnpPwrViewSteps e.1 (e.2.toNat / 5)) s)

end Sys2Proof.Machine
end

