-- ==== Sys2Proof/Machine/Riscv.lean ====
section
/-! DEFINITION. The sequencer's instruction set, RV64IMAC with Zicsr and Zifencei in machine and user modes: compressed
instructions, arithmetic, control flow, CSRs, physical memory protection and traps (R86, R89). R86 names the instruction set; its
encodings and effects are those of the RISC-V architecture (log entry 94, PRESUMED). -/

namespace Sys2Proof.Machine

/-! ### Fields -/

/-- `n` bits of a number from bit `lo`. -/
def rvBits (w lo n : Nat) : Nat := w / 2 ^ lo % 2 ^ n
/-- The 64-bit word of an `n`-bit two's-complement number. -/
def rvSx (n v : Nat) : BitVec 64 := BitVec.ofInt 64 (signedOf n v)
/-- Immediate of the I form. -/
def immI (w : Nat) : BitVec 64 := rvSx 12 (rvBits w 20 12)
/-- Immediate of the S form. -/
def immS (w : Nat) : BitVec 64 := rvSx 12 (rvBits w 25 7 * 32 + rvBits w 7 5)
/-- Immediate of the B form. -/
def immB (w : Nat) : BitVec 64 :=
  rvSx 13 (rvBits w 31 1 * 2 ^ 12 + rvBits w 7 1 * 2 ^ 11 + rvBits w 25 6 * 2 ^ 5 + rvBits w 8 4 * 2)
/-- Immediate of the U form. -/
def immU (w : Nat) : BitVec 64 := rvSx 32 (rvBits w 12 20 * 2 ^ 12)
/-- Immediate of the J form. -/
def immJ (w : Nat) : BitVec 64 :=
  rvSx 21 (rvBits w 31 1 * 2 ^ 20 + rvBits w 12 8 * 2 ^ 12 + rvBits w 20 1 * 2 ^ 11 + rvBits w 21 10 * 2)

/-! ### Compressed instructions -/

/-- A word of the I form. -/
def formI (op f3 rd rs1 imm : Nat) : Nat := imm % 4096 * 2 ^ 20 + rs1 * 2 ^ 15 + f3 * 2 ^ 12 + rd * 2 ^ 7 + op
/-- A word of the R form. -/
def formR (op f3 f7 rd rs1 rs2 : Nat) : Nat := f7 * 2 ^ 25 + rs2 * 2 ^ 20 + rs1 * 2 ^ 15 + f3 * 2 ^ 12 + rd * 2 ^ 7 + op
/-- A word of the S form. -/
def formS (f3 rs1 rs2 imm : Nat) : Nat :=
  imm / 32 * 2 ^ 25 + rs2 * 2 ^ 20 + rs1 * 2 ^ 15 + f3 * 2 ^ 12 + imm % 32 * 2 ^ 7 + 0x23
/-- A word of the B form, for a 13-bit offset. -/
def formB (f3 rs1 imm : Nat) : Nat :=
  rvBits imm 12 1 * 2 ^ 31 + rvBits imm 5 6 * 2 ^ 25 + rs1 * 2 ^ 15 + f3 * 2 ^ 12 + rvBits imm 1 4 * 2 ^ 8 +
    rvBits imm 11 1 * 2 ^ 7 + 0x63
/-- A word of JAL x0, for a 21-bit offset. -/
def formJ (imm : Nat) : Nat :=
  rvBits imm 20 1 * 2 ^ 31 + rvBits imm 1 10 * 2 ^ 21 + rvBits imm 11 1 * 2 ^ 20 + rvBits imm 12 8 * 2 ^ 12 + 0x6F
/-- An `n`-bit two's-complement number in `m` bits. -/
def widen (n m v : Nat) : Nat := if v < 2 ^ (n - 1) then v else v + 2 ^ m - 2 ^ n

/-- The word that a compressed instruction stands for; none where it is reserved or of an extension that is absent. -/
def rvExpand (h : Nat) : Option Nat :=
  let b := rvBits h
  let rd := b 7 5
  let rs2 := b 2 5
  let lo := 8 + b 2 3
  let hi := 8 + b 7 3
  let imm6 := widen 6 12 (b 12 1 * 32 + b 2 5)
  let shamt := b 12 1 * 32 + b 2 5
  let cw := b 10 3 * 8 + b 6 1 * 4 + b 5 1 * 64
  let cd := b 10 3 * 8 + b 5 2 * 64
  let cb := widen 9 13 (b 12 1 * 256 + b 10 2 * 8 + b 5 2 * 64 + b 3 2 * 2 + b 2 1 * 32)
  match h % 4, b 13 3 with
  | 0, 0 =>
    let imm := b 7 4 * 64 + b 11 2 * 16 + b 5 1 * 8 + b 6 1 * 4
    if imm = 0 then none else some (formI 0x13 0 lo 2 imm)
  | 0, 2 => some (formI 0x03 2 lo hi cw)
  | 0, 3 => some (formI 0x03 3 lo hi cd)
  | 0, 6 => some (formS 2 hi lo cw)
  | 0, 7 => some (formS 3 hi lo cd)
  | 1, 0 => some (formI 0x13 0 rd rd imm6)
  | 1, 1 => if rd = 0 then none else some (formI 0x1B 0 rd rd imm6)
  | 1, 2 => some (formI 0x13 0 rd 0 imm6)
  | 1, 3 =>
    if rd = 2 then
      let imm := b 12 1 * 512 + b 6 1 * 16 + b 5 1 * 64 + b 3 2 * 128 + b 2 1 * 32
      if imm = 0 then none else some (formI 0x13 0 2 2 (widen 10 12 imm))
    else if shamt = 0 then none
    else some (widen 6 20 shamt * 2 ^ 12 + rd * 2 ^ 7 + 0x37)
  | 1, 4 =>
    if b 10 2 = 0 then some (formI 0x13 5 hi hi shamt)
    else if b 10 2 = 1 then some (formI 0x13 5 hi hi (0x400 + shamt))
    else if b 10 2 = 2 then some (formI 0x13 7 hi hi imm6)
    else if b 12 1 = 0 then
      let f := b 5 2
      some (formR 0x33 (if f = 0 then 0 else if f = 1 then 4 else if f = 2 then 6 else 7) (if f = 0 then 0x20 else 0) hi hi lo)
    else if b 5 2 = 0 then some (formR 0x3B 0 0x20 hi hi lo)
    else if b 5 2 = 1 then some (formR 0x3B 0 0 hi hi lo)
    else none
  | 1, 5 => some (formJ (widen 12 21 (b 12 1 * 2048 + b 11 1 * 16 + b 9 2 * 256 + b 8 1 * 1024 + b 7 1 * 64 + b 6 1 * 128 +
      b 3 3 * 2 + b 2 1 * 32)))
  | 1, 6 => some (formB 0 hi cb)
  | 1, 7 => some (formB 1 hi cb)
  | 2, 0 => some (formI 0x13 1 rd rd shamt)
  | 2, 2 => if rd = 0 then none else some (formI 0x03 2 rd 2 (b 12 1 * 32 + b 4 3 * 4 + b 2 2 * 64))
  | 2, 3 => if rd = 0 then none else some (formI 0x03 3 rd 2 (b 12 1 * 32 + b 5 2 * 8 + b 2 3 * 64))
  | 2, 4 =>
    if b 12 1 = 0 then
      if rs2 = 0 then (if rd = 0 then none else some (formI 0x67 0 0 rd 0)) else some (formR 0x33 0 0 rd 0 rs2)
    else if rs2 = 0 then (if rd = 0 then some 0x00100073 else some (formI 0x67 0 1 rd 0))
    else some (formR 0x33 0 0 rd rd rs2)
  | 2, 6 => some (formS 2 2 rs2 (b 9 4 * 4 + b 7 2 * 64))
  | 2, 7 => some (formS 3 2 rs2 (b 10 3 * 8 + b 7 3 * 64))
  | _, _ => none

/-! ### Arithmetic -/

/-- Signed division and remainder, with the results that the M extension gives for a zero divisor. -/
def rvDiv (a b : BitVec n) : BitVec n := if b = 0 then BitVec.allOnes n else BitVec.sdiv a b
/-- Unsigned division. -/
def rvDivu (a b : BitVec n) : BitVec n := if b = 0 then BitVec.allOnes n else a / b
/-- Signed remainder. -/
def rvRem (a b : BitVec n) : BitVec n := if b = 0 then a else BitVec.srem a b
/-- Unsigned remainder. -/
def rvRemu (a b : BitVec n) : BitVec n := if b = 0 then a else a % b
/-- A truth value as a word. -/
def rvBool (x : Bool) : BitVec 64 := if x then 1 else 0
/-- The high half of a product of integers. -/
def rvHigh (a b : Int) : BitVec 64 := BitVec.ofInt 64 (a * b / 2 ^ 64)
/-- Register operations of 64 bits, by funct7 and funct3. -/
def rvAlu (f7 f3 : Nat) (a b : BitVec 64) : Option (BitVec 64) :=
  let k := b.toNat % 64
  match f7, f3 with
  | 0, 0 => some (a + b)
  | 0x20, 0 => some (a - b)
  | 0, 1 => some (a <<< k)
  | 0, 2 => some (rvBool (a.slt b))
  | 0, 3 => some (rvBool (a.ult b))
  | 0, 4 => some (a ^^^ b)
  | 0, 5 => some (a >>> k)
  | 0x20, 5 => some (a.sshiftRight k)
  | 0, 6 => some (a ||| b)
  | 0, 7 => some (a &&& b)
  | 1, 0 => some (a * b)
  | 1, 1 => some (rvHigh a.toInt b.toInt)
  | 1, 2 => some (rvHigh a.toInt b.toNat)
  | 1, 3 => some (rvHigh a.toNat b.toNat)
  | 1, 4 => some (rvDiv a b)
  | 1, 5 => some (rvDivu a b)
  | 1, 6 => some (rvRem a b)
  | 1, 7 => some (rvRemu a b)
  | _, _ => none
/-- Register operations of 32 bits, whose results are sign-extended. -/
def rvAluW (f7 f3 : Nat) (x y : BitVec 64) : Option (BitVec 64) :=
  let a : BitVec 32 := x.setWidth 32
  let b : BitVec 32 := y.setWidth 32
  let k := b.toNat % 32
  let r : Option (BitVec 32) := match f7, f3 with
  | 0, 0 => some (a + b)
  | 0x20, 0 => some (a - b)
  | 0, 1 => some (a <<< k)
  | 0, 5 => some (a >>> k)
  | 0x20, 5 => some (a.sshiftRight k)
  | 1, 0 => some (a * b)
  | 1, 4 => some (rvDiv a b)
  | 1, 5 => some (rvDivu a b)
  | 1, 6 => some (rvRem a b)
  | 1, 7 => some (rvRemu a b)
  | _, _ => none
  r.map fun v => v.signExtend 64
/-- Operations with an immediate: a shift takes its upper bits as funct7. -/
def rvAluImm (wide : Bool) (w : Nat) (a : BitVec 64) : Option (BitVec 64) :=
  let f3 := rvBits w 12 3
  let alu := if wide then rvAlu else rvAluW
  if f3 = 1 ∨ f3 = 5 then
    let f7 := if wide then rvBits w 26 6 * 2 else rvBits w 25 7
    if f7 = 0 ∨ f7 = 0x20 ∧ f3 = 5 then alu f7 f3 a (BitVec.ofNat 64 (rvBits w 20 (if wide then 6 else 5))) else none
  else if wide ∨ f3 = 0 then alu 0 f3 a (immI w)
  else none
/-- Whether a branch is taken; none for a reserved condition. -/
def rvBranch (f3 : Nat) (a b : BitVec 64) : Option Bool :=
  match f3 with
  | 0 => some (a == b)
  | 1 => some (a != b)
  | 4 => some (a.slt b)
  | 5 => some (!a.slt b)
  | 6 => some (a.ult b)
  | 7 => some (!a.ult b)
  | _ => none
/-- What an atomic operation writes to memory, by funct5, on operands of its width. -/
def rvAmo (f5 : Nat) (a b : BitVec n) : Option (BitVec n) :=
  match f5 with
  | 0 => some (a + b)
  | 1 => some b
  | 4 => some (a ^^^ b)
  | 8 => some (a ||| b)
  | 0xC => some (a &&& b)
  | 0x10 => some (if a.slt b then a else b)
  | 0x14 => some (if a.slt b then b else a)
  | 0x18 => some (if a.ult b then a else b)
  | 0x1C => some (if a.ult b then b else a)
  | _ => none

/-! ### Registers and CSRs -/

/-- Register x`n`; x0 reads 0. -/
def SeqCore.x (c : SeqCore) (n : Nat) : BitVec 64 := if n = 0 then 0 else c.regs.getD n 0
/-- Write x`n`; a write of x0 is lost. -/
def SeqCore.setX (c : SeqCore) (n : Nat) (v : BitVec 64) : SeqCore :=
  if n = 0 then c else { c with regs := c.regs.putD n 0 v }
/-- A CSR of the table. -/
def SeqCore.csr (c : SeqCore) (n : Nat) : BitVec 64 := c.csrs.getD n 0
/-- Write a CSR of the table. -/
def SeqCore.setCsr (c : SeqCore) (n : Nat) (v : BitVec 64) : SeqCore := { c with csrs := c.csrs.putD n 0 v }
/-- The core behind an instruction of a length. -/
def SeqCore.past (c : SeqCore) (len : Nat) : SeqCore := { c with pc := c.pc + BitVec.ofNat 64 len }
/-- Fifths of a cycle at a fabric time: mcountinhibit.CY stops the count. -/
def SeqCore.fifthsAt (c : SeqCore) (now : Nat) : Nat := if (c.csr 0x320).getLsbD 0 then c.fifths else c.fifths + 7 * (now - c.cycleAt)
/-- Bring the cycle count to a fabric time. -/
def SeqCore.settle (c : SeqCore) (now : Nat) : SeqCore := { c with fifths := c.fifthsAt now, cycleAt := now }
/-- Count an instruction, unless mcountinhibit.IR is set. -/
def SeqCore.retire (c : SeqCore) : SeqCore := if (c.csr 0x320).getLsbD 2 then c else { c with instret := (c.instret + 1) % 2 ^ 64 }

/-- MPP of mstatus: machine mode. -/
def SeqCore.mppMachine (c : SeqCore) : Bool := c.mstatus.getLsbD 11
/-- mstatus with a bit set or cleared. -/
def rvSetBit (w : BitVec 64) (k : Nat) (v : Bool) : BitVec 64 := if v then w ||| (1#64 <<< k) else w &&& ~~~(1#64 <<< k)
/-- mstatus as it reads: UXL is 2. -/
def SeqCore.mstatusWord (c : SeqCore) : BitVec 64 := c.mstatus ||| 0x200000000
/-- A write of mstatus: MPP takes only machine and user modes. -/
def SeqCore.writeMstatus (c : SeqCore) (v : BitVec 64) : SeqCore :=
  let mpp := if v.getLsbD 11 && v.getLsbD 12 then 0x1800 else if !v.getLsbD 11 && !v.getLsbD 12 then 0 else c.mstatus &&& 0x1800
  { c with mstatus := v &&& 0x220088 ||| mpp }

/-- Byte `i` of the protection configuration. -/
def SeqCore.pmpCfg (c : SeqCore) (i : Nat) : Nat := rvBits (c.csr (0x3A0 + i / 8 * 2)).toNat (8 * (i % 8)) 8
/-- Address register `i`. -/
def SeqCore.pmpAddr (c : SeqCore) (i : Nat) : Nat := (c.csr (0x3B0 + i)).toNat
/-- The bytes that entry `i` matches, as first address and length; none where it is off. -/
def SeqCore.pmpRange (c : SeqCore) (i : Nat) : Option (Nat × Nat) :=
  let a := c.pmpAddr i
  match rvBits (c.pmpCfg i) 3 2 with
  | 1 =>
    let lo := if i = 0 then 0 else 4 * c.pmpAddr (i - 1)
    some (lo, 4 * a - lo)
  | 2 => some (4 * a, 4)
  | 3 =>
    let t := (firstIn 54 0 fun k => !Nat.testBit a k).getD 54
    some (4 * (a / 2 ^ (t + 1) * 2 ^ (t + 1)), 2 ^ (t + 3))
  | _ => none
/-- Whether an access of bytes is permitted; `kind` is the bit of the right: 0 read, 1 write, 2 execute (R86). -/
def SeqCore.pmpOk (c : SeqCore) (machine : Bool) (kind a n : Nat) : Bool :=
  let hit := (List.range 16).findSome? fun i => match c.pmpRange i with
    | some (lo, len) => if lo < a + n ∧ a < lo + len then some (i, decide (lo ≤ a ∧ a + n ≤ lo + len)) else none
    | none => none
  match hit with
  | none => machine
  | some (i, whole) => whole && (machine && !Nat.testBit (c.pmpCfg i) 7 || Nat.testBit (c.pmpCfg i) kind)
/-- A write of a protection configuration register: a locked byte stays, and W without R is not taken. -/
def SeqCore.writePmpCfg (c : SeqCore) (n : Nat) (v : BitVec 64) : SeqCore :=
  c.setCsr n (BitVec.ofNat 64 ((List.range 8).map fun k =>
    let old := rvBits (c.csr n).toNat (8 * k) 8
    let new := rvBits v.toNat (8 * k) 8
    let new := new % 32 + new / 128 * 128
    (if 128 ≤ old then old else if Nat.testBit new 1 && !Nat.testBit new 0 then new - 2 else new) * 2 ^ (8 * k)).sum)
/-- A write of a protection address register: one that is locked, or that ends a locked range, stays. -/
def SeqCore.writePmpAddr (c : SeqCore) (i : Nat) (v : BitVec 64) : SeqCore :=
  let next := c.pmpCfg (i + 1)
  if 128 ≤ c.pmpCfg i ∨ i < 15 ∧ 128 ≤ next ∧ rvBits next 3 2 = 1 then c else c.setCsr (0x3B0 + i) (v &&& 0x3FFFFFFFFFFFFF)

/-- Whether a CSR is one that the core keeps and that firmware reads and writes as a plain word or with the masks below. -/
def csrKept (n : Nat) : Bool :=
  [0x304, 0x305, 0x306, 0x30A, 0x320, 0x340, 0x341, 0x342, 0x343, 0x3A0, 0x3A2].contains n || decide (0x3B0 ≤ n ∧ n < 0x3C0)
/-- CSRs that read zero and take no value: the hardware performance counters and their events. -/
def csrZero (n : Nat) : Bool :=
  decide (0xB03 ≤ n ∧ n < 0xB20) || decide (0x323 ≤ n ∧ n < 0x340) || decide (0xC03 ≤ n ∧ n < 0xC20)
/-- A write of a kept CSR. -/
def SeqCore.writeKept (c : SeqCore) (now n : Nat) (v : BitVec 64) : SeqCore :=
  if n = 0x304 then c.setCsr n (v &&& 0x888)
  else if n = 0x305 then c.setCsr n (v &&& ~~~2)
  else if n = 0x306 then c.setCsr n (v &&& 0xFFFFFFFF)
  else if n = 0x30A then c.setCsr n (v &&& 1)
  else if n = 0x320 then (c.settle now).setCsr n (v &&& 5)
  else if n = 0x341 then c.setCsr n (v &&& ~~~1)
  else if n = 0x3A0 ∨ n = 0x3A2 then c.writePmpCfg n v
  else if 0x3B0 ≤ n then c.writePmpAddr (n - 0x3B0) v
  else c.setCsr n v

/-! ### Traps -/

/-- Take a trap: mepc, mcause, mtval and mstatus, and the pc at the handler, which an interrupt's vector moves. -/
def SeqCore.trap (c : SeqCore) (interrupt : Bool) (cause : Nat) (tval : BitVec 64) : SeqCore :=
  let tvec := c.csr 0x305
  let base := tvec &&& ~~~3
  let st := rvSetBit (rvSetBit (rvSetBit (rvSetBit c.mstatus 7 (c.mstatus.getLsbD 3)) 3 false) 11 c.machine) 12 c.machine
  let c := ((c.setCsr 0x341 (c.pc &&& ~~~1)).setCsr 0x342 (BitVec.ofNat 64 ((if interrupt then 2 ^ 63 else 0) + cause))).setCsr 0x343 tval
  { c with mstatus := st, machine := true, pc := if interrupt ∧ tvec.getLsbD 0 then base + BitVec.ofNat 64 (4 * cause) else base }
/-- MRET. -/
def SeqCore.mret (c : SeqCore) : SeqCore :=
  let m := c.mppMachine
  let st := rvSetBit (rvSetBit (rvSetBit (rvSetBit c.mstatus 3 (c.mstatus.getLsbD 7)) 7 true) 11 false) 12 false
  { c with mstatus := if m then st else rvSetBit st 17 false, machine := m, pc := c.csr 0x341 }
/-- The mode in which loads and stores are made: MPRV takes that of MPP. -/
def SeqCore.dataMachine (c : SeqCore) : Bool := if c.mstatus.getLsbD 17 then c.mppMachine else c.machine

/-! ### One instruction -/

/-- What an instruction does beyond the core. -/
inductive RvDo where
  /-- The core goes on like this. -/
  | core (c : SeqCore)
  | trap (cause : Nat) (tval : BitVec 64)
  | load (rd size : Nat) (unsigned : Bool) (addr : BitVec 64)
  | store (size : Nat) (addr v : BitVec 64)
  /-- LR, SC and the atomic operations, by funct5. -/
  | amo (f5 size rd : Nat) (addr v : BitVec 64)
  /-- A CSR: the destination, the number, and 1 to write, 2 to set, 3 to clear a value; `write` says whether one is written. -/
  | csr (rd n how : Nat) (write : Bool) (v : BitVec 64)
  | wfi
  deriving DecidableEq, Repr

/-- SYSTEM instructions. -/
def SeqCore.system (c : SeqCore) (w : Nat) : RvDo :=
  let f3 := rvBits w 12 3
  let rd := rvBits w 7 5
  let rs1 := rvBits w 15 5
  let bad : RvDo := .trap 2 (BitVec.ofNat 64 w)
  if f3 % 4 ≠ 0 then
    .csr rd (rvBits w 20 12) (f3 % 4) (decide (f3 % 4 = 1 ∨ rs1 ≠ 0)) (if f3 < 4 then c.x rs1 else BitVec.ofNat 64 rs1)
  else if w = 0x00000073 then .trap (if c.machine then 11 else 8) 0
  else if w = 0x00100073 then .trap 3 c.pc
  else if w = 0x30200073 then if c.machine then .core c.mret else bad
  else if w = 0x10500073 then if c.machine || !c.mstatus.getLsbD 21 then .wfi else bad
  else bad
/-- What an instruction of a length does: `w` is its word, or the word that a compressed one stands for. -/
def SeqCore.decode (c : SeqCore) (w len : Nat) : RvDo :=
  let f3 := rvBits w 12 3
  let f7 := rvBits w 25 7
  let rd := rvBits w 7 5
  let a := c.x (rvBits w 15 5)
  let b := c.x (rvBits w 20 5)
  let bad : RvDo := .trap 2 (BitVec.ofNat 64 w)
  let put := fun (r : Option (BitVec 64)) => match r with
    | some v => RvDo.core ((c.setX rd v).past len)
    | none => bad
  match w % 128 with
  | 0x37 => put (some (immU w))
  | 0x17 => put (some (c.pc + immU w))
  | 0x6F => .core { c.setX rd (c.pc + BitVec.ofNat 64 len) with pc := c.pc + immJ w }
  | 0x67 => if f3 = 0 then .core { c.setX rd (c.pc + BitVec.ofNat 64 len) with pc := (a + immI w) &&& ~~~1 } else bad
  | 0x63 => match rvBranch f3 a b with
    | some t => .core (if t then { c with pc := c.pc + immB w } else c.past len)
    | none => bad
  | 0x03 => if f3 = 7 then bad else .load rd (2 ^ (f3 % 4)) (decide (4 ≤ f3)) (a + immI w)
  | 0x23 => if f3 < 4 then .store (2 ^ f3) (a + immS w) b else bad
  | 0x13 => put (rvAluImm true w a)
  | 0x1B => put (rvAluImm false w a)
  | 0x33 => put (rvAlu f7 f3 a b)
  | 0x3B => put (rvAluW f7 f3 a b)
  | 0x0F => if f3 ≤ 1 then .core (c.past len) else bad
  | 0x73 => c.system w
  | 0x2F =>
    let f5 := rvBits w 27 5
    if (f3 = 2 ∨ f3 = 3) ∧ ((f5 = 2 ∧ rvBits w 20 5 = 0) ∨ f5 = 3 ∨ (rvAmo f5 a b).isSome) then .amo f5 (2 ^ f3) rd a b else bad
  | _ => bad

end Sys2Proof.Machine
end

