-- ==== Sys2Proof/Machine/Events.lean ====
section
/-! DEFINITION. Event controllers (R419 to R431) and sequencers (R86 to R92). -/

namespace Sys2Proof.Machine

/-! ### Sources -/

/-- A source of a controller. -/
def Evc.source (e : Evc) (n : Nat) : EvcSource := e.sources.getD n EvcSource.reset
/-- Write a source. -/
def Evc.setSource (e : Evc) (n : Nat) (x : EvcSource) : Evc :=
  { e with sources := e.sources.putD n EvcSource.reset x }

/-- COUNT_TH as it acts: 0 is 1 (R431). -/
def EvcSource.threshold (x : EvcSource) : Nat := max 1 x.countTh
/-- TIME_US as it acts: at most 1,000. -/
def EvcSource.window (x : EvcSource) : Nat := min 1000 x.timeUs

/-- A source becomes pending where its conditions hold (R424). -/
def EvcSource.test (x : EvcSource) (now : Nat) : EvcSource :=
  if x.enable ∧ 1 ≤ x.acc ∧ (x.threshold ≤ x.acc ∨ x.window ≠ 0 ∧ x.since + 1000 * x.window ≤ now) then
    { x with pending := true }
  else x

/-- One message to a source (R423). -/
def EvcSource.message (x : EvcSource) (now : Nat) : EvcSource :=
  if x.enable then
    ({ x with acc := min 65535 (x.acc + 1), since := if x.acc = 0 then now else x.since }).test now
  else { x with latched := true }

/-- Write ENABLE of a source (R423, R424). -/
def EvcSource.setEnable (x : EvcSource) (on : Bool) (now : Nat) : EvcSource :=
  if on then
    let y := { x with enable := true }
    if x.latched ∧ ¬ x.enable then ({ y with latched := false }).message now else y.test now
  else { x with enable := false, pending := false }

/-- Whether a source is on the stack. -/
def Evc.onStack (e : Evc) (n : Nat) : Bool := e.stack.any fun x => decide (x.1 = n)
/-- The better of two candidates: lower PRIO, then lower number. -/
def betterSource (a b : Nat × Nat) : Nat × Nat := if b.2 < a.2 ∨ b.2 = a.2 ∧ b.1 < a.1 then b else a
/-- The best source (R425): number and PRIO. -/
def Evc.best (e : Evc) : Option (Nat × Nat) :=
  let c := (e.sources.entries.filter fun x => x.2.pending && !e.onStack x.1).map fun x => (x.1, x.2.prio)
  match c with
  | [] => none
  | x :: rest => some (rest.foldl betterSource x)
/-- The group of a PRIO (R425). -/
def Evc.group (e : Evc) (prio : Nat) : Nat := prio / 2 ^ (8 - min 8 e.groupBits)
/-- The external interrupt line (R426). -/
def Evc.line (e : Evc) : Bool :=
  !e.frozen && !e.mask && decide (e.stack.length < 16) &&
    match e.best with
    | none => false
    | some b => match e.stack with
      | [] => true
      | t :: _ => decide (e.group b.2 < e.group t.2)
/-- TOP_SOURCE follows the stack. -/
def Evc.withStack (e : Evc) (st : List (Nat × Nat)) : Evc :=
  { e with stack := st, topSource := match st with | t :: _ => t.1 | [] => e.topSource }

/-! ### Messages -/

/-- A core wakes while a source is pending and enabled, and its slice leaves SP1 to SP3 (R430). -/
def State.wakeEvc (s : State) (n : Nat) : State :=
  let e := s.evc n
  if e.sources.vals.any fun x => x.pending && x.enable then
    let s := if e.wfi then s.setEvc n { e with wfi := false } else s
    if n < 64 ∧ 1 ≤ s.slicePower n ∧ s.slicePower n ≤ 3 then s.setSlicePower n 0 else s
  else s

/-- Whether a controller exists and its core's slice is available (R419). -/
def State.evcExists (s : State) (n : Nat) : Bool :=
  if n < 64 then Nat.testBit (s.get Reg.ptnAvailAvail 0) n else decide (n < 68)
/-- Whether a controller keeps its configuration: not a sequencer's in SP4. -/
def State.evcLive (s : State) (n : Nat) : Bool := s.evcExists n && !(decide (n < 64) && decide (s.slicePower n = 4))

/-- A message reaches a controller. -/
def State.evcMessage (s : State) (n src : Nat) : State :=
  if s.evcLive n then
    let e := s.evc n
    (s.setEvc n (e.setSource src ((e.source src).message s.now))).wakeEvc n
  else s

/-- EVC_DOORBELL: firmware's write to its own controller (R420). -/
def execEvcDoorbell (evc : BitVec 7) (source : BitVec 10) (s : State) : StepOut :=
  .next (s.evcMessage evc.toNat source.toNat)

/-- Take the first message in flight to a source out. -/
def dropMsg (evc src : Nat) : List EventMsg → List EventMsg
  | [] => []
  | m :: rest => if m.evc = evc ∧ m.source = src then rest else m :: dropMsg evc src rest

/-- EVC_MESSAGE: a block's message reaches its controller (R423). -/
def execEvcMessage (evc : BitVec 7) (source : BitVec 10) (s : State) : StepOut :=
  .next (({ s with msgs := dropMsg evc.toNat source.toNat s.msgs }).evcMessage evc.toNat source.toNat)

/-- EVC_TIME_EXPIRY: TIME_US has passed since ACC went from 0 to 1 (R424). -/
def execEvcTimeExpiry (evc : BitVec 7) (source : BitVec 10) (s : State) : StepOut :=
  let n := evc.toNat
  let x := (s.evc n).source source.toNat
  .next (if s.evcLive n ∧ x.enable ∧ 1 ≤ x.acc ∧ x.window ≠ 0 ∧ ¬ x.pending then
      let s := s.atLeast (x.since + 1000 * x.window)
      (s.setEvc n ((s.evc n).setSource source.toNat (x.test s.now))).wakeEvc n
    else s)

/-- The controller that an origin owns; none for the host. -/
def ownEvc : Origin → Option Nat
  | .bar0 => none
  | .sequencer sl => some sl.toNat
  | .core n => some (64 + n.toNat)

/-- A claim by the owning core: what EVC_CLAIM returns, and the state after it (R427). -/
def State.claim (s : State) (n : Nat) : Nat × State :=
  let e := s.evc n
  if s.evcLive n ∧ e.line then
    match e.best with
    | some b =>
      let x := e.source b.1
      let e' := (e.setSource b.1 { x with pending := false, acc := 0 }).withStack (b :: e.stack)
      (x.acc * 2 ^ 32 + b.1, s.setEvc n e')
    | none => (2 ^ 63, s)
  else (2 ^ 63, s)
/-- EVC_CLAIM (R427): the owning core claims the best source, any other read returns NONE. -/
def execEvcClaim (evc : BitVec 7) (origin : Origin) (s : State) : StepOut :=
  let r := if ownEvc origin = some evc.toNat then s.claim evc.toNat else (2 ^ 63, s)
  .next (r.2.emit (.coreRead (BitVec.ofNat 64 r.1)))

/-- The page of a controller (R419). -/
def evcPage (n : Nat) : Nat := if n < 64 then clusterPage n 5 else 0xA

/-- A completion: of the top entry it pops it; any other freezes the controller and faults the partition of its slice, or the
hub (R428). -/
def State.evcCompleted (s : State) (n src : Nat) : State :=
  let e := s.evc n
  if ¬ s.evcLive n ∨ e.frozen then s
  else
    let bad :=
      let s := (s.setEvc n { e with frozen := true, badSource := src }).event (evcPage n) 0
      if n < 64 then s.faultSlice n Fc.evcStack 8 else s.hubFault true
    match e.stack with
    | t :: rest => if t.1 = src then s.setEvc n (e.withStack rest) else bad
    | [] => bad

/-- EVC_COMPLETE (R428). -/
def execEvcComplete (evc : BitVec 7) (source : BitVec 10) (s : State) : StepOut :=
  .next (s.evcCompleted evc.toNat source.toNat)

/-- Whether an origin may write a controller's page (R431). -/
def mayWriteEvc (origin : Origin) (n : Nat) : Bool :=
  match origin with
  | .bar0 => false
  | .sequencer sl => decide (sl.toNat = n)
  | .core _ => true

/-- Empty a controller's stack and unfreeze it (R428). -/
def State.clearStack (s : State) (n : Nat) : State := s.setEvc n { s.evc n with stack := [], frozen := false }
/-- STACK_CLR (R428). -/
def execStackClr (evc : BitVec 7) (origin : Origin) (s : State) : StepOut :=
  let n := evc.toNat
  .next (if mayWriteEvc origin n ∧ s.evcLive n then s.clearStack n else s)

/-! ### Sequencers (R89 to R92) -/

/-- HALT: 1 holds the sequencer in reset, 0 starts it at BOOT_PC (R92); a 0 leaves one that runs as it is. -/
def State.haltSeq (s : State) (sl : Nat) (v : Bool) : State :=
  if v then
    let s := (s.set Reg.seqCtlHalt sl 1).set Reg.seqStsRunning sl 0
    let s := s.setEvc sl { s.evc sl with wfi := false }
    s.setSeqr sl ((s.seqr sl).halted s.now)
  else if s.flag Reg.seqStsRunning sl then s.set Reg.seqCtlHalt sl 0
  else s.startSeq sl
/-- HALT (R92). -/
def execHalt (slice : SliceNo) (value : Bool) (s : State) : StepOut :=
  .next (if s.slicePower slice.toNat ≤ 1 then s.haltSeq slice.toNat value else s)

/-- HEARTBEAT_MISSED: a period passed with no increment, which is a hang (R90, R483); suspended in SP2 to SP4 (R440) and
while the sequencer is halted. Any change of the count is taken as an increment: the spec does not say what a change that is no
rise counts as (log entry 73, DESIGN CHOICE). -/
def execHeartbeatMissed (slice : SliceNo) (s : State) : StepOut :=
  let sl := slice.toNat
  let x := s.seqr sl
  if ¬ s.flag Reg.seqStsRunning sl ∨ 2 ≤ s.slicePower sl then .next s
  else if s.get Reg.seqHeartbeatCount sl ≠ x.beat then
    .next (s.setSeqr sl { x with beatAt := s.now, beat := s.get Reg.seqHeartbeatCount sl })
  else
    let s := s.atLeast (x.beatAt + 1000 * max 1 (s.get Reg.seqCtlHbPeriodUs sl))
    let s := (s.raise Reg.seqStsHbMissed sl).setSeqr sl { x with beatAt := s.now }
    .next (s.faultSlice sl Fc.heartbeat 8)

/-- SEQ_TRAP: the core takes a trap with firmware's fatal flag set, which faults the partition (R92, R483; log entry 94). -/
def execSeqTrap (slice : SliceNo) (mcause : Word) (s : State) : StepOut :=
  let sl := slice.toNat
  let x := s.seqr sl
  .next (if s.flag Reg.seqStsRunning sl then
      let s := s.setSeqr sl { x with core := x.core.trap (mcause.getLsbD 63) (mcause.toNat % 2 ^ 63) 0 }
      (s.set Reg.seqStsTrapCause sl (mcause.toNat % 256)).faultSlice sl Fc.seqTrap 8
    else s)

end Sys2Proof.Machine
end

