-- ==== Sys2Proof/Machine/Bus.lean ====
section
/-! DEFINITION. Register writes, doorbells and admin rings (R12 to R15, R263, R349 to R360, R391, R437, R514 to R527). -/

namespace Sys2Proof.Machine

/-! ### Which pages answer (R437, R440, R447, R505, R526) -/

/-- The block of a page is clock-gated (R437). -/
def State.pageGated (s : State) (page : Nat) : Bool :=
  match pageInfo page with
  | some (.ast, _, _) => !s.flag Reg.clkGateHubAst 0
  | some (.lnk, d, i) =>
    if i = 4 then !s.flag Reg.clkGateHubLnk4 0 else if i = 5 then !s.flag Reg.clkGateHubLnk5 0
    else !s.flag Reg.clkGateDieLnk d
  | some (.nme, d, i) => !Nat.testBit (s.get Reg.clkGateDieNme d) (i % 6)
  | _ => false

/-- The slice state of a cluster page stops it (R440). -/
def State.pageStopped (s : State) (page : Nat) : Bool :=
  match pageInfo page, pageSlice page with
  | some (t, _, _), some sl =>
    let sp := s.slicePower sl
    if t = .mtx ∨ t = .vec ∨ t = .cls then decide (1 ≤ sp) else if t = .seq ∨ t = .sch then decide (2 ≤ sp) else false
  | _, _ => false

/-- Firmware has verified in this boot: start-up has gone past the boot ROM, and has not stopped for want of a bank (R466,
R505, R506). -/
def State.verified (s : State) : Bool :=
  decide (1 ≤ s.bootPhase) && !(decide (s.bootPhase = 15) && decide (2 ≤ s.plant.sec.failedBanks.length))

/-- The boot phase or DS3 keeps a page from the host (R447, R505). -/
def State.pageOpen (s : State) (page : Nat) : Bool :=
  match pageInfo page with
  | none => false
  | some (t, _, _) =>
    let ph := s.bootPhase
    if s.get Reg.pwrStsDstate 0 = 3 then decide (t = .glb ∨ t = .clk ∨ t = .pwr ∨ t = .thm ∨ t = .rst)
    else if ¬ s.verified then false
    else if ph < 4 ∨ ph = 15 then decide (t = .glb ∨ t = .rst ∨ t = .ast)
    else true

/-- A page that carries the common header: the first of its block (R517). -/
def headerPage (page : Nat) : Bool :=
  match pageInfo page with
  | some (.lnk, _, i) => decide (page = lnkPage i)
  | some (.nme, _, i) => decide (page = nmePage i)
  | some _ => true
  | none => false

/-- Writes of a page's fields other than W1C are ignored: the MTX and VEC pages of a slice that runs a segment (R91). -/
def State.pageRunning (s : State) (page : Nat) : Bool :=
  match pageInfo page, pageSlice page with
  | some (t, _, _), some sl => decide (t = .mtx ∨ t = .vec) && decide (s.get Reg.schStsState sl ≠ 0)
  | _, _ => false
/-- Whether a write of a header field of a page acts: the page carries the header, its clock runs (R437) and R91 lets it. -/
def State.headerOpen (s : State) (page : Nat) : Bool := headerPage page && !s.pageGated page && !s.pageRunning page

/-- Whether software may write a place of a page: IN_SERVICE = 0 leaves only the header (R526). -/
def State.mayWrite (s : State) (origin : Origin) (page off : Nat) : Bool :=
  headerPage page && !s.pageGated page && !s.pageStopped page &&
    (decide (off < 0x40 ∨ 0xF00 ≤ off) || s.flag Reg.blkStsInService page) &&
    match origin with
    | .bar0 => s.pageOpen page
    | .core _ => true
    | .sequencer sl => decide (pageSlice page = some sl.toNat)

/-! ### Fields by access code (R13) -/

/-- The bits that a page's EVT registers define (R57, R418, R531). -/
def evtMask (page : Nat) : Nat :=
  match pageInfo page with
  | some (.qmg, _, _) => 0x3F
  | some (.ptnp, _, _) => 0x1F000F
  | some (.bwr, _, _) => 3
  | some (.evc, _, _) => 1
  | _ => 0

/-- A page's LOCKED bit. -/
def State.locked (s : State) (page : Nat) : Bool := s.flag Reg.blkStsLocked page

/-- Clear bits of a W1C field; clearing PTNP_FAULT.VALID restarts FAULT_COUNT, the faults since then (R513). -/
def State.clearW1c (s : State) (f : Field) (i v : Nat) : State :=
  let t := s.clearBits f i v
  if f.id = Reg.ptnpFaultValid.id ∧ v % 2 = 1 then t.set Reg.ptnpFaultFaultCount i 0 else t

/-- Write a field as its access code gives, from the bits of a value that a mask lets through (R12, R13). -/
def State.writeField (s : State) (page : Nat) (f : Field) (i mask value : Nat) : State :=
  let m := bitsOf mask f.lo f.width
  let v := bitsOf value f.lo f.width &&& m
  let old := s.get f i
  let put := s.set f i (old - (old &&& m) + v)
  match f.access with
  | .rw => put
  | .rwl => if s.locked page then s else put
  | .w1c => s.clearW1c f i v
  | .w1s => s.setBits f i v
  | .ro | .wo | .rz => s

/-- A register and its field instance at an offset of a page. -/
def regAt (t : Page) (inst page off : Nat) : Option (RegDef × Nat) :=
  let header := decide (off < 0x40 ∨ 0xF00 ≤ off)
  (allRegs.find? fun r => decide (r.page = (if header then .hdr else t)) &&
    decide (r.offset ≤ off ∧ off < r.offset + 8 * r.count)).map fun r =>
      let k := (off - r.offset) / 8
      let base := if header then page else inst
      (r, (if r.page = .hdr ∧ r.count = 31 then 32 * base else r.count * base) + k)

/-! ### The header (R420, R521 to R527) -/

/-- Write EVT_EN: a message where a pending bit is newly enabled and none was (R420). -/
def State.writeEvtEn (s : State) (page v : Nat) : State :=
  let s' := s.set Reg.evtEnEn page (v &&& evtMask page)
  if ¬ s.evtActive page ∧ s'.evtActive page ∧ s.flag Reg.blkCtlEnable page then s'.sendEvent page else s'

/-- EVT_EN (R420). -/
def execEvtEn (page : BitVec 14) (value : Word) (s : State) : StepOut :=
  let p := page.toNat
  .next (if s.headerOpen p then s.writeEvtEn p value.toNat else s)

/-- Write BLK_CTL.ENABLE: a set sends one message when an enabled event is pending (R522). -/
def State.writeEnable (s : State) (page : Nat) (on : Bool) : State :=
  let was := s.flag Reg.blkCtlEnable page
  let s := s.set Reg.blkCtlEnable page (if on then 1 else 0)
  if on ∧ ¬ was ∧ s.evtActive page then s.sendEvent page else s

/-- BLK_ENABLE (R522). -/
def execBlkEnable (page : BitVec 14) (s : State) : StepOut :=
  let p := page.toNat
  .next (if s.headerOpen p then s.writeEnable p true else s)

/-- A block is idle: no running segment, hop run, descriptor or open-queue entry (R524). -/
def State.blockIdle (s : State) (page : Nat) : Bool :=
  match pageInfo page with
  | some (.rtr, _, i) => decide ((s.node i).runs = [])
  | some (.nme, _, i) =>
    decide ((s.engine i).running.entries = []) && decide ((s.engine i).queue.entries = [])
  | _ => match pageSlice page with
    | some sl => decide (s.get Reg.schStsState sl = 0) && (List.range 8).all fun t => !(s.tile sl t).busy
    | none => true

/-- SOFT_RST: fields with Kept – or C of an idle block's page (R524). -/
def State.softReset (s : State) (page : Nat) : State :=
  match pageInfo page with
  | some (t, _, i) =>
    if s.blockIdle page then
      s.dropFields fun pg k f => f.kept.upToC && (decide (pg = t ∧ k = i) || decide (pg = .hdr ∧ k = page))
    else s
  | none => s

/-- SOFT_RST, which acts only from a hub management core (R524). -/
def execSoftRst (page : BitVec 14) (origin : Origin) (s : State) : StepOut :=
  let p := page.toNat
  .next (match origin with
    | .core _ => if s.headerOpen p then s.softReset p else s
    | _ => s)

/-- FREEZE (R525). -/
def execFreeze (page : BitVec 14) (value : Bool) (s : State) : StepOut :=
  let p := page.toNat
  .next (if s.headerOpen p then s.freezePage p value else s)

/-- The register that carries a page's LOCK field, with the field (R527). -/
def lockReg (page : Nat) : Option (RegDef × Field × Nat) :=
  match pageInfo page with
  | some (.qmg, _, _) => (qmgRegs.find? fun r => r.offset = 0x40).map fun r => (r, Reg.qmgAdmitCfgLock, 0)
  | some (.seq, _, i) => (seqRegs.find? fun r => r.offset = 0x40).map fun r => (r, Reg.seqCtlLock, i)
  | some (.pwr, _, _) => (pwrRegs.find? fun r => r.offset = 0x40).map fun r => (r, Reg.pwrCapLock, 0)
  | some (.thm, _, _) => (thmRegs.find? fun r => r.offset = 0x48).map fun r => (r, Reg.thmCfgLock, 0)
  | _ => none

/-- Write the register that carries a LOCK field: its other fields first, then LOCK; a new cap refills the capping history
(R449, R527) and HALT starts or stops the sequencer (R92). -/
def State.writeLockReg (s : State) (page mask value : Nat) : State :=
  match lockReg page with
  | none => s
  | some (r, lk, i) =>
    let before := (s.capW, s.windowMs)
    let halt := s.get Reg.seqCtlHalt i
    let s := (r.fields.filter fun f => f.id ≠ lk.id).foldl (fun s f => s.writeField page f i mask value) s
    let s := if before ≠ (s.capW, s.windowMs) then s.fillHist else s
    let s := if lk.id = Reg.seqCtlLock.id ∧ s.get Reg.seqCtlHalt i ≠ halt then s.haltSeq i (s.flag Reg.seqCtlHalt i) else s
    if Nat.testBit (mask &&& value) lk.lo then (s.raise lk i).raise Reg.blkStsLocked page else s

/-- LOCK: a write of the register that carries it (R527). -/
def execLock (page : BitVec 14) (value : Word) (s : State) : StepOut :=
  let p := page.toNat
  .next (if s.mayWrite (.core 0) p 0x40 then s.writeLockReg p (2 ^ 64 - 1) value.toNat else s)

/-! ### Registers whose writes have a rule of their own -/

/-- PTNP_XLT_ROOT (R238). -/
def State.writeRoot (s : State) (p mask value : Nat) : State :=
  let page := ptnpPage p
  let s := s.writeField page Reg.ptnpXltRootRootRefused p mask value
  if (s.line p).isEmpty ∧ (s.line p).resident.isNone then
    [Reg.ptnpXltRootDie, Reg.ptnpXltRootCluster, Reg.ptnpXltRootLine, Reg.ptnpXltRootValid].foldl
      (fun s f => s.writeField page f p mask value) s
  else s.raise Reg.ptnpXltRootRootRefused p
/-- PTNP_XLT_ROOT (R238). -/
def execPtnpXltRoot (p : PtnNo) (value : Word) (s : State) : StepOut :=
  .next (s.writeRoot p.toNat (2 ^ 64 - 1) value.toNat)

/-- Entries of a quarter of the translation store (R253). -/
def quarterEntries : Nat := 524288
/-- The sum of the quotas of partitions but one. -/
def State.quotaElse (s : State) (p : Nat) : Nat :=
  sumOver ((List.range 64).filter (· ≠ p)) fun q => s.get Reg.ptnpXltQuotaQuota q
/-- QUOTA (R253): refused above a quarter, alone or in sum; lowered, it evicts unheld entries. -/
def State.writeQuota (s : State) (p v : Nat) : State :=
  if quarterEntries < v ∨ quarterEntries < s.quotaElse p + v then s.raise Reg.ptnpXltQuotaQuotaRefused p
  else (List.range 4).foldl (fun s q => s.trimStore p q v) (s.set Reg.ptnpXltQuotaQuota p v)
/-- QUOTA (R253). -/
def execQuota (p : PtnNo) (value : BitVec 20) (s : State) : StepOut := .next (s.writeQuota p.toNat value.toNat)

/-- RTR_OWN (R155). -/
def execRtrOwn (slice : SliceNo) (value : Word) (s : State) : StepOut := .next (s.writeRtrOwn slice.toNat value.toNat)
/-- LNK_OWN of LNK4 and LNK5 (R346). -/
def execLnkOwn (port : PortNo) (value : Word) (s : State) : StepOut :=
  let n := port.toNat
  .next (if n = 4 ∨ n = 5 then s.writeLnkOwn n value.toNat else s)

/-- Whether a channel's partition runs a segment. -/
def State.channelBusy (s : State) (ch : Nat) : Bool :=
  match s.chOwner ch with
  | some p => (s.slicesOf p).any fun sl => s.get Reg.schStsState sl ≠ 0
  | none => false
/-- OPEN_MIN of a channel with a write that waits. -/
def State.openMinNext (s : State) (ch : Nat) : Nat := ((s.channel ch).minNext).getD (s.get Reg.mchWincfgOpenMin ch)
/-- OPEN_MASK of a channel with a write that waits. -/
def State.openMaskNext (s : State) (ch : Nat) : Nat := ((s.channel ch).maskNext).getD (s.get Reg.mchWindowOpenMask ch)
/-- OPEN_MASK (R159, R161). -/
def State.writeOpenMask (s : State) (ch v : Nat) : State :=
  let n := popcount 64 v
  if v &&& refreshMask ≠ 0 ∨ 32 < n ∨ n < s.openMinNext ch then s.raise Reg.mchWincfgWinRefused ch
  else if s.channelBusy ch then s.setChannel ch { s.channel ch with maskNext := some v }
  else s.set Reg.mchWindowOpenMask ch v
/-- OPEN_MASK (R161). -/
def execOpenMask (channel : BitVec 10) (value : Word) (s : State) : StepOut :=
  .next (if channel.toNat < 768 then s.writeOpenMask channel.toNat value.toNat else s)
/-- OPEN_MIN (R161). -/
def State.writeOpenMin (s : State) (ch v : Nat) : State :=
  let bound := s.boundImages.any fun im => im.content.windows.any fun w =>
    decide (w.1 = ch) && decide (popcount 64 w.2.toNat < v)
  if 32 < v ∨ popcount 64 (s.openMaskNext ch) < v ∨ bound then s.raise Reg.mchWincfgWinRefused ch
  else if s.channelBusy ch then s.setChannel ch { s.channel ch with minNext := some v }
  else s.set Reg.mchWincfgOpenMin ch v
/-- OPEN_MIN (R161). -/
def execOpenMin (channel : BitVec 10) (value : BitVec 6) (s : State) : StepOut :=
  .next (if channel.toNat < 768 then s.writeOpenMin channel.toNat value.toNat else s)

/-- POOL_STATE (R263): every slice in the pool moves. -/
def State.writePoolState (s : State) (v : Nat) : State :=
  let s := s.set Reg.pwrLadderPoolState 0 v
  s.poolSlices.foldl (fun s sl => s.setSlicePower sl s.poolState) s
/-- POOL_STATE (R263). -/
def execPoolState (value : BitVec 3) (s : State) : StepOut := .next (s.writePoolState value.toNat)

/-- Granted slots of a port direction. -/
def State.grantedSlots (s : State) (n dir : Nat) : Nat :=
  (s.net.slots.entries.filter fun e => decide (e.1 / 8192 = 2 * n + dir) && decide (0x80 ≤ e.2)).length
/-- OPEN_RESERVE (R418). -/
def State.writeOpenReserve (s : State) (n v : Nat) : State :=
  if 6200 - Nat.max (s.grantedSlots n 0) (s.grantedSlots n 1) < v then
    (s.raise Reg.bwrStsReserveRefused 0).event bwrPage 1
  else s.set Reg.bwrLinkOpenReserve n v
/-- OPEN_RESERVE (R418). -/
def execOpenReserve (port : PortNo) (value : BitVec 13) (s : State) : StepOut :=
  .next (if port.toNat < 6 then s.writeOpenReserve port.toNat value.toNat else s)

/-- A planish engine is in use: a partition holds a group on it, or its open queue holds an entry (R184, R437). -/
def State.engineInUse (s : State) (e : Nat) : Bool :=
  decide ((s.engine e).queue.entries ≠ []) || decide ((s.engine e).waiting ≠ []) ||
    s.host.images.vals.any fun im => im.content.programs.any fun g => decide (g.1 = e)

/-- Write one clock enable: a block in use is not gated (R437). -/
def State.writeGate (s : State) (f : Field) (i bit : Nat) (on use : Bool) : State :=
  let was := Nat.testBit (s.get f i) bit
  if on = was then s
  else if on then s.setBits f i (2 ^ bit)
  else if use then s.raise Reg.clkStsGateRefused 0 else s.clearBits f i (2 ^ bit)

/-- CLK_GATE_HUB (register 4) or CLK_GATE_DIE_d. -/
def State.writeClkGate (s : State) (reg mask v : Nat) : State :=
  let want := fun (cur bit : Nat) (was : Bool) => if Nat.testBit mask bit then Nat.testBit v bit else (cur = cur ∧ was)
  if reg = 4 then
    let s := s.writeGate Reg.clkGateHubAst 0 0 (want 0 0 (s.flag Reg.clkGateHubAst 0)) s.plant.boot.assay.isSome
    let s := s.writeGate Reg.clkGateHubLnk4 0 0 (want 0 1 (s.flag Reg.clkGateHubLnk4 0)) (s.flag Reg.lnkCtlEnable 4)
    s.writeGate Reg.clkGateHubLnk5 0 0 (want 0 2 (s.flag Reg.clkGateHubLnk5 0)) (s.flag Reg.lnkCtlEnable 5)
  else if reg < 4 then
    let s := s.writeGate Reg.clkGateDieLnk reg 0 (want 0 22 (s.flag Reg.clkGateDieLnk reg)) (s.flag Reg.lnkCtlEnable reg)
    (List.range 6).foldl (fun s k =>
      s.writeGate Reg.clkGateDieNme reg k (want 0 (16 + k) (Nat.testBit (s.get Reg.clkGateDieNme reg) k))
        (s.engineInUse (6 * reg + k))) s
  else s
/-- CLK_GATE: register 0 to 3 is that die's, 4 the hub's (R437). -/
def execClkGate (reg : BitVec 3) (value : Word) (s : State) : StepOut :=
  .next (s.writeClkGate reg.toNat (2 ^ 64 - 1) value.toNat)

/-- A change of FTM_CFG.ROLE takes effect under R329: between LOCAL and ROOT at once; from or to CHILD, the device is
UNLOCKED until a tick-source switch completes. -/
def State.changeRole (s : State) (was : Nat) : State :=
  let s := s.settleParent
  let now := s.role
  if now = was then s
  else if was ≠ 2 ∧ now ≠ 2 then (s.set Reg.ftmStsLstate 0 (if now = 1 then Ts.root else Ts.local)).settlePhase
  else ((if s.timeLocked then s.loseLock else s).set Reg.ftmStsLstate 0 Ts.unlocked)

/-! ### Admin rings (R355, R358, R391) -/

/-- Write the kept completions of a pair, oldest first (R358). -/
def State.writeKept (s : State) (fm : Bool) : State :=
  let x := s.pair fm
  x.kept.foldl (fun s c => s.writeCpl fm c) (s.setPair fm { x with kept := [] })
/-- MBX_STS.ENABLE: a write that takes it from 0 to 1 enables or resumes the pair. -/
def State.writeMbxEnable (s : State) (fm on : Bool) : State :=
  let i := pairIdx fm
  if s.released then
    if on ∧ ¬ s.flag Reg.mbxStsEnable i then (s.raise Reg.mbxStsEnable i).writeKept fm
    else if on then s else s.set Reg.mbxStsEnable i 0
  else s
/-- MBX_ENABLE (R358). -/
def execMbxEnable (fm : Bool) (s : State) : StepOut := .next (s.writeMbxEnable fm true)

/-- MBX_SQ_BASE: taken while disabled; the submission positions restart at 0. -/
def State.writeSqBase (s : State) (fm : Bool) (mask value : Nat) : State :=
  let i := pairIdx fm
  if s.flag Reg.mbxStsEnable i ∨ ¬ s.released then s
  else
    let s := [Reg.mbxBaseAddr, Reg.mbxBaseLog2].foldl (fun s f => s.writeField mbxPage f (2 * i) mask value) s
    (s.set Reg.mbxStsSqHead i 0).set Reg.mbxDbSqTail i 0
/-- MBX_CQ_BASE: taken while disabled; the completion tail restarts at 0 with PHASE 1. -/
def State.writeCqBase (s : State) (fm : Bool) (mask value : Nat) : State :=
  let i := pairIdx fm
  if s.flag Reg.mbxStsEnable i ∨ ¬ s.released then s
  else
    let s := [Reg.mbxBaseAddr, Reg.mbxBaseLog2].foldl (fun s f => s.writeField mbxPage f (2 * i + 1) mask value) s
    (s.setPair fm { s.pair fm with cqTail := 0, phase := true, used := 0 }).set Reg.mbxDbCqHead i 0
/-- MBX_SQ_BASE (R391). -/
def execMbxSqBase (fm : Bool) (value : Word) (s : State) : StepOut := .next (s.writeSqBase fm (2 ^ 64 - 1) value.toNat)
/-- MBX_CQ_BASE (R391). -/
def execMbxCqBase (fm : Bool) (value : Word) (s : State) : StepOut := .next (s.writeCqBase fm (2 ^ 64 - 1) value.toNat)

/-- MBX_DB.SQ_TAIL: a tail not below the ring size is ignored (R355). -/
def State.writeSqTail (s : State) (fm : Bool) (v : Nat) : State :=
  if v < s.ringSize fm false ∧ s.released then s.set Reg.mbxDbSqTail (pairIdx fm) v else s
/-- MBX_DB.CQ_HEAD: the entries up to the written head return to the hub (R355). -/
def State.writeCqHead (s : State) (fm : Bool) (v : Nat) : State :=
  let i := pairIdx fm
  let n := s.ringSize fm true
  if v < n ∧ s.released then
    let back := (v + n - s.get Reg.mbxDbCqHead i) % n
    (s.setPair fm { s.pair fm with used := (s.pair fm).used - back }).set Reg.mbxDbCqHead i v
  else s
/-- SQ_TAIL (R355). -/
def execSqTail (fm : Bool) (value : BitVec 16) (s : State) : StepOut := .next (s.writeSqTail fm value.toNat)
/-- CQ_HEAD (R355). -/
def execCqHead (fm : Bool) (value : BitVec 16) (s : State) : StepOut := .next (s.writeCqHead fm value.toNat)

/-- ADM_OPCODE: an entry with an opcode that no command has (R360). -/
def execAdmOpcode (fm : Bool) (a : Adm) (_opcode : BitVec 16) (s : State) : StepOut :=
  .next (if s.canTake fm then (s.takeAdm fm).complete fm a St.admOpcode else s)
/-- ADM_DENIED: a command on the wrong queue (R356). -/
def execAdmDenied (fm : Bool) (a : Adm) (_opcode : BitVec 16) (s : State) : StepOut :=
  .next (if s.canTake fm then (s.takeAdm fm).complete fm a St.admDenied else s)
/-- NOTICE_POST: the first waiting notice takes a free entry (R359). -/
def execNoticePost (s : State) : StepOut := .next s.drainNotice

/-! ### Doorbells of queues (R355) -/

/-- BAR2 answers: the device is released and not in DS3 (R447, R505). -/
def State.barsOpen (s : State) : Bool := s.released && !decide (s.get Reg.pwrStsDstate 0 = 3)

/-- Q_SQ_TAIL (R355). -/
def execQSqTail (inst : BitVec 9) (q : BitVec 3) (tail : BitVec 16) (s : State) : StepOut :=
  .next (match s.queue inst.toNat q.toNat with
    | some x =>
      if s.barsOpen ∧ tail.toNat < 2 ^ (x.sqLog2 + 4) then s.setQueue inst.toNat q.toNat { x with
          sqTail := tail.toNat, bells := if tail.toNat = x.sqTail then x.bells else x.bells ++ [(tail.toNat, s.now)] }
      else s
    | none => s)
/-- Q_CQ_HEAD (R355). -/
def execQCqHead (inst : BitVec 9) (q : BitVec 3) (head : BitVec 16) (s : State) : StepOut :=
  .next (match s.queue inst.toNat q.toNat with
    | some x =>
      let n := 2 ^ (x.cqLog2 + 4)
      if s.barsOpen ∧ head.toNat < n then
        s.setQueue inst.toNat q.toNat { x with cqHead := head.toNat, used := x.used - (head.toNat + n - x.cqHead) % n }
      else s
    | none => s)

/-! ### MSI-X table (R349, R434) -/

/-- An MSI-X table entry. -/
def State.vector (s : State) (fn v : Nat) : Nat × Nat × Bool := s.host.msix.getD (2048 * fn + v) (0, 0, true)
/-- Write an MSI-X table entry; an unmask with the pending bit set sends the message (R434). -/
def State.setVector (s : State) (fn v : Nat) (e : Nat × Nat × Bool) : State :=
  let s := s.onHost fun h => { h with msix := h.msix.putD (2048 * fn + v) (0, 0, true) e }
  if ¬ e.2.2 ∧ s.host.pba.has (2048 * fn + v) then
    (s.onHost fun h => { h with pba := h.pba.drop (2048 * fn + v) }).emit (.msix fn v e.1 e.2.1)
  else s
/-- VECTOR_UNMASK; function 1 exists only in x8 + x8 (R351, R434). -/
def execVectorUnmask (fn : Bool) (vector : BitVec 11) (s : State) : StepOut :=
  let f := if fn then 1 else 0
  let e := s.vector f vector.toNat
  .next (if s.barsOpen ∧ (fn = false ∨ s.flag Reg.hifCfgBifurcated 0) then s.setVector f vector.toNat (e.1, e.2.1, false) else s)

/-- A value with the bits of a mask replaced. -/
def mergeMask (old mask v : Nat) : Nat := old - (old &&& mask) + (v &&& mask)
/-- Write half or all of a table entry's 8-byte word: the address, or the data and the mask bit. -/
def State.writeVectorWord (s : State) (v word mask value : Nat) : State :=
  let e := s.vector 0 v
  if word = 0 then s.setVector 0 v (mergeMask e.1 mask value, e.2.1, e.2.2)
  else
    let w := mergeMask (e.2.1 + if e.2.2 then 2 ^ 32 else 0) mask value
    s.setVector 0 v (e.1, w % 2 ^ 32, Nat.testBit w 32)

/-! ### EVC registers (R431) -/

/-- The controller that a page's registers act on: the slice's, or on the hub page the core that EVC_SEL names. -/
def State.evcOfPage (s : State) (page : Nat) : Nat :=
  match pageSlice page with
  | some sl => sl
  | none => 64 + (s.evc 64).sel / 65536 % 4

/-- Write a register of an EVC page beyond the header. -/
def State.writeEvc (s : State) (origin : Origin) (page off mask value : Nat) : State :=
  let n := s.evcOfPage page
  let selAt := if n < 64 then n else 64
  let v := value &&& mask
  if ¬ s.evcLive n then s
  else if off = 0x68 then
    if origin = .bar0 ∨ ¬ (mayWriteEvc origin selAt) then s
    else
      let e := s.evc selAt
      s.setEvc selAt { e with sel := mergeMask e.sel (mask &&& (if n < 64 then 0x3FF else 0x303FF)) v }
  else if ¬ mayWriteEvc origin n then s
  else
    let e := s.evc n
    if off = 0x40 then
      let s := s.setEvc n { e with
        groupBits := if Nat.testBit mask 8 then bitsOf v 8 4 else e.groupBits
        mask := if Nat.testBit mask 0 then Nat.testBit v 0 else e.mask }
      if Nat.testBit v 1 then s.clearStack n else s
    else if off = 0x48 then if Nat.testBit mask 0 then s.evcMessage n (v % 1024) else s
    else if off = 0x58 then if Nat.testBit mask 0 then s.evcCompleted n (v % 1024) else s
    else if off = 0x70 then
      let k := (s.evc selAt).sel % 1024
      let x := e.source k
      let x := { x with
        countTh := if Nat.testBit mask 48 then bitsOf v 48 16 else x.countTh
        timeUs := if Nat.testBit mask 16 then bitsOf v 16 10 else x.timeUs
        prio := if Nat.testBit mask 8 then bitsOf v 8 8 else x.prio }
      let x := if Nat.testBit mask 0 then x.setEnable (Nat.testBit v 0) s.now else x.test s.now
      (s.setEvc n (e.setSource k x)).wakeEvc n
    else s

/-! ### Any register (R13, R514, R518) -/

/-- Write a register of a page from the bits that a mask lets through. -/
def State.writeReg (s : State) (origin : Origin) (page off mask value : Nat) : State :=
  match pageInfo page with
  | none => s
  | some (t, _, i) =>
    let bit := fun k => Nat.testBit mask k
    let v := value &&& mask
    let writeSome := fun (pick : Field → Bool) => match regAt t i page off with
      | some (r, k) => (r.fields.filter pick).foldl (fun s f => s.writeField page f k mask value) s
      | none => s
    let all := writeSome fun _ => true
    if s.pageRunning page then writeSome fun f => decide (f.access = .w1c)
    else if off = 0x10 then
      let s := if bit 2 then s.freezePage page (Nat.testBit v 2) else s
      let s := if bit 0 then s.writeEnable page (Nat.testBit v 0) else s
      match origin with
      | .core _ => if Nat.testBit v 1 then s.softReset page else s
      | _ => s
    else if off = 0x30 then s.writeEvtEn page (mergeMask (s.get Reg.evtEnEn page) mask value)
    else if off < 0x40 ∨ 0xF00 ≤ off then all
    else match t with
    | .evc => s.writeEvc origin page off mask value
    | .qmg => if off = 0x40 then s.writeLockReg page mask value else all
    | .seq => if off = 0x40 then s.writeLockReg page mask value else all
    | .thm => if off = 0x48 then s.writeLockReg page mask value else all
    | .pwr =>
      if off = 0x40 then s.writeLockReg page mask value
      else if off = 0x58 ∧ bit 0 then all.writePoolState (v % 8)
      else all
    | .ptnp =>
      if off = 0x58 then s.writeRoot i mask value
      else if off = 0x60 then
        let s := s.writeField page Reg.ptnpXltQuotaQuotaRefused i mask value
        if bit 0 then s.writeQuota i (v % 2 ^ 20) else s
      else all
    | .rtr => if off = 0x40 then
        s.writeRtrOwn i (mergeMask ((List.range 8).foldl (fun a k => a + s.get (rtrOwnField k) i * 2 ^ (7 * k)) 0) mask value)
      else all
    | .mch =>
      if off = 0x40 then s.writeOpenMask i (mergeMask (s.openMaskNext i) mask value)
      else if off = 0x48 then
        let s := s.writeField page Reg.mchWincfgWinRefused i mask value
        if bit 0 then s.writeOpenMin i (v % 64) else s
      else all
    | .bwr => if 0x40 ≤ off ∧ off < 0x70 then if bit 0 then s.writeOpenReserve ((off - 0x40) / 8) (v % 2 ^ 13) else s
      else all
    | .clk =>
      if off = 0x48 then s.writeClkGate 4 mask value
      else if 0x50 ≤ off ∧ off < 0x70 then s.writeClkGate ((off - 0x50) / 8) mask value
      else all
    | .lnk =>
      if off = 0x40 then
        let s := [Reg.lnkCtlHoldLimitUs, Reg.lnkCtlSwapTh].foldl (fun s f => s.writeField page f i mask value) s
        let s := if bit 0 then s.enablePort i (Nat.testBit v 0) else s
        if Nat.testBit v 1 then s.closePort i Cl.admin else s
      else if off = 0x60 then
        if 4 ≤ i then
          s.writeLnkOwn i (mergeMask (s.get Reg.lnkOwnToHub i + s.get Reg.lnkOwnFromHub i * 2 ^ 28) mask value)
        else s
      else all
    | .ftm => if off = 0x40 then all.changeRole s.role else all
    | .mbx =>
      let fm := decide (0x60 ≤ off)
      let k := off - if fm then 0x60 else 0x40
      if off < 0x40 ∨ 0x80 ≤ off then s
      else if k = 0 then s.writeSqBase fm mask value
      else if k = 8 then s.writeCqBase fm mask value
      else if k = 0x10 then
        let s := if bit 0 then s.writeSqTail fm (v % 65536) else s
        if bit 32 then s.writeCqHead fm (bitsOf v 32 16) else s
      else
        let s := s.writeField page Reg.mbxStsError (pairIdx fm) mask value
        if bit 0 then s.writeMbxEnable fm (Nat.testBit v 0) else s
    | _ => all

/-- Whether an access is 4 or 8 bytes and naturally aligned (R518). -/
def accessOk (off size : Nat) : Bool := (decide (size = 4) && decide (off % 4 = 0)) || (decide (size = 8) && decide (off % 8 = 0))

/-- REGISTER_WRITE: a write through BAR0, or of a core or sequencer, at an offset of BAR0's map. -/
def execRegisterWrite (origin : Origin) (offset : BitVec 26) (size : BitVec 8) (value : Word) (s : State) : StepOut :=
  let off := offset.toNat
  if ¬ accessOk off size.toNat then .next (s.bump Reg.glbStsBadAccess 0)
  else
    let sh := 8 * (off % 8)
    let mask := (2 ^ (8 * size.toNat) - 1) * 2 ^ sh
    let v := value.toNat % 2 ^ (8 * size.toNat) * 2 ^ sh
    let at_ := off / 8 * 8
    if 0x2000000 ≤ at_ ∧ at_ < 0x2008000 then
      .next (if s.barsOpen then s.writeVectorWord ((at_ - 0x2000000) / 16) (at_ / 8 % 2) mask v else s)
    else
      let page := at_ / 4096
      .next (if s.mayWrite origin page (at_ % 4096) then s.writeReg origin page (at_ % 4096) mask v else s)

/-- BAD_ACCESS: an access to BAR0 or BAR2 that is not 4 or 8 bytes, aligned: a read returns zeros, a write does nothing,
and it is counted (R518). -/
def execBadAccess (bar : BitVec 3) (offset : BitVec 26) (size : BitVec 8) (write : Bool) (s : State) : StepOut :=
  if (bar = 0 ∨ bar = 2) ∧ ¬ accessOk offset.toNat size.toNat then
    let s := s.bump Reg.glbStsBadAccess 0
    .next (if write then s else s.emit (.busRead (some (List.replicate size.toNat 0))))
  else .next s

/-! ### Bus errors (R352, R358, R372) -/

/-- Take back the last completion or notice of a pair, whose write met an error: it is kept for the same ring position. -/
def State.keepLast (s : State) (fm : Bool) : State :=
  let x := s.pair fm
  let n := s.ringSize fm true
  let prev := (x.cqTail + n - 1) % n
  let back := { x with cqTail := prev, phase := if x.cqTail = 0 then !x.phase else x.phase, used := x.used - 1 }
  if x.used = 0 then s
  else match s.out.reverse.find? fun o => match o with
      | .admCompletion f _ _ _ _ _ _ _ => f == fm
      | .notice _ _ _ _ _ _ _ => fm
      | _ => false with
    | some (.admCompletion _ _ _ tag status detail lo hi) =>
      s.setPair fm { back with kept := ⟨tag, false, status, detail, lo, hi⟩ :: x.kept }
    | some (.notice _ _ status p handle time detail) =>
      s.setPair fm { back with notices := ⟨status, p, handle, time, detail⟩ :: x.notices }
    | _ => s

/-- DMA_ERROR (R352): `what` 0 and 1 are the read of a descriptor and the write of a record of a queue, 2 and 3 the read of an
entry and the write of a completion or notice of the ADM pair, 4 and 5 those of the FM pair, and other values a host buffer,
whose command fails on its own (R358). -/
def execDmaError (what : BitVec 3) (inst : BitVec 9) (q : BitVec 3) (s : State) : StepOut :=
  let s := s.raise Reg.hifStsDmaErr 0
  let w := what.toNat
  if w ≤ 1 then
    .next (match s.queue inst.toNat q.toNat with
      | some x => s.setQueue inst.toNat q.toNat { x with dmaStop := true }
      | none => s)
  else if w ≤ 5 then
    let fm := decide (4 ≤ w)
    let s := (s.set Reg.mbxStsEnable (pairIdx fm) 0).raise Reg.mbxStsError (pairIdx fm)
    .next (if w % 2 = 1 then s.keepLast fm else s)
  else .next s

end Sys2Proof.Machine
end

