-- ==== Sys2Proof/Machine/Submit.lean ====
section
/-! DEFINITION. Admission: descriptors, the checks of R36, the promised time and acceptance (R35 to R45, R251, R252, R368 to
R372, R394, R442). -/

namespace Sys2Proof.Machine

/-! ### What a descriptor names -/

/-- What a command would run with: its image, arguments and object entries. -/
structure Uses where
  image : Option (Nat × Image)
  args : List Word
  objs : List ObjUse
  layoutOk : Bool

/-- The image at an alloy index of a partition (R280). -/
def State.alloyImage (s : State) (p idx : Nat) : Option (Nat × Image) :=
  s.host.images.entries.find? fun e => decide (e.2.ptn = p ∧ e.2.index = some idx) && !e.2.staged

/-- What a descriptor of an instance names: a RUN its own arguments and the instance's image, after a change that waits for
the seam (R364); an ALLOY_RUN its argument set and the image at its index (R370). -/
def State.usesOf (s : State) (p : Nat) (x : Inst) (d : Desc) : Uses :=
  if d.op = 2 then
    let a := s.host.argsets.getD (256 * p + d.argset) 0
    ⟨s.alloyImage p d.imgIndex, argWords a, argObjs a, argObjsOk a⟩
  else if d.op = 1 then
    let k := x.nextImage.getD x.image
    ⟨(s.host.images.find k).map fun im => (k, im), d.args, d.objs, true⟩
  else ⟨none, d.args, [], true⟩

/-- The fences that a descriptor names. -/
def Desc.fences (d : Desc) : List Handle :=
  (if Nat.testBit d.flags 1 then [d.waitFence] else []) ++ (if Nat.testBit d.flags 2 then [d.signalFence] else [])

/-! ### Objects at a place of the line (R375, R376) -/

/-- Lines that commands append to an object. -/
def appendedLines (ahead : List Cmd) (slot : Nat) : Nat :=
  (ahead.map fun c => ((c.objs.filter fun o => decide (o.role = 3 ∧ handleSlot o.handle = slot)).map ObjUse.lines).sum).sum
/-- The extent of an object after the commands ahead. -/
def extentAt (o : MemObj) (ahead : List Cmd) (slot : Nat) : Nat := o.extent + 64 * appendedLines ahead slot
/-- Whether a command names an object SCRATCH. -/
def Cmd.scratches (c : Cmd) (slot : Nat) : Bool := c.objs.any fun o => decide (o.role = 2 ∧ handleSlot o.handle = slot)
/-- Whether an object is VOID after the commands ahead (R375). -/
def voidAt (o : MemObj) (ahead : List Cmd) (slot : Nat) : Bool :=
  !o.append && o.void && !(ahead.any fun c => c.scratches slot)

/-- Whether an object entry of a command permits an access of a line (R376). -/
def State.entryPermits (s : State) (ahead : List Cmd) (e : ObjUse) (write : Bool) (va : Nat) : Bool :=
  match s.findObj e.handle with
  | none => false
  | some (slot, o) =>
    let inside := decide (o.va ≤ va ∧ va < o.va + o.bytes)
    let ext := o.va + extentAt o ahead slot
    inside &&
      if e.role = 1 then !write
      else if e.role = 3 then
        if write then o.w && decide (ext ≤ va ∧ va < ext + 64 * e.lines) else decide (va < ext)
      else !write || o.w
/-- Whether a line lies in an object of a command's list in a role that permits the access. -/
def State.linePermitted (s : State) (ahead : List Cmd) (objs : List ObjUse) (write : Bool) (va : Nat) : Bool :=
  objs.any fun e => s.entryPermits ahead e write va

/-- The first line of a run of lines that is not permitted. -/
def State.firstBarred (s : State) (ahead : List Cmd) (objs : List ObjUse) (write : Bool) (va n : Nat) : Option Nat :=
  (firstIn n 0 fun k => !s.linePermitted ahead objs write (va + 64 * k)).map fun k => va + 64 * k

/-! ### Check 3 (R371) -/

/-- The first reason of R371 to refuse a descriptor of an instance, at a place behind the commands `ahead`. -/
def State.resourceCheck (s : State) (p i : Nat) (d : Desc) (u : Uses) (ahead : List Cmd) : Option Nat :=
  let found := u.objs.map fun o => (o, s.findObj o.handle)
  let fences := d.fences.map fun h => s.findFence h
  let slots := u.objs.map fun o => handleSlot o.handle
  let heap := (s.host.heaps.find p).map Heap.obj
  let unsuited := found.any fun e => match e.2 with
    | some (slot, o) =>
      let isHeap := decide (heap = some slot)
      if e.1.role = 1 then isHeap
      else if e.1.role = 2 then o.append || isHeap
      else if e.1.role = 3 then !o.append || isHeap
      else o.append || !isHeap
    | none => false
  let objAny := fun (f : ObjUse → Nat → MemObj → Bool) => found.any fun e => match e.2 with
    | some (slot, o) => f e.1 slot o
    | none => false
  let fenceAny := fun (f : Fence → Bool) => fences.any fun e => match e with
    | some (_, x) => f x
    | none => false
  let command := match u.image with
    | some (_, im) => decide (im.ptn = p) && (match im.content.segments[d.segment]? with
        | some sg => !sg.load
        | none => false)
    | none => false
  if !d.zeroOk || !u.layoutOk || slots ≠ dedup slots || (1 < (u.objs.filter fun o => o.role = 4).length) || unsuited then
    some Dc.format
  else if found.any (fun e => e.2.isNone) || fences.any Option.isNone ||
      objAny (fun _ _ o => decide (o.ptn ≠ p) || (match o.owner with | some j => decide (j ≠ i) | none => false)) then
    some Dc.handle
  else if objAny (fun _ _ o => o.freeing) || fenceAny (fun f => f.freeing) ||
      (match u.image with | some (_, im) => im.freeing | none => false) then some Dc.freeing
  else if objAny (fun e slot o => decide (e.role ≠ 2) && voidAt o ahead slot) then some Dc.voidInput
  else if objAny (fun _ _ o => decide (devLimit ≤ o.dev)) || fenceAny (fun f => decide (devLimit < f.dev + fences.length)) ||
      (match u.image with | some (_, im) => decide (devLimit ≤ im.dev) | none => false) then some Dc.refcount
  else if d.op ≠ 3 && (!command || (d.op = 2 && !Nat.testBit (s.get Reg.ptnpAlloyImgReady p) d.imgIndex)) then some Dc.image
  else if fenceAny (fun f => decide (f.ptn ≠ p)) then some Dc.fence
  else if d.op = 2 && !(s.mstate p = Ms.active && s.flag Reg.ptnpCfgLead p) then some Dc.alloy
  else if objAny (fun e slot o => decide (e.role = 3 ∧ o.bytes < extentAt o ahead slot + 64 * e.lines)) then some Dc.range
  else if u.objs.any fun e => decide (e.role = 3) && s.net.records.vals.any fun r =>
      decide ((r.state = 4 ∨ r.state = 5) ∧ r.recvObj = handleSlot e.handle) then some Dc.receiveReserved
  else none

/-! ### Switch terms and check 4 (R251, R394) -/

/-- Whether a command of an instance behind the listed items carries the switch terms. -/
def switchTerms (ahead : List Item) (resident : Option Nat) (i : Nat) : Bool :=
  match ahead.getLast? with
  | none => decide (resident ≠ some i)
  | some it => match it.cmd with
    | some c => decide (c.inst ≠ i)
    | none => true

/-- The segments that a launch runs. -/
def segsOf (switched : Bool) (seg : Nat) : List Nat := if switched then [0, seg] else [seg]

/-- The regime of pre-translation: more than four slices, or an alloy (R251, R273). -/
def State.pretranslates (s : State) (p : Nat) : Bool :=
  decide (4 < (s.slicesOf p).length) || decide (s.mstate p ≠ Ms.none)

/-- The local ends of the groups of a segment: VA, lines and whether it is written. -/
def groupEnds (im : ImageContent) (k : Nat) (args : List Word) : List (Nat × Nat × Bool) :=
  match im.segments[k]? with
  | none => []
  | some sg => (segGroups im sg).flatMap fun r =>
    if ogCopy r then [(ogSrc r args, ogLines r, false), (ogDst r args, ogLines r, true)] else []

/-- The first VA of a command that steps 1 and 2 of R251 refuse. -/
def State.unmappedAt (s : State) (p : Nat) (alloyCmd : Bool) (im : ImageContent) (segs : List Nat) (u : Uses)
    (ahead : List Cmd) : Option Nat :=
  let streams := segs.flatMap fun k => segStreams im k
  let ends := segs.flatMap fun k => groupEnds im k u.args
  let bases := (streams.map fun r => srBase r u.args) ++ ends.map fun e => e.1
  match bases.find? fun a => s.breaksDecode p alloyCmd a with
  | some a => some a
  | none =>
    let stream := fun r =>
      let b := srBase r u.args
      (List.range (srRows r)).findSome? fun k =>
        let va := srRowVa r b k
        if 2 ^ 48 ≤ va then some va else s.firstBarred ahead u.objs (srWrite r) va (srRowLines r)
    match streams.findSome? stream with
    | some a => some a
    | none => ends.findSome? fun e =>
      match s.localVa e.1 with
      | some va => s.firstBarred ahead u.objs e.2.2 va e.2.1
      | none => none

/-- Regions of each quarter. -/
def perQuarter (rs : List Region64) : List Nat := (List.range 4).map fun q => (rs.filter fun x => x.quarter = q).length

/-! ### The verdict (R36, R39 to R41) -/

/-- What admission finds: the status, DETAIL_CODE, DETAIL and T_PROMISE of the record, and the command where it is
accepted. -/
structure Judged where
  status : Nat
  dcode : Nat
  detail : Nat
  tPromise : Nat
  cmd : Option Cmd

/-- A refusal. -/
def Judged.refuse (status : Nat) (dcode : Nat := 0) (detail : Nat := 0) (tPromise : Nat := 0) : Judged :=
  ⟨status, dcode, detail, tPromise, none⟩

/-- Checks 1 and 2 of R36, in order. A member of an alloy stays closed in a fabric of one, until lock is regained (R56). -/
def State.admitClosed (s : State) (p : Nat) : Option Nat :=
  if ¬ s.timeLocked ∨ (s.mstate p ≠ Ms.none ∧ s.get Reg.ftmStsLstate 0 = Ts.local) then some St.rejTimeUnlocked
  else if s.quenched ∨ (s.line p).afterQuench then some St.rejQuench
  else if s.flag Reg.pwrStsAlert 0 then some St.rejPowerAlert
  else if s.ptnState p ≠ ptnActive ∨ s.mstate p = Ms.faulted then some St.rejFaulted
  else if s.flag Reg.pwrStsCapSaturated 0 then some St.rejPowerLimit
  else none

/-- The latest promise: no deadline and a promise that never comes. -/
def never : Nat := 2 ^ 64 - 1

/-- The translation term of a command (R41): budgets for four slices or fewer, walks for more; `other` is the largest
⌈N_new / W⌉ of the other members of an alloy. -/
def State.xlatTerm (s : State) (p : Nat) (im : ImageContent) (segs : List Nat) (nNew other : Nat) : Nat :=
  if s.pretranslates p then 640 * Nat.max (ceilDiv nNew (s.walksAtOnce p)) other
  else 640 * (segs.map fun k => ((im.segments[k]?).map Segment.pageBudget).getD 0).sum

/-- The tables and the shape that a command behind the listed items meets: every update ahead of it has run (R241, R273). -/
def State.afterItems (s : State) (p : Nat) (ahead : List Item) : State :=
  ahead.foldl (fun s it => match it.kind with
    | .update rec _ => s.writeTable rec
    | .reshape _ slices sets plan _ =>
      ((plan.tables.foldl (fun s r => s.writeTable r) s).set Reg.ptnpSlicesSlices p slices).set Reg.ptnpSetsSets p sets
    | _ => s) s

/-- Judge a descriptor (R36): behind the items `ahead`, with `free` in the place of T_queue_free. Nothing has a promise behind a
debug item (R475). -/
def State.judge (s : State) (p i q sqHead : Nat) (x : Inst) (d : Desc) (ahead : List Item) (free : Nat)
    (other : Nat × List Word) : Judged :=
  match s.admitClosed p with
  | some st => .refuse st
  | none =>
    let l := s.line p
    let cmds := l.held ++ ahead.filterMap Item.cmd
    let u := s.usesOf p x d
    match s.resourceCheck p i d u cmds with
    | some dc => .refuse St.rejResource dc
    | none =>
      let base : Cmd := { inst := i, queue := q, sqHead := sqHead, op := d.op, paced := Nat.testBit d.flags 0
                          signalEn := Nat.testBit d.flags 2, notify := Nat.testBit d.flags 3, cls := d.cls
                          segment := d.segment, image := 0, argset := d.argset, deadline := d.deadline
                          signalFence := d.signalFence, signalValue := d.signalValue, userTag := d.userTag
                          args := u.args, objs := u.objs, fences := d.fences.map handleSlot, seq := (l.seq + 1) % 2 ^ 32
                          cmdSeq := if d.op = 2 then (l.cmdSeq + 1) % 2 ^ 24 else 0
                          tNow := s.now, d := 0, m := 0, mXlat := 0, switched := false, tPromise := 0, tStart := none
                          launch := none, commit := 0, phase := .waiting, voided := none, causeAt := 0, withdrawn := false
                          stored := [], reserved := [0, 0, 0, 0], named := [], openIssued := [], openDone := [], allocs := []
                          frees := [], commits := [], remote := false }
      let start := Nat.max (s.now + Config.admitNs) free
      let finish := fun (c : Cmd) =>
        let late := c.tPromise + (if c.paced then Config.paceNs else 0)
        if ahead.any Item.isDebug then Judged.refuse St.rejDeadline 0 0 never
        else if d.deadline ≠ never ∧ d.deadline < late then Judged.refuse St.rejDeadline 0 0 c.tPromise
        else ⟨St.accepted, 0, 0, c.tPromise, some c⟩
      match u.image with
      | none => finish { base with tPromise := start }
      | some (k, im) =>
        let sw := switchTerms ahead l.resident i
        let segs := segsOf sw d.segment
        let alloyCmd := decide (d.op = 2)
        let sx := s.afterItems p ahead
        let pre := sx.pretranslates p
        let bad := if pre then sx.unmappedAt p alloyCmd im.content segs u cmds else none
        match bad with
        | some va => .refuse St.unmapped 0 va
        | none =>
          let rs := s.cmdRegions im.content segs u.args other.2
          let new := s.newRegions p none rs
          let byQ := perQuarter new
          if pre ∧ (List.range 4).any (fun n => decide (s.freeQuota p n < byQ.getD n 0)) then
            .refuse St.rejResource Dc.xltQuota
          else
            let sgs := segs.filterMap fun n => im.content.segments[n]?
            let mine := im.content.segments[d.segment]?
            let groups := (mine.map fun sg => segGroups im.content sg).getD []
            match sx.mOpen p u.args groups with
            | none => .refuse St.rejDeadline 0 0 never
            | some mo =>
              let mx := sx.xlatTerm p im.content segs new.length other.1
              let ml := if alloyCmd then (mine.map fun sg => s.mLink p im.content sg).getD 0 else 0
              let ma := 400 * (mine.map Segment.allocCalls).getD 0
              let dd := Config.assuredNs (sgs.map Segment.wcet).sum
              let m := mx + mo + ml + ma
              finish { base with
                image := k, d := dd, m := m, mXlat := mx, switched := sw, tPromise := start + dd + m
                tStart := if alloyCmd then some (start + mx + (s.member p).launchNs) else none
                stored := if pre then s.coveredEntries p rs else []
                named := other.2
                reserved := if pre then byQ else [0, 0, 0, 0] }

/-! ### Acceptance -/

/-- A command holds and uses the store entry of a key (R252, R253). -/
def State.useStored (s : State) (k seq : Nat) : State :=
  let use := fun (n : Nat) (e : StoreEntry) =>
    { e with holders := if e.holders.contains seq then e.holders else seq :: e.holders, used := n }
  s.onMem fun m =>
    if m.stales.any fun e => decide (e.1 = k) && e.2.holders.contains seq then
      { m with
        stales := m.stales.map fun e => if e.1 = k ∧ e.2.holders.contains seq then (e.1, use (m.clock + 1) e.2) else e
        clock := m.clock + 1 }
    else { m with store := m.store.adjust k (use (m.clock + 1)), clock := m.clock + 1 }
/-- Hold the store entries that an accepted command counted as present (R252). -/
def State.holdStored (s : State) (c : Cmd) : State :=
  (c.stored.filter fun k => !s.mem.stales.any fun e => decide (e.1 = k) && e.2.holders.contains c.seq).foldl
    (fun s k => s.useStored k c.seq) s

/-- A command with or without the switch terms: its D, M_xlat and store entries follow, while its promise stays; with the
entries that it then needs in each quarter (R63, R394, R401). -/
def State.withSwitch (s : State) (p : Nat) (sw : Bool) (c : Cmd) : Cmd × List Nat :=
  match (if sw = c.switched ∨ c.op = 3 then none else s.host.images.find c.image) with
  | none => (c, [0, 0, 0, 0])
  | some im =>
    let segs := segsOf sw c.segment
    let wcet := (segs.map fun k => ((im.content.segments[k]?).map Segment.wcet).getD 0).sum
    let pre := s.pretranslates p
    let load := s.cmdRegions im.content [0] c.args []
    let need := if pre ∧ sw then perQuarter (s.newRegions p none load) else [0, 0, 0, 0]
    let mx := if pre then
        (if sw then 640 * ceilDiv (c.reserved.sum + need.sum) (s.walksAtOnce p) else c.mXlat)
      else s.xlatTerm p im.content segs 0 0
    let held := if pre ∧ sw then s.coveredEntries p load else []
    ({ c with switched := sw, d := Config.assuredNs wcet, mXlat := mx, m := c.m - c.mXlat + mx
              reserved := (List.range 4).map fun q => c.reserved.getD q 0 + need.getD q 0
              stored := c.stored ++ held.filter fun k => !c.stored.contains k }, need)
/-- A command as it launches: one whose instance is not resident, since the LOAD segment that was to make it so was killed,
carries the switch terms from then on (R63, R394). -/
def State.asLaunched (s : State) (p : Nat) (c : Cmd) : Cmd :=
  if (s.line p).resident = some c.inst then c else (s.withSwitch p true c).1

/-- Put an accepted command on its line at a position. -/
def State.placeCmd (s : State) (p pos : Nat) (c : Cmd) : State :=
  let l := s.line p
  let it : Item := ⟨.command c, s.now, c.d + c.m, c.tPromise, none, 0⟩
  let s := s.setLine p { l with
    items := l.items.take pos ++ it :: l.items.drop pos
    seq := c.seq, cmdSeq := if c.op = 2 then c.cmdSeq else l.cmdSeq }
  (s.holdRefs c).holdStored c

/-- How long a wake item ahead of a new command lasts: the largest exit time of the partition's slices in SP3 or SP4, or of
the state that a park item on the line names; 0 for none (R442). -/
def State.wakeAhead (s : State) (p : Nat) : Nat :=
  let now := greatestOver (s.slicesOf p) fun sl => if 3 ≤ s.slicePower sl then exitNs (s.slicePower sl) else 0
  let parked := (s.line p).items.foldl (fun acc it => match it.kind with
    | .park st _ => exitNs st
    | .wake _ => 0
    | _ => acc) now
  if (s.line p).items.any fun it => match it.kind with | .wake _ => true | _ => false then parked else Nat.max now parked

/-- The exit of every slice of a partition from SP1 or SP2 (R442). -/
def State.exitIdle (s : State) (p : Nat) : State :=
  (s.slicesOf p).foldl (fun s sl => if s.slicePower sl = 1 ∨ s.slicePower sl = 2 then s.setSlicePower sl 0 else s) s

/-- The free values for what a member of an alloy does not know itself: the largest ⌈N_new / W⌉ of the other members, and the
pages of this device that their global VAs name (R41, R228; log entry 93). -/
def State.drawOthers (s : State) (p : Nat) : (Nat × List Word) × State :=
  if 1 < (s.member p).members.length then
    let r := s.draw
    ((r.1.toNat % 2097153, Config.namedPages s.freeCtr), r.2)
  else ((0, []), s)
/-- The same for a descriptor: only an ALLOY_RUN has other members. -/
def State.otherMembers (s : State) (p : Nat) (d : Desc) : (Nat × List Word) × State :=
  if d.op = 2 then s.drawOthers p else ((0, []), s)

/-- The admission record of a taken descriptor and the counts that go with it (R37, R373, R532). -/
def State.postAdmission (s : State) (p i q sqHead : Nat) (d : Desc) (j : Judged) : State :=
  match j.cmd with
  | some c =>
    ((s.count qmgPage 1 1).count (ptnpPage p) 0 1).postCq i q { c.record 1 St.accepted 0 with tPromise := c.tPromise } false
  | none =>
    let l := s.line p
    let s := ((s.count qmgPage 2 1).count (ptnpPage p) 1 1).event qmgPage 0
    s.postCq i q { type := 1, dep := false, fenceRefused := false, committed := false, status := j.status, cause := 0
                   queue := q, sqHead := sqHead, userTag := d.userTag
                   lineSeq := if d.op = 2 then l.cmdSeq else l.seq, faultCode := 0, detailCode := j.dcode
                   tPromise := j.tPromise, tCommit := 0, tRelease := 0, detail := j.detail } (Nat.testBit d.flags 3)

/-- Send LAUNCH for an alloy command down its tree (R44, R320). -/
def State.sendLaunch (s : State) (p : Nat) (c : Cmd) (index : Nat) : State :=
  match c.tStart with
  | none => s
  | some ts =>
    let alloy := s.get Reg.ptnpAlloyAlloyId p
    match s.tree alloy with
    | none => s
    | some t => s.sendMask t.down 0x10 c.cmdSeq alloy
        (BitVec.ofNat 64 (ts % 2 ^ 40 * 2 ^ 24 + index * 2 ^ 20 + c.segment % 2 ^ 12 * 2 ^ 8 + c.argset))

/-- Whether the hub takes the head descriptor of a queue (R368, R372, R276): the instance is ACTIVE, the queue is not stopped
and not empty, and its completion ring has room. -/
def State.mayTake (s : State) (x : Inst) (y : HostQueue) : Bool :=
  s.barsOpen && decide (x.state = Is.active) && !y.dmaStop && decide (y.sqHead ≠ y.sqTail) &&
    decide (3 + 3 * y.taken ≤ 2 ^ (y.cqLog2 + 4) - y.used) && !s.closedToQueues x.ptn

/-- Whether a wait for a fence of a partition holds (R368): a stale, foreign or freeing fence does not make one wait. -/
def State.fenceWaits (s : State) (p : Nat) (h : Handle) (value : Nat) : Bool :=
  match s.findFence h with
  | some (_, f) => decide (f.ptn = p) && !f.freeing && decide (f.value < value)
  | none => false
/-- Whether a head descriptor waits on its fence (R368). -/
def State.waits (s : State) (p : Nat) (d : Desc) : Bool :=
  Nat.testBit d.flags 1 && s.fenceWaits p d.waitFence d.waitValue
/-- The fabric time at which the doorbell of a queue's head descriptor reached the hub (R35). -/
def HostQueue.bellAt (y : HostQueue) : Nat := (y.bells.head?.map Prod.snd).getD 0
/-- Whether queue `b` comes before queue `a` on a line: an earlier doorbell, or in one hub cycle, which is a nanosecond here
(log entry 82), a lower instance number and then a lower queue number; keys are 8 × instance + queue (R35). -/
def bellFirst (a b : Nat × HostQueue) : Bool :=
  decide (b.2.bellAt < a.2.bellAt ∨ b.2.bellAt = a.2.bellAt ∧ b.1 < a.1)
/-- Whether a queue's head descriptor is the next that the hub takes for its line: no other queue of the partition that the
hub could take from has an earlier doorbell (R35, R368). -/
def State.isNext (s : State) (p i q : Nat) (y : HostQueue) : Bool :=
  !(s.host.queues.entries.any fun e => match s.inst (e.1 / 8) with
    | some x => decide (x.ptn = p) && s.mayTake x e.2 && bellFirst (8 * i + q, y) e &&
        !(match e.2.waiting with | some (h, v) => s.fenceWaits p h v | none => false)
    | none => false)
/-- A queue whose head descriptor has been taken (R35, R372). -/
def HostQueue.take (y : HostQueue) (head : Nat) : HostQueue :=
  { y with
    sqHead := head, waiting := none, taken := y.taken + 1
    bells := if (y.bells.head?.map Prod.fst) = some head then y.bells.drop 1 else y.bells }

/-- Take a queue's head descriptor and admit it (R35 to R45). -/
def State.takeDesc (s : State) (i q : Nat) (d : Desc) : State :=
  match s.inst i, s.queue i q with
  | some x, some y =>
    let p := x.ptn
    if ¬ s.mayTake x y then s
    else if s.waits p d then s.setQueue i q { y with waiting := some (d.waitFence, d.waitValue) }
    else if ¬ s.isNext p i q y then s
    else
      let head := (y.sqHead + 1) % 2 ^ (y.sqLog2 + 4)
      let s := s.setQueue i q (y.take head)
      let s := (s.count qmgPage 0 1).exitIdle p
      let r := s.otherMembers p d
      let s := r.2
      let wake := s.wakeAhead p
      let s1 := if wake = 0 then s else s.placeItem p (.wake none) wake
      let l := s1.line p
      let j := s1.judge p i q head x d l.items (l.queueFree s.now) r.1
      match j.cmd with
      | some c => ((s1.placeCmd p l.items.length c).postAdmission p i q head d j).sendLaunch p c d.imgIndex
      | none =>
        let s := s.postAdmission p i q head d j
        match s.queue i q with
        | some z => s.setQueue i q { z with taken := z.taken - 1 }
        | none => s
  | _, _ => s

/-- RUN: a head descriptor that names neither ALLOY_RUN nor SIGNAL; an undefined operation is refused with FORMAT (R371). -/
def execRun (inst : BitVec 9) (q : BitVec 3) (desc : BitVec 2048) (s : State) : StepOut :=
  let d := parseDesc desc
  .next (if d.op = 2 ∨ d.op = 3 then s else s.takeDesc inst.toNat q.toNat d)
/-- ALLOY_RUN (R370). -/
def execAlloyRun (inst : BitVec 9) (q : BitVec 3) (desc : BitVec 2048) (s : State) : StepOut :=
  let d := parseDesc desc
  .next (if d.op = 2 then s.takeDesc inst.toNat q.toNat d else s)
/-- SIGNAL (R370). -/
def execSignal (inst : BitVec 9) (q : BitVec 3) (desc : BitVec 2048) (s : State) : StepOut :=
  let d := parseDesc desc
  .next (if d.op = 3 then s.takeDesc inst.toNat q.toNat d else s)

end Sys2Proof.Machine
end

