-- ==== Sys2Proof/Machine/Tables.lean ====
section
/-! DEFINITION. Table writes: what a write of entries changes, translation updates and stale entries (R235, R239 to R241). -/

namespace Sys2Proof.Machine

/-- The tables that a partition's root reaches, with the VA range that each spans: (slice, line, level, VA). -/
def State.tablesFrom (s : State) (p : Nat) : Nat → Nat × Nat × Nat × Nat → List (Nat × Nat × Nat × Nat)
  | 0, t => [t]
  | fuel + 1, t =>
    t :: if 4 ≤ t.2.2.1 then [] else
      (List.range 512).flatMap fun i =>
        let e := s.tableEntry t.1 t.2.1 i
        if pteValid e ∧ ¬ pteLeaf e ∧ s.pteOk p t.2.2.1 e then
          State.tablesFrom s p fuel (ptrSlice e, ptrLine e, t.2.2.1 + 1,
            t.2.2.2 + i * (if t.2.2.1 = 1 then 2 ^ 39 else if t.2.2.1 = 2 then 2 ^ 30 else 2 ^ 21))
        else []
/-- The reachable tables of a partition (R239). -/
def State.tables (s : State) (p : Nat) : List (Nat × Nat × Nat × Nat) :=
  if s.flag Reg.ptnpXltRootValid p then
    s.tablesFrom p 3 (s.rootSlice p, s.get Reg.ptnpXltRootLine p, 1, 0)
  else []
/-- The lines that a table takes. -/
def tableLines (level : Nat) : Nat := if level = 4 then 4 else 64
/-- Bytes that an entry of a level spans. -/
def entrySpan (level : Nat) : Nat := if level = 1 then 2 ^ 39 else if level = 2 then 2 ^ 30 else if level = 3 then 2 ^ 21 else 65536

/-- The VA ranges that a record's entries cover, over the reachable tables that hold them (R241). -/
def State.coveredRanges (s : State) (p : Nat) (r : TableRec) : List (Nat × Nat) :=
  (s.tables p).flatMap fun t =>
    if t.1 ≠ (recSlice r) then []
    else (List.range r.entries.length).filterMap fun k =>
      let at_ := 8 * r.line.toNat + r.index.toNat + k
      if 8 * t.2.1 ≤ at_ ∧ at_ < 8 * (t.2.1 + tableLines t.2.2.1) then
        some (t.2.2.2 + (at_ - 8 * t.2.1) * entrySpan t.2.2.1, entrySpan t.2.2.1)
      else none
/-- Whether a record is immediate: each entry had V = 0, or lies in a table that nothing reaches (R239). -/
def State.immediate (s : State) (p : Nat) (r : TableRec) : Bool :=
  let tables := (s.tables p).filter fun t => decide (t.1 = recSlice r)
  (List.range r.entries.length).all fun k =>
    let at_ := 8 * r.line.toNat + r.index.toNat + k
    !pteValid (s.tableEntry (recSlice r) r.line.toNat (r.index.toNat + k)) ||
      !tables.any fun t => decide (8 * t.2.1 ≤ at_ ∧ at_ < 8 * (t.2.1 + tableLines t.2.2.1))
/-- Whether a store entry of a partition is of those that ranges cover. -/
def inRanges (p : Nat) (rs : List (Nat × Nat)) (k : Nat) (e : StoreEntry) : Bool :=
  decide (k / 2 ^ 34 = p) && rs.any fun r => rangesMeet (keyVa k) (pageBytes e.trans.size) r.1 r.2
/-- Mark as stale every store entry of a partition that ranges cover (R241). -/
def State.staleRanges (s : State) (p : Nat) (rs : List (Nat × Nat)) : State :=
  s.onMem fun m => { m with
    stales := m.stales ++ m.store.entries.filter fun e => inRanges p rs e.1 e.2
    store := m.store.keep fun k e => !inRanges p rs k e }
/-- Invalidate what R240 names: micro-TLBs, cluster caches and the aperture's cache of a partition, and the unheld store
entries that ranges cover. -/
def State.invalidate (s : State) (p : Nat) (rs : List (Nat × Nat)) : State :=
  s.onMem fun m => { m with
    caches := m.caches.keep fun _ w => decide (cachePtn w ≠ p)
    apCache := m.apCache.keep fun k _ => decide (k / 2 ^ 34 ≠ p)
    streams := m.streams.mapVal fun _ x => if x.ptn = p then { x with tlb := [] } else x
    store := m.store.keep fun k e => !(e.holders.isEmpty && inRanges p rs k e)
    stales := m.stales.filter fun e => !(e.2.holders.isEmpty && inRanges p rs e.1 e.2) }
/-- A translation update's start (R240). -/
def State.applyUpdate (s : State) (p : Nat) (recs : List TableRec) : State :=
  let rs := recs.flatMap fun r => s.coveredRanges p r
  (recs.foldl (fun s r => s.writeTable r) s).invalidate p rs
/-- How long a translation update of a number of entries lasts (R240). -/
def updateNs (entries : Nat) : Nat := 3000 + 16 * entries

end Sys2Proof.Machine
end

