-- ==== Sys2Proof/Machine/Launch.lean ====
section
/-! DEFINITION. Launch, translation phases, segments, internal commit, release and direct launches (R43 to R48, R85, R89,
R139 to R141, R165 to R168, R241, R242, R246 to R254, R285). -/

namespace Sys2Proof.Machine

/-! ### The head of a line -/

/-- Change the command at the head of a line. -/
def State.setHead (s : State) (p : Nat) (c : Cmd) : State :=
  let l := s.line p
  match l.items with
  | it :: rest => s.setLine p { l with items := it.withCmd c :: rest }
  | [] => s
/-- Note the start of the item at the head of a line. -/
def State.startHead (s : State) (p : Nat) : State :=
  let l := s.line p
  match l.items with
  | it :: rest => s.setLine p { l with items := { it with started := some s.now } :: rest }
  | [] => s

/-- Whether the partition stands at a seam with its head item not started: no kill is under way and its SCH blocks are
idle (R165). -/
def State.atSeam (s : State) (p : Nat) : Bool :=
  let l := s.line p
  l.killed.isEmpty && l.hold.isNone && ((s.slicesOf p).all fun sl => decide (s.get Reg.schStsState sl = 0)) &&
    match l.items with
    | it :: _ => it.started.isNone
    | [] => true
/-- Whether work may start: a powered partition, neither quenched nor under an alert (R51, R442). -/
def State.mayStart (s : State) (p : Nat) : Bool :=
  !s.quenched && !s.flag Reg.pwrStsAlert 0 && (s.slicesOf p).all fun sl => decide (s.slicePower sl = 0)

/-! ### Working ranges (R63) -/

/-- Whether a line of an endpoint lies in a resident range of an image. -/
def ImageContent.isResident (im : ImageContent) (sl ep line : Nat) : Bool :=
  im.residency.any fun r =>
    r.resident && decide (im.sliceMap.getD r.slice 64 = sl ∧ r.endpoint = ep ∧ r.first ≤ line ∧ line < r.first + r.lines)

/-- Accumulators, registers and everything but the resident ranges of an image that stays resident become undefined at a
launch (R63). -/
def State.wipeWorking (s : State) (p : Nat) (im : Option Image) : State :=
  let n := s.freeCtr + 2
  let stays := fun sl ep k => (im.map fun i => i.content.isResident sl ep k).getD false
  let s := (s.slicesOf p).foldl (fun s sl =>
    let s := (List.range 8).foldl (fun s ti =>
      let t := s.tile sl ti
      s.setTile sl ti { t with
        sram := t.sram.keep fun k _ => stays sl ti k
        acc := .empty, vregs := .empty, fill := n, fillRegs := n }) s
    let c := s.cluster sl
    s.setCluster sl { c with lines := c.lines.keep fun k _ => stays sl 8 k, fill := n }) s
  { s with freeCtr := s.freeCtr + 1 }

/-! ### Segments (R138 to R141) -/

/-- The physical first entry of a hop run of an image (R143). -/
def Image.hopFirst (im : Image) (node first : Nat) : Nat :=
  match im.blocks.find? fun b => b.1 = node with
  | some b => b.2.getD (first / 4096) 0 * 4096 + first % 4096
  | none => first

/-- What the segment before left goes: its streams and hop runs, and the segment tick; the launch ends the frames of the
partition's channels (R157). -/
def State.clearSegment (s : State) (p : Nat) (sls : List Nat) : State :=
  let s := ((s.endSeg p).dropFlows p).setSlices Reg.schStsSegTick sls 0
  s.onMem fun m => { m with channels := m.channels.mapVal fun k c => if sls.contains (k / 12) then { c with window := none } else c }

/-- The SCH blocks of a partition launch a segment of an image: streams, hop runs and tiles start, and its first tick follows the
launch ticks (R139, R140, R168). -/
def State.launchSegment (s : State) (p slot : Nat) (im : Image) (k : Nat) (args : List Word) : State :=
  match im.content.segments[k]? with
  | none => s
  | some sg =>
    let sls := s.slicesOf p
    let s := s.clearSegment p sls
    let s := sls.foldl (fun s sl =>
      (((s.set Reg.schStsState sl 1).set Reg.schStsImageSlot sl slot).set Reg.schStsSegment sl k).count (clusterPage sl 6) 0 1) s
    let s := s.setSeg p ⟨slot, k, args, 0, [], [], [], [], []⟩
    let s := s.onMem fun m => { m with
      streams := (segStreams im.content k).foldl (fun (st : FMap Stream) r =>
        st.put (64 * im.content.sliceMap.getD (srSlice r) 0 + srStream r) ⟨r, p, srBase r args, 0, 0, [], []⟩) m.streams }
    let s := sg.hops.foldl (fun s h =>
      let x := s.node h.1
      s.setNode h.1 { x with runs := x.runs ++ [⟨p, im.hopFirst h.1 h.2.1, h.2.2⟩] }) s
    if sg.load then s
    else (withIdx sg.tiles).foldl (fun s e =>
      match e.2 with
      | some first => s.startTile (im.content.sliceMap.getD (e.1 / 8) 0) (e.1 % 8) first
      | none => s) s
/-! ### What a translation phase translates (R246, R247, R251) -/

/-- A stream, or the local end of a group, as a translation phase takes it. -/
structure Piece where
  /-- The slice whose cluster or quarter serves it. -/
  slice : Nat
  write : Bool
  page : Nat
  budget : Nat
  lines : Nat
  va : Nat → Nat
  /-- The device channel on which a VA must lie, for a stream. -/
  place : Option (Nat → Nat)
  /-- It is no stream but the end of a group, or a page that another member names: it is taken in 64 KiB regions (R247). -/
  group : Bool
  /-- The objects of the command's list must permit its lines. -/
  listed : Bool
  /-- An address that breaks the decode (R226). -/
  broken : Option Nat

/-- A stream as a piece. -/
def streamPiece (im : ImageContent) (args : List Word) (r : BitVec 512) : Piece :=
  let b := srBase r args
  let sl := im.sliceMap.getD (srSlice r) 0
  ⟨sl, srWrite r, srPage r, srBudget r, srRows r * srRowLines r, srVa r b, some fun va => 12 * sl + srPlacement r b va,
    false, true, none⟩
/-- The local ends of a segment's groups as pieces, and the ends whose address breaks the decode (R226, R247). -/
def State.groupPieces (s : State) (p : Nat) (alloyCmd : Bool) (im : ImageContent) (k : Nat) (args : List Word) : List Piece :=
  (groupEnds im k args).filterMap fun e =>
    let piece := fun va (broken : Option Nat) =>
      (⟨im.sliceMap.getD 0 0, e.2.2, 0, (regionsOf 65536 va (64 * e.2.1)).length, e.2.1, fun n => va + 64 * n, none, true, true,
        broken⟩ : Piece)
    if s.breaksDecode p alloyCmd e.1 then some (piece e.1 (some e.1))
    else (s.localVa e.1).map fun va => piece va none
/-- The pages that the other members' global VAs name here, as pieces (R228). -/
def namedPieces (im : ImageContent) (named : List Word) : List Piece :=
  named.map fun a => ⟨im.sliceMap.getD 0 0, false, 0, 1, 1, fun _ => a.toNat % 2 ^ 48, none, true, false, none⟩
/-- The pieces of a chain of a command, in order (R247). -/
def State.chainPieces (s : State) (p : Nat) (c : Cmd) (im : ImageContent) (chain : Nat) : List Piece :=
  let own := (segsOf c.switched c.segment).flatMap fun k =>
    ((segStreams im k).filter fun r => srChain r = chain).map (streamPiece im c.args)
  own ++ if chain = 0 then s.groupPieces p (decide (c.op = 2)) im c.segment c.args ++ namedPieces im c.named else []
/-- The die on whose walkers a chain's walk runs: that of the chain's first stream, or of image slice 0 (R247); with a translation
store, that of the piece's quarter (R252; log entry 92, DESIGN CHOICE). -/
def State.walkerDie (s : State) (p : Nat) (c : Cmd) (chain : Nat) (pc : Piece) : Nat :=
  if s.pretranslates p then pc.slice / 16
  else match s.host.images.find c.image with
    | some im => (((s.chainPieces p c im.content chain).head?).map Piece.slice).getD pc.slice / 16
    | none => pc.slice / 16

/-- Whether the frame of a DPA is sealed (R471). -/
def State.sealedAt (s : State) (dpa : Nat) : Bool := s.plant.sec.sealed.has (s.logFrame dpa)

/-- Whether a translated line is mapped for its piece (R246); a sealed frame is not writable (R471). -/
def State.mappedFor (s : State) (p : Nat) (pc : Piece) (va : Nat) (t : Trans) : Bool :=
  decide (va < 2 ^ 48 ∧ pc.page ≤ t.size) && (!pc.write || (t.w && !s.imagePage p va t.size && !s.sealedAt (t.dpa va))) &&
    match pc.place with
    | some f => decide (dpaChannel (t.dpa va) = f va)
    | none => true

/-- The translation of a VA that the phase of a command has: in the cluster translation cache of its slice, for the end of a group
its 64 KiB region (R247, R249), or in the store entry that serves its quarter (R252). -/
def State.phaseTrans (s : State) (p : Nat) (pre : Bool) (seq : Nat) (pc : Piece) (va : Nat) : Option (Nat × Trans) :=
  if pre then (s.storeFind p (pc.slice / 16) (some seq) pc.page va).map fun e => (keyVa e.1, e.2.trans)
  else (s.cacheFind pc.slice p va).map fun e =>
    if pc.group then (cacheTrans e.2).region (cachePage e.2) va else (cachePage e.2, cacheTrans e.2)

/-- What a chain needs next. -/
inductive Next where
  /-- Nothing: the chain is done. -/
  | done
  /-- A walk for a piece at a VA. -/
  | walk (pc : Piece) (va : Nat)
  /-- A stop with a status and a VA. -/
  | stop (status va : Nat)
/-- What a chain has translated so far, as piece, page and translation, and what it needs next. -/
structure Need where
  got : List (Piece × Nat × Trans)
  next : Next

/-- Go through the lines of a piece (R226, R246, R248). -/
def State.scanPiece (s : State) (p : Nat) (pre : Bool) (c : Cmd) (pc : Piece) : Nat → List (Nat × Trans) → Need
  | 0, seen => ⟨seen.map fun e => (pc, e.1, e.2), .done⟩
  | k + 1, seen =>
    let va := pc.va (pc.lines - (k + 1))
    let so := seen.map fun e => (pc, e.1, e.2)
    match pc.broken with
    | some a => ⟨so, .stop St.unmapped a⟩
    | none =>
      if 2 ^ 48 ≤ va ∨ pc.listed ∧ ¬ s.linePermitted (s.line p).held c.objs pc.write va then ⟨so, .stop St.unmapped va⟩
      else match coverOf seen va with
        | some t => if s.mappedFor p pc va t then State.scanPiece s p pre c pc k seen else ⟨so, .stop St.unmapped va⟩
        | none =>
          if ¬ pre ∧ pc.budget ≤ seen.length then ⟨so, .stop St.pageBudget va⟩
          else match s.phaseTrans p pre c.seq pc va with
            | none => ⟨so, .walk pc va⟩
            | some e => if s.mappedFor p pc va e.2 then State.scanPiece s p pre c pc k (seen ++ [e]) else ⟨so, .stop St.unmapped va⟩

/-- Go through the pieces of a chain. -/
def State.scanChain (s : State) (p : Nat) (pre : Bool) (c : Cmd) : List Piece → Need
  | [] => ⟨[], .done⟩
  | pc :: rest =>
    let a := s.scanPiece p pre c pc pc.lines []
    match a.next with
    | .done =>
      let b := State.scanChain s p pre c rest
      ⟨a.got ++ b.got, b.next⟩
    | _ => a

/-- What a chain of a command needs next. -/
def State.chainNeed (s : State) (p : Nat) (c : Cmd) (chain : Nat) : Need :=
  match s.host.images.find c.image with
  | none => ⟨[], .done⟩
  | some im => s.scanChain p (s.pretranslates p) c (s.chainPieces p c im.content chain)

/-! ### Walks (R234, R242, R249, R252, R254) -/

/-- WRITTEN and the page's log bits for a page that the command's stream writes under LOG (R242). -/
def State.noteWritten (s : State) (p i va : Nat) : State :=
  match s.walkVa p va with
  | .leaf e level key =>
    if pteLog e then
      (s.onMem fun m => { m with tables := m.tables.putD key 0 (e ||| 0x20) }).logPage i (pteFrame e) (levelSize level)
    else s
  | .unmapped _ => s

/-- The first entry of a slice's cache, in order, that a test passes. -/
def State.cacheSlot (s : State) (slice : Nat) (ok : BitVec 128 → Bool) : Option Nat :=
  firstIn cacheEntries 0 fun e => ok (s.mem.caches.getD (slice * cacheEntries + e) 0)
/-- Put a translation in a cluster's cache, pinned: in its own entry, else in the first that is not in use, else in the first that
is not pinned (R249; log entry 92, DESIGN CHOICE). -/
def State.putCache (s : State) (slice p page : Nat) (t : Trans) : State :=
  let own := fun w => cacheValid w && decide (cachePtn w = p ∧ cachePage w = page ∧ (cacheTrans w).size = t.size)
  match [own, fun w => !cacheValid w, fun w => !cachePinned w].findSome? fun ok => s.cacheSlot slice ok with
  | some e => s.onMem fun m => { m with caches := m.caches.putD (slice * cacheEntries + e) 0 (cacheWord p page t true) }
  | none => s

/-- The VA ranges that the updates waiting on a line change, past its first item (R241). -/
def State.pendingRanges (s : State) (p : Nat) : List (Nat × Nat) :=
  ((s.line p).items.drop 1).flatMap fun it => match it.kind with
    | .update r _ => s.coveredRanges p r
    | .reshape _ _ _ plan _ => plan.tables.flatMap fun r => s.coveredRanges p r
    | _ => []
/-- Put a translation in the store, held by a command: stale at once where an update behind the command changes it (R241, R252). -/
def State.storeTrans (s : State) (p q page seq : Nat) (t : Trans) : State :=
  let key := storeKey p q (page / 65536)
  let n := s.mem.clock + 1
  let e : StoreEntry := ⟨t, [seq], n⟩
  let old := inRanges p (s.pendingRanges p) key e
  let s := s.onMem fun m =>
    if old then { m with stales := m.stales ++ [(key, e)], clock := n } else { m with store := m.store.put key e, clock := n }
  s.trimStore p q (s.get Reg.ptnpXltQuotaQuota p)

/-- A breach in a translation phase: the prologue kills the command with its status (R248); a phase that R251 had passed
faults the partition with XLT_MISMATCH (R252). -/
def State.phaseBreach (s : State) (p : Nat) (c : Cmd) (status va : Nat) : State :=
  if s.pretranslates p then s.faultPtn p Fc.xltMismatch .none
  else s.killOne p c ⟨status, .none, 0, none, if status = St.unmapped then va else 0⟩

/-- One walk for a piece of the command at the head of a line, on the walkers of a die. An uncorrectable line of a table faults the
partition (R254). -/
def State.walkPiece (s : State) (p : Nat) (c : Cmd) (die : Nat) (tableUe : Bool) (pc : Piece) (va : Nat) : State :=
  if tableUe ∨ (s.walkBad [] p va).isSome then
    (match s.walkBad [] p va with
      | some d => s.noteLine [] false d
      | none => s).raise Reg.xltwStsTableUe die |>.faultPtn p Fc.tableUe (.inSlice 15 pc.slice)
  else match s.walkVa p va with
  | .unmapped bad =>
    let s := if bad then s.bump Reg.xltwStsMalformed die else s
    s.phaseBreach p c St.unmapped va
  | .leaf e level _ =>
    let t := leafTrans e level
    let page := va / pageBytes t.size * pageBytes t.size
    if ¬ s.mappedFor p pc va t then s.phaseBreach p c St.unmapped va
    else
      let s := if pc.write then s.noteWritten p c.inst va else s
      if s.pretranslates p then
        let s := s.storeTrans p (pc.slice / 16) page c.seq t
        match s.host.images.find c.image with
        | some im => s.setHead p { c with
            reserved := perQuarter (s.newRegions p (some c.seq)
              (s.cmdRegions im.content (segsOf c.switched c.segment) c.args c.named)) }
        | none => s
      else
        let e := if pc.group then t.region page va else (page, t)
        s.putCache pc.slice p e.1 e.2

/-- The command at the head of a line while its translation phase runs. -/
def State.translating (s : State) (p : Nat) : Option Cmd :=
  (s.headCmd p).bind fun c => if c.phase = .translating then some c else none

/-- Pin or hold at once what the chains of a command have hit so far, and post WRITTEN (R242, R249, R252, R253). -/
def State.pinHits (s : State) (p : Nat) (c : Cmd) : State :=
  (List.range 16).foldl (fun s chain => (s.chainNeed p c chain).got.foldl (fun s g =>
    let s := if g.1.write then s.noteWritten p c.inst g.2.1 else s
    if s.pretranslates p then s.useStored (storeKey p (g.1.slice / 16) (g.2.1 / 65536)) c.seq
    else s.putCache g.1.slice p g.2.1 g.2.2) s) s
/-- One step of a chain of the command in its translation phase. -/
def State.stepChain (s : State) (p : Nat) (c : Cmd) (chain : Nat) (tableUe : Bool) : State :=
  let s := s.pinHits p c
  match (s.chainNeed p c chain).next with
  | .done => s
  | .stop st va => s.phaseBreach p c st va
  | .walk pc va => s.walkPiece p c (s.walkerDie p c chain pc) tableUe pc va

/-- WALK: a walk completes for a chain of the command in its translation phase (R254). -/
def execWalk (p : PtnNo) (chain : BitVec 4) (tableUe : Bool) (s : State) : StepOut :=
  let p := p.toNat
  match s.translating p with
  | none => .next s
  | some c => .next (s.stepChain p c chain.toNat tableUe)

/-- Complete the walks of a chain. -/
def State.runChain (p chain : Nat) : Nat → State → State
  | 0, s => s
  | k + 1, s =>
    match s.translating p with
    | none => s
    | some c => match (s.chainNeed p c chain).next with
      | .done => s
      | _ => State.runChain p chain k (s.stepChain p c chain false)

/-- The most walks that a chain of a command makes: one for each page that its pieces may need. -/
def State.chainFuel (s : State) (p : Nat) (c : Cmd) (chain : Nat) : Nat :=
  match s.host.images.find c.image with
  | none => 0
  | some im => ((s.chainPieces p c im.content chain).map fun pc => pc.lines).sum + 1

/-- Every chain of the command in its translation phase runs to its end. -/
def State.runChains (s : State) (p : Nat) : State :=
  (List.range 16).foldl (fun s ch =>
    match s.translating p with
    | some c => State.runChain p ch (s.chainFuel p c ch) s
    | none => s) s
/-- Finish a translation phase: every chain's remaining walks, lowest chain first, then the pins and holds. -/
def State.finishPhase (s : State) (p : Nat) : State :=
  let s := s.runChains p
  match s.translating p with
  | some c =>
    let s := s.pinHits p c
    match s.headCmd p with
    | some c => s.setHead p { c with reserved := [0, 0, 0, 0] }
    | none => s
  | none => s

/-- The SCH launch order of a translated command: segment 0 of the incoming image first where it switches, else the
command's own segment (R140, R393). -/
def State.launchTranslated (s : State) (p : Nat) : State :=
  match s.translating p with
  | none => s
  | some c =>
    match s.host.images.find c.image with
    | none => s
    | some im =>
      let s := s.setLine p { s.line p with resident := if c.switched then none else (s.line p).resident }
      let s := s.wipeWorking p (if c.switched then none else some im)
      let s := s.setHead p { c with phase := if c.switched then .loading else .running }
      s.launchSegment p c.image im (if c.switched then 0 else c.segment) c.args

/-- COMMAND_LAUNCH: the command at the head of a line launches at a seam (R43, R165); a SIGNAL has nothing to run, and an
alloy command begins its pre-translation, to launch at T_s (R44). -/
def execCommandLaunch (p : PtnNo) (s : State) : StepOut :=
  let p := p.toNat
  match s.headCmd p with
  | some c =>
    if c.phase = .waiting ∧ s.atSeam p ∧ s.mayStart p then
      let c := s.asLaunched p c
      let s := (s.startHead p).holdStored c
      .next (s.setHead p { c with
        launch := if c.op = 2 then none else some s.now
        phase := if c.op = 3 then .running else .translating })
    else .next s
  | none => .next s

/-- TRANSLATION_PHASE_END (R247): the launch order follows, but for an alloy command, which waits for T_s. -/
def execTranslationPhaseEnd (p : PtnNo) (s : State) : StepOut :=
  let p := p.toNat
  match s.translating p with
  | some c =>
    let s := s.finishPhase p
    .next (if c.op = 2 then s else s.launchTranslated p)
  | none => .next s

/-- ALLOY_LAUNCH_INSTANT: the member's part of the alloy command launches at T_s (R44). -/
def execAlloyLaunchInstant (p : PtnNo) (s : State) : StepOut :=
  let p := p.toNat
  match s.headCmd p with
  | some c =>
    match c.tStart with
    | some ts =>
      let fresh := decide (c.phase = .waiting) && s.atSeam p && s.mayStart p
      if fresh ∨ c.phase = .translating then
        let s := s.atLeast ts
        let c := if fresh then s.asLaunched p c else c
        let s := if fresh then (s.startHead p).holdStored c else s
        let s := s.setHead p { c with launch := some s.now, phase := .translating }
        .next ((s.finishPhase p).launchTranslated p)
      else .next s
    | none => .next s
  | none => .next s

/-- LOAD_SEGMENT_END: once nothing of segment 0 is left, the instance is resident and the command's own segment launches (R140,
R393). -/
def execLoadSegmentEnd (p : PtnNo) (s : State) : StepOut :=
  let p := p.toNat
  let s := s.runSeg p
  match s.headCmd p with
  | some c =>
    match s.host.images.find c.image with
    | some im =>
      if c.phase = .loading ∧ s.segIdle p then
        let s := s.setLine p { s.line p with resident := some c.inst }
        let s := s.setHead p { c with phase := .running }
        .next (s.launchSegment p c.image im c.segment c.args)
      else .next s
    | none => .next s
  | none => .next s

/-! ### Combining messages on an alloy tree (R321) -/

/-- A contribution to a combined message: opcode, CMD_SEQ, index and where it came from (a port, or 8 for the local member).
The answer says whether every contributor has now supplied it and this device is the lead's; elsewhere a complete one is
forwarded up. -/
def State.arrive (s : State) (alloy opcode seq idx src : Nat) : Bool × State :=
  match s.tree alloy with
  | none => (false, s)
  | some t =>
    let seen := if t.seen.contains (opcode, seq, idx, src) then t.seen else (opcode, seq, idx, src) :: t.seen
    let need := bitsSet t.down ++ if t.member.isSome then [8] else []
    if need.all fun x => seen.contains (opcode, seq, idx, x) then
      let t := { t with seen := seen.filter fun e => decide (¬ (e.1 = opcode ∧ e.2.1 = seq ∧ e.2.2.1 = idx)) }
      let s := s.onNet fun n => { n with trees := n.trees.put alloy t }
      match t.up with
      | some n => (false, s.sendMask (2 ^ n) opcode seq alloy (BitVec.ofNat 64 idx))
      | none => (true, s)
    else (false, s.onNet fun n => { n with trees := n.trees.put alloy { t with seen := seen } })

/-- Send RELEASE down an alloy's tree: T_promise and PACED (R320). -/
def State.sendRelease (s : State) (p : Nat) (c : Cmd) : State :=
  let alloy := s.get Reg.ptnpAlloyAlloyId p
  match s.tree alloy with
  | none => s
  | some t => s.sendMask t.down 0x12 c.cmdSeq alloy
      (BitVec.ofNat 64 (c.tPromise % 2 ^ 40 * 2 ^ 24 + if c.paced then 1 else 0))

/-- The alloy's internal commit at its lead, once every member has reached its own (R46, R320). -/
def State.alloyCommit (s : State) (p seq : Nat) : State :=
  match s.headCmd p with
  | some c => if c.op = 2 ∧ c.cmdSeq = seq ∧ c.phase = .held then (s.sendRelease p c).commitHead p else s
  | none => s

/-! ### Internal commit and release (R45 to R48) -/

/-- Whether the running command of a line has nothing left: nothing of its segment is outstanding, its groups are complete, and it is
not held (R46, R165, R166). -/
def State.runDone (s : State) (p : Nat) (c : Cmd) : Bool :=
  let groups := match s.host.images.find c.image with
    | some im => ((im.content.segments[c.segment]?).map Segment.openCount).getD 0
    | none => 0
  decide (c.phase = .running) && (s.line p).hold.isNone &&
    (decide (c.op = 3) ||
      ((s.seg p).isSome && s.segIdle p && (List.range groups).all fun g => c.openDone.contains g))

/-- INTERNAL_COMMIT (R46, R47): a command that is not an alloy's commits; a member's part reports to the lead. -/
def execInternalCommit (p : PtnNo) (s : State) : StepOut :=
  let p := p.toNat
  let s := s.runSeg p
  match s.headCmd p with
  | some c =>
    if s.runDone p c then
      if c.op = 2 then
        let s := (s.setHead p { c with phase := .held }).idleUnits p
        let r := s.arrive (s.get Reg.ptnpAlloyAlloyId p) 0x11 c.cmdSeq 0 8
        .next (if r.1 then r.2.alloyCommit p c.cmdSeq else r.2)
      else .next (s.commitHead p)
    else .next s
  | none => .next s

/-- PACED_RELEASE: the release unit releases every held command whose instant has come (R47, R48). -/
def execPacedRelease (p : PtnNo) (s : State) : StepOut :=
  let p := p.toNat
  match (s.line p).held with
  | [] => .next s
  | c :: _ =>
    let s := s.atLeast c.tPromise
    let l := s.line p
    let due := l.held.filter fun c => decide (c.tPromise ≤ s.now)
    let s := s.setLine p { l with held := l.held.filter fun c => decide (¬ c.tPromise ≤ s.now) }
    .next (due.foldl (fun s c => s.release p c) s)

/-- GRACE, in ns (R57). -/
def State.graceNs (s : State) : Nat :=
  let g := s.get Reg.qmgAdmitCfgGraceUs 0
  1000 * if 1 ≤ g ∧ g ≤ 1000 then g else 1000

/-- PROMISE_OVERRUN: a command whose promise stands has reached neither commit nor a kill by T_promise + GRACE (R45). -/
def execPromiseOverrun (p : PtnNo) (s : State) : StepOut :=
  let p := p.toNat
  let due := ((s.line p).cmds.filter fun c => c.voided.isNone && !c.withdrawn && !c.remote).map Cmd.tPromise
  match due with
  | [] => .next s
  | x :: rest =>
    let at_ := rest.foldl Nat.min x + s.graceNs
    .next (((s.atLeast at_).event qmgPage 3).faultPtn p Fc.overrun .none)

/-- SEAM: kills that wait for it are finished, and what falls at a seam happens (R165, R395); `bits` are errors in the codes of tiles
that the drain before it has met (R60). -/
def execSeam (drain : SeamDrain) (s : State) : StepOut :=
  let p := drain.ptn.toNat
  let l := s.line p
  let drained := fun (s : State) => (drain.bits.filter fun b => (s.slicesOf p).contains b.1.slice.toNat).foldl (fun s b =>
    s.bitErrors b.1.slice.toNat b.1.tile.toNat b.2) s
  let running := match l.items with
    | it :: _ => it.started.isSome
    | [] => false
  if l.killed ≠ [] then
    let s := s.finishKills p
    .next (drained (((s.endHold p).emptyQueues p).seamEffects p))
  else if running then .next s
  else .next (s.seamEffects p)

/-! ### Direct launches (R89, R140, R285) -/


/-- Whether a segment of the instance's image is a COMMAND segment. -/
def State.commandSegment (s : State) (i k : Nat) : Option Segment :=
  ((s.inst i).bind fun x => s.host.images.find x.image).bind fun im =>
    (im.content.segments[k]?).bind fun sg => if sg.load then none else some sg

/-- INST_LAUNCH: outside compatibility mode the write is ignored; a segment that is no COMMAND segment sets SXL_IGNORED
(R285). -/
def execInstLaunch (inst : BitVec 9) (segment delay : BitVec 16) (s : State) : StepOut :=
  let i := inst.toNat
  if ¬ s.compat then .next s
  else match s.inst i with
    | none => .next s
    | some x =>
      match s.commandSegment i segment.toNat with
      | some sg =>
        if x.state = Is.active then
          .next (s.placeItem x.ptn (.direct i segment.toNat delay.toNat) (Config.assuredNs sg.wcet))
        else .next s
      | none => .next (s.setSlices Reg.schStsSxlIgnored (s.slicesOf x.ptn) 1)

/-- DIRECT_LAUNCH: the item starts at a seam (R285). -/
def execDirectLaunch (p : PtnNo) (s : State) : StepOut :=
  let p := p.toNat
  match (s.line p).items with
  | ⟨.direct .., _, _, _, _, _⟩ :: _ =>
    .next (if s.atSeam p ∧ s.mayStart p then s.startHead p else s)
  | _ => .next s

/-- The direct launch that has started on the line of a slice's partition. -/
def State.directOn (s : State) (sl : Nat) : Option (Nat × Nat × Nat × Nat) :=
  (s.sliceOwner sl).bind fun p =>
    match (s.line p).items with
    | ⟨.direct i k d, _, _, _, some _, _⟩ :: _ => some (p, i, k, d)
    | _ => none

/-- The slot and the image of an instance. -/
def State.imageOf (s : State) (i : Nat) : Option (Nat × Image) :=
  (s.inst i).bind fun x => (s.host.images.find x.image).map fun im => (x.image, im)
/-- Whether a write of sxlaunch starts the direct launch of its slice: in compatibility mode, once the launch's item has
started, with its segment and its delay (R140, R285). -/
def State.mayLaunch (s : State) (sl k d : Nat) : Bool :=
  s.compat && decide (s.get Reg.schStsState sl = 0) && (s.seqr sl).launchAt.isNone &&
    match s.directOn sl with
    | some (_, i, k', d') => decide (k = k' ∧ d = d') && (s.imageOf i).isSome
    | none => false
/-- A write of sxlaunch: it requests a launch D ticks later, with D < 12 taken as 12 (R89); any other write is ignored and sets
SXL_IGNORED (R140). -/
def State.sxlaunch (s : State) (sl : Nat) (v : Word) : State :=
  let k := bitsOf v.toNat 0 16
  let d := bitsOf v.toNat 16 16
  if s.mayLaunch sl k d then
    s.setSeqr sl { s.seqr sl with launchAt := some (k, s.get Reg.dieTickTick (sl / 16) + max 12 d) }
  else s.raise Reg.schStsSxlIgnored sl
/-- SXLAUNCH (R89, R140). -/
def execSxlaunch (slice : SliceNo) (value : Word) (s : State) : StepOut := .next (s.sxlaunch slice.toNat value)
/-- A requested launch comes at its tick, where its item is still the one on the line (R89, R285). -/
def State.launchDue (s : State) (sl : Nat) : State :=
  match (s.seqr sl).launchAt with
  | none => s
  | some (k, t) =>
    if s.get Reg.dieTickTick (sl / 16) < t then s
    else
      let s := s.setSeqr sl { s.seqr sl with launchAt := none }
      match s.directOn sl with
      | some (p, i, _, _) => match s.imageOf i with
        | some (slot, im) =>
          (s.wipeWorking p (if (s.line p).resident = some i then some im else none)).launchSegment p slot im k []
        | none => s
      | none => s

/-- A write of sxkill: a 1 in bit 0 kills the cluster's running segment (R85, R89). -/
def State.sxkill (s : State) (sl : Nat) (v : Word) : State :=
  if v.getLsbD 0 ∧ s.get Reg.schStsState sl ≠ 0 then ((s.set Reg.schStsState sl 3).haltTiles [sl]).runSlice sl else s
/-- SXKILL (R85, R89). -/
def execSxkill (slice : SliceNo) (value : Word) (s : State) : StepOut := .next (s.sxkill slice.toNat value)

end Sys2Proof.Machine
end

