-- ==== Sys2Proof/Machine/Regulate.lean ====
section
/-! DEFINITION. The regulators: credits, tiers, open slots of a port and the guarantee check (R310, R317, R343, R407 to
R415). -/

namespace Sys2Proof.Machine

/-! ### Masters (R409) -/

/-- The key of a master: partition and class; TRANSIT masters lie above. -/
def masterKey (transit : Bool) (p c : Nat) : Nat := if transit then 1024 + c else 16 * p + c
/-- Kinds of points: channel, port, aperture engine, open queue of a planish engine. -/
def pointKey (kind index : Nat) : Nat := 1024 * kind + index
/-- A point. -/
def State.point (s : State) (kind index : Nat) : Point := s.engines.points.getD (pointKey kind index) Point.reset
/-- Write a point. -/
def State.setPoint (s : State) (kind index : Nat) (x : Point) : State :=
  s.onEngines fun m => { m with points := m.points.putD (pointKey kind index) Point.reset x }

/-- An unlisted master: no credit since time 0. -/
def Master.reset : Master := ⟨0, 0, 0, 0, false, false⟩
/-- A master of a point. -/
def Point.master (x : Point) (k : Nat) : Master := x.masters.getD k Master.reset

/-- The credit of a master now: it grows at its rate, in MB/s, up to what the rate delivers in 2,000 ns or one unit. -/
def Master.grown (m : Master) (now rate unit : Nat) : Master :=
  { m with credit := Nat.min (m.credit + rate * (now - m.at_)) (Nat.max (rate * 2000) (1000 * unit)), at_ := now }

/-- The next key after the last one served, cyclically, of a list of keys that rises. -/
def nextKey (keys : List Nat) (last : Nat) : Option Nat :=
  match keys.find? fun k => decide (last < k) with
  | some k => some k
  | none => keys.head?

/-- Insert a number into a rising list without repeats. -/
def insertNat (x : Nat) : List Nat → List Nat
  | [] => [x]
  | y :: rest => if x < y then x :: y :: rest else if x = y then y :: rest else y :: insertNat x rest
/-- The distinct numbers of a list, rising. -/
def sortNats (l : List Nat) : List Nat := l.foldl (fun acc x => insertNat x acc) []

/-- Grant one unit at a point to one of the waiting masters: tier 1 by credit, then tier 2 by weight (R409). The answer is
the master served. -/
def Point.grant (x : Point) (now unit : Nat) (rate weight : Nat → Nat) (waiting : List Nat) : Option (Nat × Point) :=
  let keys := sortNats waiting
  let x := { x with masters := keys.foldl (fun (m : FMap Master) k =>
    m.put k ((m.getD k Master.reset).grown now (rate k) unit)) x.masters }
  match nextKey (keys.filter fun k => decide (1000 * unit ≤ (x.master k).credit)) x.last1 with
  | some k =>
    let m := x.master k
    some (k, { x with
      masters := x.masters.put k { m with credit := m.credit - 1000 * unit, granted := m.granted + unit }, last1 := k })
  | none =>
    if keys.contains x.last2 ∧ 1 ≤ (x.master x.last2).deficit then
      let m := x.master x.last2
      some (x.last2, { x with masters := x.masters.put x.last2 { m with deficit := m.deficit - 1 } })
    else
      (nextKey keys x.last2).map fun k =>
        let m := x.master k
        (k, { x with masters := x.masters.put k { m with deficit := Nat.max 1 (weight k) - 1 }, last2 := k })

/-- The weight of a master in tier 2. -/
def State.weightOf (s : State) (k : Nat) : Nat :=
  if 1024 ≤ k then 1 else Nat.max 1 (s.get Reg.ptnpClassWeight k)
/-- The effective rate of a master at a point (R408), in MB/s. -/
def State.pointRate (s : State) (kind k : Nat) : Nat :=
  if kind = 0 then s.chRate (k / 16) (k % 16)
  else if kind = 1 then
    if 1024 ≤ k then effective (s.get Reg.bwrTransitTransitMbps (k - 1024)) s.linkCapacity s.linkTotal
    else s.linkRate (k / 16) (k % 16)
  else if kind = 2 then
    effective (s.get Reg.ptnpRegCfgApMbps (k / 16)) s.apCapacity
      (sumOver (List.range 64) fun p => s.get Reg.ptnpRegCfgApMbps p)
  else 0
/-- Bytes of a grant unit (R407). -/
def unitBytes (kind : Nat) : Nat := if kind = 0 ∨ kind = 2 then 64 else if kind = 1 then 256 else 65536

/-- The position of the request that a class takes first (R409): earliest deadline in an RT class, else arrival. `reqs` are
(deadline, arrival). -/
def firstRequest (rt : Bool) (reqs : List (Nat × Option Nat × Nat)) : Option Nat :=
  let rank := fun (e : Nat × Option Nat × Nat) => if rt then e.2.1.getD (2 ^ 64) else 0
  (reqs.foldl (fun (best : Option (Nat × Option Nat × Nat)) e =>
    match best with
    | none => some e
    | some b => if rank e < rank b ∨ rank e = rank b ∧ e.2.2 < b.2.2 then some e else best) none).map Prod.fst

/-- Whether a class takes its requests by deadline. -/
def State.rtOf (s : State) (k : Nat) : Bool := decide (k < 1024) && s.flag Reg.ptnpClassRt k

/-- Account a grant that has no wait at a point: tier 1 where the credit allows, else tier 2. -/
def State.serveAt (s : State) (kind index key : Nat) : State :=
  match (s.point kind index).grant s.now (unitBytes kind) (s.pointRate kind) s.weightOf [key] with
  | some r => s.setPoint kind index r.2
  | none => s

/-- Masters that have a request waiting at a point, from the start of a wait. -/
def State.noteWaiting (s : State) (kind index key : Nat) : State :=
  let x := s.point kind index
  if x.masters.has key then s else s.setPoint kind index { x with masters := x.masters.put key { Master.reset with at_ := s.now } }

/-! ### Open flits of a port (R310, R317, R343) -/

/-- The header word of an OPEN flit (R310). -/
def OpenFlit.header (f : OpenFlit) : Nat :=
  3 * 2 ^ 60 + f.cls % 16 * 2 ^ 56 + f.ptn % 64 * 2 ^ 50 + f.src % 2 ^ 14 * 2 ^ 36 + f.dst % 2 ^ 14 * 2 ^ 22 +
    f.otype % 16 * 2 ^ 18 + f.tag % 2 ^ 16

/-- Put a flit on its way by the route table (R343): at the queue of a port, or discarded and counted where the device is
unreachable. `via` is the port by which a forwarded flit came. -/
def State.sendOpen (s : State) (f : OpenFlit) (via : Nat) : State :=
  let r := s.net.routes.getD f.dst 0xF
  if r < 6 ∧ s.portOpen r then
    let x := s.port r
    (s.setPort r { x with openQueue := x.openQueue ++ [f] }).noteWaiting 1 r (masterKey f.transit f.ptn f.cls)
  else s.bump Reg.lnkCntMisrouted via

/-- Whether a transmit slot of a port carries open traffic: no control slot, and granted to no partition (R306, R312). -/
def State.openTxSlot (s : State) (port slot : Nat) : Bool :=
  decide (slot < 6250 ∧ slot % 125 ≠ 0) && decide (s.net.slots.getD (2 * port * 8192 + slot) 0 < 0x80)

/-- Send the flit that the regulators choose on an open slot of a port. -/
def State.sendOpenSlot (s : State) (port slot : Nat) : State :=
  let x := s.port port
  let tagged := (withIdx x.openQueue).map fun e => (masterKey e.2.transit e.2.ptn e.2.cls, e.1, e.2)
  match (s.point 1 port).grant s.now 256 (s.pointRate 1) s.weightOf (tagged.map Prod.fst) with
  | none => s
  | some (k, pt) =>
    let mine := (tagged.filter fun e => decide (e.1 = k)).map fun e => (e.2.1, e.2.2.deadline, e.2.1)
    match (firstRequest (s.rtOf k) mine).bind fun n => x.openQueue[n]?.map fun f => (n, f) with
    | none => s
    | some (n, f) =>
      let m := pt.master k
      let late := s.rtOf k && match f.deadline with | some d => decide (d < s.now) | none => false
      let left := x.openQueue.eraseIdx n
      let waits := left.any fun g => decide (masterKey g.transit g.ptn g.cls = k)
      let pt := { pt with masters := pt.masters.put k { m with late := m.late || late, throughout := m.throughout && waits } }
      (((s.setPoint 1 port pt).setPort port { x with openQueue := left }).emit (.flit port slot 3 [f.header] f.payload)).count
        (lnkPage port) 1 1

/-- OPEN_SLOT (R317): in an open slot the port sends the flit that its regulators choose. -/
def execOpenSlot (port : PortNo) (slot : BitVec 13) (s : State) : StepOut :=
  let n := port.toNat
  .next (if s.portOpen n ∧ s.openTxSlot n slot.toNat ∧ ¬ s.quenched then s.sendOpenSlot n slot.toNat else s)

/-! ### The guarantee check (R415) -/

/-- The masters that have a request waiting at a point. -/
def State.waitingAt (s : State) (kind index : Nat) : List Nat :=
  if kind = 1 then (s.port index).openQueue.map fun f => masterKey f.transit f.ptn f.cls
  else if kind = 3 then (s.engine index).waiting.map fun o => masterKey false o.ptn o.cls
  else (s.point kind index).reqs.map fun r => masterKey false r.ptn r.cls

/-- Record a miss of a master at a point. -/
def State.guaranteeMiss (s : State) (kind key : Nat) : State :=
  let s :=
    if key < 1024 then
      let p := key / 16
      (((s.bump Reg.ptnpRegStsMissCount p).set Reg.ptnpRegStsLastPoint p kind).set Reg.ptnpRegStsLastClass p
        (key % 16)).raise Reg.ptnpRegStsMiss p
    else s
  ((s.bump Reg.bwrStsMissCount 0).raise Reg.bwrStsGuaranteeMiss 0).event bwrPage 0

/-- GUARANTEE_CHECK: at the end of a window of 10 µs each master that waited throughout is checked, and a new window
begins (R415). -/
def execGuaranteeCheck (kind : BitVec 2) (index : BitVec 10) (s : State) : StepOut :=
  let k := kind.toNat
  let n := index.toNat
  let x := s.point k n
  let s := s.atLeast (x.windowAt + 10000)
  let missed := (x.masters.entries.filter fun e =>
    let need := s.pointRate k e.1 * 10
    e.2.late || (e.2.throughout && decide (e.2.granted + 2 * unitBytes k < need))).map Prod.fst
  let s := missed.foldl (fun s key => s.guaranteeMiss k key) s
  let waiting := s.waitingAt k n
  .next (s.setPoint k n { x with
    windowAt := s.now
    masters := x.masters.mapVal fun key m => { m with granted := 0, late := false, throughout := waiting.contains key } })

end Sys2Proof.Machine
end

