-- ==== Sys2Proof/Machine/Planish.lean ====
section
/-! DEFINITION. Planish engines: groups, engine lines, regions, descriptors and their operations (R169 to R194, R209,
R210). -/

namespace Sys2Proof.Machine

/-! ### Groups, engine lines and regions (R171, R174, R209) -/

/-- The channels of a partition's group on an engine, rising. -/
def State.groupOf (s : State) (e p : Nat) : List Nat := (s.channelsOf p).filter fun ch => decide (ch / 32 = e)
/-- The size of a group. -/
def State.groupSize (s : State) (e p : Nat) : Nat := (s.groupOf e p).length
/-- The partitions that hold a group on an engine. -/
def State.groupsOn (s : State) (e : Nat) : List Nat := (List.range 64).filter fun p => decide (s.groupSize e p ≠ 0)
/-- The DPA of an engine line of a group. -/
def State.engineDpa (s : State) (e p b : Nat) : Nat :=
  let g := s.groupOf e p
  mkDpa (g.getD (b % Nat.max 1 g.length) 0) (b / Nat.max 1 g.length)

/-- A valid region of an engine. -/
def State.region (s : State) (e n : Nat) : Option Region :=
  ((s.engine e).regions.find n).bind fun g => if g.staged then none else some g
/-- COMMIT of an append region, in region lines: the committed extent of its object (R175). -/
def State.regionCommit (s : State) (r : Region) : Nat :=
  if r.kind = 2 then ((s.host.objs.find r.obj).map fun o => o.extent / 64).getD 0 else 0

/-- Whether a descriptor's references are valid regions of the partition, on its engine, in range, of a kind that may be
written where it writes, and its writes clear of its reads (R180, R184). `open_` admits a COPY destination on another
engine (R195). -/
def State.descPlaced (s : State) (p e : Nat) (d : Line) (open_ : Bool) : Bool :=
  let ext := descExtents d
  let reg := fun k => s.region (descRef d k).engine (descRef d k).region
  let base := fun k => ((reg k).map fun r => r.base + (descRef d k).line).getD 0
  decide (s.groupSize e p ≠ 0) &&
  (ext.all fun x =>
    let r := descRef d x.1
    (decide (r.engine = e) || (open_ && decide (descOp d = 7 ∧ x.1 = 2 ∧ r.engine < 24))) &&
    match reg x.1 with
    | some g => decide (g.ptn = p) && !g.freeing && decide (r.line + x.2.1 ≤ g.lines) && (!x.2.2 || decide (g.kind = 1 ∨ g.kind = 2))
    | none => false) &&
  (ext.all fun w => !w.2.2 || ext.all fun x => x.2.2 || decide ((descRef d x.1).engine ≠ (descRef d w.1).engine) ||
    !rangesMeet (base w.1) w.2.1 (base x.1) x.2.1)

/-! ### Reading operands -/

/-- A region line, through a reference: lines count from its LINE. -/
def State.refLine (s : State) (r : Ref) (n : Nat) : Line :=
  match s.region r.engine r.region with
  | some g => s.readLine (s.engineDpa r.engine g.ptn (g.base + r.line + n))
  | none => 0
/-- `w` bits at a bit position from a line of a reference. -/
def State.refBits (s : State) (r : Ref) (line pos w : Nat) : Nat :=
  let a := (s.refLine r (line + pos / 512)).toNat
  let b := if 512 < pos % 512 + w then (s.refLine r (line + pos / 512 + 1)).toNat else 0
  (a + b * 2 ^ 512) / 2 ^ (pos % 512) % 2 ^ w
/-- An element of a format code as a value. -/
def elemVal (code bits : Nat) : FVal :=
  match fmtOfCode code with
  | some f => f.decode bits
  | none => .nan
/-- An FP32 value. -/
def f32 (bits : Nat) : FVal := Fmt.fp32.decode bits

/-- Lines that a reference's region has from its LINE on. -/
def State.refRoom (s : State) (r : Ref) : Nat := ((s.region r.engine r.region).map fun g => g.lines - r.line).getD 0

/-- An index list of a capacity: its entries, and 1 where its count was clamped (R179, R181). -/
def State.indexList (s : State) (r : Ref) (cap : Nat) : List Nat × Nat :=
  let n := s.refBits r 0 0 32
  ((List.range (Nat.min n cap)).map fun k => s.refBits r 0 (64 + 32 * k) 32, if cap < n then 1 else 0)

/-! ### Results -/

/-- The result lines of an output at a reference from a line on: elements of a width packed from its lowest bit, the bytes
beyond them as they stand. -/
def State.pack (s : State) (r : Ref) (line width : Nat) (vals : List Nat) : List (Nat × Line) :=
  let bits := width * vals.length
  let image := packAll width vals
  (List.range (ceilDiv bits 512)).map fun k =>
    let have_ := Nat.min 512 (bits - 512 * k)
    let old := (s.refLine r (line + k)).toNat
    (line + k, BitVec.ofNat 512 (image / 2 ^ (512 * k) % 2 ^ have_ + old / 2 ^ have_ * 2 ^ have_))

/-- Place output lines of a reference at their DPAs; lines below an append region's COMMIT are not written, and counted
(R175). -/
def State.placeLines (s : State) (r : Ref) (ls : List (Nat × Line)) : List (Nat × Line) × Nat :=
  match s.region r.engine r.region with
  | none => ([], 0)
  | some g =>
    let kept := ls.filter fun e => decide (s.regionCommit g ≤ r.line + e.1)
    ((kept.map fun e => (s.engineDpa r.engine g.ptn (g.base + r.line + e.1), e.2)).filter fun e => !s.imageLine g.ptn e.1,
      ls.length - kept.length)

/-- The result of a descriptor: lines by DPA, and how many masked entries it counted. -/
abbrev DescOut := List (Nat × Line) × Nat
/-- Two results, one after the other. -/
def DescOut.and (a b : DescOut) : DescOut := (a.1 ++ b.1, a.2 + b.2)

/-! ### Arithmetic (R188 to R193) -/

/-- The exact sum of values in units 2^-u, rounded once to FP32. -/
def exactSum (u : Nat) (l : List FVal) : Nat :=
  let pos := l.any (·.isInf false)
  let neg := l.any (·.isInf true)
  if l.any (fun v => decide (v = .nan)) || (pos && neg) then Fmt.fp32.nanBits
  else if pos then Fmt.fp32.infBits
  else if neg then Fmt.fp32.signed true Fmt.fp32.infBits
  else (Fmt.fp32.roundSum (l.map FVal.toInt).sum u (l ≠ [] && l.all FVal.negZero)).1

/-- FP32 one. -/
def oneBits : Nat := 0x3F800000
/-- FP32 −∞. -/
def negInf : Nat := Fmt.fp32.signed true Fmt.fp32.infBits
/-- An FP32 subtraction rounded once. -/
def sub32 (a b : Nat) : Nat := (Fmt.fp32.sub a b).1
/-- An FP32 product rounded once. -/
def mul32 (a b : Nat) : Nat := (Fmt.fp32.mul a b).1
/-- Whether bits are a zero. -/
def isZero32 (a : Nat) : Bool := decide (a % 2 ^ 31 = 0)

/-- m, l and the accumulators of a head. -/
structure Head where
  m : Nat
  l : Nat
  acc : List Nat

/-- One block of ATTN for a head: the scores of its positions with their V elements, and sc_v (R189). -/
def Head.block (h : Head) (scores : List Nat) (v : List (List FVal)) (scv : FVal) : Head :=
  let mn := scores.foldl (fun m x => (Fmt.fp32.maximum m x).1) h.m
  if mn = negInf then h
  else
    let a := f32 (if h.m = negInf then 0 else (vexp (sub32 h.m mn)).1)
    let w := scores.map fun x => f32 (if x = negInf then 0 else (vexp (sub32 x mn)).1)
    let one := f32 oneBits
    { m := mn
      l := exactSum 300 ((f32 h.l).mul a :: w.map fun x => x.mul one)
      acc := (withIdx h.acc).map fun e =>
        exactSum 450 (((f32 e.2).mul a).mul one :: (w.zip v).map fun x => (x.1.mul (x.2.getD e.1 .nan)).mul scv) }

/-- A head's outputs (R189). -/
def Head.out (h : Head) : List Nat :=
  if isZero32 h.l then h.acc.map fun _ => 0 else
    let r := (vrcp h.l).1
    h.acc.map fun a => mul32 a r

/-- Output elements with OUT_BF16 and SAT applied (R75). -/
def outElems (bf16 sat : Bool) (vals : List Nat) : Nat × List Nat :=
  if bf16 then (16, vals.map fun v => (Fmt.bf16.narrow sat (f32 v)).1) else (32, vals)

/-- ATTN (R188, R189). -/
def State.attnOut (s : State) (d : Line) : DescOut :=
  let q := descRef d 0
  let kv := descRef d 2
  let code := descFmt d
  let w := codeBits code
  let dd := atD d
  let bt := atBt d
  let hkv := atHkv d
  let list := descRef d 1
  let n := s.refBits list 0 0 32
  let positions := Nat.min n (atMb d * bt)
  let blocks := (List.range (ceilDiv positions bt)).map fun b => (b, s.refBits list 0 (64 + 32 * b) 32)
  let good := fun x => decide ((x + 1) * atBlockLines d ≤ s.refRoom kv)
  let scaleAt := 2 * bt * hkv * dd * w
  let head := fun h =>
    let g := h / 2 ^ atG d
    let query := (List.range dd).map fun i => elemVal 1 (s.refBits q 0 (16 * (h * dd + i)) 16)
    blocks.foldl (fun (st : Head) b =>
      if good b.2 then
        let line := b.2 * atBlockLines d
        let scale := fun k => s.refBits kv line (scaleAt + 32 * (k * hkv + g)) 32
        let sck := if descFlag d 0 then mul32 (descP d 2) (scale 0) else descP d 2
        let scv := if descFlag d 0 then f32 (scale 1) else f32 oneBits
        let toks := List.range (Nat.min bt (positions - b.1 * bt))
        let elem := fun half t i => elemVal code (s.refBits kv line (w * (((half * bt + t) * hkv + g) * dd + i)) w)
        let scores := toks.map fun t =>
          mul32 (exactSum 300 ((withIdx query).map fun e => e.2.mul (elem 0 t e.1))) sck
        st.block scores (toks.map fun t => (List.range dd).map fun i => elem 1 t i) scv
      else st) ⟨negInf, 0, List.replicate dd 0⟩
  let heads := (List.range (atHq d)).map head
  let out := descRef d 3
  let e := outElems (descFlag d 1) (descFlag d 3) (heads.flatMap Head.out)
  let lines := s.pack out 0 e.1 e.2 ++
    if descFlag d 2 then
      s.pack out (ceilDiv (atHq d * dd * outBytes (descFlag d 1)) 64) 32 (heads.flatMap fun h => [h.m, h.l])
    else []
  DescOut.and (s.placeLines out lines)
    ([], (blocks.filter fun b => !good b.2).length + if atMb d * bt < n then 1 else 0)

/-- MATVEC (R190). -/
def State.matvecOut (s : State) (d : Line) : DescOut :=
  let k := descP d 0
  let n := descP d 1
  let code := descFmt d
  let w := codeBits code
  let wr := descRef d 0
  let xr := descRef d 1
  let out := descRef d 3
  let weight := fun j i =>
    let v := elemVal code (s.refBits wr (j * descP d 3) (w * i) w)
    if descFlag d 4 then v.scale (s.refBits wr (j * descP d 3) (w * k + 8 * (i / 32)) 8) else v
  let y := fun v j =>
    let terms := (List.range k).map fun i =>
      (weight j i).mul (elemVal 1 (s.refBits xr (v * ceilDiv (2 * k) 64) (16 * i) 16))
    let bias := if descFlag d 0 then [(f32 (s.refBits (descRef d 2) 0 (32 * j) 32)).mul (f32 oneBits)] else []
    exactSum 300 (bias ++ terms)
  let lines := (List.range (descP d 2)).flatMap fun v =>
    let e := outElems (descFlag d 1) (descFlag d 3) ((List.range n).map (y v))
    s.pack out (v * ceilDiv (n * outBytes (descFlag d 1)) 64) e.1 e.2
  s.placeLines out lines

/-- Rows that an index list selects, with those out of range left out (R181): row, entry. -/
def rowsOf (entries : List Nat) (rl room : Nat) : List (Nat × Nat) :=
  (withIdx entries).filter fun e => decide ((e.2 + 1) * rl ≤ room)

/-- GATHER (R191). -/
def State.gatherOut (s : State) (d : Line) : DescOut :=
  let src := descRef d 0
  let rl := descP d 0
  let l := s.indexList (descRef d 1) (descP d 1)
  let rows := rowsOf l.1 rl (s.refRoom src)
  let lines := rows.flatMap fun e => (List.range rl).map fun k => (e.1 * rl + k, s.refLine src (e.2 * rl + k))
  DescOut.and (s.placeLines (descRef d 2) lines) ([], l.2 + (l.1.length - rows.length))

/-- SCATTER (R191): rows in ascending order, so that the last of repeated entries stands. -/
def State.scatterOut (s : State) (d : Line) : DescOut :=
  let dst := descRef d 2
  let rl := descP d 0
  let l := s.indexList (descRef d 1) (descP d 1)
  let rows := rowsOf l.1 rl (s.refRoom dst)
  let lines := rows.flatMap fun e => (List.range rl).map fun k => (e.2 * rl + k, s.refLine (descRef d 0) (e.1 * rl + k))
  DescOut.and (s.placeLines dst lines) ([], l.2 + (l.1.length - rows.length))

/-- The rank of an element for TOPK (R192): NaN above +∞, zeros equal. -/
def topKey (f : Fmt) (bits : Nat) : Int :=
  if f.decode bits = .nan then 2 ^ 40 else if bits % f.signBit = 0 then 0 else f.orderKey bits
/-- Insert an element after all that rank no lower. -/
def insertTop (f : Fmt) (x : Nat × Nat) : List (Nat × Nat) → List (Nat × Nat)
  | [] => [x]
  | y :: rest => if topKey f y.2 < topKey f x.2 then x :: y :: rest else y :: insertTop f x rest
/-- TOPK (R192): values in the input format, and indices; a vector's results at a stride of ⌈4k / 64⌉ lines. -/
def State.topkOut (s : State) (d : Line) : DescOut :=
  let n := descP d 0
  let k := descP d 1
  let bf := decide (descFmt d = 1)
  let f := if bf then Fmt.bf16 else Fmt.fp32
  let w := f.width
  let one := fun v =>
    let xs := (List.range n).map fun i => (i, s.refBits (descRef d 0) (v * ceilDiv (n * outBytes bf) 64) (w * i) w)
    let top := (xs.foldl (fun acc x => insertTop f x acc) []).take k ++
      List.replicate (k - n) (0xFFFFFFFF, f.signed true f.infBits)
    let line := v * ceilDiv (4 * k) 64
    (s.pack (descRef d 1) line w (top.map Prod.snd), s.pack (descRef d 2) line 32 (top.map Prod.fst))
  let all := (List.range (descP d 2)).map one
  DescOut.and (s.placeLines (descRef d 1) (all.flatMap Prod.fst)) (s.placeLines (descRef d 2) (all.flatMap Prod.snd))

/-- The inputs of REDUCE at an element: input `i`, 32-bit element `x` from a line of the input. -/
def State.rdElem (s : State) (d : Line) (i line x : Nat) : Nat := s.refBits (descRef d 0) (i * descP d 2 + line) (32 * x) 32
/-- REDUCE SUM, MAX and MIN (R193). -/
def State.reduceOut (s : State) (d : Line) (f : List Nat → Nat) : DescOut :=
  s.placeLines (descRef d 1) (s.pack (descRef d 1) 0 32 ((List.range (descP d 1)).map fun x =>
    f ((List.range (rdM d)).map fun i => s.rdElem d i 0 x)))
/-- SUM of FP32 values. -/
def sumOf (l : List Nat) : Nat := exactSum 150 (l.map f32)
/-- A fold over a list that is not empty. -/
def foldOf (f : Nat → Nat → Nat) : List Nat → Nat
  | [] => 0
  | x :: rest => rest.foldl f x
/-- REDUCE MERGE (R193). -/
def State.mergeOut (s : State) (d : Line) : DescOut :=
  let h := descP d 3
  let dd := descP d 1
  let ml := ceilDiv (4 * h * dd) 64
  let ins := List.range (rdM d)
  let head := fun k =>
    let ms := foldOf (fun a b => (Fmt.fp32.maximum a b).1) (ins.map fun i => s.rdElem d i ml (2 * k))
    let c := ins.map fun i =>
      let l := s.rdElem d i ml (2 * k + 1)
      if isZero32 l then 0 else mul32 l (vexp (sub32 (s.rdElem d i ml (2 * k)) ms)).1
    let ls := sumOf c
    let none_ := ins.all fun i => isZero32 (s.rdElem d i ml (2 * k + 1))
    let r := (vrcp ls).1
    let out := (List.range dd).map fun x =>
      if isZero32 ls then 0
      else mul32 (exactSum 300 ((withIdx c).map fun e => (f32 e.2).mul (f32 (s.rdElem d e.1 0 (k * dd + x))))) r
    (out, if none_ then [negInf, 0] else [ms, ls])
  let heads := (List.range h).map head
  let dst := descRef d 1
  s.placeLines dst (s.pack dst 0 32 (heads.flatMap Prod.fst) ++ s.pack dst ml 32 (heads.flatMap Prod.snd))

/-- COPY (R194). -/
def State.copyOut (s : State) (d : Line) : DescOut :=
  s.placeLines (descRef d 2) ((List.range (descP d 0)).map fun k => (k, s.refLine (descRef d 0) k))
/-- FILL with a pattern, or with lines of the hallmark unit's generator from a number of a draw on (R194). -/
def State.fillOut (s : State) (d : Line) : DescOut :=
  let pat := BitVec.ofNat 512 (packAll 32 (List.replicate 16 (descP d 1)))
  s.placeLines (descRef d 2) ((List.range (descP d 0)).map fun k =>
    (k, if descFlag d 5 then Config.garbageLine [s.freeCtr, k] else pat))

/-- The results of a descriptor, from memory as it stands. -/
def State.descOut (s : State) (d : Line) : DescOut :=
  match descOp d with
  | 1 => s.attnOut d
  | 2 => s.matvecOut d
  | 3 => s.gatherOut d
  | 4 => s.scatterOut d
  | 5 => s.topkOut d
  | 6 =>
    if rdMode d = 0 then s.reduceOut d sumOf
    else if rdMode d = 1 then s.reduceOut d (foldOf fun a b => (Fmt.fp32.maximum a b).1)
    else if rdMode d = 2 then s.reduceOut d (foldOf fun a b => (Fmt.fp32.minimum a b).1)
    else s.mergeOut d
  | 7 => s.copyOut d
  | _ => s.fillOut d

/-! ### Scheduled descriptors (R182, R186) -/

/-- Add to NME_STS.MASKED, which saturates. -/
def State.addMasked (s : State) (e n : Nat) : State :=
  s.set Reg.nmeStsMasked e (satAdd 65535 (s.get Reg.nmeStsMasked e) n)

/-- DPAs of lines of a reference's region, counted from its LINE. -/
def State.refDpas (s : State) (r : Ref) (lines : List Nat) : List Nat :=
  match s.region r.engine r.region with
  | some g => lines.map fun k => s.engineDpa r.engine g.ptn (g.base + r.line + k)
  | none => []
/-- The lines of operand 0 or 2 that an index list of a descriptor selects: the blocks of ATTN, the rows of GATHER (R188, R191). -/
def State.listedLines (s : State) (d : Line) : Nat × List Nat :=
  if descOp d = 1 then
    let n := Nat.min (s.refBits (descRef d 1) 0 0 32) (atMb d * atBt d)
    (2, ((List.range (ceilDiv n (atBt d))).map fun b => s.refBits (descRef d 1) 0 (64 + 32 * b) 32).flatMap fun x =>
      if (x + 1) * atBlockLines d ≤ s.refRoom (descRef d 2) then
        (List.range (atBlockLines d)).map (x * atBlockLines d + ·) else [])
  else if descOp d = 3 then
    (0, (rowsOf (s.indexList (descRef d 1) (descP d 1)).1 (descP d 0) (s.refRoom (descRef d 0))).flatMap fun e =>
      (List.range (descP d 0)).map (e.2 * descP d 0 + ·))
  else (0, [])
/-- The DPAs that a descriptor reads. -/
def State.descReads (s : State) (d : Line) : List Nat :=
  ((descExtents d).flatMap fun x => if x.2.2 then [] else s.refDpas (descRef d x.1) (List.range x.2.1)) ++
    s.refDpas (descRef d (s.listedLines d).1) (s.listedLines d).2

/-- Note an error of engine SRAM: corrected, or uncorrectable, which faults the partition (R173, R198). -/
def State.engineEcc (s : State) (e p : Nat) (o : ReadOutcome) : State :=
  match o with
  | .clean => s
  | .corrected => s.bump Reg.nmeStsEccCorr e
  | .uncorrectable => (s.raise Reg.nmeStsEccUncorr e).faultPtn p Fc.nmeEcc (.engine e)

/-- The place of a descriptor in the program of the running segment on an engine, where the segment has come to its START and it has
not started (R182, R186). -/
def State.progPlace (s : State) (e p : Nat) (d : Line) : Option Nat :=
  match s.seg p with
  | none => none
  | some r =>
    (s.host.images.find r.slot).bind fun im =>
      ((withIdx (im.content.progOf e r.segment)).find? fun x =>
        decide (x.2 = d ∧ descStart d ≤ r.tick) && !r.descs.contains (e, x.1)).map Prod.fst

/-- At START of a descriptor of an operation its results are computed from memory as it stands; they become visible at END
(R186). An uncorrectable line among those that it reads faults the partition (R219). -/
def State.startDesc (s : State) (engine : BitVec 5) (p : PtnNo) (d : Line) (ecc : ReadOutcome) (is : Line → Bool) : State :=
  let e := engine.toNat
  let p := p.toNat
  let s := s.runSeg p
  match s.seg p, s.progPlace e p d with
  | some g, some k =>
    if is d ∧ s.ticking p ∧ ¬ (s.engine e).running.has p then
      let dpas := s.descReads d
      let r := (s.asRead [] dpas).descOut d
      let bad := s.badLine [] dpas
      let s := (s.noteLines [] dpas).setSeg p { g with descs := (e, k) :: g.descs }
      let s := (s.addMasked e r.2).set Reg.nmeStsActive e 1
      let s := ((s.count (nmePage e) 1 (descLines d)).count (nmePage e) 2 (descTicks d (s.groupSize e p)))
      let s := s.setEngine e { s.engine e with running := (s.engine e).running.put p ⟨d, r.1⟩ }
      let s := s.engineEcc e p ecc
      match bad with
      | some x => s.faultPtn p Fc.memUe (.channel (dpaChannel x))
      | none => s.runSeg p
    else s
  | _, _ => s

/-- ATTN (R189). -/
def execAttn (engine : BitVec 5) (p : PtnNo) (desc : Line) (ecc : ReadOutcome) (s : State) : StepOut :=
  .next (s.startDesc engine p desc ecc fun d => decide (descOp d = 1))
/-- MATVEC (R190). -/
def execMatvec (engine : BitVec 5) (p : PtnNo) (desc : Line) (ecc : ReadOutcome) (s : State) : StepOut :=
  .next (s.startDesc engine p desc ecc fun d => decide (descOp d = 2))
/-- GATHER (R191). -/
def execGather (engine : BitVec 5) (p : PtnNo) (desc : Line) (ecc : ReadOutcome) (s : State) : StepOut :=
  .next (s.startDesc engine p desc ecc fun d => decide (descOp d = 3))
/-- SCATTER (R191). -/
def execScatter (engine : BitVec 5) (p : PtnNo) (desc : Line) (ecc : ReadOutcome) (s : State) : StepOut :=
  .next (s.startDesc engine p desc ecc fun d => decide (descOp d = 4))
/-- TOPK (R192). -/
def execTopk (engine : BitVec 5) (p : PtnNo) (desc : Line) (ecc : ReadOutcome) (s : State) : StepOut :=
  .next (s.startDesc engine p desc ecc fun d => decide (descOp d = 5))
/-- REDUCE, mode SUM (R193). -/
def execSum (engine : BitVec 5) (p : PtnNo) (desc : Line) (ecc : ReadOutcome) (s : State) : StepOut :=
  .next (s.startDesc engine p desc ecc fun d => decide (descOp d = 6 ∧ rdMode d = 0))
/-- REDUCE, mode MAX (R193). -/
def execMax (engine : BitVec 5) (p : PtnNo) (desc : Line) (ecc : ReadOutcome) (s : State) : StepOut :=
  .next (s.startDesc engine p desc ecc fun d => decide (descOp d = 6 ∧ rdMode d = 1))
/-- REDUCE, mode MIN (R193). -/
def execMin (engine : BitVec 5) (p : PtnNo) (desc : Line) (ecc : ReadOutcome) (s : State) : StepOut :=
  .next (s.startDesc engine p desc ecc fun d => decide (descOp d = 6 ∧ rdMode d = 2))
/-- REDUCE, mode MERGE (R193). -/
def execMerge (engine : BitVec 5) (p : PtnNo) (desc : Line) (ecc : ReadOutcome) (s : State) : StepOut :=
  .next (s.startDesc engine p desc ecc fun d => decide (descOp d = 6 ∧ rdMode d = 3))
/-- COPY (R194). -/
def execCopy (engine : BitVec 5) (p : PtnNo) (desc : Line) (ecc : ReadOutcome) (s : State) : StepOut :=
  .next (s.startDesc engine p desc ecc fun d => decide (descOp d = 7))
/-- FILL (R194). -/
def execFill (engine : BitVec 5) (p : PtnNo) (desc : Line) (ecc : ReadOutcome) (s : State) : StepOut :=
  .next (s.startDesc engine p desc ecc fun d => decide (descOp d = 8))

/-- Write result lines. -/
def State.writeLines (s : State) (l : List (Nat × Line)) : State := l.foldl (fun s e => s.writeLine e.1 e.2) s

/-- DESCRIPTOR_END: every result line becomes visible once the segment has come to END (R186). -/
def execDescriptorEnd (engine : BitVec 5) (p : PtnNo) (s : State) : StepOut :=
  let e := engine.toNat
  let s := s.runSeg p.toNat
  let x := s.engine e
  match x.running.find p.toNat, s.seg p.toNat with
  | some r, some g =>
    if g.tick < descEnd r.desc ∨ ¬ s.ticking p.toNat then .next s
    else
      let s := s.writeLines r.results
      let running := x.running.drop p.toNat
      let s := s.setEngine e { x with running := running }
      .next (((s.set Reg.nmeStsActive e (if running.entries = [] then 0 else 1)).count (nmePage e) 0 1).runSeg p.toNat)
  | _, _ => .next s

end Sys2Proof.Machine
end

