-- ==== Sys2Proof/Machine/Tiles.lean ====
section
/-! DEFINITION. The matrix tile slots and the transfer slot (R60, R96 to R117, R126, R129, R130). Each slot command starts its
operation in the issue tick of the bundle under way, where the bundle's word spells it (log entry 12). -/

namespace Sys2Proof.Machine

/-! ### Starting an operation -/

/-- A bundle fault whose whole bundle is not performed (R130): the fault is recorded, and the partition faults, by which its
tiles stop. -/
def State.bundleAbort (s : State) (sl ti slot cause : Nat) : State :=
  (s.bundleFault sl ti slot (s.tile sl ti).index cause).faultSlice sl Fc.bundle ti

/-- A bundle fault whose operation is not performed (R130): it is recorded, the other slots of the bundle are performed, and the
partition faults when the bundle's tick has run. -/
def State.operationAbort (s : State) (sl ti slot cause : Nat) : State :=
  let s := s.bundleFault sl ti slot (s.tile sl ti).index cause
  let t := s.tile sl ti
  s.setTile sl ti { t with started := t.started ++ [slot], fault := true }

/-- Whether a tile's unit is occupied, when a bundle issues, by an operation of an earlier one (R126). -/
def Tile.occupied (t : Tile) (slot : Nat) : Bool :=
  t.ops.any fun o => decide (o.slot = slot) && decide (o.t0 < t.tick ∧ t.tick < o.t0 + o.issue)
/-- What keeps a tile's bundle from issuing: the slot and the cause (R126, R129, R130). -/
def Tile.breach (t : Tile) (graver : Bool) : Option (Nat × Nat) :=
  match t.illegalSlot graver t.word with
  | some k => some (k, Bf.illegal)
  | none => ((slotsOf graver t.word).find? t.occupied).map fun k => (k, Bf.unitBusy)

/-- Put an operation in flight, with the address registers that it posts. -/
def State.startOp (s : State) (sl ti slot issue span : Nat) (kind : OpKind) (posts : List Nat) : State :=
  let t := s.tile sl ti
  s.setTile sl ti { t with
    ops := t.ops ++ [⟨slot, t.index, t.tick, issue, t.tick + span, kind⟩], posts := t.posts ++ posts
    started := t.started ++ [slot] }

/-- Whether a tile's bundle is at issue: the tile runs, the segment has reached the bundle's tick, which its control slot has not
ended yet, and the partition is not held (R99, R315). -/
def State.atIssue (s : State) (sl ti : Nat) : Bool :=
  let t := s.tile sl ti
  t.busy && !t.ended && t.ctl.isNone &&
    match s.sliceOwner sl with
    | some p => s.ticking p && match s.seg p with
      | some r => decide (r.tick = t.tick)
      | none => false
    | none => false

/-- What precedes every operation: its bundle is at issue and may issue, its word spells the operation, and its slot has not
started one. A command that the word does not spell starts nothing (R3, R97, R101). -/
def State.issueSlot (s : State) (t : TileRef) (slot : Nat) (spelled : Nat → BitVec 256 → Bool) (go : State → Nat → Nat → Tile → State) :
    State :=
  let sl := t.slice.toNat
  let ti := t.tile.toNat
  let s := s.runSlice sl
  let x := s.tile sl ti
  if ¬ s.atIssue sl ti then s
  else match x.breach (isGraver ti) with
    | some (k, cause) => s.bundleAbort sl ti k cause
    | none => if spelled ti x.word ∧ ¬ x.started.contains slot then go s sl ti x else s

/-- An address register's post, where the slot's POST bit is set. -/
def postIf (b : Bool) (r : BitVec 4) : List Nat := if b then [r.toNat] else []

/-! ### The control slot (R99, R104, R105) -/

/-- The control slot of a tile's bundle: once every other slot that its word spells has come, the bundle may issue, and the segment
runs on (R97, R99, R104). -/
def State.control (s : State) (t : TileRef) (spelled : BitVec 256 → Bool) (f : Tile → TileCtl) : State :=
  let sl := t.slice.toNat
  let ti := t.tile.toNat
  let s := s.runSlice sl
  let x := s.tile sl ti
  if ¬ s.atIssue sl ti then s
  else match x.breach (isGraver ti) with
    | some (k, cause) => s.bundleAbort sl ti k cause
    | none =>
      if spelled x.word ∧ (Machine.slotsOf (isGraver ti) x.word).all x.started.contains then
        (s.setTile sl ti { x with ctl := some (f x) }).runSlice sl
      else s

/-- NOP with a WAIT (R104). -/
def execNop (t : TileRef) (wait : BitVec 12) (bits : List BitErrors) (s : State) : StepOut :=
  .next (s.control t (spellsNop wait) fun _ => ⟨wait.toNat, none, none, false, bits⟩)

/-- SETAR (R103, R104). -/
def execSetar (t : TileRef) (wait : BitVec 12) (ar : BitVec 4) (value stride : BitVec 20) (zero : BitVec 4)
    (bits : List BitErrors) (s : State) : StepOut :=
  .next (s.control t (spellsSetar wait ar value stride zero) fun _ =>
    ⟨wait.toNat, some (ar.toNat, ⟨value.toNat, stride.toNat⟩), none, false, bits⟩)

/-- LOOP (R104, R105): a LOOP that its own loop's return has reached opens no loop. -/
def execLoop (t : TileRef) (wait : BitVec 12) (count : BitVec 16) (halfLen : BitVec 4) (zero : BitVec 28)
    (bits : List BitErrors) (s : State) : StepOut :=
  .next (s.control t (spellsLoop wait count halfLen zero) fun x =>
    ⟨wait.toNat, none, if x.returned then none else some ⟨x.index, 2 * (halfLen.toNat + 1), count.toNat⟩, false, bits⟩)

/-- END (R104). -/
def execTileEnd (t : TileRef) (wait : BitVec 12) (bits : List BitErrors) (s : State) : StepOut :=
  .next (s.control t (spellsEnd wait) fun _ => ⟨wait.toNat, none, none, true, bits⟩)

/-! ### Matrix tile slots -/

/-- MMA (R66, R109 to R113): its operand group must match the mode of its bank. -/
def execMma (t : TileRef) (f : MmaSlot) (s : State) : StepOut :=
  .next (s.issueSlot t 1 (spellsMma f) fun s sl ti x =>
    if x.intMode.contains f.bank.toNat ≠ decide (f.fmtA = 8) then s.operationAbort sl ti 1 Bf.modeMismatch
    else s.startOp sl ti 1 (mmaTicks f) (mmaTicks f + 5)
      (.mma f (x.ar f.arA.toNat).value (x.ar f.arB.toNat).value .empty .empty) (postIf f.postA f.arA ++ postIf f.postB f.arB))

/-- CLEAR (R74, R115). -/
def execClear (t : TileRef) (f : AccSlot) (s : State) : StepOut :=
  .next (s.issueSlot t 2 (spellsAcc 1 f) fun s sl ti _ =>
    s.startOp sl ti 2 1 1 (.clear f.bank.toNat (decide (f.fmt = 9))) [])

/-- LOAD (R74, R115). -/
def execLoad (t : TileRef) (f : AccSlot) (s : State) : StepOut :=
  .next (s.issueSlot t 2 (spellsAcc 2 f) fun s sl ti x =>
    s.startOp sl ti 2 (accTicks f.fmt.toNat) (accTicks f.fmt.toNat + 7)
      (.load f.bank.toNat f.fmt.toNat (x.ar f.ar.toNat).value .empty) (postIf f.post f.ar))

/-- Whether a STORE's format suits its bank's mode (R114). -/
def storeSuits (int : Bool) (fmt : Nat) : Bool := if int then decide (fmt = 0 ∨ fmt = 9) else decide (fmt ≤ 4)

/-- STORE (R74, R75, R114, R115). -/
def execStore (t : TileRef) (f : AccSlot) (s : State) : StepOut :=
  .next (s.issueSlot t 2 (spellsAcc 3 f) fun s sl ti x =>
    if storeSuits (x.intMode.contains f.bank.toNat) f.fmt.toNat then
      s.startOp sl ti 2 (accTicks f.fmt.toNat) (accTicks f.fmt.toNat + 7)
        (.store f.bank.toNat f.fmt.toNat f.sat (x.ar f.ar.toNat).value .empty) (postIf f.post f.ar)
    else s.operationAbort sl ti 2 Bf.modeMismatch)

/-! ### Transfers (R117) -/

/-- The slot of XFER in a tile (R96). -/
def xferSlot (ti : Nat) : Nat := if isGraver ti then 4 else 3
/-- Start a transfer, unless it leaves the cluster store. -/
def State.startXfer (s : State) (t : TileRef) (op : Nat) (f : XferSlot) (kind : Nat → Nat → Nat → OpKind) : State :=
  s.issueSlot t (xferSlot t.tile.toNat) (fun _ b => spellsXfer op f b) fun s sl ti x =>
    let c := (x.ar f.arC.toNat).value
    if c + f.len.toNat > csLines then s.operationAbort sl ti (xferSlot ti) Bf.addrRange
    else s.startOp sl ti (xferSlot ti) f.len.toNat (f.len.toNat + 7)
      (kind ((x.ar f.arT.toNat).value / 4 * 4) c f.len.toNat) (postIf f.postT f.arT ++ postIf f.postC f.arC)

/-- TO_CS: tile SRAM to cluster store (R117). -/
def execToCs (t : TileRef) (f : XferSlot) (s : State) : StepOut :=
  .next (s.startXfer t 1 f fun a c n => .toCs a c n .empty)
/-- FROM_CS: cluster store to tile SRAM (R117). -/
def execFromCs (t : TileRef) (f : XferSlot) (s : State) : StepOut :=
  .next (s.startXfer t 2 f fun a c n => .fromCs a c n .empty)

end Sys2Proof.Machine
end

