-- ==== Sys2Proof/Machine/Bundles.lean ====
section
/-! DEFINITION. Bundles as the schedule loader reads them: the checks of R129 over a range of bundles, and the ticks and bank
accesses of a tile's part of a segment (R99 to R106, R128). -/

namespace Sys2Proof.Machine

/-! ### A tile's part of a segment -/

/-- The operations of a bundle that reach SRAM or the cluster store, with the address registers that they post. -/
def bundleOps (ti idx tick : Nat) (ars : List AddrReg) (b : BitVec 256) : List TileOp × List Nat :=
  let v := b.toNat
  let ar := fun (r : BitVec 4) => (ars.getD r.toNat ⟨0, 0⟩).value
  let x := xferOf b
  let n := x.len.toNat
  let xop := bitsOf v 252 4
  let xfer :=
    if xop = 0 ∨ csLines < ar x.arC + n then ([], [])
    else
      let t := ar x.arT / 4 * 4
      ([(⟨xferSlot ti, idx, tick, n, tick + n + 7,
          if xop = 1 then .toCs t (ar x.arC) n .empty else .fromCs t (ar x.arC) n .empty⟩ : TileOp)],
        postIf x.postT x.arT ++ postIf x.postC x.arC)
  if isGraver ti then
    let l := ldstOf b
    let op := bitsOf v 190 2
    let ld := if op = 0 then ([], []) else
      ([(⟨3, idx, tick, 2, tick + 7, if op = 1 then .ld 0 (ar l.ar) .empty else .st (ar l.ar) 0⟩ : TileOp)], postIf l.post l.ar)
    (xfer.1 ++ ld.1, xfer.2 ++ ld.2)
  else
    let m := mmaOf b
    let mma := if bitsOf v 124 4 = 0 then ([], []) else
      ([(⟨1, idx, tick, mmaTicks m, tick + mmaTicks m + 5, .mma m (ar m.arA) (ar m.arB) .empty .empty⟩ : TileOp)],
        postIf m.postA m.arA ++ postIf m.postB m.arB)
    let a := accOf b
    let op := bitsOf v 188 4
    let k := accTicks a.fmt.toNat
    let acc := if op < 2 then ([], []) else
      ([(⟨2, idx, tick, k, tick + k + 7,
          if op = 2 then .load 0 a.fmt.toNat (ar a.ar) .empty else .store 0 a.fmt.toNat false (ar a.ar) .empty⟩ : TileOp)],
        postIf a.post a.ar)
    (xfer.1 ++ mma.1 ++ acc.1, xfer.2 ++ mma.2 ++ acc.2)

/-- A tile's part of a segment: the tick of its END, its operations and the lines that it fetches. -/
structure TilePlan where
  last : Nat
  ops : List TileOp
  fetches : List (Nat × Nat)

/-- Follow a tile's bundles from one to its END; `none` where a bundle is missing or a loop breaks R105. -/
def planTile (ti : Nat) (bundle : Nat → Option (BitVec 256)) :
    Nat → Nat → Nat → List AddrReg → List LoopFrame → Bool → List Nat → TilePlan → Option TilePlan
  | 0, _, _, _, _, _, _, _ => none
  | fuel + 1, idx, tick, ars, loops, returned, buf, acc =>
    match bundle idx with
    | none => none
    | some b =>
      let ops := bundleOps ti idx tick ars b
      let fetch := if idx % 2 = 0 ∧ ¬ buf.contains idx then [(tick, (idx / 2 + 2) % sramLines ti)] else []
      let acc : TilePlan := ⟨tick, acc.ops ++ ops.1, acc.fetches ++ fetch⟩
      let op := ctlOp b
      if op = 3 then if loops = [] then some acc else none
      else
        let count := bitsOf b.toNat 32 16
        let len := 2 * (bitsOf b.toNat 28 4 + 1)
        let acts := decide (op = 2) && !returned
        let t : Tile := { Tile.reset with index := idx, loops := loops }
        if acts ∧ ¬ t.loopOk count len then none
        else
          let loops := if acts then ⟨idx, len, count⟩ :: loops else loops
          let next := loopStep idx loops
          let buf := if loops = [] ∨ next.1 = [] then [] else if buf.contains idx then buf else idx :: buf
          let ars := (withIdx ars).map fun r =>
            if op = 1 ∧ r.1 = bitsOf b.toNat 44 4 then ⟨bitsOf b.toNat 24 20, bitsOf b.toNat 4 20⟩
            else { r.2 with value := (r.2.value + ops.2.count r.1 * r.2.stride) % 2 ^ 20 }
          planTile ti bundle fuel next.2.1 (tick + ctlWait b + 1) ars next.1 next.2.2 buf acc

/-- The plan of a tile from its first bundle. -/
def planFrom (ti : Nat) (bundle : Nat → Option (BitVec 256)) (first : Nat) : Option TilePlan :=
  planTile ti bundle 16777217 first 0 (List.replicate 16 ⟨0, 0⟩) [] false [] ⟨0, [], []⟩

/-- Bank accesses of a plan, as (endpoint, tick, bank): the tile's own SRAM or the cluster store (R61, R102). -/
def TilePlan.accesses (p : TilePlan) (ti : Nat) : List (Nat × Nat × Nat) :=
  (p.fetches.map fun f => (ti, f.1, f.2 % 16)) ++
  p.ops.flatMap fun o => (List.range (o.finish - o.t0 + 1)).flatMap fun j =>
    (o.accesses ti 0 j).map fun a => (if a.store then 8 else ti, o.t0 + j, a.bank)

end Sys2Proof.Machine
end

