-- ==== Sys2Proof/Machine/Loader.lean ====
section
/-! DEFINITION. The schedule loader: reading an image and the checks of R137 (R129, R132 to R147, R154, R157 to R160, R182 to
R184, R243 to R245, R344, R413). -/

namespace Sys2Proof.Machine

/-! ### Reading (R132, R134, R135) -/

/-- A field of `n` bytes at an offset of an image. -/
abbrev Rd := Nat → Nat → Nat

/-- Fields of an object's bytes through a partition's tables. -/
def State.objRd (s : State) (p va : Nat) : Rd := fun off n =>
  let line := fun k => ((s.readVa p (va + 64 * k)).getD 0).toNat
  (line (off / 64) + line (off / 64 + 1) * 2 ^ 512) / 2 ^ (8 * (off % 64)) % 2 ^ (8 * n)
/-- Whether every page of a range is mapped with X (R132). -/
def State.mappedX (s : State) (p va bytes : Nat) : Bool :=
  (regionsOf 65536 va bytes).all fun a => match s.transOf p a with
    | some t => t.x
    | none => false

/-- A section: type, offset and length. -/
abbrev Section := Nat × Nat × Nat
/-- The sections of an image. -/
def sectionsOf (rd : Rd) : List Section :=
  (List.range (rd 0x14 2)).map fun k => (rd (0x40 + 16 * k) 2, rd (0x48 + 16 * k) 4, rd (0x4C + 16 * k) 4)
/-- The section of a type. -/
def sectionOf (l : List Section) (t : Nat) : Option (Nat × Nat) := (l.find? fun e => e.1 = t).map Prod.snd
/-- Offsets of the records of a section. -/
def recordsOf (l : List Section) (t size : Nat) : List Nat :=
  match sectionOf l t with
  | some (off, len) => (List.range (len / size)).map fun k => off + size * k
  | none => []

/-- The header and the section table (R134, R135). -/
def headerOk (rd : Rd) (objBytes : Nat) (alloy : Bool) : Bool :=
  let secs := sectionsOf rd
  let bytes := rd 8 4
  let len := fun t => ((sectionOf secs t).map Prod.snd).getD 0
  decide (rd 0 4 = 0x5358494D ∧ rd 4 2 = 1 ∧ rd 6 2 / 2 = 0 ∧ rd 0x11 1 = 0 ∧ rd 0x16 42 = 0) &&
  decide (rd 6 2 = if alloy then 1 else 0) &&
  decide (bytes % 64 = 0 ∧ 0x40 + 16 * rd 0x14 2 ≤ bytes ∧ bytes ≤ objBytes) &&
  decide (1 ≤ rd 0x10 1 ∧ rd 0x10 1 ≤ 64 ∧ 1 ≤ rd 0x12 2 ∧ rd 0x12 2 ≤ 4096 ∧ 1 ≤ rd 0x14 2 ∧ rd 0x14 2 ≤ 16) &&
  ((List.range (rd 0x14 2)).all fun k => decide (rd (0x42 + 16 * k) 6 = 0)) &&
  (secs.all fun e => decide (1 ≤ e.1 ∧ e.1 ≤ 9 ∧ e.2.1 % 64 = 0 ∧ 0x40 + 16 * rd 0x14 2 ≤ e.2.1 ∧ e.2.1 + e.2.2 ≤ bytes)) &&
  decide ((secs.map Prod.fst).Nodup) &&
  ((withIdx secs).all fun a => (withIdx secs).all fun b =>
    decide (a.1 = b.1) || !rangesMeet a.2.2.1 a.2.2.2 b.2.2.1 b.2.2.2) &&
  ([1, 2, 3, 4, 6, 7].all fun t => (sectionOf secs t).isSome) && (!alloy || (sectionOf secs 9).isSome) &&
  decide (len 1 = 2 * rd 0x10 1 ∧ len 2 = 32 * rd 0x12 2) &&
  decide (len 3 % 16 = 0 ∧ len 5 % 16 = 0 ∧ len 7 % 16 = 0 ∧ len 8 % 64 = 0 ∧ len 9 % 32 = 0)

/-- Node records, one after another (R143): node, entry count and the offset of its entries. -/
def nodesFrom (rd : Rd) : Nat → Nat → Nat → List (Nat × Nat × Nat)
  | 0, _, _ => []
  | fuel + 1, off, stop =>
    if stop < off + 16 then []
    else (rd off 1, rd (off + 4) 4, off + 16) :: nodesFrom rd fuel (off + 16 + 16 * rd (off + 4) 4) stop
/-- The node records of an image. -/
def nodesOf (rd : Rd) (secs : List Section) : List (Nat × Nat × Nat) :=
  match sectionOf secs 4 with
  | some (off, len) => nodesFrom rd 66 off (off + len)
  | none => []
/-- Stream and program records of the STREAMS section: offsets and whether each is a program (R182, R243). -/
def streamRecs (rd : Rd) : Nat → Nat → Nat → List (Nat × Nat)
  | 0, _, _ => []
  | fuel + 1, off, stop =>
    if stop ≤ off then []
    else if rd off 1 = 0x50 then (off, 0x50) :: streamRecs rd fuel (off + 16) stop
    else if rd off 1 = 0x53 then (off, 0x53) :: streamRecs rd fuel (off + 64) stop
    else [(off, 0)]
/-- The records of the STREAMS section. -/
def streamsOf (rd : Rd) (secs : List Section) : List (Nat × Nat) :=
  match sectionOf secs 6 with
  | some (off, len) => streamRecs rd len off (off + len)
  | none => []

/-- The content of an image, as its sections give it. -/
def readImage (rd : Rd) : ImageContent :=
  let secs := sectionsOf rd
  let sliceCount := rd 0x10 1
  let recs := streamsOf rd secs
  let groups := (recordsOf secs 8 64).map fun o => (BitVec.ofNat 512 (rd o 64))
  { alloy := decide (rd 6 2 % 2 = 1)
    bytes := rd 8 4
    sliceMap := (recordsOf secs 1 2).map fun o => rd o 2 / 256 * 16 + rd o 2 % 256
    segments := (recordsOf secs 2 32).map fun o =>
      let load := decide (rd o 1 = 2)
      { load := load, wcet := rd (o + 4) 4
        hops := (List.range (rd (o + 2) 2)).map fun k =>
          let d := rd (o + 8) 4 + 8 * k
          (rd d 1, rd (d + 1) 3, rd (d + 4) 2)
        tiles := if load then [] else (List.range (8 * sliceCount)).map fun k =>
          let v := rd (rd (o + 0xC) 4 + 4 * k) 4
          if v = 0xFFFFFFFF then none else some v
        pageBudget := rd (o + 0x10) 2, allocCalls := rd (o + 0x12) 1, openFirst := rd (o + 0x14) 2
        openCount := rd (o + 0x16) 2, linkFirst := rd (o + 0x18) 4, linkCount := rd (o + 0x1C) 4 }
    bundles := (recordsOf secs 3 16).map fun o => ⟨rd o 1, rd (o + 1) 1, rd (o + 4) 4, rd (o + 8) 4, rd (o + 0xC) 4⟩
    hops := (nodesOf rd secs).map fun n => (n.1, (List.range n.2.1).map fun k => BitVec.ofNat 128 (rd (n.2.2 + 16 * k) 16))
    windows := (recordsOf secs 5 16).map fun o => (rd o 2, BitVec.ofNat 64 (rd (o + 8) 8))
    streams := (recs.filter fun e => e.2 = 0x53).map fun e => BitVec.ofNat 512 (rd e.1 64)
    programs := (recs.filter fun e => e.2 = 0x50).map fun e =>
      (rd (e.1 + 1) 1, rd (e.1 + 2) 2, (List.range (rd (e.1 + 4) 4)).map fun k =>
        BitVec.ofNat 512 (rd (rd (e.1 + 8) 4 + 64 * k) 64))
    residency := (recordsOf secs 7 16).map fun o => ⟨rd o 1, rd (o + 1) 1, decide (rd (o + 2) 1 = 1), rd (o + 4) 4, rd (o + 8) 4⟩
    openGroups := groups
    orders := groups.map fun g => if ogCopy g then 0 else BitVec.ofNat 512 (rd (recField g 0x28 4) 64)
    linkSlots := (recordsOf secs 9 32).map fun o => BitVec.ofNat 256 (rd o 32) }

/-! ### Order 1: layout, ranges and zero fields (IMG_FORMAT) -/

/-- A hop entry (R144, R145). -/
def hopOk (node : Nat) (e : BitVec 128) : Bool :=
  let v := e.toNat
  let rep := hopRepeat e
  let ep := fun code addr =>
    decide (code < 8) || (decide (code = 8) && decide (hopW e % 4 = 0)) || decide (code = 9 ∧ addr < 64)
  decide (v % 256 = 0) && (if rep = 0 then decide (hopPeriod e = 0) else decide (hopLenM1 e + 1 ≤ hopPeriod e)) &&
  if node = hubNode then
    decide (hopInPt e < 24 ∧ hopOutPt e < 24 ∧ hopInPt e ≠ hopOutPt e ∧ bitsOf v 12 42 = 0)
  else
    let l := decide (hopIn e = 4)
    let toL := Nat.testBit (hopOut e) 4
    decide (hopIn e ≤ 4 ∧ hopOut e ≠ 0) && (l || !Nat.testBit (hopOut e) (hopIn e)) &&
    (if l then ep (hopSrcEp e) (hopSrc e) else decide (hopSrcEp e = 0 ∧ hopSrc e = 0)) &&
    (if toL then ep (hopDstEp e) (hopDst e) else decide (hopDstEp e = 0 ∧ hopDst e = 0))

/-- A stream record (R243). -/
def streamOk (im : ImageContent) (r : BitVec 512) : Bool :=
  let f := recField r
  decide (f 1 1 < im.sliceMap.length ∧ f 2 1 < 64 ∧ f 3 1 < 2 ∧ f 4 2 < im.segments.length ∧ f 6 1 < 16) &&
  decide (srPage r ≤ 2 ∧ srPlace r ≤ 2 ∧ srPage r ≤ srPlace r ∧ 1 ≤ srMask r ∧ srMask r < 4096 ∧ srRot r < 12) &&
  decide (f 0xB 1 < 16 ∨ f 0xB 1 = 0xFF) && decide (1 ≤ srBudget r ∧ srBudget r ≤ 4096 ∧ f 0x10 8 % 64 = 0) &&
  decide (1 ≤ srRowLines r ∧ srRowLines r ≤ 65536 ∧ 1 ≤ srRows r ∧ srRows r ≤ 16777216 ∧ f 0x20 8 % 64 = 0) &&
  decide (1 ≤ srLpu r ∧ srLpu r ≤ 91 ∧ f 0x2D 19 = 0) && decide (srSegment r ≠ 0 ∨ f 0xB 1 = 0xFF)

/-- An open access group (R413). -/
def groupOk (im : ImageContent) (r : BitVec 512) (order : Line) : Bool :=
  let f := recField r
  let arg := fun o => decide (f o 1 < 16 ∨ f o 1 = 0xFF)
  decide (ogClass r < 16 ∧ 1 ≤ ogChannels r ∧ ogChannels r ≤ 768 ∧ f 4 2 < im.segments.length ∧ ogStart r ≤ ogNeed r) &&
  decide (f 0x14 4 = 0 ∧ f 0x2C 20 = 0) &&
  if f 0 1 = 1 then arg 6 && arg 7 && decide (f 0x18 8 % 64 = 0 ∧ f 0x20 8 % 64 = 0 ∧ f 0x28 4 = 0)
  else if f 0 1 = 2 then
    decide (f 6 2 = 0 ∧ f 0x18 16 = 0) && descLayoutOk order && [3, 4, 7, 8].contains (descOp order) &&
      !descFlag order 5 && decide (descStart order = 0 ∧ descEnd order = 0)
  else false

/-- A record of the LINK_SLOTS section (R344). -/
def linkOk (r : BitVec 256) : Bool :=
  let f := recField r
  match f 0 1 with
  | 1 | 2 => decide (f 1 1 < 6 ∧ f 2 1 < 4 ∧ f 3 1 = 0 ∧ f 6 2 = 0 ∧ 1 ≤ f 0x12 1 ∧ f 0x12 1 ≤ 16 ∧ f 0x13 13 = 0)
  | 3 => decide (f 1 3 = 0 ∧ f 6 2 = 0 ∧ f 0xE 18 = 0)
  | 4 => decide (f 1 1 < 2 ∧ f 2 2 = 0 ∧ f 6 26 = 0)
  | _ => false

/-- The bundle of an index of a tile, from the BUNDLES ranges. -/
def imageBundle (rd : Rd) (im : ImageContent) (slice tile idx : Nat) : Option (BitVec 256) :=
  (im.bundles.find? fun b => decide (b.slice = slice ∧ b.tile = tile ∧ b.first ≤ idx ∧ idx < b.first + b.count)).map
    fun b => BitVec.ofNat 256 (rd (b.offset + 32 * (idx - b.first)) 32)

/-- The tiles that a segment runs: image slice, tile and first bundle. -/
def runTiles (sg : Segment) : List (Nat × Nat × Nat) :=
  (withIdx sg.tiles).filterMap fun e => e.2.map fun first => (e.1 / 8, e.1 % 8, first)
/-- The plans of a segment's tiles. -/
def segPlans (rd : Rd) (im : ImageContent) (sg : Segment) : List (Nat × Nat × Option TilePlan) :=
  (runTiles sg).map fun t => (t.1, t.2.1, planFrom t.2.1 (imageBundle rd im t.1 t.2.1) t.2.2)

/-- The hop entries that a segment runs on each node: node and entry. -/
def segHops (im : ImageContent) (sg : Segment) : List (Nat × BitVec 128) :=
  sg.hops.flatMap fun h => match im.hops.find? fun n => n.1 = h.1 with
    | some n => ((n.2.drop h.2.1).take h.2.2).map fun e => (h.1, e)
    | none => []
/-- The flow ticks of an entry, with their numbers. -/
def flowTicks (e : BitVec 128) : List (Nat × Nat) :=
  (List.range (hopRepeat e + 1)).flatMap fun r => (List.range (hopLenM1 e + 1)).map fun i =>
    (r * (hopLenM1 e + 1) + i, hopTick e r i)
/-- The last flow tick of an entry. -/
def lastFlow (e : BitVec 128) : Nat := hopTick e (hopRepeat e) (hopLenM1 e)

/-- The span of a segment (R138, R185): one more than its latest tick of activity, and 0 where it has none (DEDUCED from the
least WCET_TICKS, 48). -/
def spanOf (rd : Rd) (im : ImageContent) (k : Nat) (sg : Segment) : Nat :=
  let tiles := (segPlans rd im sg).map fun t => (t.2.2.map TilePlan.last).getD 0
  let hops := ((segHops im sg).filter fun e => decide (e.1 ≠ hubNode) && Nat.testBit (hopOut e.2) 4).map fun e => lastFlow e.2 + 2
  let descs := (im.programs.filter fun g => g.2.1 = k).flatMap fun g => g.2.2.map fun d => descEnd d - 1
  ((tiles ++ hops ++ descs).map (· + 1)).foldl Nat.max 0

/-- A segment (R138, R139). -/
def segmentOk (rd : Rd) (im : ImageContent) (o k : Nat) (sg : Segment) : Bool :=
  let dir := rd (o + 8) 4
  decide (rd o 1 = if k = 0 then 2 else 1) && decide (rd (o + 1) 1 = 0 ∧ rd (o + 0x13) 1 = 0) &&
  decide (48 ≤ sg.wcet ∧ sg.wcet ≤ 16777264 ∧ sg.hops.length ≤ 65) &&
  decide (dir % 8 = 0 ∧ dir + 8 * sg.hops.length ≤ im.bytes) &&
  (if sg.load then decide (rd (o + 0xC) 4 = 0) else decide (rd (o + 0xC) 4 + 4 * sg.tiles.length ≤ im.bytes)) &&
  (sg.hops.all fun h => decide (1 ≤ h.2.2 ∧ h.2.2 ≤ 4096 ∧ h.2.1 / 4096 = (h.2.1 + h.2.2 - 1) / 4096) &&
    im.hops.any fun n => decide (n.1 = h.1 ∧ h.2.1 + h.2.2 ≤ n.2.length)) &&
  ((List.range sg.hops.length).all fun j => decide (rd (dir + 8 * j + 6) 2 = 0)) &&
  decide ((sg.hops.map Prod.fst).Nodup) &&
  ((runTiles sg).all fun t => decide (t.2.2 % 2 = 0) && (imageBundle rd im t.1 t.2.1 t.2.2).isSome) &&
  decide (sg.openFirst + sg.openCount ≤ im.openGroups.length ∧ sg.linkFirst + sg.linkCount ≤ im.linkSlots.length) &&
  (((im.openGroups.drop sg.openFirst).take sg.openCount).all fun g => decide (recField g 4 2 = k)) &&
  (((im.linkSlots.drop sg.linkFirst).take sg.linkCount).all fun r => decide (recField r 0 1 = 4)) &&
  decide (spanOf rd im k sg ≤ 16777216 ∧ spanOf rd im k sg + 48 ≤ sg.wcet)

/-- The checks of order 1. -/
def formatOk (rd : Rd) (im : ImageContent) (objBytes : Nat) (alloy : Bool) : Bool :=
  let secs := sectionsOf rd
  let nodes := nodesOf rd secs
  headerOk rd objBytes alloy &&
  ((recordsOf secs 1 2).all fun o => decide (rd o 2 % 256 < 16 ∧ rd o 2 / 256 < 4)) &&
  -- bundles
  ((withIdx (recordsOf secs 3 16)).all fun e => decide (rd (e.2 + 2) 2 = 0)) &&
  (im.bundles.all fun b => decide (b.slice < im.sliceMap.length ∧ b.tile < 8 ∧ b.first + b.count ≤ 2 * sramLines b.tile ∧
    b.offset + 32 * b.count ≤ im.bytes)) &&
  ((withIdx im.bundles).all fun a => (withIdx im.bundles).all fun b => decide (a.1 = b.1) ||
    !(decide (a.2.slice = b.2.slice ∧ a.2.tile = b.2.tile) && rangesMeet a.2.first a.2.count b.2.first b.2.count)) &&
  -- nodes
  (nodes.all fun n => decide (n.1 ≤ 64 ∧ rd (n.2.2 - 15) 3 = 0 ∧ rd (n.2.2 - 8) 8 = 0 ∧ n.2.1 ≤ 8 * 4096)) &&
  keysRise nodes && (match sectionOf secs 4 with
    | some (off, len) => decide ((nodes.map fun n => 16 + 16 * n.2.1).sum = len ∧ off + len ≤ im.bytes)
    | none => false) &&
  (im.hops.all fun n => n.2.all fun e => hopOk n.1 e) &&
  -- streams and programs
  ((streamsOf rd secs).all fun e => decide (e.2 ≠ 0) && (decide (e.2 = 0x53) ||
    decide (rd (e.1 + 1) 1 < 24 ∧ rd (e.1 + 2) 2 < im.segments.length ∧ 1 ≤ rd (e.1 + 4) 4 ∧ rd (e.1 + 8) 4 % 64 = 0 ∧
      rd (e.1 + 8) 4 + 64 * rd (e.1 + 4) 4 ≤ im.bytes ∧ rd (e.1 + 0xC) 4 = 0))) &&
  (im.streams.all (streamOk im)) &&
  (im.programs.all fun g => (g.2.2.all fun d => descLayoutOk d) &&
    ((g.2.2.zip (g.2.2.drop 1)).all fun d => decide (descStart d.1 ≤ descStart d.2))) &&
  -- residency and windows
  ((recordsOf secs 7 16).all fun o => decide (rd (o + 2) 1 = 1 ∨ rd (o + 2) 1 = 2) && decide (rd (o + 3) 1 = 0 ∧ rd (o + 0xC) 4 = 0)) &&
  (im.residency.all fun r => decide (r.slice < im.sliceMap.length ∧ r.endpoint ≤ 8 ∧
    r.first + r.lines ≤ if r.endpoint = 8 then csLines else sramLines r.endpoint)) &&
  ((recordsOf secs 5 16).all fun o => decide (rd o 2 < 768 ∧ rd (o + 2) 6 = 0)) &&
  -- groups, link slots and segments
  ((im.openGroups.zip im.orders).all fun g => groupOk im g.1 g.2) && im.linkSlots.all linkOk &&
  ((recordsOf secs 2 32).zip (withIdx im.segments)).all fun e => segmentOk rd im e.1 e.2.1 e.2.2

/-! ### Orders 2 to 5 -/

/-- The words of a range of bundles, by index. -/
def rangeWords (rd : Rd) (b : BundleRange) : List (Nat × BitVec 256) :=
  (List.range b.count).map fun k => (b.first + k, BitVec.ofNat 256 (rd (b.offset + 32 * k) 32))
/-- Order 2: R129 on every bundle of every range, reached or not, and the END of every tile's part (IMG_ENCODING). -/
def encodingOk (rd : Rd) (im : ImageContent) : Bool :=
  (im.bundles.all fun b => let ws := rangeWords rd b
    (ws.all fun w => bundleOk (isGraver b.tile) w.2) && loopsOk ws) &&
  im.segments.all fun sg => (segPlans rd im sg).all fun t => t.2.2.isSome

/-- Order 3: R136 and the placement of planish descriptors (IMG_PLACEMENT). -/
def State.placementOk (s : State) (p : Nat) (im : ImageContent) : Bool :=
  decide (sortNats im.sliceMap = s.slicesOf p ∧ im.sliceMap.length = (s.slicesOf p).length) &&
  ((withIdx im.residency).all fun a => (withIdx im.residency).all fun b => decide (a.1 = b.1) ||
    !(decide (a.2.slice = b.2.slice ∧ a.2.endpoint = b.2.endpoint) &&
      rangesMeet a.2.first a.2.lines b.2.first b.2.lines)) &&
  (im.bundles.all fun b => im.residency.any fun r => r.resident && decide (r.slice = b.slice ∧ r.endpoint = b.tile ∧
    r.first ≤ b.first / 2 ∧ (b.first + b.count + 1) / 2 ≤ r.first + r.lines)) &&
  (im.windows.all fun w => (s.channelsOf p).contains w.1) &&
  (im.programs.all fun g => !Nat.testBit (s.get Reg.astDetailFailedEngines 0) g.1 &&
    g.2.2.all fun d => s.descPlaced p g.1 d false) &&
  (im.openGroups.zip im.orders).all fun g => ogCopy g.1 || s.descPlaced p (orderEngine g.2) g.2 true

/-- Order 4: no node is marked faulty (IMG_FAULTY). -/
def State.nodesSound (s : State) (im : ImageContent) : Bool :=
  im.hops.all fun n => decide (n.1 = hubNode) || !(s.flag Reg.rtrStsFaultyAssay n.1 || s.flag Reg.rtrStsFaultyRun n.1)

/-- Order 5: every link direction and local port used is owned by the partition (IMG_PORT). -/
def State.portsOwned (s : State) (p : Nat) (im : ImageContent) : Bool :=
  (im.hops.all fun n => n.2.all fun e =>
    if n.1 = hubNode then
      decide (s.pointOwner (hopInPt e) false = some p ∧ s.pointOwner (hopOutPt e) true = some p)
    else
      (if hopIn e = 4 then decide (s.sliceOwner n.1 = some p) else decide (s.dirOwner n.1 (hopIn e) false = some p)) &&
      ((List.range 4).all fun d => !Nat.testBit (hopOut e) d || decide (s.dirOwner n.1 d true = some p)) &&
      (!Nat.testBit (hopOut e) 4 || decide (s.sliceOwner n.1 = some p))) &&
  im.linkSlots.all fun r =>
    let kind := recField r 0 1
    decide (kind ≠ 1 ∧ kind ≠ 2) || !(s.slotsOf (recField r 1 1) (kind - 1) p).isEmpty

/-! ### Order 6: routes and banks (IMG_ROUTE) -/

/-- Entries of a node in a segment that fire in a tick. -/
def firingAt (hops : List (Nat × BitVec 128)) (node tick : Nat) : List (BitVec 128) :=
  (hops.filter fun e => decide (e.1 = node) && hopFires e.2 tick).map Prod.snd
/-- The nodes that a node's outputs lead to, with the input, and the delay from presentation. -/
def outputsOf (node : Nat) (e : BitVec 128) : List (FarEnd × Nat) :=
  if node = hubNode then [(hubFar (hopOutPt e), 4)]
  else ((List.range 4).filter fun d => Nat.testBit (hopOut e) d).map fun d => (farEnd node d, 2)
/-- The width limit of a direction: 8 units on a bridge or a hub attachment (R151). -/
def edgeWidth (far : FarEnd) : Nat :=
  match far with
  | .node _ _ d => if d = 6 then 8 else 16
  | .link _ _ => 16
/-- What feeds an input of a node, as a direction. -/
def inputFar (node : Nat) (e : BitVec 128) : Option FarEnd :=
  if node = hubNode then some (hubFar (hopInPt e)) else if hopIn e = 4 then none else some (farEnd node (hopIn e))

/-- The flow of one tick at a node: outputs and inputs used once, at most 16 units each way through L, widths kept, and every
presentation met (R146, R147). -/
def routeTickOk (im : ImageContent) (hops : List (Nat × BitVec 128)) (node : Nat) (e : BitVec 128) (tick : Nat) : Bool :=
  let at_ := firingAt hops node tick
  let one := fun (f : BitVec 128 → Bool) => decide ((at_.filter f).length ≤ 1)
  let inputs := if node = hubNode then one fun x => decide (hopInPt x = hopInPt e)
    else decide (hopIn e = 4) || one fun x => decide (hopIn x = hopIn e)
  let outputs := if node = hubNode then one fun x => decide (hopOutPt x = hopOutPt e)
    else (List.range 4).all fun d => !Nat.testBit (hopOut e) d || one fun x => Nat.testBit (hopOut x) d
  let local_ := decide (node = hubNode) ||
    (decide (((at_.filter fun x => decide (hopIn x = 4)).map hopW).sum ≤ 16) &&
      decide (((at_.filter fun x => Nat.testBit (hopOut x) 4).map hopW).sum ≤ 16))
  let width := ((outputsOf node e).all fun o => decide (hopW e ≤ edgeWidth o.1)) &&
    match inputFar node e with
    | some f => decide (hopW e ≤ edgeWidth f)
    | none => true
  let met := (outputsOf node e).all fun o => match o.1 with
    | .link _ _ => true
    | .node m port d => !(im.hops.any fun n => decide (n.1 = m)) ||
        (firingAt hops m (tick + o.2 + d)).any fun x => decide (hopPort m x = port ∧ hopW x = hopW e)
  inputs && outputs && local_ && width && met

/-- The bank accesses of the local port, as (slice, endpoint, tick, bank). -/
def portAccesses (hops : List (Nat × BitVec 128)) : List (Nat × Nat × Nat × Nat) :=
  (hops.filter fun e => decide (e.1 ≠ hubNode)).flatMap fun e => (flowTicks e.2).flatMap fun t =>
    let at_ : Nat → Nat → Nat → List (Nat × Nat × Nat × Nat) := fun ep addr tick => if ep ≤ 8 then
      (localLines ep addr t.1 (hopW e.2)).map fun l => (e.1, ep, tick, if ep = 8 then l % 24 else l % 16) else []
    (if hopIn e.2 = 4 then at_ (hopSrcEp e.2) (hopSrc e.2) t.2 else []) ++
      if Nat.testBit (hopOut e.2) 4 then at_ (hopDstEp e.2) (hopDst e.2) (t.2 + 2) else []

/-- Whether a RECEIVE record's flow ticks are each taken by an entry (R344). -/
def receiveTaken (hops : List (Nat × BitVec 128)) (r : BitVec 256) : Bool :=
  let port := recField r 1 1
  let point := recField r 2 1
  (List.range (recField r 0xE 2 + 1)).all fun k => (List.range (recField r 0xC 2 + 1)).all fun i =>
    hops.any fun e =>
      (if e.1 = hubNode then decide (hubFar (hopInPt e.2) = .link port point)
       else decide (hopIn e.2 < 4) && decide (farEnd e.1 (hopIn e.2) = .link port point)) &&
      hopFires e.2 (recField r 8 4 + k * recField r 0x10 2 + i)

/-- Order 6. -/
def routesOk (rd : Rd) (im : ImageContent) : Bool :=
  (withIdx im.segments).all fun ks =>
    let hops := segHops im ks.2
    (hops.all fun e => (flowTicks e.2).all fun t => routeTickOk im hops e.1 e.2 t.2) &&
    (im.linkSlots.all fun r => decide (recField r 0 1 ≠ 2 ∨ recField r 4 2 ≠ ks.1) || receiveTaken hops r) &&
    let tiles := (segPlans rd im ks.2).flatMap fun t => match t.2.2 with
      | some pl => (pl.accesses t.2.1).map fun a => (im.sliceMap.getD t.1 0, a.1, a.2.1, a.2.2)
      | none => []
    decide ((tiles ++ portAccesses hops).Nodup)

/-! ### Order 7: windows (IMG_WINDOW) -/

/-- The open mask of a channel while an image runs (R159). -/
def State.imageMask (s : State) (im : ImageContent) (ch : Nat) : Nat :=
  ((im.windows.find? fun w => w.1 = ch).map fun w => w.2.toNat).getD (s.get Reg.mchWindowOpenMask ch)
/-- The channels of a stream. -/
def srChannels (im : ImageContent) (r : BitVec 512) : List Nat :=
  maskChannels (im.sliceMap.getD (srSlice r) 0) (srMask r)
/-- The units in which a stream accesses its lines (R244). -/
def State.srUnits (s : State) (im : ImageContent) (r : BitVec 512) : List Nat :=
  let mask := (srChannels im r).foldl (fun m ch => m ||| s.imageMask im ch) 0
  unitsFrom mask 262208 (ceilDiv (srStart r) 64) (ceilDiv (srLines r) (srLpu r))

/-- 64-byte units that a segment's hop entries take from (`write` = false) or deliver to a stream, with their ticks. -/
def streamFlow (hops : List (Nat × BitVec 128)) (slice stream : Nat) (write : Bool) : List (Nat × Nat) :=
  (hops.filter fun e => decide (e.1 = slice) &&
    (if write then Nat.testBit (hopOut e.2) 4 && decide (hopDstEp e.2 = 9 ∧ hopDst e.2 % 64 = stream)
     else decide (hopIn e.2 = 4 ∧ hopSrcEp e.2 = 9 ∧ hopSrc e.2 % 64 = stream))).flatMap fun e =>
      (flowTicks e.2).map fun t => (if write then t.2 + 2 else t.2, hopW e.2)
/-- Units of a flow before a tick. -/
def flowBefore (flow : List (Nat × Nat)) (tick : Nat) : Nat := ((flow.filter fun f => decide (f.1 < tick)).map Prod.snd).sum

/-- A stream's buffer stays within 1,024 lines, reads are taken when available and writes are delivered in time (R244,
R245). -/
def streamTimingOk (r : BitVec 512) (units : List Nat) (flow : List (Nat × Nat)) : Bool :=
  let moved := fun k => Nat.min (srLines r) (k * srLpu r)
  if srWrite r then
    ((withIdx units).all fun u => decide (moved (u.1 + 1) ≤ flowBefore flow (64 * u.2))) &&
    flow.all fun f => decide (flowBefore flow (f.1 + 1) ≤ 1024 + moved (units.filter fun u => decide (64 * u ≤ f.1)).length)
  else
    (flow.all fun f => decide (flowBefore flow (f.1 + 1) ≤ moved (units.filter fun u => decide (64 * (u + 1) ≤ f.1)).length)) &&
    (withIdx units).all fun u => decide (moved (u.1 + 1) ≤ 1024 + flowBefore flow (64 * (u.2 + 1)))

/-- Whether the lines of every 16 consecutive units lie in at most four aligned regions, for every base (R245). -/
def regionSpreadOk (r : BitVec 512) (units : List Nat) : Bool :=
  let sz := pageBytes (srPage r)
  (withIdx units).all fun a =>
    let n := (units.filter fun u => decide (a.2 ≤ u ∧ u < a.2 + 16)).length
    let first := a.1 * srLpu r
    let offs := (List.range (Nat.min (srLines r) (first + n * srLpu r) - first)).map fun k =>
      let m := first + k
      signedOf 64 (recField r 0x20 8) * (m / srRowLines r : Nat) + 64 * (m % srRowLines r : Nat)
    offs.all fun o => decide ((offs.map fun x => (x - o) / (sz : Int)).dedup.length ≤ 4)

/-- T_mem of R183 from START, for a group's mask and size. -/
def tMem (mask start lines c : Nat) : Nat :=
  let u := ceilDiv lines (91 * c)
  match (unitsFrom mask 262208 (ceilDiv (start + 8) 64) u).getLast? with
  | some last => 64 * (last + 1) - (start + 8)
  | none => 0

/-- The planish programs of a segment keep R183 and R184. -/
def State.programsOk (s : State) (p : Nat) (im : ImageContent) (k : Nat) : Bool :=
  let streams := segStreams im k
  (im.programs.filter fun g => g.2.1 = k).all fun g =>
    let chans := s.groupOf g.1 p
    let masks := chans.map (s.imageMask im)
    let mask := masks.headD 0
    (masks.all fun m => decide (m = mask)) &&
    ((withIdx (im.progOf g.1 k)).all fun d => (withIdx (im.progOf g.1 k)).all fun f => decide (d.1 = f.1) ||
      decide (descEnd d.2 ≤ descStart f.2 ∨ descEnd f.2 ≤ descStart d.2)) &&
    g.2.2.all fun d =>
      decide (descStart d + 8 + Nat.max (tMem mask (descStart d) (descLines d) chans.length) (descTicks d chans.length) + 24 ≤
        descEnd d) &&
      streams.all fun r => !((srChannels im r).any fun ch => chans.contains ch) ||
        (s.srUnits im r).all fun u => decide (64 * (u + 1) ≤ descStart d ∨ descEnd d ≤ 64 * u)

/-- Order 7. -/
def State.windowsOk (s : State) (p : Nat) (im : ImageContent) : Bool :=
  (im.windows.all fun w => decide (w.2.toNat &&& refreshMask = 0 ∧ popcount 64 w.2.toNat ≤ 32 ∧
    s.get Reg.mchWincfgOpenMin w.1 ≤ popcount 64 w.2.toNat)) &&
  (withIdx im.segments).all fun ks =>
    let streams := segStreams im ks.1
    let hops := segHops im ks.2
    let units := streams.map fun r => (r, s.srUnits im r)
    (units.all fun a => a.2.all fun u => (srChannels im a.1).all fun ch =>
      decide (((units.filter fun b => (srChannels im b.1).contains ch && b.2.contains u).map fun b => srLpu b.1).sum ≤ 91)) &&
    (units.all fun a =>
      streamTimingOk a.1 a.2 (streamFlow hops (im.sliceMap.getD (srSlice a.1) 0) (srStream a.1) (srWrite a.1)) &&
      regionSpreadOk a.1 a.2) &&
    s.programsOk p im ks.1

/-! ### Order 8: space (IMG_SPACE) -/

/-- Blocks of a node's hop store (R143). -/
def nodeBlocks (node : Nat) : Nat := if node = hubNode then 64 else 8
/-- The free blocks of a node. -/
def State.freeBlocks (s : State) (node : Nat) : List Nat :=
  (List.range (nodeBlocks node)).filter fun b => !(s.node node).owners.has b
/-- Image slots (R374). -/
def imageSlots : Nat := 8192

/-- Order 8: a free slot, free blocks, page budgets, chains and share buffers. -/
def State.spaceOk (s : State) (p : Nat) (im : ImageContent) : Bool :=
  (firstGap imageSlots s.host.images.entries 0).isSome &&
  (im.hops.all fun n => decide (ceilDiv n.2.length 4096 ≤ (s.freeBlocks n.1).length)) &&
  ((List.range im.segments.length).all fun k => (List.range im.sliceMap.length).all fun sl =>
    decide ((((segStreams im k).filter fun r => decide (srSlice r = sl)).map srBudget).sum ≤ 4096)) &&
  (decide (4 < im.sliceMap.length) || (List.range 4).all fun d =>
    let firsts := (List.range 16).filterMap fun ch => (im.streams.find? fun r => decide (srChain r = ch))
    decide ((firsts.filter fun r => decide (imgDie im (srSlice r) = d)).length ≤
      4 * (im.sliceMap.filter fun sl => decide (sl / 16 = d)).length)) &&
  im.programs.all fun g => g.2.2.all fun d => decide (descSram d ≤ 229376 * s.groupSize g.1 p) && !descFlag d 5

/-! ### The verdict of R137 -/

/-- What the loader says of an image: the status of the first failing check, or 0. -/
def State.imageStatus (s : State) (p : Nat) (rd : Rd) (objBytes : Nat) (mapped alloy : Bool) : Nat :=
  let im := readImage rd
  if !mapped || !formatOk rd im objBytes alloy then St.imgFormat
  else if !encodingOk rd im then St.imgEncoding
  else if !s.placementOk p im then St.imgPlacement
  else if !s.nodesSound im then St.imgFaulty
  else if !s.portsOwned p im then St.imgPort
  else if !routesOk rd im then St.imgRoute
  else if !s.windowsOk p im then St.imgWindow
  else if !s.spaceOk p im then St.imgSpace
  else St.success

/-- The slices of a mask of an image's SLICE_MAP. -/
def sliceMask (l : List Nat) : Nat := (dedup l).foldl (fun m sl => m + 2 ^ sl) 0
/-- The state in which a staged image is judged: the partition holds the slices of its SLICE_MAP, and its staged regions are
valid (R268). -/
def State.asStaged (s : State) (p slices sets : Nat) : State :=
  ((s.set Reg.ptnpSlicesSlices p slices).set Reg.ptnpSetsSets p sets).onEngines fun m => { m with
    engines := m.engines.mapVal fun _ e => { e with
      regions := e.regions.mapVal fun _ g => if g.ptn = p then { g with staged := false } else g } }

end Sys2Proof.Machine
end

