-- ==== Sys2Proof/Machine/OpenQueue.lean ====
section
/-! DEFINITION. The open queue, open access groups, grants of channels and queues, the allocator, regions and open orders
(R174 to R177, R195, R210, R383, R407 to R414). -/

namespace Sys2Proof.Machine

/-! ### Places in an open queue (R412) -/

/-- Entries that a partition reserves on an engine. -/
def State.reservedEntries (s : State) (p : Nat) : Nat := Nat.min 16 (s.get Reg.ptnpRegCfgNmeEntries p)
/-- Buffer units that a partition reserves on an engine. -/
def State.reservedBuf (s : State) (p : Nat) : Nat := Nat.min 4 (s.get Reg.ptnpRegCfgNmeBuf p)
/-- Entries that a partition has in an engine's queue. -/
def Engine.entriesOf (x : Engine) (p : Nat) : Nat := (x.queue.vals.filter fun o => decide (o.ptn = p)).length
/-- Buffer units that a partition's started entries hold. -/
def Engine.bufOf (x : Engine) (p : Nat) : Nat := (x.queue.vals.filter fun o => decide (o.ptn = p) && o.started).length
/-- Whether a partition may take one more of a resource of which `total` exist. -/
def withinShare (total : Nat) (ps : List Nat) (p : Nat) (reserved held : Nat → Nat) : Bool :=
  decide (held p < reserved p) || decide ((ps.map fun q => Nat.max (reserved q) (held q)).sum < total)
/-- Whether an order of a partition may be placed in an engine's queue. -/
def State.mayPlace (s : State) (e p : Nat) : Bool :=
  let x := s.engine e
  withinShare 64 (s.groupsOn e) p s.reservedEntries x.entriesOf && decide (x.queue.entries.length < 64)

/-- Put an order in a free entry of an engine's queue. -/
def State.enqueue (s : State) (e : Nat) (o : OpenEntry) : State :=
  let x := s.engine e
  match firstGap 64 x.queue.entries 0 with
  | some n => s.setEngine e { x with queue := x.queue.put n o }
  | none => s

/-- Place the waiting order that the regulators choose, where one may be placed: within reservations first, then by weight
(R412). -/
def State.grantQueue (s : State) (e : Nat) : State :=
  let x := s.engine e
  let firsts := x.waiting.foldl (fun (acc : List OpenEntry) o =>
    if acc.any fun q => decide (q.ptn = o.ptn) then acc else acc ++ [o]) []
  let may := firsts.filter fun o => s.mayPlace e o.ptn
  let key := fun (o : OpenEntry) => masterKey false o.ptn o.cls
  let own := may.filter fun o => decide (x.entriesOf o.ptn < s.reservedEntries o.ptn)
  let pt := s.point 3 e
  let pick : Option (Nat × Point) :=
    match nextKey (sortNats (own.map key)) pt.last1 with
    | some k => some (k, { pt with last1 := k })
    | none => pt.grant s.now 65536 (fun _ => 0) s.weightOf (may.map key)
  match pick with
  | none => s
  | some (k, pt) =>
    match may.find? fun o => decide (key o = k) with
    | none => s
    | some o =>
      let s := s.setEngine e { x with waiting := x.waiting.filter fun q => decide (q.arrival ≠ o.arrival) }
      (s.setPoint 3 e pt).enqueue e o

/-- A new order for an engine: it waits at the hub, and takes an entry at once where it may (R412). -/
def State.placeOrder (s : State) (e p cls : Nat) (d : Line) (origin : EntryOrigin) : State :=
  let x := s.engine e
  let arrival := ((x.queue.vals ++ x.waiting).map OpenEntry.arrival).foldl Nat.max 0 + 1
  let s := s.setEngine e { x with waiting := x.waiting ++ [⟨p, cls, d, origin, false, arrival⟩] }
  (s.noteWaiting 3 e (masterKey false p cls)).grantQueue e

/-- OPEN_ENTRY_START: the entry holds 64 KiB of buffer, and its partition's earlier entries have started (R195, R412); `ecc` is what
its accesses of the open buffer meet (R173). -/
def execOpenEntryStart (engine : BitVec 5) (start : EntryStart) (s : State) : StepOut :=
  let e := engine.toNat
  let x := s.engine e
  match x.queue.find start.entry.toNat with
  | none => .next s
  | some o =>
    let first := x.queue.vals.all fun q => decide (q.ptn ≠ o.ptn) || q.started || decide (o.arrival ≤ q.arrival)
    if ¬ o.started ∧ first ∧ withinShare 16 (s.groupsOn e) o.ptn s.reservedBuf x.bufOf ∧ ¬ s.quenched then
      let s := (s.setEngine e { x with queue := x.queue.put start.entry.toNat { o with started := true } }).set Reg.nmeStsOpenBusy e 1
      .next (s.engineEcc e o.ptn start.ecc)
    else .next s

/-! ### Open access groups (R413, R414) -/

/-- A group of the running command is complete: a hold for it ends. -/
def State.endGroup (s : State) (p seq g : Nat) : State :=
  match s.headCmd p with
  | some c =>
    if c.seq = seq then
      let s := s.setHead p { c with openDone := if c.openDone.contains g then c.openDone else g :: c.openDone }
      match (s.line p).hold with
      | some (.group k, _) => if k = g then (s.endHold p).runSeg p else s
      | _ => s.runSeg p
    else s
  | none => s

/-- The DPAs that a COPY, GATHER or SCATTER reads as data. -/
def State.readDpas (s : State) (d : Line) : List Nat :=
  let src := descRef d 0
  let n := if descOp d = 4 then descP d 1 * descP d 0 else descP d 0
  let lines :=
    if descOp d = 3 then
      (rowsOf (s.indexList (descRef d 1) (descP d 1)).1 (descP d 0) (s.refRoom src)).flatMap fun e =>
        (List.range (descP d 0)).map (e.2 * descP d 0 + ·)
    else if descOp d = 8 then [] else List.range n
  match s.region src.engine src.region with
  | some g => lines.map fun k => s.engineDpa src.engine g.ptn (g.base + src.line + k)
  | none => []
/-- Seal the frames of DPAs, where a sealed frame is among those read (R471). -/
def State.sealFrom (s : State) (read written : List Nat) : State :=
  if read.any s.sealedAt then
    s.onSec fun x => { x with sealed := written.foldl (fun m d => m.put (s.logFrame d) 1) x.sealed }
  else s

/-- The record of a group of the running command. -/
def State.groupRec (s : State) (c : Cmd) (g : Nat) : Option (ImageContent × BitVec 512) :=
  (s.host.images.find c.image).bind fun im =>
    (im.content.segments[c.segment]?).bind fun sg =>
      if g < sg.openCount then (im.content.openGroups[sg.openFirst + g]?).map fun r => (im.content, r) else none

/-- Lines of a range, as DPAs, through a partition's tables. -/
def State.rangeDpas (s : State) (p va n : Nat) : List (Option Nat) :=
  (List.range n).map fun k => (s.transOf p (va + 64 * k)).map fun t => t.dpa (va + 64 * k)
/-- How many DPAs of a list lie on each channel. -/
def perChannel (l : List Nat) : List (Nat × Nat) :=
  (sortNats (l.map dpaChannel)).map fun ch => (ch, (l.filter fun d => decide (dpaChannel d = ch)).length)

/-- Ask a channel's regulator for units. -/
def State.askChannel (s : State) (ch p cls : Nat) (deadline : Option Nat) (units : Nat) (group : Option (Nat × Nat)) : State :=
  let x := s.point 0 ch
  let arrival := (x.reqs.map PointReq.arrival).foldl Nat.max 0 + 1
  (s.setPoint 0 ch { x with reqs := x.reqs ++ [⟨p, cls, deadline, arrival, units, group⟩] }).noteWaiting 0 ch
    (masterKey false p cls)

/-- Move the lines of a local COPY group. -/
def State.moveLines (s : State) (p src dst n : Nat) : State :=
  ((s.rangeDpas p src n).zip (List.range n)).foldl (fun s e =>
    match e.1 with
    | some a => s.writeVa p (dst + 64 * e.2) (s.delivered [] a)
    | none => s) s
/-- The lowest free TAG of two in a row. -/
def State.freeTag (s : State) : Nat :=
  (firstIn 32768 0 fun k => !s.net.requests.has (2 * k) && !s.net.requests.has (2 * k + 1)).getD 0 * 2

/-- The request payload of R317: VA, lines, deadline. -/
def requestPayload (va lines deadline : Nat) : List Line :=
  [BitVec.ofNat 512 (va + lines * 2 ^ 64 + deadline * 2 ^ 128), 0, 0, 0]
/-- An open flit of this device. -/
def State.ownFlit (s : State) (cls p dst tag otype : Nat) (deadline : Option Nat) (payload : List Line) : OpenFlit :=
  ⟨cls, p, false, s.deviceId, dst, tag, otype, deadline, payload⟩
/-- Send lines in flits of four. -/
def State.sendData (s : State) (cls p dst tag otype : Nat) (deadline : Option Nat) : List Line → State
  | a :: b :: c :: d :: rest =>
    State.sendData (s.sendOpen (s.ownFlit cls p dst tag otype deadline [a, b, c, d]) 0) cls p dst tag otype deadline rest
  | [] => s
  | l => s.sendOpen (s.ownFlit cls p dst tag otype deadline ((l ++ [0, 0, 0]).take 4)) 0

/-- Open a remote request of a command's group (R228, R317). -/
def State.openRemote (s : State) (p : Nat) (c : Cmd) (g tag : Nat) (write : Bool) (a dst lines cls : Nat) : State :=
  let s := s.onNet fun n => { n with
    requests := n.requests.put tag ⟨p, c.seq, write, vaDevice a, a, lines, 0, dst, g, c.tPromise⟩ }
  s.sendOpen (s.ownFlit cls p (vaDevice a) tag (if write then 3 else 1) (some c.tPromise)
    (requestPayload a lines c.tPromise)) 0

/-- Issue a COPY group (R413): local ends ask the regulators of their channels, and remote ends send requests. -/
def State.issueCopy (s : State) (p : Nat) (c : Cmd) (g : Nat) (r : BitVec 512) : State :=
  let src := ogSrc r c.args
  let dst := ogDst r c.args
  let n := ogLines r
  let cls := ogClass r
  match s.localVa src, s.localVa dst with
  | some a, some b =>
    let dpas := (s.rangeDpas p a n ++ s.rangeDpas p b n).filterMap id
    if n = 0 then s.endGroup p c.seq g
    else (perChannel dpas).foldl (fun s e => s.askChannel e.1 p cls (some c.tPromise) e.2 (some (c.seq, g))) s
  | none, _ =>
    let tag := s.freeTag
    let s := s.openRemote p c g tag false src dst n cls
    if (s.localVa dst).isSome then s else s.openRemote p c g (tag + 1) true dst dst n cls
  | some a, none =>
    s.reading p ((s.rangeDpas p a n).filterMap id) id fun s =>
      let s := s.openRemote p c g s.freeTag true dst dst n cls
      let tag := s.net.requests.entries.foldl (fun t e => if e.2.seq = c.seq ∧ e.2.group = g then e.1 else t) 0
      let data := (s.rangeDpas p a n).map fun d => (d.map (s.delivered [])).getD 0
      s.sendData cls p (vaDevice dst) tag 4 (some c.tPromise) data

/-- Whether the segment of a partition has come to a tick, and its units act. -/
def State.reached (s : State) (p tick : Nat) : Bool :=
  s.ticking p && match s.seg p with
    | some r => decide (tick ≤ r.tick)
    | none => false

/-- OPEN_GROUP_START: at the group's START its requests are issued (R413); an ORDER places its descriptor on its engine's queue. -/
def execOpenGroupStart (p : PtnNo) (group : BitVec 16) (s : State) : StepOut :=
  let p := p.toNat
  let g := group.toNat
  let s := s.runSeg p
  match s.headCmd p with
  | none => .next s
  | some c =>
    match s.groupRec c g with
    | none => .next s
    | some (im, r) =>
      if c.phase ≠ .running ∨ c.openIssued.contains g ∨ ¬ s.reached p (ogStart r) then .next s
      else
        let s := s.setHead p { c with openIssued := g :: c.openIssued }
        if ogCopy r then .next (s.issueCopy p c g r)
        else
          let k := ((im.segments[c.segment]?).map Segment.openFirst).getD 0 + g
          let d := im.orders.getD k 0
          .next ((s.useRegions d).placeOrder (orderEngine d) p (ogClass r) d (.group c.seq g))

/-- OPEN_GROUP_NEED: a group that is not complete at its NEED tick holds the partition until it is (R414). -/
def execOpenGroupNeed (p : PtnNo) (group : BitVec 16) (s : State) : StepOut :=
  let p := p.toNat
  let s := s.runSeg p
  match s.headCmd p with
  | none => .next s
  | some c =>
    if c.phase = .running ∧ ((s.groupRec c group.toNat).any fun r => s.reached p (ogNeed r.2)) ∧
        ¬ c.openDone.contains group.toNat ∧ (s.line p).hold.isNone then
      .next (s.setLine p { s.line p with hold := some (.group group.toNat, s.now) })
    else .next s

/-! ### Grants (R409) -/

/-- In an open unit of a channel's frame, one line goes to the request that its regulator chooses; a group whose last line this was
moves its data and is complete. -/
def State.grantChannel (s : State) (ch : Nat) : State :=
  if ¬ s.openUnit ch then s else
  let x := s.point 0 ch
  let keyOf := fun (r : PointReq) => masterKey false r.ptn r.cls
  match x.grant s.now 64 (s.pointRate 0) s.weightOf (x.reqs.map keyOf) with
  | none => s
  | some (k, x) =>
    let mine := (withIdx x.reqs).filter fun e => decide (keyOf e.2 = k)
    match (firstRequest (s.rtOf k) (mine.map fun e => (e.1, e.2.deadline, e.2.arrival))).bind fun n =>
        x.reqs[n]?.map fun r => (n, r) with
    | none => s
    | some (n, r) =>
      let m := x.master k
      let late := s.rtOf k && match r.deadline with | some d => decide (d < s.now) | none => false
      let reqs := if r.units ≤ 1 then x.reqs.eraseIdx n else x.reqs.set n { r with units := r.units - 1 }
      let waits := reqs.any fun q => decide (keyOf q = k)
      let x := { x with
        reqs := reqs, masters := x.masters.put k { m with late := m.late || late, throughout := m.throughout && waits } }
      let s := (s.setPoint 0 ch x).count (mchPage ch) 1 1
      match r.group with
      | none => s
      | some g =>
        if s.engines.points.vals.any fun y => y.reqs.any fun q => decide (q.ptn = r.ptn ∧ q.group = some g) then s
        else match (s.headCmd r.ptn).bind fun c => (s.groupRec c g.2).map fun e => (c, e.2) with
          | some (c, rec) =>
            match s.localVa (ogSrc rec c.args), s.localVa (ogDst rec c.args) with
            | some a, some b => s.reading r.ptn ((s.rangeDpas r.ptn a (ogLines rec)).filterMap id) id fun s =>
                (s.moveLines r.ptn a b (ogLines rec)).endGroup r.ptn g.1 g.2
            | _, _ => s
          | none => s

/-- GRANT: a point with a grant unit free serves a master (R409). A port's unit is an open slot, the lowest of its stroke;
the aperture engine's requests are served as they come. -/
def execGrant (kind : BitVec 2) (index : BitVec 10) (s : State) : StepOut :=
  let n := index.toNat
  .next (
    if s.quenched then s
    else if kind = 0 then s.grantChannel n
    else if kind = 1 then
      if s.portOpen n then
        match firstIn 6250 0 fun k => s.openTxSlot n k with
        | some k => s.sendOpenSlot n k
        | none => s
      else s
    else if kind = 3 then s.grantQueue n
    else s)

/-! ### The allocator (R383, R384) -/

/-- ALLOC: the lowest free block of a class, or NOMEM (R383). -/
def execAlloc (slice : SliceNo) (cls : Byte) (s : State) : StepOut :=
  match (s.sliceOwner slice.toNat).bind fun p => (s.headCmd p).map fun c => (p, c) with
  | none => .next s
  | some (p, c) =>
    if c.phase ≠ .running ∧ c.phase ≠ .loading then .next s
    else
      let place := (s.host.heaps.find p).bind fun hp => (s.host.objs.find hp.obj).bind fun o =>
        if cls.toNat ≤ 14 then (hp.place o.va o.bytes cls.toNat).map fun va => (hp, va) else none
      match place with
      | none => .next (s.emit (.heapCall none))
      | some (hp, va) =>
        let s := s.onHost fun h => { h with
          heaps := h.heaps.put p { hp with blocks := hp.blocks ++ [(va, cls.toNat, some c.seq)] } }
        .next ((s.setHead p { c with allocs := va :: c.allocs }).emit (.heapCall (some va)))

/-- FREE: a block of the heap is freed at the command's internal commit (R383). -/
def execFree (slice : SliceNo) (va : Word) (s : State) : StepOut :=
  match (s.sliceOwner slice.toNat).bind fun p => (s.headCmd p).map fun c => (p, c) with
  | none => .next s
  | some (p, c) =>
    let held := ((s.host.heaps.find p).map fun hp => hp.blocks.any fun b => decide (b.1 = va.toNat)).getD false
    if (c.phase = .running ∨ c.phase = .loading) ∧ held ∧ ¬ c.frees.contains va.toNat then
      .next (s.setHead p { c with frees := va.toNat :: c.frees })
    else .next s

end Sys2Proof.Machine
end

