-- ==== Sys2Proof/Machine/Items.lean ====
section
/-! DEFINITION. Line items other than commands: binds and unbinds, translation updates, re-binding items, park, wake, debug
and leave items, and tick-source switches (R33, R34, R132, R133, R239 to R241, R267 to R274, R280, R281, R329, R337, R438,
R439, R442, R443, R475, R483, R553). -/

namespace Sys2Proof.Machine

/-! ### HOP_REPORT (R345) -/

/-- S of the hops of a membership that leave this device: hop index and S (R316, R345). -/
def State.ownHops (s : State) (p : Nat) : List (Nat × Nat) :=
  (withIdx (s.member p).hops).filterMap fun h =>
    if h.2.device.toNat = s.deviceId then some (h.1, s.slotSpacing h.2.port.toNat p) else none

/-- Send the lead a HOP_REPORT of a member's hops (R345). -/
def State.sendHopReport (s : State) (p : Nat) : State :=
  if s.mstate p = Ms.none then s
  else s.sendLong (s.leadDevice p) 0x41 (p :: (s.ownHops p).flatMap fun h => [h.1, h.2])

/-! ### Images on their nodes (R132, R133, R143, R280) -/

/-- The WCET_TICKS values of an image's segments, as bytes. -/
def wcetBytes (im : ImageContent) : List Byte := im.segments.flatMap fun g => natBytes 4 g.wcet

/-- Choose and take free hop blocks for an image on every node. -/
def State.takeBlocks (s : State) (p : Nat) (im : ImageContent) : List (Nat × List Nat) × State :=
  im.hops.foldl (fun r n =>
    let bs := (r.2.freeBlocks n.1).take (ceilDiv n.2.length 4096)
    let x := r.2.node n.1
    (r.1 ++ [(n.1, bs)], r.2.setNode n.1 { x with owners := bs.foldl (fun m b => m.put b p) x.owners })) ([], s)
/-- Write an image's hop entries into its blocks. -/
def State.installHops (s : State) (im : Image) : State :=
  im.content.hops.foldl (fun s n =>
    let bs := ((im.blocks.find? fun b => b.1 = n.1).map Prod.snd).getD []
    let x := s.node n.1
    s.setNode n.1 { x with store := (withIdx n.2).foldl (fun (st : FMap (BitVec 128)) e =>
      st.put (bs.getD (e.1 / 4096) 0 * 4096 + e.1 % 4096) e.2) x.store }) s
/-- Hop entries that the node with the most receives. -/
def mostHops (im : ImageContent) : Nat := (im.hops.map fun n => n.2.length).foldl Nat.max 0
/-- How long a bind item lasts (R133). -/
def bindNs (im : ImageContent) : Nat := 10000 + mostHops im

/-- Send a long message of the model's own form to every other member of an alloy (log entry 84). -/
def State.tellMembers (s : State) (p : Nat) (body : List Nat) : State :=
  ((s.member p).members.filter fun d => decide (d ≠ s.deviceId)).foldl (fun s d => s.sendLong d 0 body) s
/-- Mark an index ready where every member's digest is known and equals this lead's own, and copy a change to the members
(R280, R287). -/
def State.settleReady (s : State) (p idx : Nat) : State :=
  let m := s.member p
  let digest := fun d => (m.digests.find? fun e => e.1 = d ∧ e.2.1 = idx).map fun e => e.2.2
  let mine := digest s.deviceId
  let was := s.get Reg.ptnpAlloyImgReady p
  let s := if s.flag Reg.ptnpCfgLead p ∧ mine.isSome ∧ m.members.all (fun d => decide (digest d = mine)) then
      s.setBits Reg.ptnpAlloyImgReady p (2 ^ idx)
    else s.clearBits Reg.ptnpAlloyImgReady p (2 ^ idx)
  if s.get Reg.ptnpAlloyImgReady p = was then s else s.tellMembers p [p, 252, s.get Reg.ptnpAlloyImgReady p]
/-- A member's digest of WCET_TICKS at an index reaches the lead; `none` where its image there is unbound (R280). -/
def State.noteDigest (s : State) (p device idx : Nat) (digest : Option (BitVec 256)) : State :=
  let m := s.member p
  let others := m.digests.filter fun e => !(decide (e.1 = device ∧ e.2.1 = idx))
  (s.setMember p { m with digests := match digest with
    | some g => others ++ [(device, idx, g)]
    | none => others }).settleReady p idx
/-- Tell the lead of the digest at an index; an index without an image is not ready (R280). -/
def State.sendDigest (s : State) (p idx : Nat) (digest : Option (BitVec 256)) : State :=
  if s.mstate p = Ms.none then s
  else if s.flag Reg.ptnpCfgLead p then s.noteDigest p s.deviceId idx digest
  else (if digest.isSome then s else s.clearBits Reg.ptnpAlloyImgReady p (2 ^ idx)).sendLong (s.leadDevice p) 0 [p, idx, ((digest.map BitVec.toNat).getD 0)]

/-- The descriptors of an image: those of its programs and of its groups. -/
def ImageContent.descriptors (im : ImageContent) : List Line :=
  (im.programs.flatMap fun g => g.2.2) ++ (im.openGroups.zip im.orders).filterMap fun g => if ogCopy g.1 then none else some g.2

/-- An image becomes bound: its hop entries are in place, its programs hold their regions, and a member reports its digest
(R133, R176, R280). -/
def State.bindImage (s : State) (k : Nat) : State :=
  match s.host.images.find k with
  | none => s
  | some im =>
    let s := (s.setImage k { im with staged := false }).installHops im
    let s := im.content.descriptors.foldl (fun s d => s.useRegions d) s
    match im.index with
    | some i => (s.setBits Reg.ptnpAlloyImgBound im.ptn (2 ^ i)).sendDigest im.ptn i (some im.wcetDigest)
    | none => s
/-- An image is removed: its blocks are free, its handle is destroyed and its object is referred to once less (R133, R378,
R553). -/
def State.removeImage (s : State) (k : Nat) (bound : Bool) : State :=
  match s.host.images.find k with
  | none => s
  | some im =>
    let s := ((s.freeImageBlocks im).destroyImage k).unrefObj im.obj 0 1
    if ¬ bound then s
    else
      let s := im.content.descriptors.foldl (fun s d => s.unuseRegions d) s
      match im.index with
      | some i => (s.clearBits Reg.ptnpAlloyImgBound im.ptn (2 ^ i)).sendDigest im.ptn i none
      | none => s

/-! ### Starting and ending items (R34, R165) -/

/-- The item at the head of a line. -/
def State.headItem (s : State) (p : Nat) : Option Item := (s.line p).items.head?
/-- Whether the item at the head of a line may start now. -/
def State.itemReady (s : State) (p : Nat) : Bool := s.atSeam p && !s.quenched && !(s.line p).items.isEmpty
/-- Take the item at the head of a line off it. -/
def State.popItem (s : State) (p : Nat) : State :=
  let l := s.line p
  s.setLine p { l with items := l.items.drop 1, idleAt := s.now }
/-- Write the step that the item at the head of a line has reached. -/
def State.setStep (s : State) (p n : Nat) : State :=
  let l := s.line p
  match l.items with
  | it :: rest => s.setLine p { l with items := { it with step := n } :: rest }
  | [] => s
/-- Complete an ADM command where one waits. -/
def State.completeSome (s : State) (a : Option Adm) (status : Nat) : State :=
  match a with
  | some a => s.complete false a status
  | none => s

/-- BIND_ITEM: the image is installed from the item's seam (R133). -/
def execBindItem (p : PtnNo) (s : State) : StepOut :=
  let p := p.toNat
  .next (match s.headItem p with
    | some ⟨.bind k _, _, _, _, _, _⟩ =>
      if s.itemReady p then
        match s.host.images.find k with
        | some im => (s.startHead p).installHops im
        | none => s.startHead p
      else s
    | _ => s)
/-- UNBIND_ITEM: the image goes at the item's end (R553). -/
def execUnbindItem (p : PtnNo) (s : State) : StepOut :=
  let p := p.toNat
  .next (match s.headItem p with
    | some ⟨.unbind .., _, _, _, _, _⟩ => if s.itemReady p then s.startHead p else s
    | _ => s)
/-- TRANSLATION_UPDATE (R240). -/
def execTranslationUpdate (p : PtnNo) (s : State) : StepOut :=
  let p := p.toNat
  .next (match s.headItem p with
    | some ⟨.update rec _, _, _, _, _, _⟩ => if s.itemReady p then (s.startHead p).applyUpdate p [rec] else s
    | _ => s)

/-! ### Re-binding items (R267 to R273) -/

/-- Bits of a mask that another lacks. -/
def maskDiff (a b : Nat) : Nat := a - (a &&& b)
/-- A 64-bit reference in the form of R177. -/
def moveRef (w : Word) : Ref := ⟨w.toNat / 2 ^ 34, w.toNat / 1024 % 64, w.toNat % 1024, decide (w.toNat / 2 ^ 16 % 2 ^ 18 = 0)⟩
/-- A region by number, staged or not. -/
def State.anyRegion (s : State) (r : Ref) : Option Region := (s.engine r.engine).regions.find r.region
/-- The DPA of a line of a move's reference: a staged region counts in the new shape's numbering. -/
def State.moveDpa (s new : State) (r : Ref) (n : Nat) : Option Nat :=
  (s.anyRegion r).map fun g => (if g.staged then new else s).engineDpa r.engine g.ptn (g.base + r.line + n)
/-- The shape in force while a re-binding item owns what it adds and what it removes. -/
def State.bothShapes (s : State) (p slices sets : Nat) : State :=
  (s.set Reg.ptnpSlicesSlices p (s.get Reg.ptnpSlicesSlices p ||| slices)).set Reg.ptnpSetsSets p
    (s.get Reg.ptnpSetsSets p ||| sets)
/-- Return to the shape of before. -/
def State.backShape (s : State) (p slices sets : Nat) : State :=
  (s.set Reg.ptnpSlicesSlices p slices).set Reg.ptnpSetsSets p sets

/-- One move (R194, R196, R389, R471). -/
def State.moveOne (s new : State) (old : State) (errs : List LineError) (m : Move) : State :=
  let src := moveRef m.src
  let dst := moveRef m.dst
  let pairs := (List.range m.lines.toNat).filterMap fun n =>
    match old.moveDpa new src n, old.moveDpa new dst n with
    | some a, some b => some (a, b)
    | _, _ => none
  let s := s.sealFrom (pairs.map Prod.fst) (pairs.map Prod.snd)
  let obj := (old.anyRegion dst).bind fun g => s.host.objs.find g.obj
  pairs.foldl (fun s e =>
    let s := s.writeLine e.2 (s.delivered errs e.1)
    match obj with
    | some o => s.logObject o e.2
    | none => s) s

/-- Steps of R270: 1 and 2, then 3, then 4, 5, 6 and 7, one at a call. Every slice that they concern is in SP0 (R441). -/
def State.rebindStart (s : State) (p slices sets : Nat) : State :=
  let add := maskDiff slices (s.get Reg.ptnpSlicesSlices p)
  let addSets := maskDiff sets (s.get Reg.ptnpSetsSets p)
  let s := ((s.slicesOf p ++ bitsSet add).foldl (fun s sl => s.setSlicePower sl 0) s).set Reg.ptnpPwrParked p 0
  let chans := (bitsSet (add ||| addSets)).flatMap sliceChannels
  let s := chans.foldl (fun s ch => s.setChannel ch { s.channel ch with selfRefresh := false }) s
  (s.setOwner (bitsSet add) chans (some p)).set Reg.ptnpCfgItem p 1
/-- A move as a descriptor: COPY from its source to its destination (R196). -/
def moveDesc (m : Move) : Line :=
  BitVec.ofNat 512 (7 + m.src.toNat * 2 ^ 128 + m.dst.toNat * 2 ^ 256 + m.lines.toNat * 2 ^ 384)
/-- Step 3: each move is a seam copy, which the hub places in the open queue of its source's engine (R195, R196). -/
def State.rebindMoves (s : State) (p : Nat) (moves : List Move) : State :=
  ((withIdx moves).foldl (fun s m =>
    (s.useRegions (moveDesc m.2)).placeOrder (moveRef m.2.src).engine p 0 (moveDesc m.2) (.move m.1)) s).setStep p 3
/-- Whether a seam copy of a partition is outstanding. -/
def State.movesLeft (s : State) (p : Nat) : Bool :=
  s.engines.engines.vals.any fun x => (x.queue.vals ++ x.waiting).any fun o => o.ofMove p
/-- The move of a started re-binding item at the head of a line. -/
def State.moveAt (s : State) (p k : Nat) : Option (Item × Nat × Nat × Move) :=
  match s.headItem p with
  | some it =>
    match it.kind, it.started with
    | .reshape _ slices sets plan _, some _ => if it.step = 3 then (plan.moves[k]?).map fun m => (it, slices, sets, m) else none
    | _, _ => none
  | none => none
/-- A seam copy is done: its lines are moved; one that meets an uncorrectable line ends the item and faults the partition (R219,
R271). -/
def State.endMove (s : State) (p k : Nat) (errs : List LineError) : State :=
  match s.moveAt p k with
  | none => s
  | some (it, slices, sets, m) =>
    let new := s.asStaged p slices sets
    let dpas := (List.range m.lines.toNat).filterMap fun n => s.moveDpa new (moveRef m.src) n
    let bad := s.badLine errs dpas
    let s := s.noteLines errs dpas
    match bad with
    | some d => (((s.popItem p).set Reg.ptnpCfgItem p 0).cancelItem p .fault it).faultPtn p Fc.memUe (.channel (dpaChannel d))
    | none =>
      let was := s.get Reg.ptnpSlicesSlices p
      let wasSets := s.get Reg.ptnpSetsSets p
      (((s.bothShapes p slices sets).moveOne new s errs m).backShape p was wasSets).count (nmePage (moveRef m.src).engine) 1
        (2 * m.lines.toNat)
/-- The end of an open queue's entry of an order or of an open access group: its lines are written, unless a line that it reads
is uncorrectable, which faults its partition (R219, R471). -/
def State.endOrder (s : State) (e : Nat) (o : OpenEntry) (errs : List LineError) : State :=
  let dpas := s.descReads o.desc
  let bad := s.badLine errs dpas
  let r := (s.asRead errs dpas).descOut o.desc
  let s := ((dpas ++ r.1.map Prod.fst).foldl (fun (s : State) d => s.touchChannel (dpaChannel d)) s).noteLines errs dpas
  let s := match o.origin, bad with
    | .order _, none => s.sealFrom (s.readDpas o.desc) (r.1.map Prod.fst)
    | _, _ => s
  let s := if bad.isSome then s else ((s.writeLines r.1).addMasked e r.2).count (nmePage e) 1 (descLines o.desc)
  let s := match o.origin with
    | .order a => s.complete false a (if bad.isSome then St.admState else St.success)
    | .group seq g => if bad.isSome then s else s.endGroup o.ptn seq g
    | _ => s
  match bad with
  | some d => s.faultPtn o.ptn Fc.memUe (.channel (dpaChannel d))
  | none => s

/-- OPEN_ENTRY_END: the entry's operation is done; its order or group completes and a waiting order takes its place. An
uncorrectable line that it reads stops it and faults its partition; a failed write of an anneal fill or of a seam copy is its own
(R195 to R197, R219). -/
def execOpenEntryEnd (engine : BitVec 5) (entry : BitVec 6) (errs : List LineError) (s : State) : StepOut :=
  let e := engine.toNat
  let x := s.engine e
  match x.queue.find entry.toNat with
  | none => .next s
  | some o =>
    if ¬ o.started then .next s
    else
      let s := s.meetErrors errs
      let s := s.setEngine e { s.engine e with queue := (s.engine e).queue.drop entry.toNat }
      let s := s.set Reg.nmeStsOpenBusy e (if (s.engine e).queue.vals.any OpenEntry.started then 1 else 0)
      let s := s.count (nmePage e) 3 1
      let s := match o.origin with
        | .fill sl =>
          let chans := (sliceChannels sl).filter fun ch => decide (ch / 32 = e)
          (s.overwrite chans).count (nmePage e) 1 (sumOver chans s.offeredRows)
        | .move k => s.endMove o.ptn k errs
        | _ => s.endOrder e o errs
      .next ((s.unuseRegions o.desc).grantQueue e)

/-- Apply one slot grant: the partition's slots of a port direction are those of the bitmap (R270 step 5). -/
def State.applyGrant (s : State) (p : Nat) (g : Grant) : State :=
  let base := (2 * g.port.toNat + g.dir.toNat) * 8192
  let kept := s.net.slots.keep fun k v => !(decide (k / 8192 = 2 * g.port.toNat + g.dir.toNat) && decide (v = 0x80 + p))
  let mine := (List.range 6250).filter fun k => g.bitmap.getLsbD k
  s.onNet fun n => { n with slots := mine.foldl (fun m k => if m.has (base + k) then m else m.put (base + k) (0x80 + p)) kept }
/-- Whether a region's engine lines are whole offered frames of a partition's group on an engine (R209, R210). -/
def State.regionAligned (s : State) (p e : Nat) (g : Region) : Bool :=
  let c := s.groupSize e p
  decide (c ≠ 0) && decide (g.base % (1024 * c) = 0 ∧ g.lines % (1024 * c) = 0 ∧ g.lines ≠ 0) &&
    ((s.groupOf e p).all fun ch => decide ((g.base + g.lines) / c ≤ s.offeredRows ch))
/-- Whether a region matches a shape: its engine lines are whole offered frames of a group of the partition, and lie in its
object (R174, R210, R268). -/
def State.regionFits (s : State) (p e : Nat) (g : Region) : Bool :=
  let c := s.groupSize e p
  s.regionAligned p e g &&
    match s.host.objs.find g.obj with
    | none => false
    | some o =>
      let frames := (List.range (o.bytes / 65536)).filterMap fun k => (s.transOf p (o.va + 65536 * k)).map fun t =>
        t.dpa (o.va + 65536 * k) / 65536
      (List.range (g.lines / 1024)).all fun k =>
        frames.contains (s.engineDpa e p (g.base + k / c * (1024 * c) + k % c) / 65536)
/-- What step 6 does to a region of an engine (R211, R268). -/
def State.rebindRegion (s : State) (p e : Nat) (changed : Bool) (n : Nat) (g : Region) : State :=
  let x := s.engine e
  if g.ptn ≠ p then s
  else if g.staged then
    if s.regionFits p e g then s.setEngine e { x with regions := x.regions.put n { g with staged := false } } else s
  else if changed then (s.setEngine e { x with regions := x.regions.drop n }).unrefObj g.obj 1 0
  else s
/-- Step 6: what is removed loses its owner, regions of changed groups go and matching staged ones become valid, and the
translation regime follows (R211, R255, R270, R273). -/
def State.rebindShape (s : State) (p profile slices sets : Nat) : State :=
  let was := s.get Reg.ptnpSlicesSlices p
  let wasSets := s.get Reg.ptnpSetsSets p
  let gone := maskDiff was slices
  let goneSets := maskDiff wasSets sets
  let groups := (List.range 24).map fun e => s.groupOf e p
  let s := s.setOwner (bitsSet gone) ((bitsSet (maskDiff (was ||| wasSets) (slices ||| sets))).flatMap sliceChannels) none
  let s := (s.backShape p slices sets).set Reg.ptnpCfgProfile p profile
  let s := s.toPool 0 goneSets
  let s := (withIdx groups).foldl (fun s e =>
    let changed := decide (s.groupOf e.1 p ≠ e.2)
    (s.engine e.1).regions.entries.foldl (fun s r => s.rebindRegion p e.1 changed r.1 r.2) s) s
  let owned := fun dpa => decide (s.chOwner (dpaChannel dpa) = some p)
  let s := s.onMem fun m => { m with
    caches := m.caches.keep fun _ w => decide (cachePtn w ≠ p) || owned (cacheTrans w).frame
    store := m.store.keep fun k e => decide (k / 2 ^ 34 ≠ p) || owned e.trans.frame
    stales := m.stales.filter fun e => decide (e.1 / 2 ^ 34 ≠ p) || owned e.2.trans.frame
    apCache := m.apCache.keep fun k t => decide (k / 2 ^ 34 ≠ p) || owned t.frame }
  s.set Reg.ptnpCfgPretranslate p (if 4 < (bitsSet slices).length then 1 else 0)
/-- Step 7: removed slices are zeroised and return to the pool. -/
def State.rebindZeroise (s : State) (gone : Nat) : State :=
  let sl := bitsSet gone
  let s := sl.foldl (fun s k => s.zeroiseSlice k) s
  (s.onMem fun m => { m with caches := m.caches.keep fun k _ => !sl.contains (k / cacheEntries) }).toPool gone 0

/-- The step that an item has reached. From step 6 on its step number also keeps whether the shape changes, and the slices
that go: step + 16 × changed + 32 × mask. -/
def stepOf (n : Nat) : Nat := n % 16

/-- The next step of a started re-binding item. -/
def State.rebindStep (s : State) (p : Nat) (it : Item) : State :=
  match it.kind with
  | .reshape profile slices sets plan _ =>
    let n := stepOf it.step
    if n = 2 then s.rebindMoves p plan.moves
    else if n = 3 then if s.movesLeft p then s else (s.applyUpdate p plan.tables).setStep p 4
    else if n = 4 then
      let s := plan.unbinds.foldl (fun s h => match s.findImage h with
        | some (k, im) => s.removeImage k (!im.staged)
        | none => s) s
      let s := plan.binds.foldl (fun s h => match s.findImage h with
        | some (k, _) => s.bindImage k
        | none => s) s
      let s := plan.grants.foldl (fun s g => s.applyGrant p g) s
      (if plan.grants = [] then s else s.sendHopReport p).setStep p 5
    else if n = 5 then
      let was := s.get Reg.ptnpSlicesSlices p
      if slices = was ∧ sets = s.get Reg.ptnpSetsSets p then (s.set Reg.ptnpCfgProfile p profile).setStep p 6
      else (s.rebindShape p profile slices sets).setStep p (6 + 16 + 32 * maskDiff was slices)
    else if n = 6 then (s.rebindZeroise (it.step / 32)).setStep p (7 + it.step % 32 / 16 * 16)
    else s
  | _ => s

/-- REBINDING_ITEM: from its seam the item runs the steps of R270, one at each command: 1 and 2, then 3 to 7. Step 4 follows when
every seam copy of step 3 has ended. While the device is quenched no step runs (R274). `errs` are errors of lines that come up while
the step runs, which the copies read (R219). -/
def execRebindingItem (p : PtnNo) (errs : List LineError) (s : State) : StepOut :=
  let p := p.toNat
  .next (match s.headItem p with
    | some it =>
      match it.kind with
      | .reshape _ slices sets _ _ =>
        if s.quenched then s
        else if it.started.isNone then
          if s.itemReady p then (((s.meetErrors errs).startHead p).rebindStart p slices sets).setStep p 2 else s
        else (s.meetErrors errs).rebindStep p it
      | _ => s
    | none => s)

/-- The end of a re-binding item: after a change of shape or a bind, no instance is resident (R272). Admission may open again
after a quench, and a fault that came from step 4 on takes effect on the new shape (R274). -/
def State.endReshape (s : State) (p : Nat) (plan : ReshapePlan) (masks : Bool) (a : Adm) : State :=
  let s := (s.popItem p).set Reg.ptnpCfgItem p 0
  let l := s.line p
  let s := s.setLine p { l with
    resident := if masks ∨ plan.binds ≠ [] then none else l.resident, faultDue := none, afterQuench := false }
  let s := s.complete false a St.success
  match l.faultDue with
  | some f => s.faultPtn p f.1 f.2
  | none => s
/-- Run the steps that are left of a re-binding item past step 3, and end it (R274). -/
def State.finishReshape (s : State) (p : Nat) : State :=
  let run := fun (s : State) => match s.headItem p with
    | some it => s.rebindStep p it
    | none => s
  match s.headItem p with
  | some ⟨.reshape _ _ _ plan a, _, _, _, some _, n⟩ =>
    if 4 ≤ stepOf n then
      let s := run (run (run s))
      s.endReshape p plan (decide (16 ≤ ((s.headItem p).map Item.step).getD 0)) a
    else s
  | _ => s

/-! ### Park and wake (R442, R443) -/

/-- PARK_ITEM (R443). -/
def execParkItem (p : PtnNo) (s : State) : StepOut :=
  let p := p.toNat
  .next (match s.headItem p with
    | some ⟨.park st _, _, _, _, _, _⟩ =>
      if s.itemReady p then
        ((s.slicesOf p).foldl (fun s sl => s.setSlicePower sl st) (s.startHead p)).raise Reg.ptnpPwrParked p
      else s
    | _ => s)
/-- WAKE_ITEM (R442): every slice of the partition leaves its power state; in DS2 the device leaves it too (R446). -/
def execWakeItem (p : PtnNo) (s : State) : StepOut :=
  let p := p.toNat
  .next (match s.headItem p with
    | some ⟨.wake _, _, _, _, _, _⟩ =>
      if s.itemReady p then
        ((s.slicesOf p).foldl (fun s sl => s.setSlicePower sl 0) (s.startHead p)).set Reg.ptnpPwrParked p 0
      else s
    | _ => s)

/-! ### Debug items (R475) -/

/-- DEBUG_ITEM: access opens from the item's seam, where DEBUG still stands, and DBG_OPEN completes (R475). -/
def execDebugItem (p : PtnNo) (s : State) : StepOut :=
  let p := p.toNat
  .next (match s.headItem p with
    | some ⟨.debug a, _, _, _, _, _⟩ =>
      if s.itemReady p then ((s.startHead p).raise Reg.ptnpSecDbgItem p).complete false a St.success else s
    | _ => s)
/-- End a debug item that runs or waits. -/
def State.endDebug (s : State) (p : Nat) : State :=
  let l := s.line p
  let gone := l.items.filter Item.isDebug
  gone.foldl (fun s it => s.cancelItem p .none it) (s.setLine p { l with items := l.items.filter fun it => !it.isDebug })

/-! ### Leaving an alloy (R281) -/

/-- The membership of a partition ends: it goes to NONE, its line is its own again, and no JOIN_SYNC is kept (R277). -/
def State.endMembership (s : State) (p : Nat) : State :=
  let alloy := s.get Reg.ptnpAlloyAlloyId p
  let s := match s.tree alloy with
    | some t => s.onNet fun n => { n with
        trees := n.trees.put alloy { t with seen := t.seen.filter fun e => decide (e.1 ≠ 0x17) } }
    | none => s
  let s := (s.setMstate p Ms.none).setMember p Membership.empty
  [Reg.ptnpCfgLead, Reg.ptnpAlloyAlloyId, Reg.ptnpAlloyMembers, Reg.ptnpAlloyLeadDevice, Reg.ptnpAlloyImgReady,
    Reg.ptnpPwrAlloyG].foldl (fun s f => s.set f p 0) s

/-- LEAVE_ITEM: at its seam the lead sends LEAVE with T_l (R281). -/
def execLeaveItem (p : PtnNo) (s : State) : StepOut :=
  let p := p.toNat
  .next (match s.headItem p with
    | some ⟨.leave leaving _ _, _, _, _, _, _⟩ =>
      if s.itemReady p then
        let t := s.now + (s.member p).launchNs
        let alloy := s.get Reg.ptnpAlloyAlloyId p
        let s := (s.startHead p).setMstate p Ms.leaving
        let s := s.setMember p { s.member p with tLeave := some t, leaving := leaving }
        match s.tree alloy with
        | some tr => s.sendMask tr.down 0x1A (s.line p).cmdSeq alloy
            (BitVec.ofNat 64 (t % 2 ^ 40 * 2 ^ 24 + leaving.length % 2 ^ 14))
        | none => s
      else s
    | _ => s)
/-- LEAVE_INSTANT: at T_l leaving members go to NONE, and the rest are ACTIVE without them (R281). -/
def execLeaveInstant (p : PtnNo) (s : State) : StepOut :=
  let p := p.toNat
  let m := s.member p
  .next (match m.tLeave with
    | none => s
    | some t =>
      let s := s.atLeast t
      if m.leaving.contains s.deviceId then s.endMembership p
      else
        let left := m.members.filter fun d => !m.leaving.contains d
        let s := s.setMember p { m with
          members := left, tLeave := none, leaving := []
          digests := m.digests.filter fun e => !m.leaving.contains e.1 }
        let s := (s.setMstate p Ms.active).set Reg.ptnpAlloyMembers p left.length
        (List.range 16).foldl (fun s i => if Nat.testBit (s.get Reg.ptnpAlloyImgBound p) i then s.settleReady p i else s) s)

/-! ### The end of an item (R34, R483) -/

/-- The end of a started item, at the end of its duration. -/
def State.endItem (s : State) (p : Nat) (it : Item) (t : Nat) : State :=
  let at_ := s.atLeast (t + it.duration)
  match it.kind with
  | .bind k a =>
    let s := at_.popItem p
    match s.host.images.find k with
    | some im =>
      if s.nodesSound im.content then (s.bindImage k).complete false a St.success 0 (mkHandle im.gen k)
      else (s.removeImage k false).complete false a St.imgFaulty
    | none => s
  | .unbind k a => ((at_.popItem p).removeImage k true).completeSome a St.success
  | .update _ a => (at_.popItem p).complete false a St.success
  | .reshape _ _ _ plan a =>
    if stepOf it.step = 7 then at_.endReshape p plan (decide (16 ≤ it.step)) a else s
  | .park _ a => (at_.popItem p).complete false a St.success
  | .wake a => (at_.popItem p).completeSome a St.success
  | .leave _ _ a => if (s.member p).tLeave.isSome then s else (at_.popItem p).complete true a St.success
  | .direct .. =>
    let s := s.runSeg p
    if (s.seg p).isSome ∧ s.segIdle p then (s.idleUnits p).popItem p else s
  | .debug .. | .tickSwitch .. | .command .. => s

/-- LINE_ITEM_END: the item at the head of a line reaches the end of its duration, and a seam follows (R34). -/
def execLineItemEnd (p : PtnNo) (s : State) : StepOut :=
  let p := p.toNat
  .next (match s.headItem p with
    | some it =>
      match it.started with
      | some t =>
        let n := (s.line p).items.length
        let s := s.endItem p it t
        if (s.line p).items.length < n then s.seamEffects p else s
      | none => s
    | none => s)

/-- LINE_ITEM_OVERRUN: a started item that has not ended by its duration plus GRACE faults the partition (R483). A debug item
has no duration. -/
def execLineItemOverrun (p : PtnNo) (s : State) : StepOut :=
  let p := p.toNat
  .next (match s.headItem p with
    | some it =>
      match it.started, it.cmd with
      | some t, none =>
        if it.isDebug then s else (s.atLeast (t + it.duration + s.graceNs)).faultPtn p Fc.overrun .none
      | _, _ => s
    | none => s)

/-! ### Tick-source switches (R33, R149, R329, R337, R438, R439) -/

/-- A parent is usable: the role is CHILD, and the parent's port is OPEN and brings VALID TIME (R333, R439). -/
def State.parentUsable (s : State) : Bool :=
  decide (s.role = 2) && decide (s.parentPort < 6) && s.portOpen s.parentPort && s.net.rootHeard.isSome &&
    decide (s.net.missStrokes < 4)
/-- Step 1: a switch begins. -/
def State.beginSwitch (s : State) (fabric : Bool) (a : Option Adm) : State :=
  (s.onClock fun c => { c with switch := some ⟨fabric, a, false, 0, none⟩ }).raise Reg.clkTickSwitching 0

/-- STANDBY_PLL_LOCK: step 2. Every line takes the item, promised to end at T_x + 1,463 ns; a switch that the part itself
makes places none (R337). -/
def execStandbyPllLock (s : State) : StepOut :=
  .next (match s.plant.clock.switch with
    | some w =>
      if w.placed then s
      else
        let s := s.raise Reg.clkTickStandbyLocked 0
        let ps := (List.range 64).filter fun p => decide (s.ptnState p ≠ ptnFree)
        let tx := ps.foldl (fun t p => Nat.max t ((s.line p).queueFree s.now)) s.now
        let s := s.onClock fun c => { c with switch := some { w with placed := true, tx := tx } }
        match w.adm with
        | none => s
        | some _ => ps.foldl (fun s p =>
            let l := s.line p
            s.setLine p { l with items := l.items ++
              [⟨.tickSwitch w.fabric none, s.now, Config.switchNs, tx + Config.switchNs, none, 0⟩] }) s
    | none => s)

/-- The partitions whose lines carry a switch item. -/
def State.switchLines (s : State) : List Nat := (List.range 64).filter fun p => (s.line p).items.any Item.isSwitch
/-- Take the switch items off every line and end the switch. -/
def State.dropSwitch (s : State) : State :=
  let s := s.switchLines.foldl (fun s p =>
    let l := s.line p
    s.setLine p { l with items := l.items.filter fun it => !it.isSwitch }) s
  ((s.onClock fun c => { c with switch := none }).set Reg.clkTickSwitching 0 0).set Reg.clkTickStandbyLocked 0 0

/-- TICK_SWITCH_ITEM: the last line has reached its item. Each channel makes its hold refresh round and the tick stops at
T_sw; a switch to fabric lock whose parent is lost ends with nothing done (R438, R439). -/
def execTickSwitchItem (s : State) : StepOut :=
  .next (match s.plant.clock.switch with
    | some w =>
      let ready := s.switchLines.all fun p => s.itemReady p && ((s.headItem p).map Item.isSwitch).getD false
      if ¬ w.placed ∨ w.tsw.isSome ∨ ¬ ready ∨ s.quenched then s
      else if w.fabric ∧ ¬ s.parentUsable then s.dropSwitch.completeSome w.adm St.admState
      else
        let s := s.switchLines.foldl (fun s p => s.startHead p) s
        let s := s.refreshAll
        s.onClock fun c => { c with stopped := true, switch := some { w with tsw := some s.now } }
    | none => s)

/-- The time state after a switch (R329, R333). -/
def State.afterSwitch (s : State) (fabric : Bool) : State :=
  let was := s.timeLocked
  let st := if s.role = 0 then Ts.local else if s.role = 1 then Ts.root
    else if fabric ∧ s.parentUsable then Ts.acquiring else Ts.unlocked
  let s := if was ∧ st ≠ Ts.local ∧ st ≠ Ts.root then s.loseLock else s
  ((s.set Reg.ftmStsLstate 0 st).onNet fun m => { m with goodStrokes := 0 }).settlePhase

/-- TICK_RESTART: step 5. The count has advanced by 1,024, every frame restarts, and TICK_SOURCE completes (R438). -/
def execTickRestart (s : State) : StepOut :=
  .next (match s.plant.clock.switch with
    | some w =>
      match w.tsw with
      | none => s
      | some t =>
        let s := s.atLeast (t + Config.switchNs)
        let s := s.refreshAll
        let s := (List.range 4).foldl (fun s d => s.set Reg.dieTickTick d (s.get Reg.dieTickTick d + Config.switchTicks)) s
        let s := (s.onClock fun c => { c with stopped := s.quenched, frac := 0 }).restartFrames
        let s := s.dropSwitch.set Reg.clkTickSource 0 (if w.fabric then 1 else 0)
        (s.afterSwitch w.fabric).completeSome w.adm St.success
    | none => s)

/-- AUTO_TICK_SWITCH (R337): a CHILD on the local reference switches by itself once its parent is usable. -/
def execAutoTickSwitch (s : State) : StepOut :=
  .next (if s.released ∧ ¬ s.flag Reg.clkTickSource 0 ∧ s.plant.clock.switch.isNone ∧ s.parentUsable ∧
      s.get Reg.ftmStsLstate 0 = Ts.unlocked then s.beginSwitch true none else s)

/-- The order of a switch: the source in force completes at once, fabric lock needs a usable parent, and only one switch
runs at a time (R439). -/
def State.orderSwitch (s : State) (a : Adm) (fabric : Bool) : State :=
  if s.flag Reg.clkTickSource 0 = fabric then s.complete false a St.success
  else if (fabric ∧ ¬ s.parentUsable) ∨ s.plant.clock.switch.isSome then s.complete false a St.admState
  else s.beginSwitch fabric (some a)
/-- TICK_SOURCE 0 (R438). -/
def execTickSourceLocal (a : Adm) (s : State) : StepOut := .next (s.admin false a true fun s => s.orderSwitch a false)
/-- TICK_SOURCE 1 (R439). -/
def execTickSourceFabric (a : Adm) (s : State) : StepOut := .next (s.admin false a true fun s => s.orderSwitch a true)

/-! ### Ordering parks and wakes (R443) -/

/-- PWR_PARK (R443). -/
def execPwrPark (a : Adm) (p state : Byte) (s : State) : StepOut :=
  .next (s.admin false a (ptnOk p && decide (state = 3 ∨ state = 4)) fun s =>
    let q := p.toNat
    if s.ptnState q ≠ ptnActive ∨ s.mstate q ≠ Ms.none ∨ (state = 4 ∧ (s.line q).resident.isSome) then
      s.complete false a St.admState
    else s.placeItem q (.park state.toNat a) 2000)
/-- PWR_WAKE: at once where no slice of the partition is below SP2, and for a partition that cannot hold an item,
ADM_STATE (R443). -/
def execPwrWake (a : Adm) (p : Byte) (s : State) : StepOut :=
  .next (s.admin false a (ptnOk p) fun s =>
    let q := p.toNat
    if (s.slicesOf q).all fun sl => decide (s.slicePower sl ≤ 2) then s.complete false a St.success
    else if s.ptnState q ≠ ptnActive then s.complete false a St.admState
    else s.placeItem q (.wake (some a)) (greatestOver (s.slicesOf q) fun sl => exitNs (s.slicePower sl)))

end Sys2Proof.Machine
end

