-- ==== Sys2Proof/Machine/Manage.lean ====
section
/-! DEFINITION. Admin commands on instances, queues, objects, fences, argument sets, tables, regions, images, heaps, logs,
apertures and vectors (R174 to R177, R239 to R241, R268, R351, R360, R363 to R384, R388 to R390, R433, R551 to R553). -/

namespace Sys2Proof.Machine

/-! ### Instances (R363 to R366) -/

/-- Whether an instance number is one of the 512 (R360). -/
def instOk (i : BitVec 16) : Bool := decide (i.toNat < 512)

/-- The slot of an image that an instance of a partition may run: bound, not staged and not freeing (R364). -/
def State.usableImage (s : State) (p : Nat) (h : Handle) : Option Nat :=
  match s.findImage h with
  | some (k, im) => if s.imageBound p k ∧ ¬ im.freeing then some k else none
  | none => none

/-- A created instance: no queue, no view, its log off and its aperture unmapped (R364). -/
def Inst.fresh (p fn image : Nat) : Inst :=
  { state := Is.active, ptn := p, fn := fn, image := image, nextImage := none, wasSuspended := false, logging := false
    apertureBase := 0, vectors := none, pasid := none, views := .empty, destroy := none, reset := none }

/-- INST_CREATE (R364). -/
def execInstCreate (a : Adm) (inst : BitVec 16) (p fn : Byte) (image : Handle) (s : State) : StepOut :=
  .next (s.admin false a (instOk inst && ptnOk p) fun s =>
    let i := inst.toNat
    let q := p.toNat
    if s.ptnState q ≠ ptnActive ∨ 8 ≤ s.get Reg.ptnpCfgInstances q then s.complete false a St.admState
    else if (s.inst i).isSome then s.complete false a St.objBusy
    else match s.usableImage q image with
      | none => s.complete false a St.objHandle
      | some k =>
        if fn = 0 ∨ (fn = 1 ∧ s.flag Reg.hifCfgBifurcated 0) then
          ((s.setInst i (Inst.fresh q fn.toNat k)).set Reg.ptnpCfgInstances q (s.get Reg.ptnpCfgInstances q + 1)).complete
            false a St.success
        else s.complete false a St.admFormat)

/-- Whether an instance may be reset or destroyed: ACTIVE or SUSPENDED (R365). -/
def Inst.settled (x : Inst) : Bool := decide (x.state = Is.active ∨ x.state = Is.suspended)

/-- INST_DESTROY: the instance drains, and the command completes when it is FREE. -/
def State.drainInst (s : State) (a : Adm) (i : Nat) (x : Inst) : State :=
  (s.setInst i { x with state := Is.draining, nextImage := none, destroy := some a }).settleInst i

/-- INST_DESTROY, DRAIN (R365). -/
def execInstDestroyDrain (a : Adm) (inst : BitVec 16) (s : State) : StepOut :=
  .next (s.admin false a (instOk inst) fun s =>
    match s.inst inst.toNat with
    | some x => if x.settled then s.drainInst a inst.toNat x else s.complete false a St.admState
    | none => s.complete false a St.admState)

/-- INST_DESTROY, SQUASH (R365). -/
def execInstDestroySquash (a : Adm) (inst : BitVec 16) (s : State) : StepOut :=
  .next (s.admin false a (instOk inst) fun s =>
    match s.inst inst.toNat with
    | some x => if x.settled then (s.squash inst.toNat).drainInst a inst.toNat x else s.complete false a St.admState
    | none => s.complete false a St.admState)

/-- INST_RESET (R365). -/
def execInstReset (a : Adm) (inst : BitVec 16) (s : State) : StepOut :=
  .next (s.admin false a (instOk inst) fun s =>
    match s.inst inst.toNat with
    | some x => if x.settled then s.contextReset inst.toNat (some a) else s.complete false a St.admState
    | none => s.complete false a St.admState)

/-- INST_SUSPEND (R363). -/
def execInstSuspend (a : Adm) (inst : BitVec 16) (s : State) : StepOut :=
  .next (s.admin false a (instOk inst) fun s =>
    let i := inst.toNat
    match s.inst i with
    | some x =>
      if x.state = Is.active then ((s.setInst i { x with state := Is.suspending }).settleInst i).complete false a St.success
      else s.complete false a St.admState
    | none => s.complete false a St.admState)

/-- INST_RESUME (R363). -/
def execInstResume (a : Adm) (inst : BitVec 16) (s : State) : StepOut :=
  .next (s.admin false a (instOk inst) fun s =>
    let i := inst.toNat
    match s.inst i with
    | some x =>
      if x.state = Is.suspended then (s.setInst i { x with state := Is.active }).complete false a St.success
      else s.complete false a St.admState
    | none => s.complete false a St.admState)

/-- INST_IMAGE: the change waits for the next seam of the line; on an idle line it takes effect at once (R364). -/
def execInstImage (a : Adm) (inst : BitVec 16) (image : Handle) (s : State) : StepOut :=
  .next (s.admin false a (instOk inst) fun s =>
    let i := inst.toNat
    match s.inst i with
    | none => s.complete false a St.admState
    | some x =>
      match s.usableImage x.ptn image with
      | none => s.complete false a St.objHandle
      | some k =>
        let l := s.line x.ptn
        let s := if l.items = [] ∧ l.killed = [] then
            (s.setInst i { x with image := k, nextImage := none }).setLine x.ptn
              { l with resident := if l.resident = some i then none else l.resident }
          else s.setInst i { x with nextImage := some k }
        s.complete false a St.success)

/-- SQ_HEAD of a queue, 0 where it does not exist. -/
def State.sqHeadOf (s : State) (i q : Nat) : Nat := ((s.queue i q).map HostQueue.sqHead).getD 0

/-- INST_QUERY: the state at byte 0, SQ_HEAD of queues 0 to 3 from byte 2, the next line sequence at byte 12 (R360). -/
def execInstQuery (a : Adm) (inst : BitVec 16) (s : State) : StepOut :=
  .next (s.admin false a (instOk inst) fun s =>
    let i := inst.toNat
    match s.inst i with
    | none => s.complete false a St.success
    | some x =>
      let seq := ((s.line x.ptn).seq + 1) % 2 ^ 32
      s.complete false a St.success 0
        (x.state + 2 ^ 16 * s.sqHeadOf i 0 + 2 ^ 32 * s.sqHeadOf i 1 + 2 ^ 48 * s.sqHeadOf i 2)
        (s.sqHeadOf i 3 + 2 ^ 32 * seq))

/-! ### Queues (R367) -/

/-- Q_CREATE (R367). -/
def execQCreate (a : Adm) (inst : BitVec 16) (q sqLog2 cqLog2 : Byte) (sqBase cqBase : Word) (s : State) : StepOut :=
  .next (s.admin false a (instOk inst && decide (q.toNat < 8 ∧ sqLog2.toNat ≤ 8 ∧ cqLog2.toNat ≤ 8 ∧
      sqBase.toNat % 4096 = 0 ∧ cqBase.toNat % 4096 = 0)) fun s =>
    let i := inst.toNat
    if (s.inst i).isNone then s.complete false a St.admState
    else if (s.queue i q.toNat).isSome then s.complete false a St.objBusy
    else
      (s.setQueue i q.toNat
        { sqLog2 := sqLog2.toNat, cqLog2 := cqLog2.toNat, sqBase := sqBase.toNat, cqBase := cqBase.toNat, sqHead := 0
          sqTail := 0, cqHead := 0, cqTail := 0, phase := true, used := 0, dmaStop := false, waiting := none, bells := []
          taken := 0 }).complete false a St.success)

/-- Q_DESTROY (R367). -/
def execQDestroy (a : Adm) (inst : BitVec 16) (q : Byte) (s : State) : StepOut :=
  .next (s.admin false a (instOk inst && decide (q.toNat < 8)) fun s =>
    match s.queue inst.toNat q.toNat with
    | none => s.complete false a St.admState
    | some y =>
      if 0 < y.taken then s.complete false a St.objBusy
      else (s.onHost fun h => { h with queues := h.queues.drop (8 * inst.toNat + q.toNat) }).complete false a St.success)

/-! ### Memory objects (R374 to R380) -/

/-- Whether objects and fences may be created on a partition (R380). -/
def State.mayCreate (s : State) (p : Nat) : Bool :=
  decide (s.ptnState p = ptnActive ∨ s.ptnState p = ptnFaulted ∨ s.ptnState p = ptnResetting)

/-- Whether an owner is the partition, or an instance of it that is not FREE. -/
def State.ownerOk (s : State) (p owner : Nat) : Bool :=
  decide (owner = 0xFFFF) || (match s.inst owner with | some x => decide (x.ptn = p) | none => false)

/-- MO_CREATE (R380). -/
def execMoCreate (a : Adm) (p kind flags : Byte) (owner : BitVec 16) (va bytes : Word) (s : State) : StepOut :=
  .next (s.admin false a (ptnOk p && decide (kind.toNat ≤ 1 ∧ flags.toNat ≤ 3)) fun s =>
    let q := p.toNat
    let v := va.toNat
    let n := bytes.toNat
    if ¬ s.mayCreate q then s.complete false a St.admState
    else if ¬ s.ownerOk q owner.toNat then s.complete false a St.objHandle
    else if v % 65536 ≠ 0 ∨ n % 65536 ≠ 0 ∨ n = 0 ∨ 2 ^ 48 < v + n ∨
        s.host.objs.vals.any (fun o => decide (o.ptn = q) && rangesMeet v n o.va o.bytes) then
      s.complete false a St.objRange
    else match firstGap 262144 s.host.objs.entries 0 with
      | none => s.complete false a St.objSpace
      | some k =>
        let g := s.host.objGens.getD k 1
        (s.setObj k { gen := g, ptn := q, append := decide (kind = 1), w := flags.getLsbD 0, ap := flags.getLsbD 1
                      owner := if owner.toNat = 0xFFFF then none else some owner.toNat, va := v, bytes := n, extent := 0
                      void := false, scratching := 0, host := 1, soft := 0, hard := 0, freeing := false }).complete
          false a St.success 0 (mkHandle g k))

/-- Free the object that a handle names: OBJ_HANDLE for one that is stale or freeing (R379). -/
def State.moFree (s : State) (a : Adm) (h : Handle) : State :=
  match s.findObj h with
  | some (k, o) =>
    if o.freeing then s.complete false a St.objHandle else (s.freeObj k).2.complete false a (s.freeObj k).1
  | none => s.complete false a St.objHandle

/-- MO_FREE (R379). -/
def execMoFree (a : Adm) (obj : Handle) (s : State) : StepOut := .next (s.admin false a true fun s => s.moFree a obj)

/-- Free the fence that a handle names (R379). -/
def State.fenceFree (s : State) (a : Adm) (h : Handle) : State :=
  match s.findFence h with
  | some (k, f) =>
    if f.freeing then s.complete false a St.objHandle else (s.freeFence k).2.complete false a (s.freeFence k).1
  | none => s.complete false a St.objHandle

/-- Unbind the image that a handle names: a staged one at once, one that is in use later, any other by an item (R379, R552,
R553). -/
def State.imageFree (s : State) (a : Adm) (h : Handle) : State :=
  match s.findImage h with
  | some (k, im) =>
    if im.freeing then s.complete false a St.objHandle
    else if im.staged then (s.removeImage k false).complete false a St.success
    else if im.dev = 0 then
      (s.setImage k { im with freeing := true, unbinding := true }).placeItem im.ptn (.unbind k (some a)) 2000
    else (s.setImage k { im with host := 0, freeing := true }).complete false a St.deferred
  | none => s.complete false a St.objHandle

/-- OBJ_REF (R378): the delta is added to the host part, and a count of 0 frees. -/
def execObjRef (a : Adm) (kind : Byte) (h : Handle) (delta : BitVec 32) (s : State) : StepOut :=
  .next (s.admin false a (decide (kind.toNat ≤ 2)) fun s =>
    let go := fun (freeing : Bool) (host : Nat) (free : State → State) (put : Nat → State → State) =>
      let n : Int := host + delta.toInt
      if freeing then s.complete false a St.objHandle
      else if n < 0 ∨ (hostLimit : Int) < n then s.complete false a St.objLimit
      else if n = 0 then free s
      else (put n.toNat s).complete false a St.success 0 n.toNat
    if kind = 0 then
      match s.findObj h with
      | some (k, o) => go o.freeing o.host (fun s => s.moFree a h) (fun n s => s.setObj k { o with host := n })
      | none => s.complete false a St.objHandle
    else if kind = 1 then
      match s.findFence h with
      | some (k, f) => go f.freeing f.host (fun s => s.fenceFree a h) (fun n s => s.setFence k { f with host := n })
      | none => s.complete false a St.objHandle
    else
      match s.findImage h with
      | some (k, i) => go i.freeing i.host (fun s => s.imageFree a h) (fun n s => s.setImage k { i with host := n })
      | none => s.complete false a St.objHandle)

/-- APPEND_SET (R379). -/
def execAppendSet (a : Adm) (obj : Handle) (extent : Word) (s : State) : StepOut :=
  .next (s.admin false a (decide (extent.toNat % 64 = 0)) fun s =>
    match s.findObj obj with
    | some (k, o) =>
      if o.freeing ∨ ¬ o.append then s.complete false a St.objHandle
      else if 0 < o.hard then s.complete false a St.objBusy
      else if o.bytes < extent.toNat then s.complete false a St.objRange
      else (s.setObj k { o with extent := extent.toNat }).complete false a St.success
    | none => s.complete false a St.objHandle)

/-! ### Fences (R381, R382) -/

/-- FENCE_CREATE (R380). -/
def execFenceCreate (a : Adm) (p : Byte) (value : Word) (s : State) : StepOut :=
  .next (s.admin false a (ptnOk p) fun s =>
    if ¬ s.mayCreate p.toNat then s.complete false a St.admState
    else match firstGap 65536 s.host.fences.entries 0 with
      | none => s.complete false a St.objSpace
      | some k =>
        let g := s.host.fenceGens.getD k 1
        (s.setFence k ⟨g, p.toNat, value.toNat, 1, 0, false⟩).complete false a St.success 0 (mkHandle g k))

/-- FENCE_FREE (R379). -/
def execFenceFree (a : Adm) (fence : Handle) (s : State) : StepOut :=
  .next (s.admin false a true fun s => s.fenceFree a fence)

/-- FENCE_SIGNAL: a refused signal completes with ADM_STATE (R381). -/
def execFenceSignal (a : Adm) (fence : Handle) (value : Word) (s : State) : StepOut :=
  .next (s.admin false a true fun s =>
    match s.findFence fence with
    | some (_, f) =>
      if f.freeing then s.complete false a St.objHandle
      else
        let r := s.signal fence value.toNat
        r.2.complete false a (if r.1 then St.success else St.admState)
    | none => s.complete false a St.objHandle)

/-- FENCE_VIEW (R382). -/
def execFenceView (a : Adm) (inst : BitVec 16) (view : Byte) (fence : Handle) (s : State) : StepOut :=
  .next (s.admin false a (instOk inst) fun s =>
    match s.inst inst.toNat with
    | none => s.complete false a St.admState
    | some x =>
      if fence = 0 then
        (s.setInst inst.toNat { x with views := x.views.drop view.toNat }).complete false a St.success
      else match s.findFence fence with
        | some (_, f) =>
          if f.freeing ∨ f.ptn ≠ x.ptn then s.complete false a St.objHandle
          else (s.setInst inst.toNat { x with views := x.views.put view.toNat fence }).complete false a St.success
        | none => s.complete false a St.objHandle)

/-! ### Argument sets (R370) -/

/-- The objects that 192 argument bytes name, each once. -/
def argSlots (b : BitVec 1536) : List Nat := dedup ((argObjs b).map fun e => handleSlot e.handle)

/-- ARGSET_WRITE (R370). -/
def execArgsetWrite (a : Adm) (p set : Byte) (data : BitVec 1536) (s : State) : StepOut :=
  .next (s.admin false a (ptnOk p) fun s =>
    let q := p.toNat
    let key := 256 * q + set.toNat
    let bad := (argObjs data).any fun e => match s.findObj e.handle with
      | some (_, o) => o.freeing || decide (o.ptn ≠ q)
      | none => true
    let old := (s.host.argsets.find key).map argSlots |>.getD []
    let full := (argSlots data).any fun k => match s.host.objs.find k with
      | some o => decide (devLimit < o.dev + 1 - if old.contains k then 1 else 0)
      | none => false
    if bad then s.complete false a St.objHandle
    else if full then s.complete false a St.objLimit
    else
      let s := (argSlots data).foldl (fun s k => s.refObj k 1 0) s
      let s := old.foldl (fun s k => s.unrefObj k 1 0) s
      (s.onHost fun h => { h with argsets := h.argsets.put key data }).complete false a St.success)

/-! ### Tables (R239 to R241) -/

/-- Whether a record lies within a table: 1 to 512 entries from an index, in the table area of a slice (R235, R360). -/
def recInRange (r : TableRec) : Bool :=
  decide (r.die.toNat ≤ 3 ∧ r.cluster.toNat ≤ 15 ∧ 1 ≤ r.count.toNat ∧ r.count.toNat = r.entries.length ∧
    r.line.toNat % 4 = 0 ∧ r.index.toNat + r.count.toNat ≤ (if r.line.toNat % 64 = 0 then 512 else 32) ∧
    r.line.toNat + ceilDiv (r.index.toNat + r.count.toNat) 8 ≤ tableArea)

/-- PT_WRITE: applied at once where it is immediate, else a translation update on the line; a slice of another partition is
refused (log entry 33) (R239). -/
def execPtWrite (a : Adm) (p : Byte) (rec : TableRec) (s : State) : StepOut :=
  .next (s.admin false a (ptnOk p && recInRange rec) fun s =>
    let q := p.toNat
    if s.ptnState q = ptnFree then s.complete false a St.admState
    else if ¬ Nat.testBit (s.get Reg.ptnpSlicesSlices q) (recSlice rec) then s.complete false a St.objRange
    else if s.immediate q rec then (s.writeTable rec).complete false a St.success
    else if s.ptnState q ≠ ptnActive then s.complete false a St.admState
    else (s.staleRanges q (s.coveredRanges q rec)).placeItem q (.update rec a) (updateNs rec.entries.length))

/-! ### Regions and open orders (R174 to R177, R195, R210, R268) -/

/-- The channel sets that an image's windows use beside its slices. -/
def imageSets (im : ImageContent) : Nat :=
  sliceMask ((dedup (im.windows.map fun w => chSlice w.1)).filter fun sl => !im.sliceMap.contains sl)
/-- The shapes, slices and sets, that a partition may come to hold: its own, those of its staged images with its own sets, with
theirs beside them or with theirs alone, and those of the re-binding items on its line (R268; log entry 34). -/
def State.futureShapes (s : State) (p : Nat) : List (Nat × Nat) :=
  let slices := s.get Reg.ptnpSlicesSlices p
  let sets := s.get Reg.ptnpSetsSets p
  let staged := s.host.images.vals.filter fun im => decide (im.ptn = p) && im.staged
  (slices, sets) :: (staged.flatMap fun im =>
    let sl := sliceMask im.content.sliceMap
    let se := imageSets im.content
    [(sl, sets - (sets &&& sl)), (sl, (sets ||| se) - (sets &&& sl)), (sl, se)]) ++
  (s.line p).items.filterMap fun it => match it.kind with
    | .reshape _ sl se _ _ => some (sl, se)
    | _ => none
/-- Whether a region may be created: one for the present shape in whole frames that its object maps, a staged one in whole
frames of the group in a shape to come, whose mapping the re-binding item's step 6 judges (R174, R210, R268). -/
def State.regionOk (s : State) (p e : Nat) (g : Region) : Bool :=
  if g.staged then (s.futureShapes p).any fun sh => (s.asStaged p sh.1 sh.2).regionAligned p e g
  else s.regionFits p e g

/-- REGION_CREATE: whole frames of one group over pages of an object; the statuses of its refusals are the model's (log entry
34) (R174). -/
def execRegionCreate (a : Adm) (engine flags : Byte) (region : BitVec 16) (obj : Handle) (base lines : BitVec 32) (kind : Byte)
    (s : State) : StepOut :=
  .next (s.admin false a (decide (engine.toNat < 24 ∧ flags.toNat ≤ 1 ∧ region.toNat < 1024 ∧ base.toNat < 2 ^ 30 ∧
      lines.toNat < 2 ^ 30 ∧ kind.toNat ≤ 2)) fun s =>
    let e := engine.toNat
    let x := s.engine e
    match s.findObj obj with
    | none => s.complete false a St.objHandle
    | some (k, o) =>
      if o.freeing then s.complete false a St.objHandle
      else if x.regions.has region.toNat then s.complete false a St.objBusy
      else if Nat.testBit (s.get Reg.astDetailFailedEngines 0) e then s.complete false a St.imgPlacement
      else
        let staged := decide (flags = 1)
        let g : Region := ⟨base.toNat, lines.toNat, o.ptn, kind.toNat, k, staged, 0, false⟩
        let s := s.hubWalks o.ptn o.va o.bytes
        if ¬ s.regionOk o.ptn e g then s.complete false a St.objRange
        else if devLimit ≤ o.dev then s.complete false a St.objLimit
        else ((s.setEngine e { x with regions := x.regions.put region.toNat g }).refObj k 1 0).complete false a St.success)

/-- REGION_DESTROY: deferred while a bound image or an open-queue entry uses the region (R176). -/
def execRegionDestroy (a : Adm) (engine : Byte) (region : BitVec 16) (s : State) : StepOut :=
  .next (s.admin false a (decide (engine.toNat < 24 ∧ region.toNat < 1024)) fun s =>
    let e := engine.toNat
    let n := region.toNat
    let x := s.engine e
    match x.regions.find n with
    | none => s.complete false a St.objHandle
    | some g =>
      if g.freeing then s.complete false a St.objHandle
      else if g.uses = 0 then
        ((s.setEngine e { x with regions := x.regions.drop n }).unrefObj g.obj 1 0).complete false a St.success
      else (s.setEngine e { x with regions := x.regions.put n { g with freeing := true } }).complete false a St.deferred)

/-- OPEN_ORDER: a COPY, FILL, GATHER or SCATTER waits for an entry of its engine's open queue, and completes when it has
ended (R195). -/
def execOpenOrder (a : Adm) (engine p : Byte) (desc : Line) (s : State) : StepOut :=
  .next (s.admin false a (decide (engine.toNat < 24) && ptnOk p) fun s =>
    let e := engine.toNat
    let q := p.toNat
    let op := descOp desc
    if s.ptnState q ≠ ptnActive then s.complete false a St.admState
    else if ¬ (descLayoutOk desc ∧ descStart desc = 0 ∧ descEnd desc = 0 ∧ ¬ descFlag desc 5) ∨
        ¬ (op = 3 ∨ op = 4 ∨ op = 7 ∨ op = 8) then s.complete false a St.admFormat
    else if ¬ s.descPlaced q e desc true then s.complete false a St.objRange
    else (s.useRegions desc).placeOrder e q (s.get Reg.ptnpRegCfgApClass q) desc (.order a))

/-! ### Images (R132, R133, R137, R378, R551 to R553) -/

/-- IMG_BIND: the checks of R551 and of the loader, then a bind item, or at once for a staged image. -/
def execImgBind (a : Adm) (p flags index : Byte) (obj : Handle) (s : State) : StepOut :=
  .next (s.admin false a (ptnOk p && decide (flags.toNat ≤ 1 ∧ (index.toNat ≤ 15 ∨ index.toNat = 255))) fun s =>
    let q := p.toNat
    let staged := decide (flags = 1)
    let alloy := decide (index.toNat ≤ 15)
    if s.ptnState q ≠ ptnActive then s.complete false a St.admState
    else match s.findObj obj with
      | none => s.complete false a St.objHandle
      | some (ok, o) =>
        if o.freeing ∨ o.ptn ≠ q then s.complete false a St.objHandle
        else if alloy ∧ ¬ (s.mstate q = Ms.joining ∨ s.mstate q = Ms.active) then s.complete false a St.alloyBusy
        else
          let rd := s.objRd q o.va
          let im := readImage rd
          let j := if staged then s.asStaged q (sliceMask im.sliceMap) (s.get Reg.ptnpSetsSets q ||| imageSets im) else s
          let mapped := s.mappedX q o.va (Nat.min o.bytes (Nat.max im.bytes 64))
          let status := j.imageStatus q rd o.bytes mapped alloy
          let s := s.hubWalks q o.va (Nat.min o.bytes (Nat.max im.bytes 64))
          s.reading q (s.vaDpas q ((List.range (Nat.min im.bytes o.bytes / 64)).map fun n => o.va + 64 * n)) (fun s => s.complete false a St.imgFormat) fun s =>
          if status ≠ St.success then s.complete false a status
          else if devLimit ≤ o.dev then s.complete false a St.objLimit
          else match firstGap imageSlots s.host.images.entries 0 with
            | none => s.complete false a St.imgSpace
            | some k =>
              let g := s.host.imageGens.getD k 1
              let bytes := (List.range (im.bytes / 64)).flatMap fun n =>
                lineBytes ((s.readVa q (o.va + 64 * n)).getD 0)
              let r := s.takeBlocks q im
              let img : Image :=
                { gen := g, ptn := q, obj := ok, index := if alloy then some index.toNat else none, staged := staged
                  content := im, digest := Config.sha256 bytes, wcetDigest := Config.sha256 (wcetBytes im), host := 1
                  dev := 0, freeing := false, unbinding := false, blocks := r.1 }
              let s := (r.2.setImage k img).refObj ok 0 1
              if staged then (s.installHops img).complete false a St.success 0 (mkHandle g k)
              else s.placeItem q (.bind k a) (bindNs im))

/-- IMG_UNBIND (R553). -/
def execImgUnbind (a : Adm) (image : Handle) (s : State) : StepOut :=
  .next (s.admin false a true fun s => s.imageFree a image)

/-! ### The heap (R383) -/

/-- Whether an accepted command of a line names an object. -/
def ExecLine.names (l : ExecLine) (slot : Nat) : Bool :=
  (l.cmds ++ l.held ++ l.killed.map Prod.fst).any fun c => c.objs.any fun e => decide (handleSlot e.handle = slot)

/-- Whether a size is a power of two from 64 KiB to 1 GiB. -/
def heapSizeOk (n : Nat) : Bool := (List.range 15).any fun k => decide (n = classBytes k)

/-- HEAP_SET (R383). -/
def execHeapSet (a : Adm) (p : Byte) (obj : Handle) (s : State) : StepOut :=
  .next (s.admin false a (ptnOk p) fun s =>
    let q := p.toNat
    let l := s.line q
    let now := s.host.heaps.find q
    let busyNow := (now.map fun hp => l.names hp.obj).getD false
    let giveUp := fun (s : State) => match now with
      | some hp => (s.onHost fun h => { h with heaps := h.heaps.drop q }).unrefObj hp.obj 0 1
      | none => s
    if s.ptnState q = ptnFree ∨ s.ptnState q = ptnDestroying then s.complete false a St.admState
    else if obj = 0 then
      if busyNow then s.complete false a St.objBusy else (giveUp s).complete false a St.success
    else match s.findObj obj with
      | none => s.complete false a St.objHandle
      | some (k, o) =>
        if o.freeing ∨ o.ptn ≠ q then s.complete false a St.objHandle
        else if o.append ∨ ¬ heapSizeOk o.bytes ∨ o.va % o.bytes ≠ 0 then s.complete false a St.objRange
        else if busyNow ∨ l.names k then s.complete false a St.objBusy
        else if devLimit ≤ o.dev then s.complete false a St.objLimit
        else
          let s := giveUp (s.refObj k 0 1)
          (s.onHost fun h => { h with heaps := h.heaps.put q ⟨k, []⟩ }).complete false a St.success)

/-- HEAP_RESET: every block is free (R383). -/
def execHeapReset (a : Adm) (p : Byte) (s : State) : StepOut :=
  .next (s.admin false a (ptnOk p) fun s =>
    let q := p.toNat
    match s.host.heaps.find q with
    | none => s.complete false a St.admState
    | some hp =>
      if (s.line q).names hp.obj then s.complete false a St.objBusy
      else (s.onHost fun h => { h with heaps := h.heaps.put q { hp with blocks := [] } }).complete false a St.success)

/-! ### The written-page log (R388 to R390) -/

/-- Act on an instance that is not FREE; ADM_STATE for one that is. -/
def State.onInstance (s : State) (a : Adm) (inst : BitVec 16) (go : Nat → Inst → State → State) : State :=
  match s.inst inst.toNat with
  | none => s.complete false a St.admState
  | some x => go inst.toNat x s

/-- LOG_CTL 1: the bitmap is cleared and logging starts (R388). -/
def execLogCtlEnable (a : Adm) (inst : BitVec 16) (s : State) : StepOut :=
  .next (s.admin false a (instOk inst) fun s => s.onInstance a inst fun i x s =>
    let s := s.onHost fun h => { h with logBits := h.logBits.keep fun k _ => decide (k / 2 ^ 25 ≠ i) }
    (s.setInst i { x with logging := true }).complete false a St.success)

/-- LOG_CTL 0: logging stops (R388). -/
def execLogCtlDisable (a : Adm) (inst : BitVec 16) (s : State) : StepOut :=
  .next (s.admin false a (instOk inst) fun s => s.onInstance a inst fun i x s =>
    (s.setInst i { x with logging := false }).complete false a St.success)

/-- 64-bit words of the bitmap of an instance (R388). -/
def State.logWords (s : State) : Nat := 768 * (s.channelLines / 1024) / 64
/-- A 64-bit word of an instance's bitmap. -/
def State.logWord (s : State) (i w : Nat) : Nat :=
  ((List.range 64).map fun b => if s.host.logBits.has (i * 2 ^ 25 + 64 * w + b) then 2 ^ b else 0).sum

/-- Copy words of an instance's bitmap to host memory and clear them. -/
def State.moveLog (s : State) (i first n dst : Nat) : State :=
  let bytes := (List.range n).flatMap fun k => natBytes 8 (s.logWord i (first + k))
  (s.emit (.hostWrite dst bytes)).onHost fun h => { h with logBits := h.logBits.keep fun k _ =>
    !(decide (k / 2 ^ 25 = i) && decide (64 * first ≤ k % 2 ^ 25 ∧ k % 2 ^ 25 < 64 * (first + n))) }
/-- LOG_FETCH: words are copied to host memory and cleared (R390). Where a write of its buffer meets an error, the words before it
have been, and how many they are is a free value (R358; log entry 11). -/
def execLogFetch (a : Adm) (inst : BitVec 16) (first count : BitVec 32) (dst : Word) (s : State) : StepOut :=
  .next (s.takeAnd false a (instOk inst) fun s => s.onInstance a inst fun i _ s =>
    let f := first.toNat
    let n := count.toNat
    if s.logWords < f + n then s.complete false a St.objRange
    else if a.dmaErr then
      let written := s.draw
      ((written.2.moveLog i f (written.1.toNat % (n + 1)) dst.toNat).raise Reg.hifStsDmaErr 0).complete false a St.admDma
    else (s.moveLog i f n dst.toNat).complete false a St.success)

/-! ### Aperture, PASID and vectors (R285, R385, R433) -/

/-- APERTURE_MAP: a base of 0 unmaps the window (R385). -/
def execApertureMap (a : Adm) (inst : BitVec 16) (base : Word) (s : State) : StepOut :=
  .next (s.admin false a (instOk inst && decide (base.toNat % 65536 = 0)) fun s => s.onInstance a inst fun i x s =>
    (s.setInst i { x with apertureBase := base.toNat }).complete false a St.success)

/-- PASID_BIND (R285). -/
def execPasidBind (a : Adm) (inst : BitVec 16) (pasid : BitVec 32) (s : State) : StepOut :=
  .next (s.admin false a (instOk inst && decide (pasid.toNat < 2 ^ 20)) fun s => s.onInstance a inst fun i x s =>
    (s.setInst i { x with pasid := some pasid.toNat }).complete false a St.success)

/-- Whether a vector of a function belongs to an instance. -/
def State.vectorTaken (s : State) (fn v : Nat) : Bool :=
  s.host.insts.vals.any fun y => decide (y.fn = fn) && match y.vectors with
    | some (first, n) => decide (first ≤ v ∧ v < first + n)
    | none => false

/-- VEC_ALLOC: the lowest free aligned block from vector 16 on (R433). -/
def execVecAlloc (a : Adm) (inst : BitVec 16) (count : Byte) (s : State) : StepOut :=
  let n := count.toNat
  .next (s.admin false a (instOk inst && decide (n = 1 ∨ n = 2 ∨ n = 4 ∨ n = 8)) fun s => s.onInstance a inst fun i x s =>
    if x.vectors.isSome then s.complete false a St.objBusy
    else match firstIn 2048 0 fun v =>
        decide (v % n = 0 ∧ 16 ≤ v ∧ v + n ≤ 2048) && (List.range n).all fun k => !s.vectorTaken x.fn (v + k) with
      | none => s.complete false a St.objSpace
      | some v => (s.setInst i { x with vectors := some (v, n) }).complete false a St.success 0 v)

/-- VEC_FREE (R433). -/
def execVecFree (a : Adm) (inst : BitVec 16) (s : State) : StepOut :=
  .next (s.admin false a (instOk inst) fun s => s.onInstance a inst fun i x s =>
    if x.vectors.isSome then (s.setInst i { x with vectors := none }).complete false a St.success
    else s.complete false a St.admState)

end Sys2Proof.Machine
end

