-- ==== Sys2Proof/Machine/Partition.lean ====
section
/-! DEFINITION. Creating, destroying, resetting and re-binding partitions (R253, R261 to R274, R282, R404, R477, R492). -/

namespace Sys2Proof.Machine

/-! ### Creation (R264) -/

/-- PTN_CREATE: the slices and sets leave the pool, the key epoch advances, and the partition is ACTIVE. -/
def State.createPtn (s : State) (q profile quota slices sets : Nat) : State :=
  let s := (s.set Reg.ptnFreeFree 0 (maskDiff (s.get Reg.ptnFreeFree 0) slices)).set Reg.ptnSetsFreeSetsFree 0
    (maskDiff (s.get Reg.ptnSetsFreeSetsFree 0) sets)
  let s := (s.set Reg.ptnpSlicesSlices q slices).set Reg.ptnpSetsSets q sets
  let s := (s.set Reg.ptnpSecDebug q 0).set Reg.ptnpSecProfile q 0
  let s := s.set Reg.ptnpMemEpochEpoch q (s.get Reg.ptnpMemEpochEpoch q + 1)
  let chans := (bitsSet (slices ||| sets)).flatMap sliceChannels
  let s := s.setOwner (bitsSet slices) chans (some q)
  let s := (bitsSet slices).foldl (fun s sl => s.setSlicePower sl 0) s
  let s := chans.foldl (fun s ch => s.setChannel ch { s.channel ch with selfRefresh := false }) s
  let s := (s.set Reg.ptnpXltQuotaQuota q quota).set Reg.ptnpCfgProfile q profile
  let s := s.set Reg.ptnpCfgPretranslate q (if 4 < (bitsSet slices).length then 1 else 0)
  let s := s.setLine q { s.line q with idleAt := s.now }
  (s.set Reg.blkCtlOwner (ptnpPage q) (64 + q)).set Reg.ptnpCfgState q ptnActive

/-- PTN_CREATE (R264). -/
def execPtnCreate (a : Adm) (p profile : Byte) (quota : BitVec 32) (slices sets : Word) (s : State) : StepOut :=
  .next (s.admin false a (ptnOk p && decide (profile.toNat ≤ 3)) fun s =>
    let q := p.toNat
    let sl := slices.toNat
    let se := sets.toNat
    if s.compat then s.complete false a St.ptnCompat
    else if s.ptnState q ≠ ptnFree ∨ (s.line q).items ≠ [] then s.complete false a St.ptnInUse
    else if sl = 0 ∨ maskDiff sl (s.get Reg.ptnFreeFree 0) ≠ 0 ∨ maskDiff se (s.get Reg.ptnSetsFreeSetsFree 0) ≠ 0 then
      s.complete false a St.ptnNotFree
    else if quarterEntries < s.quotaElse q + quota.toNat then s.complete false a St.ptnQuota
    else if profile = 3 then s.complete false a St.ptnFormat
    else (s.createPtn q profile.toNat quota.toNat sl se).complete false a St.success)

/-! ### Resets (R266, R274, R477, R492) -/

/-- A started item other than a command, a debug or a leave item reaches its end before a reset takes effect (R165, R274). -/
def State.runOutItem (s : State) (p : Nat) : State :=
  let s := s.finishReshape p
  match s.headItem p with
  | some it =>
    match it.started, it.kind with
    | some t, .bind .. => s.endItem p it t
    | some t, .unbind .. => s.endItem p it t
    | some t, .update .. => s.endItem p it t
    | some t, .park .. => s.endItem p it t
    | some t, .wake .. => s.endItem p it t
    | _, _ => s
  | none => s

/-- The lead hears that a member's images are unbound (R280). -/
def State.unbindIndices (s : State) (p : Nat) : State :=
  (List.range 16).foldl (fun s i =>
    if Nat.testBit (s.get Reg.ptnpAlloyImgBound p) i then s.sendDigest p i none else s) s

/-- Step 4 of R477: on each engine that holds channels of the slices under anneal, the hub places a fill of them in the open queue
(R195, R197). -/
def State.placeFills (s : State) (p : Nat) : State :=
  (s.slicesOf p).foldl (fun s sl =>
    (dedup ((sliceChannels sl).map fun ch => ch / 32)).foldl (fun s e => s.placeOrder e p 0 0 (.fill sl)) s) s
/-- Whether an anneal fill of a partition is outstanding. -/
def State.fillsLeft (s : State) (p : Nat) : Bool :=
  s.engines.engines.vals.any fun x => (x.queue.vals ++ x.waiting).any fun o => decide (o.ptn = p) && match o.origin with
    | .fill _ => true
    | _ => false

/-- End the line of a partition for an ordered reset and anneal it: victims have their notice before the kill, held commands
are released at once, and items end or are removed (R49, R52, R274, R492). -/
def State.resetPtn (s : State) (p : Nat) (destroy : Bool) (adm : Option Adm) : State :=
  let s := s.runOutItem p
  let s := if s.ptnState p = ptnActive then
      (s.line p).cmds.foldl (fun s c => s.withdrawAbort p c .adminReset) s
    else s
  let s := (s.killLine p ⟨St.killed, .adminReset, 0, none, 0⟩).releaseHeld p .adminReset
  let s := s.unbindIndices p
  let s := s.set Reg.ptnpCfgState p (if destroy then ptnDestroying else ptnResetting)
  let s := s.startAnneal p destroy adm
  (if s.plant.boot.resets.any fun r => decide (r.level = 3 ∧ r.ptn = p) && r.overwriting then s.placeFills p else s).tellResume p

/-- PTN_DESTROY (R266). -/
def execPtnDestroy (a : Adm) (p : Byte) (s : State) : StepOut :=
  .next (s.admin false a (ptnOk p) fun s =>
    let q := p.toNat
    if s.compat then s.complete false a St.ptnCompat
    else if ¬ (s.ptnState q = ptnActive ∨ s.ptnState q = ptnFaulted) then s.complete false a St.admState
    else if 0 < s.get Reg.ptnpCfgInstances q then s.complete false a St.ptnInstances
    else if s.mstate q ≠ Ms.none then s.complete false a St.ptnAlloy
    else s.resetPtn q true (some a))

/-- PTN_RESET: of a member that is not the lead it is a fault of that member first (R404). -/
def execPtnReset (a : Adm) (p : Byte) (s : State) : StepOut :=
  .next (s.admin false a (ptnOk p) fun s =>
    let q := p.toNat
    let m := s.mstate q
    if ¬ (s.ptnState q = ptnActive ∨ s.ptnState q = ptnFaulted) then s.complete false a St.admState
    else if (m = Ms.joining ∨ m = Ms.active ∨ m = Ms.leaving) ∧ ¬ s.flag Reg.ptnpCfgLead q then
      (s.faultPtn q Fc.orderedReset .none).resetPtn q false (some a)
    else s.resetPtn q false (some a))

/-- ANNEAL_OVERWRITE_END: step 4 of R477 has run to completion: no anneal fill of the partition is left (R197). -/
def execAnnealOverwriteEnd (p : PtnNo) (s : State) : StepOut :=
  .next (match s.plant.boot.resets.find? fun r => decide (r.level = 3 ∧ r.ptn = p.toNat) && r.overwriting with
    | some r => if s.fillsLeft p.toNat then s else (s.endAnneal r true).tellResume p.toNat
    | none => s)

/-! ### Re-binding orders (R267 to R270) -/

/-- The DPAs of a move's reference, where its region belongs to the partition and holds its lines. -/
def State.moveExtent (s new : State) (p : Nat) (r : Ref) (n : Nat) : Option (List Nat) :=
  match s.anyRegion r with
  | some g =>
    if r.zeroOk ∧ g.ptn = p ∧ r.line + n ≤ g.lines then some ((List.range n).filterMap fun k => s.moveDpa new r k) else none
  | none => none

/-- Row 4 of R269: sources owned before, destinations owned after, and no move meets what another writes. -/
def State.movesOk (s new : State) (p : Nat) (moves : List Move) : Bool :=
  let ext := moves.map fun m => (s.moveExtent new p (moveRef m.src) m.lines.toNat, s.moveExtent new p (moveRef m.dst) m.lines.toNat)
  (ext.all fun e => match e with
    | (some a, some b) => (a.all fun d => decide (s.chOwner (dpaChannel d) = some p)) &&
        b.all fun d => decide (new.channelsOwner (chSlice (dpaChannel d)) = some p)
    | _ => false) &&
  (List.range ext.length).all fun i => (List.range ext.length).all fun j =>
    decide (i = j) || match ext[i]?, ext[j]? with
      | some (some a, some b), some (_, some w) => !(a.any w.contains) && !(b.any w.contains)
      | _, _ => true

/-- Whether an image suits a shape: its SLICE_MAP, and the channels of its windows (R136). -/
def imageSuits (im : Image) (slices sets : Nat) : Bool :=
  decide (sliceMask im.content.sliceMap = slices) &&
    im.content.windows.all fun w => Nat.testBit (slices ||| sets) (chSlice w.1)

/-- Row 5 of R269. -/
def State.stagesOk (s : State) (p slices sets : Nat) (plan : ReshapePlan) : Bool :=
  let gone := plan.unbinds.filterMap fun h => (s.findImage h).map Prod.fst
  (plan.unbinds.all fun h => match s.findImage h with
    | some (_, im) => decide (im.ptn = p) && !im.freeing
    | none => false) &&
  (plan.binds.all fun h => match s.findImage h with
    | some (k, im) => decide (im.ptn = p) && im.staged && !im.freeing && imageSuits im slices sets && !gone.contains k
    | none => false) &&
  s.host.images.entries.all fun e => decide (e.2.ptn ≠ p) || e.2.staged || gone.contains e.1 || imageSuits e.2 slices sets

/-- Row 7 of R269: grants take only what the pool of a port direction holds, and no control slot (R306, R312, R418). -/
def State.grantsOk (s : State) (p : Nat) (grants : List Grant) : Bool :=
  grants.all fun g =>
    let n := g.port.toNat
    let d := g.dir.toNat
    let want := (List.range 6250).filter fun k => g.bitmap.getLsbD k
    let others := (s.net.slots.entries.filter fun e => decide (e.1 / 8192 = 2 * n + d ∧ 0x80 ≤ e.2 ∧ e.2 ≠ 0x80 + p)).map
      fun e => e.1 % 8192
    (want.all fun k => decide (k % 125 ≠ 0) && !others.contains k) &&
      decide (want.length + others.length + s.get Reg.bwrLinkOpenReserve n ≤ 6200)

/-- The bound of a seam copy, in ns (R196). -/
def seamCopyNs (lines cmin : Nat) : Nat :=
  let u := ceilDiv lines (91 * cmin)
  1500 + ceilDiv ((ceilDiv (u * 64) 60 * 64 + 64) * 1000) 595

/-- The duration of a re-binding item (R270). -/
def State.reshapeNs (s new : State) (p slices sets : Nat) (plan : ReshapePlan) : Nat :=
  let was := s.get Reg.ptnpSlicesSlices p
  let wasSets := s.get Reg.ptnpSetsSets p
  let add := maskDiff slices was
  let step1 := greatestOver (bitsSet add) fun sl => exitNs (s.slicePower sl)
  let step2 := if add = 0 ∧ maskDiff sets wasSets = 0 then 0 else 10000
  let group := fun (r : Ref) => match s.anyRegion r with
    | some g => if g.staged then new.groupSize r.engine p else s.groupSize r.engine p
    | none => 1
  let step3 := (plan.moves.map fun m =>
    seamCopyNs m.lines.toNat (Nat.max 1 (Nat.min (group (moveRef m.src)) (group (moveRef m.dst))))).sum
  let entries := (plan.tables.map fun r => r.entries.length).sum
  let step4 := if plan.tables = [] then 0 else updateNs entries
  let step5 := 2000 * plan.unbinds.length + (plan.binds.map fun h =>
    ((s.findImage h).map fun e => bindNs e.2.content).getD 0).sum
  let step6 := if slices = was ∧ sets = wasSets then 0 else 20000
  let step7 := if maskDiff was slices = 0 then 0 else 40000
  step1 + step2 + step3 + step4 + step5 + step6 + step7

/-- Whether a plan is laid out as R361 gives. -/
def planOk (plan : ReshapePlan) : Bool :=
  decide (plan.moves.length ≤ 256) && plan.tables.all recInRange &&
    plan.grants.all fun g => decide (g.port.toNat < 6 ∧ g.dir.toNat ≤ 1)

/-- A re-binding item of a member stands on the alloy line: the member asks its lead to place it, and a lead tells the members
to hold at the seam for its duration, in messages of the model's own form, since the spec gives none (R282; log entry 84). -/
def State.tellLine (s : State) (p duration : Nat) : State :=
  if s.mstate p = Ms.none then s
  else if s.flag Reg.ptnpCfgLead p then s.tellMembers p [p, 253, duration]
  else s.sendLong (s.leadDevice p) 0 [p, 254, duration]

/-- Place a re-binding item: what it adds leaves the pool, what it unbinds takes no further command, and the store entries that
its tables cover are stale (R241, R261, R267; log entry 35). -/
def State.placeReshape (s : State) (a : Adm) (q profile slices sets : Nat) (plan : ReshapePlan) (duration : Nat) : State :=
  let add := maskDiff slices (s.get Reg.ptnpSlicesSlices q)
  let addSets := maskDiff sets (s.get Reg.ptnpSetsSets q)
  let s := (s.set Reg.ptnFreeFree 0 (maskDiff (s.get Reg.ptnFreeFree 0) add)).set Reg.ptnSetsFreeSetsFree 0
    (maskDiff (s.get Reg.ptnSetsFreeSetsFree 0) addSets)
  let s := plan.unbinds.foldl (fun s h => match s.findImage h with
    | some (k, im) => s.setImage k { im with freeing := true, unbinding := true }
    | none => s) s
  let s := s.staleRanges q (plan.tables.flatMap fun r => s.coveredRanges q r)
  (s.placeItem q (.reshape profile slices sets plan a) duration).tellLine q duration

/-- PTN_RESHAPE (R269). -/
def execPtnReshape (a : Adm) (p profile : Byte) (slices sets : Word) (plan : ReshapePlan) (s : State) : StepOut :=
  .next (s.admin false a (ptnOk p && decide (profile.toNat ≤ 3) && planOk plan) fun s =>
    let q := p.toNat
    let sl := slices.toNat
    let se := sets.toNat
    let was := s.get Reg.ptnpSlicesSlices q
    let wasSets := s.get Reg.ptnpSetsSets q
    let gone := maskDiff was sl
    let new := s.asStaged q sl se
    if s.compat then s.complete false a St.ptnCompat
    else if s.ptnState q ≠ ptnActive then s.complete false a St.admState
    else if profile = 3 then s.complete false a St.ptnFormat
    else if maskDiff (maskDiff sl was) (s.get Reg.ptnFreeFree 0) ≠ 0 ∨
        maskDiff (maskDiff se wasSets) (s.get Reg.ptnSetsFreeSetsFree 0) ≠ 0 then s.complete false a St.ptnNotFree
    else if sl = 0 ∨ (s.tables q).any (fun t => Nat.testBit gone t.1) ∨
        plan.tables.any (fun r => !Nat.testBit (sl ||| was) (recSlice r)) then s.complete false a St.ptnTables
    else if ¬ s.movesOk new q plan.moves then s.complete false a St.ptnMove
    else if ¬ s.stagesOk q sl se plan then s.complete false a St.ptnStage
    else if 4 < (bitsSet sl).length ∧ s.get Reg.ptnpXltQuotaQuota q = 0 then s.complete false a St.ptnQuota
    else if ¬ s.grantsOk q plan.grants then s.complete false a St.ptnLink
    else s.placeReshape a q profile.toNat sl se plan (s.reshapeNs new q sl se plan))

end Sys2Proof.Machine
end

