-- ==== Sys2Proof/Machine/Preempt.lean ====
section
/-! DEFINITION. Pre-emption (R398 to R406). -/

namespace Sys2Proof.Machine

/-- The insertion point: after the running item and the last line item (R400). -/
def insertionPoint (items : List Item) : Nat :=
  ((withIdx items).map fun e => if e.2.started.isSome ∨ e.2.cmd.isNone then e.1 + 1 else 0).foldl Nat.max 0

/-- The running command that mode 2 makes a victim: launched, and before its internal commit. -/
def runningVictim (items : List Item) : Option Cmd :=
  match items.head? with
  | some it => match it.started, it.cmd with
    | some _, some c => if c.phase = .held then none else some c
    | _, _ => none
  | none => none

/-- A walk over displaced commands (R401): the victims so far with the command whose kill takes them with it, the survivors
with their switch terms judged again, the predecessor's bound end and instance, and the reservations made. -/
structure Walk where
  victims : List (Cmd × Option Nat)
  kept : List Cmd
  pred : Nat
  last : Nat
  tent : List Nat

/-- The LINE_SEQ of the victim that writes what a command names. -/
def Walk.writer (w : Walk) (c : Cmd) : Option Nat :=
  (w.victims.find? fun v => v.1.writes.any fun k => c.reads.contains k).map fun v => v.2.getD v.1.seq

/-- A displaced command with its switch terms judged again, and the entries that it then needs in each quarter (R394, R401). -/
def State.rejudged (s : State) (p : Nat) (last : Nat) (c : Cmd) : Cmd × List Nat :=
  s.withSwitch p (decide (c.op ≠ 3 ∧ c.inst ≠ last)) c

/-- One displaced command of the walk. -/
def State.walkOne (s : State) (p : Nat) (alloyLine : Bool) (w : Walk) (c : Cmd) : Walk :=
  let out := fun (dep : Option Nat) => { w with victims := w.victims ++ [(c, dep)] }
  match w.writer c with
  | some n => out (some n)
  | none =>
    if alloyLine then out none
    else
      let r := s.rejudged p w.last c
      let bound := Nat.max (c.tNow + Config.admitNs) w.pred + r.1.d + r.1.m
      if (List.range 4).any (fun q => decide (0 < r.2.getD q 0 ∧ s.freeQuota p q < r.2.getD q 0 + w.tent.getD q 0)) then out none
      else if c.tPromise < bound then out none
      else { w with kept := w.kept ++ [r.1], pred := bound, last := c.inst
                    tent := (List.range 4).map fun q => w.tent.getD q 0 + r.2.getD q 0 }

/-- Put survivors back in the place of the displaced commands that they were. -/
def keepItems (items : List Item) (kept : List Cmd) : List Item :=
  items.map fun it => match it.cmd with
    | some c => match kept.find? fun k => decide (k.seq = c.seq) with
      | some k => it.withCmd k
      | none => it
    | none => it

/-- The accepted pre-emptor takes its place: notices to the victims, its record, and the kills (R402). -/
def State.applyPreempt (s : State) (p i q head idx index : Nat) (d : Desc) (j : Judged) (c : Cmd) (w : Walk) : State :=
  let s := w.victims.foldl (fun s v => s.withdrawAbort p v.1 .preempt) s
  let l := s.line p
  let s := s.setLine p { l with items := l.items.take idx ++ keepItems (l.items.drop idx) w.kept }
  let s := w.kept.foldl (fun s k => s.holdStored k) s
  let s := ((s.placeCmd p idx c).postAdmission p i q head d j).sendLaunch p c index
  let e : Ending := ⟨St.killed, .preempt, 0, none, 0⟩
  let ends := w.victims.map fun v => ({ v.1 with withdrawn := true }, v.1.ending s.now { e with dep := v.2 })
  match w.writer c with
  | some n => (s.withdrawAbort p c .preempt).killCmds p (ends ++ [({ c with withdrawn := true }, { e with dep := some n })])
  | none => s.killCmds p ends

/-- PREEMPT (R399 to R402). -/
def State.preempt (s : State) (a : Adm) (mode p i q : Nat) (d : Desc) : State :=
  match s.inst i with
  | none => s.complete false a St.admState
  | some x =>
    if x.state ≠ Is.active ∨ x.ptn ≠ p then s.complete false a St.admState
    else if (s.mstate p = Ms.joining ∨ s.mstate p = Ms.active ∨ s.mstate p = Ms.leaving) ∧ ¬ s.flag Reg.ptnpCfgLead p then
      s.complete false a St.alloyBound (s.leadDevice p + s.get Reg.ptnpAlloyAlloyId p * 2 ^ 32)
    else match s.queue i q with
      | none => s.complete false a St.admState
      | some y =>
        if ¬ s.mayTake x y ∨ s.waits p d then s.complete false a St.admState
        else
          let head := (y.sqHead + 1) % 2 ^ (y.sqLog2 + 4)
          let s0 := s
          let s := s.setQueue i q (y.take head)
          let s := (s.count qmgPage 0 1).exitIdle p
          let r := s.otherMembers p d
          let s := r.2
          let wake := s.wakeAhead p
          let s1 := if wake = 0 then s else s.placeItem p (.wake none) wake
          let l := s1.line p
          let idx := insertionPoint l.items
          let ahead := l.items.take idx
          let alloyLine := decide (s.mstate p ≠ Ms.none)
          let run := if mode = 2 then runningVictim l.items else none
          let tIns := match run with
            | some _ => s.now + Config.admitNs + (if alloyLine then (s.member p).launchNs else 0) + Config.killNs
            | none => (boundEnds 0 ahead).getLastD 0
          let j := s1.judge p i q head x d ahead tIns r.1
          match j.cmd with
          | none =>
            let s := s.postAdmission p i q head d j
            let s := match s.queue i q with
              | some z => s.setQueue i q { z with taken := z.taken - 1 }
              | none => s
            s.complete false a j.status 0 ((if d.op = 2 then l.cmdSeq else l.seq) * 2 ^ 32)
          | some c =>
            let w0 : Walk := ⟨match run with | some v => [(v, none)] | none => [], [], c.tPromise, c.inst, c.reserved⟩
            let w := ((l.items.drop idx).filterMap Item.cmd).foldl (fun w c => s1.walkOne p alloyLine w c) w0
            if mode = 0 ∧ w.victims ≠ [] then s0.complete false a St.busy
            else (s1.applyPreempt p i q head idx d.imgIndex d j c w).complete false a St.accepted 0
              (w.victims.length + (if d.op = 2 then c.cmdSeq else c.seq) * 2 ^ 32)

/-- PREEMPT, mode 0 (ABSORB) (R402). -/
def execPreemptAbsorb (a : Adm) (p : Byte) (inst : BitVec 16) (q : Byte) (desc : BitVec 2048) (s : State) : StepOut :=
  .next (s.admin false a (ptnOk p && instOk inst && decide (q.toNat < 8)) fun s =>
    s.preempt a 0 p.toNat inst.toNat q.toNat (parseDesc desc))
/-- PREEMPT, mode 1 (WITHDRAW) (R402). -/
def execPreemptWithdraw (a : Adm) (p : Byte) (inst : BitVec 16) (q : Byte) (desc : BitVec 2048) (s : State) : StepOut :=
  .next (s.admin false a (ptnOk p && instOk inst && decide (q.toNat < 8)) fun s =>
    s.preempt a 1 p.toNat inst.toNat q.toNat (parseDesc desc))
/-- PREEMPT, mode 2 (KILL) (R402). -/
def execPreemptKill (a : Adm) (p : Byte) (inst : BitVec 16) (q : Byte) (desc : BitVec 2048) (s : State) : StepOut :=
  .next (s.admin false a (ptnOk p && instOk inst && decide (q.toNat < 8)) fun s =>
    s.preempt a 2 p.toNat inst.toNat q.toNat (parseDesc desc))

end Sys2Proof.Machine
end

