-- ==== Sys2Proof/Machine/Handoff.lean ====
section
/-! DEFINITION. Handoff records: admin commands, messages, streams, timers and rulings (R289 to R301). -/

namespace Sys2Proof.Machine

/-! ### Records (R289, R290, R374) -/

/-- A handoff record by slot. -/
def State.record (s : State) (k : Nat) : Option HoRecord := s.net.records.find k
/-- Write a handoff record. -/
def State.setRecord (s : State) (k : Nat) (r : HoRecord) : State := s.onNet fun n => { n with records := n.records.put k r }
/-- The record that a handle names. -/
def State.findRecord (s : State) (h : Nat) : Option (Nat × HoRecord) :=
  match s.record (h % 262144) with
  | some r => if r.gen = h / 262144 then some (h % 262144, r) else none
  | none => none
/-- Whether a handle names a FREE slot with its current generation (R288, R291). -/
def State.freeHandle (s : State) (h : Nat) : Bool :=
  decide (h % 262144 < 16384) && (s.record (h % 262144)).isNone &&
    decide (s.host.recordGens.getD (h % 262144) 1 = h / 262144)
/-- The handle of a record. -/
def HoRecord.handle (r : HoRecord) (k : Nat) : Nat := mkHandle r.gen k

/-- Take the references of a record on its objects. -/
def State.holdRecord (s : State) (r : HoRecord) : State := r.holds.foldl (fun s o => s.refObj o 0 1) s
/-- Drop the references of a record. -/
def State.dropRecord (s : State) (r : HoRecord) : State := r.holds.foldl (fun s o => s.unrefObj o 0 1) s
/-- A record enters a state at an epoch: the flags that belong to the state before go, its stream stops, and references
follow the state (R290). -/
def State.enterRecord (s : State) (k st epoch : Nat) (f : HoRecord → HoRecord := id) : State :=
  let s := s.stopStream k
  match s.record k with
  | none => s
  | some r =>
    let new := f { r with
      state := st, epoch := epoch, tState := s.now, rulingWait := false, limitPassed := false, confirmed := false
      received := [], streaming := false, streamEnd := none, sends := 0, nextSend := none
      peerDevice := if st = 1 then 0 else r.peerDevice, peerHandle := if st = 1 then 0 else r.peerHandle }
    ((s.setRecord k new).holdRecord new).dropRecord r
/-- A record goes to FREE. -/
def State.freeRecord (s : State) (k : Nat) : State :=
  let s := s.stopStream k
  match s.record k with
  | none => s
  | some r =>
    let s := (s.onNet fun n => { n with records := n.records.drop k }).dropRecord r
    s.onHost fun h => { h with recordGens := h.recordGens.putD k 1 (nextGen (h.recordGens.getD k 1)) }
/-- Raise a handoff event of a record: bit 0 UNANSWERED, 1 HOLD_LIMIT, 2 STALE, 3 LOST (R301, R359). -/
def State.hoEvent (s : State) (k : Nat) (r : HoRecord) (bit : Nat) : State :=
  let f := if bit = 0 then Reg.ptnpHoStsHoUnanswered else if bit = 1 then Reg.ptnpHoStsHoHoldLimit
    else if bit = 2 then Reg.ptnpHoStsHoStale else Reg.ptnpHoStsHoLost
  ((s.raise f r.ptn).event (ptnpPage r.ptn) (16 + bit)).notice (St.nHoUnanswered + bit) r.ptn (r.handle k) 0
/-- Discard a message that a record does not expect: the partition of the record in the slot that it names counts it, whatever
the generation; a FREE slot has no partition to count for it (R295; log entry 85). -/
def State.hoDiscard (s : State) (handle : Nat) : State :=
  match s.record (handle % 262144) with
  | some r => s.bump Reg.ptnpHoStsStaleCount r.ptn
  | none => s

/-! ### Messages and streams (R293, R294) -/

/-- Send a handoff message: type, code and epoch of a body, between a source and a destination record. -/
def State.sendHo (s : State) (dst type code epoch srcDev dstDev srcHandle dstHandle length : Nat) : State :=
  s.sendLong dst 0x40 [type, code, epoch, srcDev, dstDev, srcHandle, dstHandle, length]
/-- Send a message from a source record to its destination. -/
def State.hoToDest (s : State) (k : Nat) (r : HoRecord) (type epoch length : Nat) : State :=
  s.sendHo r.peerDevice type 0 epoch s.deviceId r.peerDevice (r.handle k) r.peerHandle length
/-- Send a message from a destination record to its source. -/
def State.hoToSource (s : State) (k : Nat) (r : HoRecord) (type code epoch : Nat) : State :=
  s.sendHo r.peerDevice type code epoch r.peerDevice s.deviceId r.peerHandle (r.handle k) 0
/-- Whether a device is reachable: this device, or through an open port (R291). -/
def State.reachable (s : State) (d : Nat) : Bool :=
  let r := s.net.routes.getD d 0xF
  decide (d = s.deviceId) || decide (r = 0xE) || decide (r < 6) && s.portOpen r

/-- The bytes of a record's extents, then INLINE. -/
def State.recordBytes (s : State) (r : HoRecord) : List Byte :=
  (r.extents.flatMap fun e => (List.range (e.bytes.toNat / 64)).flatMap fun n =>
    lineBytes ((s.readVa r.ptn (e.va.toNat + 64 * n)).getD 0)) ++ lineBytes r.inline
/-- The lines that a record's extents name. -/
def State.recordDpas (s : State) (r : HoRecord) : List Nat :=
  r.extents.flatMap fun e => s.vaDpas r.ptn ((List.range (e.bytes.toNat / 64)).map fun n => e.va.toNat + 64 * n)
/-- The trailer of R293 step 4. -/
def trailerBytes (epoch length : Nat) (digest : BitVec 256) : List Byte :=
  natBytes 4 epoch ++ natBytes 4 0 ++ natBytes 8 length ++ natBytes 16 0 ++ natBytes 32 digest.toNat
/-- Four lines of a byte list from an offset on, zero beyond its end. -/
def fourLines (bs : List Byte) (off : Nat) : List Line :=
  (List.range 4).map fun j => bytesLine ((bs.drop (off + 64 * j)).take 64)
/-- A stream begins: its flits wait for the open slots of its route; within one device they pass inside the hub. -/
def State.beginStream (s : State) (k : Nat) : State :=
  match s.record k with
  | none => s
  | some r =>
    let s := r.extents.foldl (fun s e => s.hubWalks r.ptn e.va.toNat e.bytes.toNat) s
    s.reading r.ptn (s.recordDpas r) id fun s =>
    let data := s.recordBytes r
    let all := data ++ trailerBytes r.epoch r.length (Config.sha256 data)
    let s := s.setRecord k { r with streaming := true, received := data }
    (List.range (ceilDiv all.length 256)).foldl (fun s n =>
      let f : OpenFlit := ⟨r.cls, r.ptn, false, s.deviceId, r.peerDevice, k, 6, none, fourLines all (256 * n)⟩
      if r.peerDevice = s.deviceId ∨ s.net.routes.getD r.peerDevice 0xF = 0xE then s.emit (.flit 7 0 3 [f.header] f.payload)
      else s.sendOpen f 0) s
/-- At most 64 streams run at once: those that wait begin in offer order. -/
def State.beginStreams (s : State) : State :=
  (s.net.streams.take 64).foldl (fun s k =>
    match s.record k with
    | some r => if r.streaming then s else s.beginStream k
    | none => s) s
/-- STREAM_END: the trailer has been sent, and a waiting stream begins (R293 step 4). -/
def execStreamEnd (record : BitVec 14) (s : State) : StepOut :=
  let k := record.toNat
  .next (match s.record k with
    | some r =>
      if r.state = 2 ∧ r.streaming ∧ ¬ s.net.ports.vals.any (fun x => x.openQueue.any (s.streamFlit k)) then
        ((s.stopStream k).onNet fun n => { n with
          records := n.records.adjust k fun x => { x with digest := Config.sha256 r.received } }).beginStreams
      else s.beginStreams
    | none => s)

/-! ### Admin commands (R291) -/

/-- Handoff records are not available in compatibility mode (R284). -/
def State.hoAdmin (s : State) (fm : Bool) (a : Adm) (ok : Bool) (go : State → State) : State :=
  s.admin fm a ok fun s => if s.compat then s.complete fm a St.ptnCompat else go s
/-- Whether an extent lies wholly within the committed extent of an object of a partition (R291). -/
def State.extentOk (s : State) (p : Nat) (e : Extent) : Bool :=
  let va := e.va.toNat
  let n := e.bytes.toNat
  match s.findObj e.obj with
  | some (_, o) =>
    decide (o.ptn = p ∧ va % 64 = 0 ∧ n % 64 = 0 ∧ 0 < n) && !o.freeing && (o.append || (!o.void && o.scratching == 0)) &&
      decide (o.va ≤ va ∧ va + n ≤ o.va + if o.append then o.extent else o.bytes)
  | none => false
/-- The lowest free record slot. -/
def State.freeRecordSlot (s : State) : Option Nat := firstGap 16384 s.net.records.entries 0
/-- A record that has just been created. -/
def State.newRecord (s : State) (k p st : Nat) : HoRecord :=
  { gen := s.host.recordGens.getD k 1, ptn := p, state := st, rulingWait := false, limitPassed := false, confirmed := false
    dataLost := false, cls := 0, epoch := 0, peerDevice := 0, peerHandle := 0, length := 0, tState := s.now, extents := []
    inline := 0, digest := 0, recvObj := 0, capacity := 0, tail := 0, received := [], streaming := false, streamEnd := none, sends := 0
    nextSend := none }

/-- HO_CREATE (R291). -/
def execHoCreate (a : Adm) (p cls count : Byte) (extents : List Extent) (inline : Line) (s : State) : StepOut :=
  .next (s.hoAdmin false a (ptnOk p && decide (cls.toNat ≤ 15 ∧ 1 ≤ count.toNat ∧ count.toNat ≤ 4)) fun s =>
    let q := p.toNat
    let ex := extents.take count.toNat
    if ex.length ≠ count.toNat ∨ ¬ ex.all (s.extentOk q) then s.complete false a St.hoExtent
    else match s.freeRecordSlot with
      | none => s.complete false a St.rejResource
      | some k =>
        let r := { s.newRecord k q 1 with
          cls := cls.toNat, epoch := 1, length := (ex.map fun e => e.bytes.toNat).sum, extents := ex, inline := inline }
        ((s.setRecord k r).holdRecord r).complete false a St.success 0 (r.handle k))

/-- Whether nothing else has the tail of an append object: no record that is ARMED or RECEIVING, and no accepted command that
appends to it (R292; log entry 86). -/
def State.tailFree (s : State) (p k : Nat) : Bool :=
  let l := s.line p
  !(s.net.records.vals.any fun r => decide ((r.state = 4 ∨ r.state = 5) ∧ r.recvObj = k)) &&
    !((l.cmds ++ l.held ++ l.killed.map Prod.fst).any fun c => c.objs.any fun o => decide (o.role = 3 ∧ handleSlot o.handle = k))
/-- Whether the tail of an append object from its committed extent is free, mapped and writable for a number of bytes (R291,
R292). -/
def State.tailOk (s : State) (p k : Nat) (o : MemObj) (n : Nat) : Bool :=
  o.append && o.w && !o.freeing && decide (o.ptn = p ∧ o.extent + n ≤ o.bytes) && s.tailFree p k &&
    (regionsOf 65536 (o.va + o.extent) n).all fun va => match s.transOf p va with
      | some t => t.w && !s.imagePage p va t.size && !s.sealedAt (t.dpa va)
      | none => false
/-- HO_ARM (R291). -/
def execHoArm (a : Adm) (p : Byte) (srcDevice : BitVec 16) (srcHandle obj : Handle) (capacity : Word) (s : State) : StepOut :=
  .next (s.hoAdmin false a (ptnOk p && decide (srcDevice.toNat < 16384)) fun s =>
    let q := p.toNat
    match s.findObj obj with
      | none => s.complete false a St.hoExtent
      | some (ok, o) =>
        let s := s.hubWalks q (o.va + o.extent) (Nat.min capacity.toNat o.bytes)
        if ¬ s.tailOk q ok o capacity.toNat then s.complete false a St.hoExtent
        else match s.freeRecordSlot with
          | none => s.complete false a St.objSpace
          | some k =>
            let r := { s.newRecord k q 4 with
              peerDevice := srcDevice.toNat, peerHandle := srcHandle.toNat, recvObj := ok, capacity := capacity.toNat
              tail := o.va + o.extent }
            ((s.setRecord k r).holdRecord r).complete false a St.success 0 (r.handle k))

/-- Whether a record acts as OWNED: OWNED, or TAKEN with CONFIRMED (R290). -/
def HoRecord.owned (r : HoRecord) : Bool := decide (r.state = 1) || decide (r.state = 6) && r.confirmed
/-- HO_OFFER: OFFERED, OFFER sent, and the stream begins or waits (R293 step 1). -/
def execHoOffer (a : Adm) (record : Handle) (dstDevice : BitVec 16) (dstHandle : Handle) (s : State) : StepOut :=
  .next (s.hoAdmin false a (decide (dstDevice.toNat < 16384)) fun s =>
    match s.findRecord record.toNat with
    | none => s.complete false a (if s.freeHandle record.toNat then St.hoState else St.objHandle)
    | some (k, r) =>
      if ¬ r.owned then s.complete false a St.hoState
      else if ¬ s.reachable dstDevice.toNat then s.complete false a St.hoPeer
      else if 0xFFFFFFFB < r.epoch then s.complete false a St.hoEpoch
      else
        let s := s.enterRecord k 2 r.epoch fun x => { x with peerDevice := dstDevice.toNat, peerHandle := dstHandle.toNat }
        let s := s.complete false a St.success
        match s.record k with
        | some x => ((s.hoToDest k x 1 x.epoch x.length).onNet fun n => { n with streams := n.streams ++ [k] }).beginStreams
        | none => s)

/-- HO_FREE (R291). -/
def execHoFree (a : Adm) (record : Handle) (s : State) : StepOut :=
  .next (s.hoAdmin false a true fun s =>
    match s.findRecord record.toNat with
    | none => s.complete false a (if s.freeHandle record.toNat then St.hoState else St.objHandle)
    | some (k, r) =>
      if r.owned ∨ r.state = 3 ∨ r.state = 4 then (s.freeRecord k).complete false a St.success
      else s.complete false a St.hoState)

/-- The 256 bytes of a record (R289). -/
def HoRecord.bytes (r : HoRecord) : List Byte :=
  let bit := fun (b : Bool) (v : Nat) => if b then v else 0
  let flags := bit r.rulingWait 1 + bit r.limitPassed 2 + bit r.confirmed 4 + bit r.dataLost 8
  let ex := (List.range 4).flatMap fun n => match r.extents[n]? with
    | some e => natBytes 4 e.obj.toNat ++ natBytes 4 0 ++ natBytes 8 e.va.toNat ++ natBytes 8 e.bytes.toNat
    | none => natBytes 24 0
  natBytes 1 r.state ++ natBytes 1 flags ++ natBytes 1 r.cls ++ natBytes 1 0 ++ natBytes 4 r.epoch ++
    natBytes 2 r.peerDevice ++ natBytes 2 0 ++ natBytes 4 r.peerHandle ++
    natBytes 8 ((r.extents.map fun e => e.bytes.toNat).sum) ++ natBytes 8 r.tState ++ natBytes 1 r.extents.length ++
    natBytes 7 0 ++ ex ++ lineBytes r.inline ++ natBytes 32 r.digest.toNat ++ natBytes 24 0
/-- HO_READ, in any state: a FREE record has STATE 0, and every other byte zero (R289, R291; log entry 85). -/
def execHoRead (a : Adm) (record : Handle) (dst : Word) (s : State) : StepOut :=
  .next (s.hoAdmin false a true fun s =>
    match s.findRecord record.toNat with
    | none =>
      if s.freeHandle record.toNat then (s.emit (.hostWrite dst.toNat (natBytes 256 0))).complete false a St.success
      else s.complete false a St.objHandle
    | some (_, r) => (s.emit (.hostWrite dst.toNat r.bytes)).complete false a St.success)

/-! ### Rulings (R297) -/

/-- A ruling: HO_EPOCH where the record does not stand in the state and epoch that it names, HO_STATE where the record found
does not admit it. -/
def State.hoRule (s : State) (a : Adm) (state : Byte) (record : Handle) (epoch : BitVec 32) (admits : HoRecord → Bool)
    (go : State → Nat → HoRecord → State) : State :=
  s.hoAdmin true a (decide (state.toNat ≤ 6)) fun s =>
    match s.findRecord record.toNat with
    | none => s.complete true a St.hoEpoch
    | some (k, r) =>
      if r.state ≠ state.toNat ∨ r.epoch ≠ epoch.toNat then s.complete true a St.hoEpoch
      else if ¬ admits r then s.complete true a St.hoState
      else ((go s k r).beginStreams).complete true a St.success
/-- Whether a record is OFFERED. -/
def HoRecord.offered (r : HoRecord) : Bool := decide (r.state = 2)
/-- Whether a record is TAKEN without CONFIRMED. -/
def HoRecord.unconfirmed (r : HoRecord) : Bool := decide (r.state = 6) && !r.confirmed
/-- HO_RULE, SOURCE (R297). -/
def execHoRuleSource (a : Adm) (state : Byte) (record : Handle) (epoch : BitVec 32) (s : State) : StepOut :=
  .next (s.hoRule a state record epoch HoRecord.offered fun s k r => s.enterRecord k 1 (r.epoch + 2))
/-- HO_RULE, DESTINATION (R297). -/
def execHoRuleDestination (a : Adm) (state : Byte) (record : Handle) (epoch : BitVec 32) (s : State) : StepOut :=
  .next (s.hoRule a state record epoch HoRecord.offered fun s k r =>
    let s := s.enterRecord k 3 r.epoch
    if s.reachable r.peerDevice then s.hoToDest k r 7 r.epoch 0 else s)
/-- HO_RULE, LOST (R297). -/
def execHoRuleLost (a : Adm) (state : Byte) (record : Handle) (epoch : BitVec 32) (s : State) : StepOut :=
  .next (s.hoRule a state record epoch (fun r => r.offered && r.dataLost) fun s k r => (s.hoEvent k r 3).freeRecord k)
/-- HO_RULE, KEEP (R297). -/
def execHoRuleKeep (a : Adm) (state : Byte) (record : Handle) (epoch : BitVec 32) (s : State) : StepOut :=
  .next (s.hoRule a state record epoch HoRecord.unconfirmed fun s k r =>
    s.setRecord k { r with confirmed := true, rulingWait := false, nextSend := none })
/-- HO_RULE, DROP (R297). -/
def execHoRuleDrop (a : Adm) (state : Byte) (record : Handle) (epoch : BitVec 32) (s : State) : StepOut :=
  .next (s.hoRule a state record epoch HoRecord.unconfirmed fun s k _ => s.freeRecord k)

/-! ### Messages (R293, R295, R296) -/

/-- A message reaches its addressee, or goes on by the route table (R343). -/
def State.hoMessage (s : State) (m : HoMsg) (type : Nat) (toSource : Bool) (go : State → State) : State :=
  let dst := if toSource then m.srcDevice.toNat else m.dstDevice.toNat
  if dst = s.deviceId then go s
  else s.sendHo dst type m.code.toNat m.epoch.toNat m.srcDevice.toNat m.dstDevice.toNat m.srcHandle.toNat m.dstHandle.toNat
    m.length.toNat
/-- Answer a message, with its own record fields. -/
def State.hoReply (s : State) (m : HoMsg) (toSource : Bool) (type code epoch : Nat) : State :=
  s.sendHo (if toSource then m.srcDevice.toNat else m.dstDevice.toNat) type code epoch m.srcDevice.toNat m.dstDevice.toNat
    m.srcHandle.toNat m.dstHandle.toNat 0
/-- Whether a record's peer is the source that a message names. -/
def HoRecord.peerIsSource (r : HoRecord) (m : HoMsg) : Bool :=
  decide (r.peerDevice = m.srcDevice.toNat ∧ r.peerHandle = m.srcHandle.toNat)
/-- Whether a record's peer is the destination that a message names. -/
def HoRecord.peerIsDest (r : HoRecord) (m : HoMsg) : Bool :=
  decide (r.peerDevice = m.dstDevice.toNat ∧ r.peerHandle = m.dstHandle.toNat)

/-- OFFER: an ARMED record with the expected source receives, else REFUSE with NOT_ARMED or LENGTH (R293 step 2). -/
def execOffer (m : HoMsg) (s : State) : StepOut :=
  .next (s.hoMessage m 1 false fun s =>
    match s.findRecord m.dstHandle.toNat with
    | some (k, r) =>
      if r.state ≠ 4 ∨ ¬ r.peerIsSource m then s.hoReply m true 3 3 m.epoch.toNat
      else if r.capacity < m.length.toNat then s.hoReply m true 3 2 m.epoch.toNat
      else s.enterRecord k 5 m.epoch.toNat fun x => { x with length := m.length.toNat }
    | none => s.hoReply m true 3 3 m.epoch.toNat)

/-- The record that receives a stream of a source device and source slot. -/
def State.receiver (s : State) (device tag : Nat) : Option (Nat × HoRecord) :=
  s.net.records.entries.find? fun e => decide (e.2.state = 5 ∧ e.2.peerDevice = device ∧ e.2.peerHandle % 262144 = tag)
/-- An open flit with a header and payload. -/
def hdrFlit (h : OpenHdr) (otype : Nat) (deadline : Option Nat) (payload : List Line) : OpenFlit :=
  ⟨h.cls.toNat, h.srcPart.toNat, true, h.srcDevice.toNat, h.dstDevice.toNat, h.tag.toNat, otype, deadline, payload⟩
/-- An open flit for this device is served, and another is forwarded by the route table (R343). -/
def State.openFlit (s : State) (h : OpenHdr) (otype : Nat) (deadline : Option Nat) (payload : List Line) (go : State → State) :
    State :=
  if h.dstDevice.toNat = s.deviceId then go s else s.sendOpen (hdrFlit h otype deadline payload) 0
/-- STREAM: 256 bytes of a handoff stream reach the receiving record, whose CLASS is the stream's (R289); any other stream's bytes are discarded (R317). -/
def execStream (h : OpenHdr) (data : BitVec 2048) (s : State) : StepOut :=
  let bytes := (List.range 256).map fun i => (data >>> (8 * i)).setWidth 8
  .next (s.openFlit h 6 none (fourLines bytes 0) fun s =>
    match s.receiver h.srcDevice.toNat h.tag.toNat with
    | some (k, r) => s.setRecord k { r with received := r.received ++ bytes, cls := h.cls.toNat }
    | none => s)

/-- Write the received bytes into the reserved tail of the receive object, with its log bits (R292, R293 step 5, R389). -/
def State.commitTail (s : State) (p : Nat) (o : MemObj) (tail : Nat) (data : List Byte) : State :=
  (List.range (data.length / 64)).foldl (fun s n =>
    let va := tail + 64 * n
    match s.transOf p va with
    | some t => (s.writeLine (t.dpa va) (bytesLine ((data.drop (64 * n)).take 64))).logObject o (t.dpa va)
    | none => s) s
/-- TRAILER: the destination verifies what it received (R293 step 5). -/
def execTrailer (record : BitVec 14) (epoch : BitVec 32) (length : Word) (digest : BitVec 256) (s : State) : StepOut :=
  let k := record.toNat
  .next (match s.record k with
    | some r =>
      let n := length.toNat
      if r.state ≠ 5 ∨ r.epoch ≠ epoch.toNat then s
      else
        let lengths := decide (n = r.length ∧ r.received.length = 256 * ceilDiv (n + 128) 256)
        let data := r.received.take (n + 64)
        let bad := fun (code : Nat) => (s.enterRecord k 4 0).hoToSource k r 3 code r.epoch
        if ¬ lengths then bad 2
        else if Config.sha256 data ≠ digest then bad 1
        else match s.host.objs.find r.recvObj with
          | none => bad 2
          | some o =>
            let s := s.commitTail r.ptn o r.tail (data.take n)
            let s := s.setObj r.recvObj { o with extent := o.extent + n }
            let ext : Extent := ⟨BitVec.ofNat 32 (mkHandle o.gen r.recvObj), BitVec.ofNat 64 r.tail, length⟩
            let s := s.enterRecord k 6 (r.epoch + 1) fun x => { x with
              extents := [ext], inline := bytesLine (data.drop n), digest := digest, length := n, sends := 1
              nextSend := some (s.now + s.holdQueryNs r.ptn) }
            s.hoToSource k r 2 0 (r.epoch + 1)
    | none => s)

/-- The source has heard that its record is taken: RELEASED, references dropped, and RELEASED sent (R293 step 6). -/
def State.hoTaken (s : State) (k : Nat) (r : HoRecord) : State :=
  ((s.enterRecord k 3 r.epoch).hoToDest k r 7 r.epoch 0).beginStreams
/-- TAKEN: a source that is neither OFFERED nor RELEASED for it answers STALE and raises HO_STALE, for the partition of the
record in the slot that the message names (R293, R295; log entry 85). -/
def execTaken (m : HoMsg) (s : State) : StepOut :=
  .next (s.hoMessage m 2 true fun s =>
    let x := m.epoch.toNat
    match s.findRecord m.srcHandle.toNat with
    | some (k, r) =>
      if r.peerIsDest m ∧ r.epoch + 1 = x ∧ r.state = 2 then s.hoTaken k r
      else if r.peerIsDest m ∧ r.epoch + 1 = x ∧ r.state = 3 then s.hoToDest k r 7 r.epoch 0
      else (s.hoReply m false 6 0 x).hoEvent k r 2
    | none =>
      let s := s.hoReply m false 6 0 x
      let k := m.srcHandle.toNat % 262144
      match s.record k with
      | some r => s.hoEvent k r 2
      | none => s)

/-- RELEASED: the destination sets CONFIRMED (R293 step 7). -/
def execReleased (m : HoMsg) (s : State) : StepOut :=
  .next (s.hoMessage m 7 false fun s =>
    match s.findRecord m.dstHandle.toNat with
    | some (k, r) =>
      if r.peerIsSource m ∧ r.unconfirmed ∧ r.epoch = m.epoch.toNat + 1 then
        s.setRecord k { r with confirmed := true, rulingWait := false, nextSend := none }
      else s.hoDiscard m.dstHandle.toNat
    | none => s.hoDiscard m.dstHandle.toNat)

/-- REFUSE: the stream stops and the source reverts to OWNED(e + 2) (R295). -/
def execRefuse (m : HoMsg) (s : State) : StepOut :=
  .next (s.hoMessage m 3 true fun s =>
    match s.findRecord m.srcHandle.toNat with
    | some (k, r) =>
      if r.peerIsDest m ∧ r.state = 2 ∧ r.epoch = m.epoch.toNat then (s.enterRecord k 1 (r.epoch + 2)).beginStreams
      else s.hoDiscard m.srcHandle.toNat
    | none => s.hoDiscard m.srcHandle.toNat)

/-- QUERY: the destination answers TAKEN or NOT_HELD (R296). -/
def execQuery (m : HoMsg) (s : State) : StepOut :=
  let e := m.epoch.toNat
  .next (s.hoMessage m 4 false fun s =>
    match s.findRecord m.dstHandle.toNat with
    | some (k, r) =>
      if (r.state = 6 ∨ r.state = 2 ∨ r.state = 3) ∧ e + 1 ≤ r.epoch then s.hoReply m true 5 1 e
      else if r.state = 5 ∧ r.epoch = e ∧ r.peerIsSource m then (s.enterRecord k 4 0).hoReply m true 5 0 e
      else s.hoReply m true 5 0 e
    | none => s.hoReply m true 5 0 e)

/-- ANSWER: TAKEN acts as the message TAKEN; NOT_HELD reverts the source, or frees a record whose data is lost (R296,
R300). -/
def execAnswer (m : HoMsg) (s : State) : StepOut :=
  .next (s.hoMessage m 5 true fun s =>
    match s.findRecord m.srcHandle.toNat with
    | some (k, r) =>
      if ¬ r.peerIsDest m ∨ r.state ≠ 2 ∨ r.epoch ≠ m.epoch.toNat ∨ 1 < m.code.toNat then s.hoDiscard m.srcHandle.toNat
      else if m.code = 1 then s.hoTaken k r
      else if r.dataLost then ((s.hoEvent k r 3).freeRecord k).beginStreams
      else (s.enterRecord k 1 (r.epoch + 2)).beginStreams
    | none => s.hoDiscard m.srcHandle.toNat)

/-- STALE: an unconfirmed TAKEN(x) record goes to FREE; its committed bytes stay (R295). -/
def execStale (m : HoMsg) (s : State) : StepOut :=
  .next (s.hoMessage m 6 false fun s =>
    match s.findRecord m.dstHandle.toNat with
    | some (k, r) =>
      if r.peerIsSource m ∧ r.unconfirmed ∧ r.epoch = m.epoch.toNat then (s.hoEvent k r 2).freeRecord k
      else s.hoDiscard m.dstHandle.toNat
    | none => s.hoDiscard m.dstHandle.toNat)

/-! ### Timers (R293, R296) -/

/-- HOLD_QUERY_EXPIRY: three queries 1 ms apart, RULING_WAIT 3 ms after the first, then one each HOLD_QUERY (R296). -/
def execHoldQueryExpiry (record : BitVec 14) (s : State) : StepOut :=
  let k := record.toNat
  .next (match s.record k with
    | some r =>
      match r.nextSend with
      | some t =>
        if r.state ≠ 2 then s
        else
          let s := s.atLeast t
          let n := r.sends
          let next := t + if n < 3 then 1000000 else s.holdQueryNs r.ptn
          let x := { r with sends := n + 1, nextSend := some next, rulingWait := r.rulingWait || decide (n = 3) }
          let s := s.setRecord k x
          if n = 3 then s.hoEvent k x 0 else s.hoToDest k x 4 x.epoch 0
      | none => s
    | none => s)

/-- TAKEN_RESEND: TAKEN again each HOLD_QUERY; after three unanswered sends the record waits for a ruling (R293). -/
def execTakenResend (record : BitVec 14) (s : State) : StepOut :=
  let k := record.toNat
  .next (match s.record k with
    | some r =>
      match r.nextSend with
      | some t =>
        if ¬ r.unconfirmed then s
        else
          let s := s.atLeast t
          let waits := decide (3 ≤ r.sends) && !r.rulingWait
          let x := { r with sends := r.sends + 1, nextSend := some (t + s.holdQueryNs r.ptn), rulingWait := r.rulingWait || waits }
          let s := s.setRecord k x
          let s := if waits then s.hoEvent k x 0 else s
          s.hoToSource k x 2 0 x.epoch
      | none => s
    | none => s)

/-- HO_HOLD_LIMIT (R296 step 5). -/
def execHoHoldLimit (record : BitVec 14) (s : State) : StepOut :=
  let k := record.toNat
  .next (match s.record k with
    | some r =>
      match r.streamEnd with
      | some t =>
        if r.state ≠ 2 ∨ r.limitPassed then s
        else
          let s := s.atLeast (t + s.holdLimitNs r.ptn)
          (s.setRecord k { r with limitPassed := true }).hoEvent k r 1
      | none => s
    | none => s)

end Sys2Proof.Machine
end

