-- ==== Sys2Proof/Machine/Access.lean ====
section
/-! DEFINITION. Accesses from outside the line: the host aperture and remote requests (R228, R317, R327, R376, R377, R385 to
R387, R389, R410, R411, R471, R493). -/

namespace Sys2Proof.Machine

/-! ### Translation for an access -/

/-- A walk of a VA outside a translation phase, on the walkers of the root's die: a malformed entry is counted there, and an
uncorrectable line of a table faults the partition (R237, R254; log entry 92, DESIGN CHOICE). -/
def State.walkOutside (s : State) (errs : List LineError) (p va : Nat) : Option Trans × State :=
  let die := s.get Reg.ptnpXltRootDie p
  match s.walkBad errs p va with
  | some d => (none, ((s.noteLine errs false d).raise Reg.xltwStsTableUe die).faultPtn p Fc.tableUe (.channel (dpaChannel d)))
  | none =>
    match s.walkVa p va with
    | .leaf e level _ => (some (leafTrans e level), s)
    | .unmapped bad => (none, if bad then s.bump Reg.xltwStsMalformed die else s)
/-- Key of a page of a partition in the aperture's cache. -/
def apKey (p va size : Nat) : Nat := p * 2 ^ 34 + va / pageBytes size * pageBytes size / 65536
/-- The cached translation of a VA, of any page size. -/
def State.apCached (s : State) (p va : Nat) : Option Trans :=
  [0, 1, 2].findSome? fun z => match s.mem.apCache.find (apKey p va z) with
    | some t => if t.size = z then some t else none
    | none => none
/-- Entries of the aperture's cache (R385). -/
def apEntries : Nat := 512
/-- The translation of an aperture access, through the cache; a full cache loses its first entry. -/
def State.apTrans (s : State) (errs : List LineError) (p va : Nat) : Option Trans × State :=
  match s.apCached p va with
  | some t => (some t, s)
  | none =>
    let r := s.walkOutside errs p va
    match r.1 with
    | some t => (some t, r.2.onMem fun m =>
        let kept := if apEntries ≤ m.apCache.entries.length then ⟨m.apCache.entries.drop 1⟩ else m.apCache
        { m with apCache := kept.put (apKey p va t.size) t })
    | none => (none, r.2)

/-- Whether an accepted command without a final record names an object (R377), but for those that `skip` names. -/
def State.namedByCommand (s : State) (p slot : Nat) (skip : Cmd → Bool) : Bool :=
  let l := s.line p
  (l.cmds ++ l.held ++ l.killed.map Prod.fst).any fun c =>
    !skip c && c.objs.any fun o => decide (handleSlot o.handle = slot)
/-- Whether a line of an object reads as zeros from outside the line (R377). -/
def MemObj.readsZero (o : MemObj) (va : Nat) : Bool :=
  if o.append then decide (o.va + o.extent ≤ va) else o.void || decide (0 < o.scratching)

/-! ### The host aperture (R385 to R387) -/

/-- A line of an aperture access: its DPA, the object and whether its leaf logs writes, or `none` where a check fails. -/
def State.apLine (s : State) (errs : List LineError) (i : Nat) (x : Inst) (write : Bool) (va : Nat) :
    Option (Nat × Nat × MemObj × Bool) × State :=
  let r := s.apTrans errs x.ptn va
  match r.1, s.objAt x.ptn va with
  | some t, some (k, o) =>
    let dpa := t.dpa va
    if o.ap ∧ (o.owner = some i ∨ o.owner = none) ∧ ¬ s.sealedAt dpa ∧
        (¬ write ∨ o.w ∧ t.w ∧ ¬ s.imagePage x.ptn va t.size) then (some (dpa, k, o, t.log), r.2)
    else (none, r.2)
  | _, _ => (none, r.2)

/-- The lines of an aperture access, where every one passes its checks. -/
def State.apLines (s : State) (errs : List LineError) (i : Nat) (x : Inst) (write : Bool) :
    List Nat → Option (List (Nat × Nat × Nat × MemObj × Bool)) × State
  | [] => (some [], s)
  | va :: rest =>
    let r := s.apLine errs i x write va
    match r.1 with
    | none => (none, r.2)
    | some l =>
      let q := State.apLines r.2 errs i x write rest
      (q.1.map fun ls => (va, l) :: ls, q.2)

/-- VAs of the lines that a run of bytes touches. -/
def lineVas (va n : Nat) : List Nat :=
  (List.range (ceilDiv (va % 64 + n) 64)).map fun k => 64 * (va / 64 + k)

/-- An aperture access of a line is accounted at its points, and wakes its channel (R407, R445). -/
def State.apServe (s : State) (p dpa : Nat) : State :=
  let key := masterKey false p (s.get Reg.ptnpRegCfgApClass p)
  ((s.touchChannel (dpaChannel dpa)).serveAt 2 0 key).serveAt 0 (dpaChannel dpa) key

/-- Whether a window serves accesses: its instance is ACTIVE or SUSPENDED and the window is mapped. -/
def Inst.windowOpen (x : Inst) : Bool := decide ((x.state = Is.active ∨ x.state = Is.suspended) ∧ x.apertureBase ≠ 0)

/-- The failed outcome of a read. -/
def State.apRefuse (s : State) : State := (s.bump Reg.hifStsApErr 0).emit (.busRead none)

/-- APERTURE_READ. `errs` are the errors that its lines meet (R386). -/
def execApertureRead (inst : BitVec 9) (offset : BitVec 27) (size : BitVec 13) (errs : List LineError) (s : State) : StepOut :=
  let i := inst.toNat
  .next (if ¬ s.barsOpen then s.emit (.busRead none) else
    match s.inst i with
    | none => s.apRefuse
    | some x =>
      let va := x.apertureBase + offset.toNat
      if ¬ x.windowOpen then s.apRefuse
      else
        let r := (s.meetErrors errs).apLines errs i x false (lineVas va size.toNat)
        match r.1 with
        | none =>
          if (lineVas va size.toNat).any fun v => (s.apCached x.ptn v).isNone && (s.walkBad errs x.ptn v).isSome then r.2.emit .busAbort
          else r.2.apRefuse
        | some ls =>
          let s := ls.foldl (fun s l => s.apServe x.ptn l.2.1) r.2
          let live := (ls.filter fun l => !l.2.2.2.1.readsZero l.1).map fun l => l.2.1
          let t := s.noteLines errs live
          match s.badLine errs live with
          | some d => (t.faultPtn x.ptn Fc.memUe (.channel (dpaChannel d))).emit .busAbort
          | none =>
            let bytes := ls.flatMap fun l => lineBytes (if l.2.2.2.1.readsZero l.1 then 0 else s.delivered errs l.2.1)
            t.emit (.busRead (some ((bytes.drop (va % 64)).take size.toNat))))

/-- One line of an aperture write: the bytes that fall in it, by read-modify-write where the line is not whole (R220). -/
def State.apWriteLine (s : State) (i p va : Nat) (data : List Byte) (errs : List LineError) (l : Nat × Nat × Nat × MemObj × Bool) :
    State :=
  let line := l.1
  let dpa := l.2.1
  let s := s.apServe p dpa
  let from_ := Nat.max line va
  let n := Nat.min (line + 64) (va + data.length) - from_
  let part := (data.drop (from_ - va)).take n
  let at_ := from_ - line
  let r := s.putBytes errs dpa (bytesLine (List.replicate at_ 0 ++ part)) ((2 ^ n - 1) * 2 ^ at_)
  if r.1 then r.2.faultPtn p Fc.memUe (.channel (dpaChannel dpa))
  else if l.2.2.2.2 then r.2.logWrite i dpa else r.2

/-- APERTURE_WRITE. `errs` are the errors that its lines meet (R386). -/
def execApertureWrite (inst : BitVec 9) (offset : BitVec 27) (data : List Byte) (errs : List LineError) (s : State) : StepOut :=
  let i := inst.toNat
  .next (if ¬ s.barsOpen then s else
    match s.inst i with
    | none => s.bump Reg.hifStsApErr 0
    | some x =>
      let va := x.apertureBase + offset.toNat
      let resetting := decide (x.state = Is.resetting) ||
        (decide (x.state = Is.draining) && !((s.line x.ptn).cmds.any fun c => decide (c.inst = i)))
      if resetting then s.bump Reg.hifStsApDiscard 0
      else if ¬ x.windowOpen then s.bump Reg.hifStsApErr 0
      else
        let r := (s.meetErrors errs).apLines errs i x true (lineVas va data.length)
        match r.1 with
        | none => r.2.bump Reg.hifStsApErr 0
        | some ls =>
          if ls.any fun l => r.2.namedByCommand x.ptn l.2.2.1 fun _ => false then r.2.bump Reg.hifStsApDiscard 0
          else ls.foldl (fun s l => s.apWriteLine i x.ptn va data errs l) r.2)

/-! ### Remote requests at their target (R228, R317) -/

/-- The partition of this device that a request reaches: a member of an alloy of which the source device is a member; where
there are several, the one of the source partition's number, else the first. -/
def State.targetOf (s : State) (h : OpenHdr) : Option Nat :=
  let ok := fun p => decide (s.mstate p = Ms.active ∨ s.mstate p = Ms.leaving) &&
    (s.member p).members.contains h.srcDevice.toNat
  if ok h.srcPart.toNat then some h.srcPart.toNat else (List.range 64).find? ok

/-- The alloy command that runs on a partition. -/
def State.alloyCmd (s : State) (p : Nat) : Option Cmd :=
  (s.headCmd p).bind fun c => if c.op = 2 ∧ c.phase ≠ .waiting then some c else none
/-- Whether the alloy command under way permits an access of a line: it is then as the command's own (R228). -/
def State.ownAccess (s : State) (p : Nat) (write : Bool) (va : Nat) : Bool :=
  match s.alloyCmd p with
  | some c => s.linePermitted [] c.objs write va
  | none => false

/-- What a remote access of a line finds: a DPA and the object there, or a status. -/
inductive RemoteLine where
  | found (dpa : Nat) (obj : Option MemObj)
  | refused (status : Nat)
  deriving DecidableEq, Repr
/-- The translation of a line of a remote access: the store entry that the alloy command under way holds for its page, else a walk
(R228). -/
def State.remoteTrans (s : State) (errs : List LineError) (p va : Nat) : Option Trans × State :=
  let held := (s.alloyCmd p).bind fun c => (s.host.images.find c.image).bind fun im =>
    (s.storeFind p (imgDie im.content 0) (some c.seq) 0 va).map fun e => e.2.trans
  match held with
  | some t => (some t, s)
  | none => s.walkOutside errs p va
/-- Judge a line of a remote access. -/
def State.remoteLine (s : State) (errs : List LineError) (p : Nat) (write : Bool) (va : Nat) : RemoteLine × State :=
  let r := s.remoteTrans errs p va
  match r.1 with
  | none => (.refused St.unmapped, r.2)
  | some t =>
    let dpa := t.dpa va
    let obj := s.objAt p va
    if s.sealedAt dpa ∨ write ∧ (¬ t.w ∨ s.imagePage p va t.size) then (.refused St.unmapped, r.2)
    else if write ∧ ¬ s.ownAccess p true va ∧
        (obj.any fun e => s.namedByCommand p e.1 fun _ => false) then (.refused St.busy, r.2)
    else (.found dpa (obj.map Prod.snd), r.2)
/-- Judge the lines of a remote access in order: their DPAs, or the first status with its VA. -/
def State.remoteLines (s : State) (errs : List LineError) (p : Nat) (write : Bool) :
    List Nat → (List (Nat × Nat × Option MemObj)) × Option (Nat × Nat) × State
  | [] => ([], none, s)
  | va :: rest =>
    let r := s.remoteLine errs p write va
    match r.1 with
    | .refused st => ([], some (st, va), r.2)
    | .found dpa o =>
      let q := State.remoteLines r.2 errs p write rest
      ((va, dpa, o) :: q.1, q.2)

/-- Answer a request: ACK (5) with a status and committed lines, or NACK (7) with a status and a VA. -/
def State.answer (s : State) (h : OpenHdr) (otype deadline v : Nat) : State :=
  s.sendOpen (s.ownFlit h.cls.toNat ((s.targetOf h).getD h.srcPart.toNat) h.srcDevice.toNat h.tag.toNat otype (some deadline)
    [BitVec.ofNat 512 v, 0, 0, 0]) 0
/-- NACK. -/
def State.refuseRemote (s : State) (h : OpenHdr) (deadline status va : Nat) : State :=
  s.answer h 7 deadline (status + va * 2 ^ 16)

/-- A remote access of a line is accounted at its channel, which it wakes. -/
def State.remoteServe (s : State) (p cls dpa : Nat) : State :=
  (s.touchChannel (dpaChannel dpa)).serveAt 0 (dpaChannel dpa) (masterKey false p cls)

/-- READ_REQ: the data and an ACK, or a NACK; an uncorrectable line faults the alloy (R219). -/
def execReadReq (h : OpenHdr) (va : Word) (lines : BitVec 32) (deadline : Word) (errs : List LineError) (s : State) : StepOut :=
  let n := lines.toNat
  .next (s.openFlit h 1 (some deadline.toNat) (requestPayload va.toNat n deadline.toNat) fun s =>
    match s.targetOf h with
    | none => s.refuseRemote h deadline.toNat St.unmapped va.toNat
    | some p =>
      let base := va.toNat % 2 ^ 48
      let r := (s.meetErrors errs).remoteLines errs p false ((List.range n).map fun k => base + 64 * k)
      match r.2.1 with
      | some (st, bad) => r.2.2.refuseRemote h deadline.toNat st (va.toNat - base + bad)
      | none =>
        let s := r.1.foldl (fun s l => s.remoteServe p h.cls.toNat l.2.1) r.2.2
        let zero := fun (l : Nat × Nat × Option MemObj) => (l.2.2.any fun o => o.readsZero l.1) && !s.ownAccess p false l.1
        let live := (r.1.filter fun l => !zero l).map fun l => l.2.1
        let s' := s.noteLines errs live
        match s.badLine errs live with
        | some d => s'.faultPtn p Fc.memUe (.channel (dpaChannel d))
        | none =>
          let data : List Line := r.1.map fun l => if zero l then 0 else s.delivered errs l.2.1
          let t := s'.sendData h.cls.toNat p h.srcDevice.toNat h.tag.toNat 2 (some deadline.toNat) data
          t.answer h 5 deadline.toNat (n * 2 ^ 16))

/-- Whether a write in progress is that of a flit. -/
def RemoteWrite.of (w : RemoteWrite) (h : OpenHdr) : Bool :=
  decide (w.srcDevice = h.srcDevice.toNat ∧ w.srcPtn = h.srcPart.toNat ∧ w.tag = h.tag.toNat)
/-- WRITE_REQ: a write opens at its target, or is refused (R317). -/
def execWriteReq (h : OpenHdr) (va : Word) (lines : BitVec 32) (deadline : Word) (s : State) : StepOut :=
  let n := lines.toNat
  .next (s.openFlit h 3 (some deadline.toNat) (requestPayload va.toNat n deadline.toNat) fun s =>
    match s.targetOf h with
    | none => s.refuseRemote h deadline.toNat St.unmapped va.toNat
    | some p =>
      let base := va.toNat % 2 ^ 48
      let r := s.remoteLines [] p true ((List.range n).map fun k => base + 64 * k)
      match r.2.1 with
      | some (st, bad) => r.2.2.refuseRemote h deadline.toNat st (va.toNat - base + bad)
      | none =>
        if n = 0 then r.2.2.answer h 5 deadline.toNat 0
        else r.2.2.onNet fun m => { m with remoteWrites := (m.remoteWrites.filter fun w => !w.of h) ++
          [⟨h.srcDevice.toNat, h.srcPart.toNat, h.tag.toNat, p, va.toNat, n, 0, deadline.toNat⟩] })
/-- WRITE_DATA: four lines of an open write; the last are answered with an ACK. Data of no open write are discarded
(R317). -/
def execWriteData (h : OpenHdr) (lines : List Line) (s : State) : StepOut :=
  .next (s.openFlit h 4 none ((lines ++ [0, 0, 0, 0]).take 4) fun s =>
    match s.net.remoteWrites.find? fun w => w.of h with
    | none => s
    | some w =>
      let base := w.va % 2 ^ 48
      let now := (lines.take 4).take (w.lines - w.done)
      let r := s.remoteLines [] w.ptn true ((List.range now.length).map fun k => base + 64 * (w.done + k))
      let others := s.net.remoteWrites.filter fun x => !x.of h
      match r.2.1 with
      | some (st, bad) => (r.2.2.onNet fun m => { m with remoteWrites := others }).refuseRemote h w.deadline st (w.va - base + bad)
      | none =>
        let s := (r.1.zip now).foldl (fun s e =>
          let t := (s.remoteServe w.ptn h.cls.toNat e.1.2.1).putLine [] e.1.2.1 e.2
          if t.1 then t.2.faultPtn w.ptn Fc.memUe (.channel (dpaChannel e.1.2.1))
          else match e.1.2.2 with
            | some o => t.2.logObject o e.1.2.1
            | none => t.2) r.2.2
        if w.done + now.length < w.lines then
          s.onNet fun m => { m with remoteWrites := others ++ [{ w with done := w.done + now.length }] }
        else (s.onNet fun m => { m with remoteWrites := others }).answer h 5 w.deadline (w.lines * 2 ^ 16))

/-! ### Answers at the requester (R167, R317, R327) -/

/-- The request that a flit answers, where its command still runs. -/
def State.answered (s : State) (h : OpenHdr) : Option RemoteReq := s.net.requests.find h.tag.toNat
/-- Whether the command of a request still runs. -/
def State.requestLives (s : State) (r : RemoteReq) : Bool :=
  match s.headCmd r.ptn with
  | some c => decide (c.seq = r.seq ∧ c.phase = .running)
  | none => false
/-- Count an answer that comes for a killed command, at the partition's first slice (R167). -/
def State.discardAnswer (s : State) (p : Nat) : State := s.bump Reg.schDiscardCount ((s.slicesOf p).headD 0)
/-- Take a request off the list; the last of a group completes it. -/
def State.endRequest (s : State) (tag : Nat) (r : RemoteReq) : State :=
  let s := s.onNet fun n => { n with requests := n.requests.drop tag }
  if s.net.requests.vals.any fun q => decide (q.ptn = r.ptn ∧ q.seq = r.seq ∧ q.group = r.group) then s
  else s.endGroup r.ptn r.seq r.group

/-- READ_DATA: lines of an answer go to the group's destination, or on to the device that holds it (R317). -/
def execReadData (h : OpenHdr) (lines : List Line) (s : State) : StepOut :=
  .next (s.openFlit h 2 none ((lines ++ [0, 0, 0, 0]).take 4) fun s =>
    match s.answered h with
    | none => s
    | some r =>
      if r.write ∨ r.device ≠ h.srcDevice.toNat then s
      else if ¬ s.requestLives r then s.discardAnswer r.ptn
      else
        let now := (lines.take 4).take (r.lines - r.done)
        let t := s.onNet fun n => { n with requests := n.requests.put h.tag.toNat { r with done := r.done + now.length } }
        match s.localVa r.dst with
        | some a => (withIdx now).foldl (fun s e => s.writeVa r.ptn (a + 64 * (r.done + e.1)) e.2) t
        | none => t.sendData h.cls.toNat r.ptn (vaDevice r.dst) (h.tag.toNat + 1) 4 (some r.deadline) now)
/-- ACK: the request ends, and with the last of its group the group is complete (R317). -/
def execAck (h : OpenHdr) (status : BitVec 16) (lines : BitVec 32) (s : State) : StepOut :=
  .next (s.openFlit h 5 none [BitVec.ofNat 512 (status.toNat + lines.toNat * 2 ^ 16), 0, 0, 0] fun s =>
    match s.answered h with
    | none => s
    | some r =>
      if r.device ≠ h.srcDevice.toNat then s
      else if ¬ s.requestLives r then
        (s.onNet fun n => { n with requests := n.requests.drop h.tag.toNat }).discardAnswer r.ptn
      else s.endRequest h.tag.toNat r)
/-- The request ends with a status: LOST is stroke loss, UNMAPPED a mismatch of what pre-translation passed; a write that
was BUSY was discarded, and the request is over. -/
def State.failRequest (s : State) (tag : Nat) (r : RemoteReq) (status : Nat) : State :=
  if status = St.busy then s.endRequest tag r
  else
    let s := s.onNet fun n => { n with requests := n.requests.drop tag }
    s.faultPtn r.ptn (if status = St.lost then Fc.strokeLoss else Fc.xltMismatch) .none
/-- NACK (R317). -/
def execNack (h : OpenHdr) (status : BitVec 16) (va : Word) (s : State) : StepOut :=
  .next (s.openFlit h 7 none [BitVec.ofNat 512 (status.toNat + va.toNat * 2 ^ 16), 0, 0, 0] fun s =>
    match s.answered h with
    | none => s
    | some r =>
      if r.device ≠ h.srcDevice.toNat then s
      else if ¬ s.requestLives r then
        (s.onNet fun n => { n with requests := n.requests.drop h.tag.toNat }).discardAnswer r.ptn
      else s.failRequest h.tag.toNat r status.toNat)
/-- OPEN_REQUEST_TIMEOUT: no answer by the deadline plus 10 µs ends a request with LOST, and faults its command (R327). -/
def execOpenRequestTimeout (tag : BitVec 16) (s : State) : StepOut :=
  .next (match s.net.requests.find tag.toNat with
    | some r =>
      let t := s.atLeast (r.deadline + 10000)
      if s.requestLives r then t.failRequest tag.toNat r St.lost
      else t.onNet fun n => { n with requests := n.requests.drop tag.toNat }
    | none => s)

end Sys2Proof.Machine
end

