-- ==== Sys2Proof/Machine/Alloy.lean ====
section
/-! DEFINITION. Alloys: joining, leaving and dissolving, trees and routes, alloy messages and barriers (R44, R46, R53, R276
to R283, R320, R321, R343 to R345, R361, R405, R406). -/

namespace Sys2Proof.Machine

/-! ### Joining (R277 to R279) -/

/-- Every index of a plan is in its range, and there is a path for each member (R345, R361). -/
def joinPlanOk (p : JoinPlan) : Bool :=
  decide (p.hops.length ≤ 1024 ∧ p.paths.length = p.members.length) &&
    (p.hops.all fun h => decide (h.port.toNat < 6)) &&
    p.paths.all fun q => q.all fun i => decide (i.toNat < p.hops.length)

/-- Whether a list repeats nothing. -/
def distinct : List Nat → Bool
  | [] => true
  | x :: r => !r.contains x && distinct r

/-- Whether every port on which a partition holds a slot is OPEN (R278). -/
def State.grantedPortsOpen (s : State) (p : Nat) : Bool :=
  (List.range 6).all fun n => s.portOpen n || !(s.holdsSlots n 0 p || s.holdsSlots n 1 p)

/-- The first failing check of R278. -/
def State.joinCheck (s : State) (p lead alloy : Nat) (members : List Nat) : Option Nat :=
  if s.compat then some St.alloyCompat
  else if s.ptnState p ≠ ptnActive ∨ s.mstate p ≠ Ms.none then some St.alloyBusy
  else if (List.range 64).any fun q => decide (q ≠ p ∧ s.mstate q ≠ Ms.none ∧ s.get Reg.ptnpAlloyAlloyId q = alloy) then
    some St.alloyDup
  else if members = [] ∨ 16384 < members.length ∨ ¬ distinct members ∨ ¬ members.contains s.deviceId ∨
      ¬ members.contains lead then some St.alloyList
  else if ¬ s.timeLocked ∨ ¬ s.grantedPortsOpen p then some St.alloyUnlocked
  else none

/-- ALLOY_JOIN (R277). -/
def execAlloyJoin (a : Adm) (p : Byte) (lead : BitVec 16) (alloy windowUs : BitVec 32) (tJoin : Word) (plan : JoinPlan)
    (s : State) : StepOut :=
  .next (s.admin true a (ptnOk p && decide (lead.toNat < 16384) && joinPlanOk plan) fun s =>
    let q := p.toNat
    let members := plan.members.map BitVec.toNat
    match s.joinCheck q lead.toNat alloy.toNat members with
    | some st => s.complete true a st
    | none =>
      let s := s.setMember q { Membership.empty with
        members := members, hops := plan.hops, paths := plan.paths.map fun x => x.map BitVec.toNat
        tJoin := tJoin.toNat, window := 1000 * windowUs.toNat, join := some a }
      let s := (s.setMstate q Ms.joining).set Reg.ptnpCfgLead q (if lead.toNat = s.deviceId then 1 else 0)
      ((s.set Reg.ptnpAlloyAlloyId q alloy.toNat).set Reg.ptnpAlloyMembers q members.length).set
        Reg.ptnpAlloyLeadDevice q lead.toNat)

/-- The member of an alloy on this device, if there is one. -/
def State.localMember (s : State) (alloy : Nat) : Option Nat := (s.tree alloy).bind TreeEntry.member
/-- Send a down message on every DOWN port (R321). -/
def State.sendDown (s : State) (alloy opcode seq : Nat) (arg : BitVec 64) : State :=
  match s.tree alloy with
  | some t => s.sendMask t.down opcode seq alloy arg
  | none => s

/-- Complete the join of a partition, if one waits. -/
def State.endJoin (s : State) (p status : Nat) : State :=
  match (s.member p).join with
  | some a => (s.setMember p { s.member p with join := none, decided := true, undecided := false }).complete true a status
  | none => s.setMember p { s.member p with decided := true, undecided := false }
/-- ACTIVE reaches a member: its membership is ACTIVE (R277 step 6, R283). -/
def State.becomeActive (s : State) (p : Nat) : State :=
  if s.mstate p = Ms.joining then (s.setMstate p Ms.active).endJoin p St.success
  else if s.mstate p = Ms.faulted then (s.setMstate p Ms.active).setMember p { s.member p with resumed := [] }
  else s
/-- ABANDON, or a ruling of none: the membership returns to NONE (R277 steps 6 and 7). -/
def State.abandonJoin (s : State) (p : Nat) : State :=
  if s.mstate p = Ms.joining then (s.endJoin p St.joinFailed).endMembership p else s

/-- JOIN_SYNC has reached the lead from every joining member: ACTIVE goes to all (R277 step 5). -/
def State.joinComplete (s : State) (alloy p : Nat) : State := (s.sendDown alloy 0x18 0 0).becomeActive p

/-- JOIN_INSTANT: from T_j, once nothing is on its line, a joining device sends JOIN_SYNC, after the HOP_REPORT of R345. -/
def execJoinInstant (p : PtnNo) (s : State) : StepOut :=
  let p := p.toNat
  let m := s.member p
  let t := Nat.max s.now m.tJoin
  if s.mstate p = Ms.joining ∧ ¬ m.synced ∧ (s.line p).isEmpty ∧ s.atSeam p ∧ t < m.tJoin + m.window then
    let s := s.atLeast t
    let s := if s.flag Reg.ptnpCfgLead p then s else s.sendHopReport p
    let s := s.setMember p { s.member p with synced := true }
    let alloy := s.get Reg.ptnpAlloyAlloyId p
    let r := s.arrive alloy 0x17 0 0 8
    .next (if r.1 then r.2.joinComplete alloy p else r.2)
  else .next s

/-- Whether JOIN_SYNC has come from a member, alone or combined by the tree: the path to it leaves the lead by a port from
which one has come. -/
def State.syncedFrom (s : State) (p : Nat) (k device : Nat) : Bool :=
  let m := s.member p
  if device = s.deviceId then m.synced
  else m.syncs.contains device ||
    match ((m.paths.getD k []).head?).bind fun i => m.hops[i]? with
    | some h => (s.tree (s.get Reg.ptnpAlloyAlloyId p)).any fun t => t.seen.contains (0x17, 0, 0, h.port.toNat)
    | none => false

/-- JOIN_WINDOW_END: at T_j + W_j the lead that lacks a JOIN_SYNC sends ABANDON and posts the notice, and returns to NONE
(R277). -/
def execJoinWindowEnd (p : PtnNo) (s : State) : StepOut :=
  let p := p.toNat
  let m := s.member p
  if s.mstate p = Ms.joining ∧ s.flag Reg.ptnpCfgLead p then
    let s := s.atLeast (m.tJoin + m.window)
    let alloy := s.get Reg.ptnpAlloyAlloyId p
    let missing := ((withIdx m.members).find? fun e => !s.syncedFrom p e.1 e.2).map Prod.snd
    .next (((s.sendDown alloy 0x19 0 0).notice St.nJoinAbandoned p alloy (missing.getD 0)).abandonJoin p)
  else .next s

/-- ALLOY_UNDECIDED: at T_j + 2 W_j a device with neither ACTIVE nor ABANDON awaits a ruling (R277). -/
def execAlloyUndecided (p : PtnNo) (s : State) : StepOut :=
  let p := p.toNat
  let m := s.member p
  if s.mstate p = Ms.joining ∧ ¬ m.undecided then
    let s := s.atLeast (m.tJoin + 2 * m.window)
    .next ((s.setMember p { m with undecided := true }).notice St.nAlloyUndecided p (s.get Reg.ptnpAlloyAlloyId p) 0)
  else .next s

/-- ALLOY_RULE 0: final for a JOINING membership (R277). -/
def execAlloyRuleNone (a : Adm) (p : Byte) (s : State) : StepOut :=
  .next (s.admin true a (ptnOk p) fun s =>
    if s.compat then s.complete true a St.alloyCompat
    else if s.mstate p.toNat ≠ Ms.joining then s.complete true a St.admState
    else (s.abandonJoin p.toNat).complete true a St.success)
/-- ALLOY_RULE 1 (R277). -/
def execAlloyRuleActive (a : Adm) (p : Byte) (s : State) : StepOut :=
  .next (s.admin true a (ptnOk p) fun s =>
    if s.compat then s.complete true a St.alloyCompat
    else if s.mstate p.toNat ≠ Ms.joining then s.complete true a St.admState
    else (s.becomeActive p.toNat).complete true a St.success)

/-! ### Leaving, dissolving and resuming (R281, R283) -/

/-- ALLOY_LEAVE: a leave item of L_launch + 2,000 ns on the lead's line (R281). -/
def execAlloyLeave (a : Adm) (p : Byte) (leaving : List (BitVec 16)) (s : State) : StepOut :=
  .next (s.admin true a (ptnOk p) fun s =>
    let q := p.toNat
    let ds := leaving.map BitVec.toNat
    if s.compat then s.complete true a St.alloyCompat
    else if s.mstate q ≠ Ms.active ∨ ¬ s.flag Reg.ptnpCfgLead q ∨ s.ptnState q ≠ ptnActive then s.complete true a St.admState
    else if ds = [] ∨ ¬ distinct ds ∨ ds.any (fun d => !(s.member q).members.contains d) then s.complete true a St.alloyList
    else s.placeItem q (.leave ds none a) ((s.member q).launchNs + 2000))

/-- Kill the alloy commands of a line that have not yet been released, their promises voided (R51, R53). -/
def State.killAlloy (s : State) (p : Nat) (e : Ending) : State :=
  let cs := (s.line p).cmds.filter fun c => decide (c.op = 2)
  s.voidAll p e.cause (cs.map fun c => (c, c.ending s.now e))

/-- ALLOY_DISSOLVE (R281). -/
def execAlloyDissolve (a : Adm) (p : Byte) (s : State) : StepOut :=
  .next (s.admin true a (ptnOk p) fun s =>
    let q := p.toNat
    if s.compat then s.complete true a St.alloyCompat
    else if s.mstate q = Ms.none then s.complete true a St.admState
    else
      let s := (s.voidAlloy q .fault Fc.dissolved).killAlloy q ⟨St.killedVoided, .fault, Fc.dissolved, none, 0⟩
      ((s.endJoin q St.joinFailed).endMembership q).complete true a St.success)

/-- ALLOY_RESUME (R283). -/
def execAlloyResume (a : Adm) (p : Byte) (s : State) : StepOut :=
  .next (s.admin true a (ptnOk p) fun s =>
    let q := p.toNat
    let m := s.member q
    if s.compat then s.complete true a St.alloyCompat
    else if s.mstate q ≠ Ms.faulted ∨ ¬ s.flag Reg.ptnpCfgLead q then s.complete true a St.admState
    else if ¬ m.members.all fun d => m.resumed.contains d then s.complete true a St.alloyBusy
    else ((s.sendDown (s.get Reg.ptnpAlloyAlloyId q) 0x18 0 0).becomeActive q).complete true a St.success)

/-! ### Trees and routes (R321, R343) -/

/-- The trees of other alloys that use a port. -/
def State.treesOn (s : State) (alloy n : Nat) : Nat :=
  (s.net.trees.entries.filter fun e => decide (e.1 ≠ alloy) && e.2.uses n).length
/-- The arguments of ALLOY_TREE are in range (R360). -/
def treeArgsOk (up down member : Byte) : Bool :=
  decide ((up.toNat < 6 ∨ up.toNat = 7) ∧ down.toNat < 64 ∧ (member.toNat < 64 ∨ member.toNat = 255))

/-- ALLOY_TREE 0 (R321). -/
def execAlloyTreeInstall (a : Adm) (up down member : Byte) (alloy : BitVec 32) (s : State) : StepOut :=
  .next (s.admin true a (treeArgsOk up down member) fun s =>
    let t : TreeEntry := ⟨if up.toNat = 7 then none else some up.toNat, down.toNat,
      if member.toNat = 255 then none else some member.toNat, [], []⟩
    let others := (s.net.trees.entries.filter fun e => decide (e.1 ≠ alloy.toNat)).length
    if s.compat then s.complete true a St.alloyCompat
    else if 256 ≤ others ∨ (List.range 6).any (fun n => t.uses n && decide (11 ≤ s.treesOn alloy.toNat n)) then
      s.complete true a St.alloyTreeFull
    else (s.onNet fun n => { n with trees := n.trees.put alloy.toNat t }).complete true a St.success)
/-- ALLOY_TREE 1 (R321). -/
def execAlloyTreeRemove (a : Adm) (up down member : Byte) (alloy : BitVec 32) (s : State) : StepOut :=
  .next (s.admin true a (treeArgsOk up down member) fun s =>
    if s.compat then s.complete true a St.alloyCompat
    else if (s.tree alloy.toNat).isNone then s.complete true a St.admState
    else (s.onNet fun n => { n with trees := n.trees.drop alloy.toNat }).complete true a St.success)

/-- A code of a route table entry: a port, the device itself, or unreachable. -/
def routeCode (e : BitVec 4) : Bool := decide (e.toNat < 6 ∨ e.toNat = 0xE ∨ e.toNat = 0xF)
/-- ROUTE_WRITE (R343). -/
def execRouteWrite (a : Adm) (first count : BitVec 16) (entries : List (BitVec 4)) (s : State) : StepOut :=
  .next (s.admin true a (decide (first.toNat + count.toNat ≤ 16384 ∧ entries.length = count.toNat) && entries.all routeCode)
    fun s => (s.onNet fun n => { n with routes := (withIdx entries).foldl (fun (m : FMap Nat) e =>
      m.putD (first.toNat + e.1) 0xF e.2.toNat) n.routes }).complete true a St.success)

/-! ### Alloy messages (R320, R321) -/

/-- The fabric time that a 40-bit field names. -/
def wideTime (now t : Nat) : Nat :=
  let ahead := (t % 2 ^ 40 + 2 ^ 40 - now % 2 ^ 40) % 2 ^ 40
  if ahead < 2 ^ 39 then now + ahead else now + ahead - 2 ^ 40
/-- The alloy identifier of a message. -/
def alloyId (m : AlloyMsg) : Nat := m.alloy.toNat
/-- CMD_SEQ of a message. -/
def alloySeq (m : AlloyMsg) : Nat := m.seq.toNat
/-- The time field of a message. -/
def alloyTime (m : AlloyMsg) (now : Nat) : Nat := wideTime now (m.arg.toNat / 2 ^ 24)

/-- Whether a down message has come from its tree's UP port, which is OPEN. -/
def State.fromUp (s : State) (m : AlloyMsg) : Bool :=
  match s.tree (alloyId m), m.port with
  | some t, some n => decide (t.up = some n.toNat) && s.portOpen n.toNat
  | _, _ => false
/-- Whether an up message has come from a DOWN port of its tree, which is OPEN. -/
def State.fromDown (s : State) (m : AlloyMsg) : Option Nat :=
  match s.tree (alloyId m), m.port with
  | some t, some n => if Nat.testBit t.down n.toNat && s.portOpen n.toNat then some n.toNat else none
  | _, _ => none
/-- A message on which nothing acts: one that came on a port that is not OPEN is counted (R341). -/
def State.strayMsg (s : State) (m : AlloyMsg) : State :=
  match m.port with
  | some n => s.strayed n.toNat
  | none => s
/-- A down message: forwarded on every DOWN port and delivered to the local member. -/
def State.downMsg (s : State) (opcode : Nat) (m : AlloyMsg) (deliver : State → Nat → State) : State :=
  if s.fromUp m then
    let t := s.sendDown (alloyId m) opcode (alloySeq m) m.arg
    match s.localMember (alloyId m) with
    | some p => deliver t p
    | none => t
  else s.strayMsg m

/-- The part of an alloy command that a LAUNCH names: the image at its index, its argument set and T_s (R44, R320). -/
def State.remotePart (s : State) (p : Nat) (m : AlloyMsg) (named : List Word) : Option Cmd :=
  let arg := m.arg.toNat
  let index := arg / 2 ^ 20 % 16
  let segment := arg / 2 ^ 8 % 2 ^ 12
  let a := s.host.argsets.getD (256 * p + arg % 256) 0
  (s.alloyImage p index).map fun e =>
    let l := s.line p
    let start := alloyTime m s.now
    let sw := switchTerms l.items l.resident (512 + index)
    let segs := segsOf sw segment
    let rs := s.cmdRegions e.2.content segs (argWords a) named
    let d := Config.assuredNs ((segs.filterMap fun n => e.2.content.segments[n]?).map Segment.wcet).sum
    { inst := 512 + index, queue := 0, sqHead := 0, op := 2, paced := false, signalEn := false, notify := false, cls := 0
      segment := segment, image := e.1, argset := arg % 256, deadline := never, signalFence := 0, signalValue := 0
      userTag := 0, args := argWords a, objs := argObjs a, fences := [], seq := (l.seq + 1) % 2 ^ 32, cmdSeq := (alloySeq m)
      tNow := s.now, d := d, m := 0, mXlat := 0, switched := sw, tPromise := start + d, tStart := some start
      launch := none, commit := 0, phase := .waiting, voided := none, causeAt := 0, withdrawn := false
      stored := s.coveredEntries p rs, reserved := perQuarter (s.newRegions p none rs), named := named
      openIssued := [], openDone := [], allocs := [], frees := [], commits := [], remote := true }

/-- LAUNCH reaches a member that is not the lead: its part of the command takes its place on the line, and the index that it
names is ready, the lead's copy of which the member shows (R287; log entry 84). -/
def State.deliverLaunch (s : State) (p : Nat) (m : AlloyMsg) : State :=
  if s.mstate p = Ms.active ∧ s.ptnState p = ptnActive ∧ ¬ s.flag Reg.ptnpCfgLead p then
    let r := s.drawOthers p
    let s := r.2
    match s.remotePart p m r.1.2 with
    | some c => (s.setBits Reg.ptnpAlloyImgReady p (2 ^ (m.arg.toNat / 2 ^ 20 % 16))).placeCmd p (s.line p).items.length c
    | none => s
  else s
/-- LAUNCH (R320). -/
def execLaunch (m : AlloyMsg) (s : State) : StepOut := .next (s.downMsg 0x10 m fun s p => s.deliverLaunch p m)

/-- COMMIT, combined: at the lead the last one completes the alloy's internal commit (R46). -/
def execCommit (m : AlloyMsg) (s : State) : StepOut :=
  .next (match s.fromDown m with
    | some n =>
      let r := s.arrive (alloyId m) 0x11 (alloySeq m) 0 n
      match r.1, s.localMember (alloyId m) with
      | true, some p => r.2.alloyCommit p (alloySeq m)
      | _, _ => r.2
    | none => s.strayMsg m)

/-- RELEASE reaches a member: its part commits, to be released at T_promise where the command is paced, else at once. -/
def State.deliverRelease (s : State) (p : Nat) (m : AlloyMsg) : State :=
  match s.headCmd p with
  | some c =>
    if c.op = 2 ∧ c.cmdSeq = (alloySeq m) ∧ c.phase = .held ∧ c.remote then
      (s.setHead p { c with paced := Nat.testBit m.arg.toNat 0, tPromise := alloyTime m s.now }).commitHead p
    else s
  | none => s
/-- RELEASE (R320). -/
def execRelease (m : AlloyMsg) (s : State) : StepOut := .next (s.downMsg 0x12 m fun s p => s.deliverRelease p m)

/-- The cause of a message, by its code of PTNP_GUAR_STS.LAST_CAUSE (R57). -/
def causeOf (n : Nat) : Cause :=
  match n with
  | 1 => .fault
  | 2 => .pwrAlert
  | 3 => .quench
  | 4 => .lockLost
  | 5 => .preempt
  | 6 => .adminReset
  | _ => .none

/-- The commands of a line that belong to an alloy command and can still be killed. -/
def State.partsOf (s : State) (p seq : Nat) : List Cmd := (s.line p).cmds.filter fun c => decide (c.op = 2 ∧ c.cmdSeq = seq)

/-- A VOID reaches a member: its part is killed, or under a power alert runs on without a promise; a FAULT makes the
membership FAULTED, and on the lead it takes every command of the alloy's line, of which the members hear in their turn
(R51, R53, R279). -/
def State.deliverVoid (s : State) (p : Nat) (m : AlloyMsg) : State :=
  let cause := causeOf (m.arg.toNat % 256)
  let code := m.arg.toNat / 256 % 256
  let whole := decide (cause = .fault) && s.flag Reg.ptnpCfgLead p
  let cs := if whole then (s.line p).cmds else s.partsOf p (alloySeq m)
  let s := if whole then s.voidAlloy p cause code else s
  let s := if cause = .pwrAlert then
      let s := cs.foldl (fun s c => if c.voided.isNone ∧ ¬ c.withdrawn then s.voidPromise p cause else s) s
      let l := s.line p
      s.setLine p { l with items := l.items.map fun it => match it.cmd with
        | some c => if c.op = 2 ∧ c.cmdSeq = (alloySeq m) then it.withCmd (c.meet s.now cause) else it
        | none => it }
    else s.voidAll p cause (cs.map fun c => (c, c.ending s.now ⟨St.killedVoided, cause, code, none, 0⟩))
  if cause = .fault ∧ (s.mstate p = Ms.active ∨ s.mstate p = Ms.leaving) then
    let s := s.failMember p
    if s.atSeam p then s.tellResume p else s
  else s
/-- VOID: sent on once for each CMD_SEQ on every tree port but the one it came from, and delivered (R53). -/
def execVoid (m : AlloyMsg) (s : State) : StepOut :=
  .next (match s.tree (alloyId m), m.port with
    | some t, some n =>
      if t.uses n.toNat ∧ s.portOpen n.toNat ∧ ¬ t.voided.contains (alloySeq m) then
        let s := s.sendVoid (alloyId m) (alloySeq m) (causeOf (m.arg.toNat % 256)) (m.arg.toNat / 256 % 256) (some n.toNat)
        match t.member with
        | some p => s.deliverVoid p m
        | none => s
      else s.strayMsg m
    | _, _ => s.strayMsg m)

/-- An ABORT reaches a member: a part that has not reached internal commit is killed, with the member's own commands that
depend on it, which have their notice first (R52, R376, R405, R406). -/
def State.deliverAbort (s : State) (p : Nat) (m : AlloyMsg) : State :=
  let cause := causeOf (m.arg.toNat % 256)
  let cs := (s.partsOf p (alloySeq m)).filter fun c => decide (c.phase ≠ .held)
  let all := killSet (cs.map fun c => (c, c.ending s.now ⟨St.killed, cause, m.arg.toNat / 256 % 256, none, 0⟩)) [] (s.line p).items
  let own := all.filter fun k => !k.1.remote
  let s := own.foldl (fun s k => s.withdraw p k.1 cause) s
  s.killCmds p (all.map fun k => (if k.1.remote then k.1 else { k.1 with withdrawn := true }, k.2))
/-- ABORT (R405). -/
def execAbort (m : AlloyMsg) (s : State) : StepOut := .next (s.downMsg 0x14 m fun s p => s.deliverAbort p m)

/-- A device joins a live alloy: the ACTIVE lead takes it into the member list, judges every bound index anew, and sends ACTIVE
(R277, R280; log entry 83). -/
def State.addMember (s : State) (alloy p device : Nat) : State :=
  let m := s.member p
  if m.members.contains device then s
  else
    let s := s.setMember p { m with members := m.members ++ [device], paths := m.paths ++ [[]] }
    let s := s.set Reg.ptnpAlloyMembers p (m.members.length + 1)
    let s := (List.range 16).foldl (fun s i =>
      if Nat.testBit (s.get Reg.ptnpAlloyImgBound p) i then s.settleReady p i else s) s
    s.sendDown alloy 0x18 0 0

/-- JOIN_SYNC, combined: with the last one the lead sends ACTIVE (R277 step 5). At a lead that is ACTIVE the device joins the
live alloy; an ACTIVE member on the way has nothing of its own to supply; a lead that neither joins nor is ACTIVE, as after
ABANDON, discards it (log entry 83). -/
def execJoinSync (m : AlloyMsg) (device : DeviceId) (s : State) : StepOut :=
  let alloy := alloyId m
  .next (match s.fromDown m, s.tree alloy with
    | some n, some t =>
      match t.member with
      | some p =>
        if t.up.isNone ∧ s.mstate p = Ms.active then s.addMember alloy p device.toNat
        else if t.up.isNone ∧ s.mstate p ≠ Ms.joining then s
        else
          let s := s.setMember p { s.member p with syncs := device.toNat :: (s.member p).syncs }
          let s := if s.mstate p = Ms.active then (s.arrive alloy 0x17 (alloySeq m) 0 8).2 else s
          let r := s.arrive alloy 0x17 (alloySeq m) 0 n
          if r.1 then r.2.joinComplete alloy p else r.2
      | none => (s.arrive alloy 0x17 (alloySeq m) 0 n).2
    | _, _ => s.strayMsg m)

/-- ACTIVE (R277). -/
def execActive (m : AlloyMsg) (s : State) : StepOut := .next (s.downMsg 0x18 m fun s p => s.becomeActive p)
/-- ABANDON (R277). -/
def execAbandon (m : AlloyMsg) (s : State) : StepOut := .next (s.downMsg 0x19 m fun s p => s.abandonJoin p)

/-- LEAVE: an ACTIVE member is LEAVING until T_l (R281). -/
def execLeave (m : AlloyMsg) (leaving : List (BitVec 16)) (s : State) : StepOut :=
  .next (s.downMsg 0x1A m fun s p =>
    if s.mstate p = Ms.active then
      (s.setMstate p Ms.leaving).setMember p { s.member p with
        tLeave := some (alloyTime m s.now), leaving := leaving.map BitVec.toNat }
    else s)

/-! ### Barriers (R344) -/

/-- A BARRIER record: KIND 3, its segment and its index. -/
def barrierRec (r : BitVec 256) (segment index : Nat) : Bool :=
  decide (recField r 0 1 = 3 ∧ recField r 4 2 = segment ∧ recField r 12 2 = index)
/-- The hold of a partition at a barrier ends. -/
def State.passBarrier (s : State) (p seq index : Nat) : State :=
  match s.headCmd p, (s.line p).hold with
  | some c, some (.barrier i, _) => if c.op = 2 ∧ c.cmdSeq = seq ∧ i = index then (s.endHold p).runSeg p else s
  | _, _ => s
/-- Every member has arrived at a barrier: BARRIER_GO goes down from the lead. -/
def State.barrierOpens (s : State) (alloy p seq index : Nat) : State :=
  (s.sendDown alloy 0x16 seq (BitVec.ofNat 64 index)).passBarrier p seq index

/-- BARRIER_TICK: a running member sends BARRIER_ARRIVE and is held (R344). -/
def execBarrierTick (p : PtnNo) (index : BitVec 16) (s : State) : StepOut :=
  let p := p.toNat
  let s := s.runSeg p
  .next (match s.headCmd p, s.seg p with
    | some c, some g =>
      let recs := ((s.host.images.find c.image).map fun im => im.content.linkSlots).getD []
      if c.op = 2 ∧ c.phase = .running ∧ s.ticking p ∧ ¬ g.barriers.contains index.toNat ∧
          recs.any fun r => barrierRec r c.segment index.toNat && decide (recField r 8 4 = g.tick) then
        let alloy := s.get Reg.ptnpAlloyAlloyId p
        let s := s.setSeg p { g with barriers := g.barriers ++ [index.toNat] }
        let s := s.setLine p { s.line p with hold := some (.barrier index.toNat, s.now) }
        let r := s.arrive alloy 0x15 c.cmdSeq index.toNat 8
        if r.1 then r.2.barrierOpens alloy p c.cmdSeq index.toNat else r.2
      else s
    | _, _ => s)
/-- BARRIER_ARRIVE (R321). -/
def execBarrierArrive (m : AlloyMsg) (s : State) : StepOut :=
  .next (match s.fromDown m with
    | some n =>
      let index := m.arg.toNat % 2 ^ 16
      let r := s.arrive (alloyId m) 0x15 (alloySeq m) index n
      match r.1, s.localMember (alloyId m) with
      | true, some p => r.2.barrierOpens (alloyId m) p (alloySeq m) index
      | _, _ => r.2
    | none => s.strayMsg m)
/-- BARRIER_GO (R344). -/
def execBarrierGo (m : AlloyMsg) (s : State) : StepOut :=
  .next (s.downMsg 0x16 m fun s p => s.passBarrier p (alloySeq m) (m.arg.toNat % 2 ^ 16))

/-! ### Reports to the lead (R280, R283, R345) -/

/-- Whether a device is a member of the alloy that a partition leads. -/
def State.leads (s : State) (p device : Nat) : Bool := s.flag Reg.ptnpCfgLead p && (s.member p).members.contains device

/-- HOP_REPORT: S of a member's hops (R345). -/
def execHopReport (p : PtnNo) (device : DeviceId) (hops : List (BitVec 16 × BitVec 16)) (s : State) : StepOut :=
  let p := p.toNat
  if s.leads p device.toNat then
    let m := s.member p
    let named := hops.map fun h => h.1.toNat
    .next (s.setMember p { m with
      hopS := (m.hopS.filter fun e => !(decide (e.1 = device.toNat) && named.contains e.2.1)) ++
        hops.map fun h => (device.toNat, h.1.toNat, h.2.toNat) })
  else .next s
/-- WCET_DIGEST: a member's digest at an index (R280). -/
def execWcetDigest (p : PtnNo) (device : DeviceId) (index : BitVec 4) (digest : BitVec 256) (s : State) : StepOut :=
  if s.leads p.toNat device.toNat then .next (s.noteDigest p.toNat device.toNat index.toNat (some digest)) else .next s
/-- RESUME_REPORT: a member's partition is ACTIVE after the reset that cleared its fault (R283). -/
def execResumeReport (p : PtnNo) (device : DeviceId) (s : State) : StepOut :=
  if s.leads p.toNat device.toNat ∧ s.mstate p.toNat = Ms.faulted then .next (s.noteResumed p.toNat device.toNat) else .next s

end Sys2Proof.Machine
end

