-- ==== Sys2Proof/Machine/Security.lean ====
section
/-! DEFINITION. Firmware banks, sealed packages, attestation, consent, debug items and the Data Object Exchange mailbox
(R349, R462 to R481). -/

namespace Sys2Proof.Machine

/-! ### Firmware banks (R466, R468) -/

/-- Whether a bank image verifies: its signature and digest, its layout, and an SVN that the fuses admit. -/
def State.bankVerifies (s : State) (i : FwImage) : Bool :=
  decide (i.magic.toNat = 0x53584657 ∧ i.svn.toNat ≤ 64 ∧ s.get Reg.secStsFuses 0 ≤ i.svn.toNat ∧
    i.bodyBytes.toNat ≤ 16777216) && i.zeroOk && i.digestOk && i.sigOk
/-- Bytes of header, signature and body. -/
def bankBytes (i : FwImage) : Nat := 64 + 7856 + i.bodyBytes.toNat

/-- FW_STAGE: an image goes into the bank not running, and where it verifies that bank boots next (R468). -/
def execFwStage (a : Adm) (bytes : BitVec 32) (image : FwImage) (s : State) : StepOut :=
  .next (s.admin false a true fun s =>
    let k := 1 - s.get Reg.secStsBank 0
    if s.bankVerifies image ∧ bankBytes image ≤ bytes.toNat then
      let s := s.onSec fun x => { x with banks := x.banks.put k image }
      ((s.set Reg.secStsBankNext 0 k).set Reg.secStsStaged 0 1).complete false a St.success
    else
      let s := s.onSec fun x => { x with banks := x.banks.put k { image with sigOk := false } }
      (s.set Reg.secStsStaged 0 0).complete false a St.admDenied)

/-- FW_SVN_COMMIT: fuses are blown up to an SVN no greater than that of the running firmware (R468). -/
def execFwSvnCommit (a : Adm) (svn : Byte) (s : State) : StepOut :=
  .next (s.admin false a (decide (svn.toNat ≤ 64)) fun s =>
    if s.get Reg.secStsSvn 0 < svn.toNat then s.complete false a St.admDenied
    else
      let n := Nat.max (s.get Reg.secStsFuses 0) svn.toNat
      (s.set Reg.secStsFuses 0 n).complete false a St.success 0 n)

/-! ### Sealed packages (R469 to R471) -/

/-- The number that `n` bytes at an offset spell. -/
def bytesAt (l : List Byte) (off n : Nat) : Nat := leNat ((l.drop off).take n)
/-- Bytes at a VA of a partition, where every line is mapped. -/
def State.vaBytes (s : State) (p va n : Nat) : Option (List Byte) :=
  let vas := lineVas va n
  if vas.all fun v => (s.transOf p v).isSome then
    some (((vas.flatMap fun v => lineBytes ((s.readVa p v).getD 0)).drop (va % 64)).take n)
  else none

/-- Whether a package header keeps its layout. -/
def packageHeaderOk (h : List Byte) : Bool :=
  decide (h.length = 64 ∧ bytesAt h 0 4 = 0x5358504B ∧ bytesAt h 4 2 = 1 ∧ bytesAt h 6 2 = 0 ∧
    (1 ≤ bytesAt h 8 2 ∧ bytesAt h 8 2 ≤ 16384) ∧ bytesAt h 11 1 = 0 ∧ bytesAt h 12 4 = 65536 ∧
    (0 < bytesAt h 16 8 ∧ bytesAt h 16 8 % 64 = 0) ∧ bytesAt h 40 24 = 0)
/-- Bytes of header and device entries. -/
def packageHead (h : List Byte) : Nat := 64 + 1640 * bytesAt h 8 2

/-- The packages of a partition whose destinations still exist (R473). -/
def State.listedPackages (s : State) (p : Nat) : List (Nat × BitVec 256) :=
  (s.plant.sec.packages.getD p []).filter fun e => (s.findObj (BitVec.ofNat 32 e.1)).isSome

/-- The completion of a failed unseal: the session ends, the destination is VOID. -/
def State.failUnseal (s : State) (p : Nat) (dst : Handle) (a : Adm) (code : Nat) : State :=
  let s := s.dropSession p
  let s := match s.findObj dst with
    | some (k, o) => s.setObj k { o with void := true }
    | none => s
  s.complete false a St.admDenied code

/-- What the start of a session finds: a failure code, or the header, the bytes before the chunks and the content key. -/
inductive Opened where
  | failed (code : Nat)
  | opened (head : List Byte) (key : BitVec 256)
  deriving DecidableEq, Repr
/-- Open a package: this device's entry, MIN_SVN and the content key. -/
def State.openPackage (s : State) (head : List Byte) : Opened :=
  let entries := (List.range (bytesAt head 8 2)).map fun i => (head.drop (64 + 1640 * i)).take 1640
  match entries.find? fun e => leNat (e.take 32) = Config.keyRef.toNat with
  | none => .failed 1
  | some e =>
    if s.get Reg.secStsSvn 0 < bytesAt head 10 1 then .failed 2
    else match Config.unwrapKey ((head.drop 24).take 16 ++ e) with
      | none => .failed 3
      | some k => .opened head k

/-- Write the plain bytes of a chunk at the destination, sealing its frames. -/
def State.writeChunk (s : State) (p va : Nat) (key : BitVec 256) (index : Nat) (cipher : List Byte) : State :=
  (List.range (cipher.length / 64)).foldl (fun s j =>
    let v := Config.unseal key (1024 * index + j) (bytesLine ((cipher.drop (64 * j)).take 64))
    let at_ := va + 65536 * index + 64 * j
    match s.transOf p at_ with
    | some t =>
      let s := (s.apServe p (t.dpa at_)).writeLine (t.dpa at_) v
      s.onSec fun x => { x with sealed := x.sealed.put (s.logFrame (t.dpa at_)) 1 }
    | none => s) s

/-- Decrypt chunks of a session from a place in the source: the status of the last one, 0 or a failure code with the index. -/
def State.unsealChunks (s : State) (p srcVa dstVa : Nat) (u : Unseal) : Nat → Nat × Unseal × State
  | 0 => (0, u, s)
  | n + 1 =>
    let i := u.next
    let len := Nat.min 65536 (u.bytes - 65536 * i)
    let dstMapped := (lineVas (dstVa + 65536 * i) len).all fun v => (s.transOf p v).isSome
    let dpas := s.vaDpas p (lineVas srcVa (len + 16))
    let s := (s.hubWalks p srcVa (len + 16)).hubWalks p (dstVa + 65536 * i) len
    match s.badLine [] dpas, s.vaBytes p srcVa (len + 16) with
    | some _, _ => (5, u, s.reading p dpas id id)
    | none, none => (5, u, s)
    | none, some bytes =>
      let s := s.noteLines [] dpas
      if ¬ dstMapped then (5, u, s)
      else if ¬ Config.tagOk u.key i (u.digested.take 64 ++ bytes) then (4 + i * 65536, u, s)
      else
        let s := s.writeChunk p dstVa u.key i (bytes.take len)
        State.unsealChunks s p (srcVa + len + 16) dstVa { u with next := i + 1, digested := u.digested ++ bytes.drop len } n

/-- Run the chunks of a call and settle the session. -/
def State.runUnseal (s : State) (p srcVa dstVa : Nat) (u : Unseal) (count : Nat) (a : Adm) : State :=
  let r := s.unsealChunks p srcVa dstVa u count
  if r.1 ≠ 0 then r.2.2.failUnseal p u.dst a r.1
  else
    let v := r.2.1
    let s := r.2.2.onSec fun x => { x with unseals := x.unseals.put p v }
    let s := if v.next = v.chunks then
        (s.endSession p true).onSec fun x => { x with
          packages := x.packages.put p (s.listedPackages p ++ [(v.dst.toNat, Config.sha256 v.digested)]) }
      else s
    s.complete false a St.success 0 v.next

/-- PKG_UNSEAL (R470). -/
def execPkgUnseal (a : Adm) (p : Byte) (src dst : Handle) (first count : BitVec 32) (s : State) : StepOut :=
  .next (s.admin false a (ptnOk p) fun s =>
    let q := p.toNat
    let n := count.toNat
    if s.ptnState q ≠ ptnActive then s.complete false a St.admState
    else match s.findObj src, s.findObj dst with
      | some (_, so), some (dk, d) =>
        let mine := decide (s.plant.sec.unseals.find q |>.any fun u => u.dst = dst)
        if so.ptn ≠ q ∨ d.ptn ≠ q then s.complete false a St.objHandle
        else if d.append ∨ ¬ d.w ∨ d.ap ∨ (s.imageObjs q).any fun o => rangesMeet o.va o.bytes d.va d.bytes then
          s.complete false a St.objRange
        else if d.freeing ∨ s.namedByCommand q dk (fun _ => false) then s.complete false a St.objBusy
        else if first = 0 then
          s.reading q (s.vaDpas q (lineVas so.va (packageHead ((s.vaBytes q so.va 64).getD [])))) (fun s => s.failUnseal q dst a 5) fun s =>
          match (s.vaBytes q so.va 64).bind fun h => if packageHeaderOk h then s.vaBytes q so.va (packageHead h) else none with
          | none => s.failUnseal q dst a 5
          | some head =>
            let bytes := bytesAt head 16 8
            if d.bytes < bytes then s.complete false a St.objRange
            else if 256 ≤ (s.listedPackages q).length then s.complete false a St.objSpace
            else
              let s := s.dropSession q
              match s.openPackage head with
              | .failed c => s.failUnseal q dst a c
              | .opened head key =>
                let u : Unseal := ⟨dst, 0, ceilDiv bytes 65536, bytes, head, key⟩
                if u.chunks < n then s.failUnseal q dst a 5
                else
                  let s := match s.findObj dst with
                    | some (k, o) => s.setObj k { o with void := false, scratching := o.scratching + 1 }
                    | none => s
                  let s := s.onSec fun x => { x with unseals := x.unseals.put q u }
                  s.runUnseal q (so.va + head.length) d.va u n a
        else
          match s.plant.sec.unseals.find q with
          | some u =>
            if ¬ mine ∨ first.toNat ≠ u.next ∨ u.chunks < u.next + n then s.failUnseal q dst a 5
            else s.runUnseal q so.va d.va u n a
          | none => s.failUnseal q dst a 5
      | _, _ => s.complete false a St.objHandle)

/-! ### Attestation (R467, R472, R473) -/

/-- The endorsement of the boot (R467). -/
def State.endorsement (s : State) : List Byte :=
  let m := s.plant.sec.mFw
  let svn := s.get Reg.secStsSvn 0
  let body := natBytes 32 (Config.attestKey m svn).toNat ++ natBytes 32 m.toNat ++ natBytes 1 svn ++
    natBytes 4 Config.romVersion.toNat
  body ++ (List.range 7856).map fun i => Config.signature 0 body i

/-- Images of a partition, by slot. -/
def State.imagesOf (s : State) (p : Nat) : List (Nat × Image) := s.host.images.entries.filter fun e => decide (e.2.ptn = p)
/-- TOTAL_BYTES of a report. -/
def State.reportBytes (s : State) (p : Nat) (valid : Bool) : Nat :=
  0x120 + (if valid then 40 * ((s.imagesOf p).length + (s.listedPackages p).length) else 0) + 17088
/-- Whether the partition fields of a report are valid. -/
def State.reportValid (s : State) (p : Nat) : Bool := decide (p < 64) && decide (s.ptnState p ≠ ptnFree)

/-- The partition's fields of a report, from 0x0C8 on. -/
def State.reportPtn (s : State) (p : Nat) : List Byte :=
  let m := s.member p
  let joined := s.mstate p ≠ Ms.none
  let bit := fun (b : Bool) (n : Nat) => if b then n else 0
  natBytes 8 (s.get Reg.ptnpSlicesSlices p) ++ natBytes 8 (s.get Reg.ptnpSetsSets p) ++
    natBytes 1 (s.ptnState p) ++ natBytes 1 (s.get Reg.ptnpCfgProfile p) ++ natBytes 1 (s.get Reg.ptnpCfgInstances p) ++
    natBytes 1 (bit (s.flag Reg.ptnpSecDebug p) 1 + bit (s.flag Reg.ptnpSecProfile p) 2) ++
    natBytes 4 (s.get Reg.ptnpSecConsentEpoch p) ++ natBytes 8 (s.get Reg.ptnpMemEpochEpoch p) ++
    natBytes 4 (bit joined (s.get Reg.ptnpAlloyAlloyId p)) ++ natBytes 2 (bit joined (s.get Reg.ptnpAlloyLeadDevice p)) ++
    natBytes 2 (bit joined (s.get Reg.ptnpAlloyMembers p)) ++ natBytes 1 (s.mstate p) ++ natBytes 15 0 ++
    natBytes 32 (bit joined (Config.sha256 (m.members.flatMap fun d => natBytes 2 d)).toNat)
/-- The image and package entries of a report. -/
def State.reportLists (s : State) (p : Nat) : List Byte :=
  ((s.imagesOf p).flatMap fun e =>
    natBytes 4 (mkHandle e.2.gen e.1) ++
      natBytes 4 ((if e.2.staged then 1 else 0) + (if e.2.content.alloy then 2 else 0) + 16 * e.2.index.getD 0) ++
      natBytes 32 e.2.digest.toNat) ++
  (s.listedPackages p).flatMap fun e => natBytes 4 e.1 ++ natBytes 4 0 ++ natBytes 32 e.2.toNat

/-- A signed report (R473). -/
def State.report (s : State) (p : Nat) (nonce : BitVec 256) : List Byte :=
  let valid := s.reportValid p
  let body := natBytes 4 0x53584154 ++ natBytes 2 1 ++ natBytes 2 (if valid then 1 else 0) ++
    natBytes 4 (s.reportBytes p valid) ++ natBytes 2 (if valid then (s.imagesOf p).length else 0) ++
    natBytes 2 (if valid then (s.listedPackages p).length else 0) ++ natBytes 32 nonce.toNat ++ natBytes 8 s.now ++
    natBytes 2 s.deviceId ++ natBytes 1 (if valid then p else 0) ++ natBytes 1 (s.get Reg.ftmStsLstate 0) ++
    natBytes 4 Config.romVersion.toNat ++ natBytes 32 (Config.sha256 Config.identityCert).toNat ++
    natBytes 32 (Config.sha256 s.endorsement).toNat ++ natBytes 32 s.plant.sec.mFw.toNat ++
    natBytes 32 s.plant.sec.mNvm.toNat ++ natBytes 1 (s.get Reg.secStsBank 0) ++ natBytes 1 (s.get Reg.secStsSvn 0) ++
    natBytes 1 (s.get Reg.secStsFuses 0) ++ natBytes 1 (s.get Reg.ptnModeCompat 0) ++ natBytes 4 0 ++
    (if valid then s.reportPtn p ++ s.reportLists p else natBytes 88 0)
  body ++ (List.range 17088).map fun i => Config.signature 1 body i

/-- Answer a request for a report: over its pair, or as a data object led by a status. -/
def State.answerAttest (s : State) (r : AttestReq) (status total : Nat) : State :=
  match r.pair with
  | some fm => s.complete fm r.adm status 0 total
  | none => s.emit (.doe (status :: if status = St.objRange then [total] else []))
/-- A request joins the queue of 16. -/
def State.askAttest (s : State) (r : AttestReq) : State :=
  if 16 ≤ s.plant.sec.attest.length then s.answerAttest r St.busy 0
  else s.onSec fun x => { x with attest := x.attest ++ [r] }
/-- A partition, or 0xFF for the device alone. -/
def attestPtnOk (p : Byte) : Bool := ptnOk p || decide (p = 255)

/-- ATTEST (R472). -/
def execAttest (a : Adm) (p : Byte) (capacity : BitVec 32) (dst : Word) (nonce : BitVec 256) (s : State) : StepOut :=
  .next (s.admin false a (attestPtnOk p) fun s =>
    s.askAttest ⟨some false, a, p.toNat, capacity.toNat, dst.toNat, nonce⟩)
/-- ATTEST_FM (R472). -/
def execAttestFm (a : Adm) (p : Byte) (capacity : BitVec 32) (dst : Word) (nonce : BitVec 256) (s : State) : StepOut :=
  .next (s.admin true a (attestPtnOk p) fun s =>
    s.askAttest ⟨some true, a, p.toNat, capacity.toNat, dst.toNat, nonce⟩)

/-- Configuration space answers: firmware has verified (R350, R505). -/
def State.configOpen (s : State) : Bool := s.verified
/-- The mailbox answers, but for DS3 (R447). -/
def State.mailboxOpen (s : State) : Bool := s.configOpen && decide (s.get Reg.pwrStsDstate 0 ≠ 3)
/-- ATTEST_DOE: kind 0 asks for a report, 1 for the identity certificate, 2 for the endorsement (R472). -/
def execAttestDoe (kind : Byte) (p : Byte) (capacity : BitVec 32) (nonce : BitVec 256) (s : State) : StepOut :=
  .next (if ¬ s.mailboxOpen then s
    else if kind.toNat = 0 then
      if attestPtnOk p then s.askAttest ⟨none, ⟨0, false, true, false⟩, p.toNat, capacity.toNat, 0, nonce⟩
      else s.emit (.doe [St.admFormat])
    else if kind.toNat = 1 then s.emit (.doe (0 :: Config.identityCert.map BitVec.toNat))
    else if kind.toNat = 2 then s.emit (.doe (0 :: s.endorsement.map BitVec.toNat))
    else s.emit (.doe [St.admFormat]))

/-- ATTEST_SNAPSHOT: the request at the head of the rotation is answered from this instant's state (R472). -/
def execAttestSnapshot (s : State) : StepOut :=
  .next (match s.plant.sec.attest with
    | [] => s
    | r :: rest =>
      let s := s.onSec fun x => { x with attest := rest }
      let total := s.reportBytes r.ptn (s.reportValid r.ptn)
      if r.capacity < total then s.answerAttest r St.objRange total
      else
        let report := s.report r.ptn r.nonce
        match r.pair with
        | some _ => (s.emit (.hostWrite r.dst report)).answerAttest r St.success total
        | none => s.emit (.doe (0 :: report.map BitVec.toNat)))

/-! ### Consent and debug (R474, R475) -/

/-- CONSENT (R474). -/
def execConsent (a : Adm) (p flags : Byte) (s : State) : StepOut :=
  .next (s.admin false a (ptnOk p && decide (flags.toNat < 4)) fun s =>
    let q := p.toNat
    let d := s.get Reg.ptnpSecDebug q
    let r := s.get Reg.ptnpSecProfile q
    let d' := flags.toNat % 2
    let r' := flags.toNat / 2
    if (d < d' ∨ r < r') ∧ (s.ptnState q ≠ ptnActive ∨ 0 < s.get Reg.ptnpCfgInstances q) then s.complete false a St.admState
    else
      let s := if d = 1 ∧ d' = 0 then s.endDebug q else s
      let s := (s.set Reg.ptnpSecDebug q d').set Reg.ptnpSecProfile q r'
      let s := if d ≠ d' ∨ r ≠ r' then s.set Reg.ptnpSecConsentEpoch q (s.get Reg.ptnpSecConsentEpoch q + 1) else s
      s.complete false a St.success 0 (s.get Reg.ptnpSecConsentEpoch q))

/-- DBG_OPEN: a debug item, for an ACTIVE partition with DEBUG set (R475). -/
def execDbgOpen (a : Adm) (p : Byte) (s : State) : StepOut :=
  .next (s.admin false a (ptnOk p) fun s =>
    if s.ptnState p.toNat ≠ ptnActive ∨ ¬ s.flag Reg.ptnpSecDebug p.toNat then s.complete false a St.admState
    else s.placeItem p.toNat (.debug a) 0)
/-- DBG_CLOSE (R475). -/
def execDbgClose (a : Adm) (p : Byte) (s : State) : StepOut :=
  .next (s.admin false a (ptnOk p) fun s =>
    if (s.line p.toNat).items.any Item.isDebug then (s.endDebug p.toNat).complete false a St.success
    else s.complete false a St.admState)

/-! ### Random draws (R465) -/

/-- TRNG_FAIL (R465). -/
def execTrngFail (s : State) : StepOut := .next (s.raise Reg.secStsTrngFail 0)

/-! ### The Data Object Exchange mailbox (R349) -/

/-- IDE_KM: a key of Link IDE (stream 0) or a Selective IDE stream (1 to 4), by sub-stream and direction; K_SET_GO puts the
stream into use. The answer is a status (R349). -/
def execIdeKm (stream : BitVec 3) (subStream : BitVec 3) (rx : Bool) (keyOk : Bool) (setGo : Bool) (s : State) : StepOut :=
  .next (if ¬ s.mailboxOpen then s
    else if 4 < stream.toNat ∨ 2 < subStream.toNat ∨ ¬ keyOk then s.emit (.doe [1])
    else
      let key := 16 * stream.toNat + 2 * subStream.toNat + (if rx then 1 else 0)
      if setGo ∧ ¬ s.plant.bus.ideKeys.has key then s.emit (.doe [1])
      else (s.onBus fun b => { b with ideKeys := b.ideKeys.put key setGo }).emit (.doe [0]))
/-- DOE_DISCOVERY: the object at an index and the next index: 0 discovery, 1 the object of IDE_KM, 2 attestation (R349). -/
def execDoeDiscovery (index : Byte) (s : State) : StepOut :=
  .next (if ¬ s.mailboxOpen then s
    else if index.toNat ≤ 2 then s.emit (.doe [index.toNat, (index.toNat + 1) % 3])
    else s.emit (.doe [0xFFFF, 0]))

end Sys2Proof.Machine
end

