-- ==== Sys2Proof/Machine/Views.lean ====
section
/-! DEFINITION. What a read of a register page shows: stored fields, fields that follow other state, the header of each page,
counters and the registers of event controllers (R431, R437, R440, R476, R505, R514 to R533). -/

namespace Sys2Proof.Machine

/-! ### Fields that follow other state -/

/-- A truth value as a bit. -/
def bit01 (b : Bool) : Nat := if b then 1 else 0
/-- The sum of single bits that a list of truth values gives, from bit 0. -/
def packBits (l : List Bool) : Nat := (l.zipIdx.map fun e => if e.1 then 2 ^ e.2 else 0).sum
/-- Holders and reservations of a quarter, for the entries of one partition or of every one (R252, R257). -/
def State.heldIn (s : State) (q : Nat) (p : Option Nat) : Nat :=
  let mine := fun (k : Nat) => match p with | some p => decide (k / 4 = p) | none => true
  (s.mem.allStore.filter fun e =>
    decide (e.1 / 2 ^ 32 % 4 = q) && mine (e.1 / 2 ^ 32) && !e.2.holders.isEmpty).length +
  ((List.range 64).map fun x =>
    if p = some x ∨ p = none then ((s.line x).cmds.map fun c => c.reserved.getD q 0).sum else 0).sum
/-- Whether a point that serves a partition is overcommitted (R408). -/
def State.overcommitted (s : State) (p : Nat) : Bool :=
  decide (s.chCapacity p < sumOver (List.range 16) fun k => s.get Reg.ptnpClassChMbps (16 * p + k)) ||
    decide (s.linkCapacity < s.linkTotal) ||
    decide (s.apCapacity < sumOver (List.range 64) fun q => s.get Reg.ptnpRegCfgApMbps q)
/-- Blocks of a node that a partition holds, with their numbers. -/
def State.blocksOf (s : State) (n : Nat) : List (Nat × Nat) := (s.node n).owners.entries
/-- The die of a node; 4 for the hub switch. -/
def nodeDie (n : Nat) : Nat := if n = hubNode then 4 else n / 16
/-- The far end of a die's bridge: the lower and the higher neighbouring compute die, and the hub (R516, R529). -/
def bridgePeer (d b : Nat) : Nat :=
  if b = 2 then 4 else if d = 0 ∨ d = 3 then 1 + b else 3 * b
/-- Units stand at an input that a bridge between two dies feeds. -/
def State.bridgeActive (s : State) (d e : Nat) : Bool :=
  s.engines.nodes.entries.any fun x =>
    let here := nodeDie x.1
    (decide (here = d) || decide (here = e)) && x.2.units.entries.any fun u =>
      match s.farOf x.1 (u.1 / 16 / 2 ^ 32) with
      | .node n _ _ => decide (nodeDie n ≠ here) && (decide (nodeDie n = d) || decide (nodeDie n = e)) &&
          (decide (x.1 = hubNode) || decide (u.1 / 16 / 2 ^ 32 < 4))
      | .link _ _ => false
/-- Walks outstanding on a die: one of each chain that waits for a walk there, in the commands in their translation phase (R247,
R257). -/
def State.walksOut (s : State) (d : Nat) : Nat :=
  Nat.min 64 (((List.range 64).flatMap fun p => match s.translating p with
    | some c => (List.range 16).filter fun ch => match (s.chainNeed p c ch).next with
      | .walk pc _ => decide (s.walkerDie p c ch pc = d)
      | _ => false
    | none => []).length)
/-- Open-queue entries of an engine that have started. -/
def State.openBusy (s : State) (e : Nat) : Bool := (s.engine e).queue.vals.any OpenEntry.started
/-- The instance that MIG_SEL names. -/
def State.migInst (s : State) : Nat := s.get Reg.migSelInstance 0

/-- Fields that follow other state, with what they read for an instance of the field. -/
def State.liveFields (s : State) : List (Field × (Nat → Nat)) :=
  [(Reg.ptnpLineFreeLineFree, fun p => (s.line p).queueFree s.now),
   (Reg.ptnpGuarStsSaturated, fun p => bit01 (s.flag Reg.pwrStsCapSaturated 0 && decide (s.ptnState p ≠ ptnFree))),
   (Reg.ptnpGuarStsAlert, fun _ => bit01 (s.flag Reg.pwrStsAlert 0)),
   (Reg.ptnpGuarStsTimeLocked, fun _ => bit01 s.timeLocked),
   (Reg.ptnpGuarStsAdmitOpen, fun p => bit01 (s.admitClosed p).isNone),
   (Reg.ptnpLineBoundBound, fun p => (s.line p).bound),
   (Reg.ptnpPwrGNow, fun p => s.gapOf p),
   (Reg.rtrBlockBlockOwner, fun n => ((s.blocksOf n).map fun e => (64 + e.2) * 2 ^ (7 * e.1)).sum),
   (Reg.rtrStsActive, fun n => bit01 (!(s.node n).runs.isEmpty)),
   (Reg.ptnpHubBlocksBlocks, fun p => (((s.blocksOf hubNode).filter fun e => decide (e.2 = p)).map fun e => 2 ^ e.1).sum),
   (Reg.nocStsFreeBlocks, fun d => ((List.range 16).map fun c => (s.freeBlocks (16 * d + c)).length).sum),
   (Reg.nocStsFaultyAssay, fun d => packBits ((List.range 16).map fun c => s.flag Reg.rtrStsFaultyAssay (16 * d + c))),
   (Reg.nocStsFaultyRun, fun d => packBits ((List.range 16).map fun c => s.flag Reg.rtrStsFaultyRun (16 * d + c))),
   (Reg.ptnpXltQuotaHeld, fun p => greatestOver (List.range 4) fun q => s.heldIn q (some p)),
   (Reg.xltwStsActive, fun d => s.walksOut d),
   (Reg.xltStoreStsHeld, fun q => s.heldIn q none),
   (Reg.xltStoreStsQuotaSum, fun _ => sumOver (List.range 64) fun p => s.get Reg.ptnpXltQuotaQuota p),
   (Reg.ptnpHoStsHeld, fun p => (s.net.records.vals.filter fun r => decide (r.ptn = p)).length),
   (Reg.ptnpHoStsWaiting, fun p => (s.net.records.vals.filter fun r => decide (r.ptn = p) && r.rulingWait).length),
   (Reg.ftmTimeNs, fun _ => s.now),
   (Reg.ptnpRegStsOvercommit, fun p => bit01 (s.overcommitted p)),
   (Reg.bwrApCapApCapMbps, fun _ => s.apCapacity),
   (Reg.nmeStsOpenBusy, fun e => bit01 (s.openBusy e)),
   (Reg.nmeStsActive, fun e => bit01 (!(s.engine e).running.entries.isEmpty)),
   (Reg.glbInfoAvailSlices, fun _ => (bitsSet (s.get Reg.ptnAvailAvail 0)).length),
   (Reg.dieInfoAvail, fun d => s.get Reg.ptnAvailAvail 0 / 2 ^ (16 * d) % 2 ^ 16),
   (Reg.migInfoLogging, fun _ => (s.host.insts.vals.filter Inst.logging).length),
   (Reg.migInstSetBits, fun _ => (s.host.logBits.entries.filter fun e => decide (e.1 / 2 ^ 25 = s.migInst)).length),
   (Reg.migInstLogging, fun _ => bit01 ((s.inst s.migInst).any Inst.logging)),
   (Reg.schStsSegTick, fun sl => (((s.sliceOwner sl).bind s.seg).map SegRun.tick).getD 0),
   (Reg.clsStsSlice, fun sl => sl),
   (Reg.brgStsPeer, fun i => bridgePeer (i / 3) (i % 3)),
   (Reg.brgStsActive, fun i => bit01 (s.bridgeActive (i / 3) (bridgePeer (i / 3) (i % 3)))),
   (Reg.countCount, fun i => s.shownCount (i / 32) (i % 32))]
/-- What a field reads. -/
def State.view (s : State) (f : Field) (i : Nat) : Nat :=
  match s.liveFields.find? fun e => decide (e.1.id = f.id) with
  | some e => e.2 i % 2 ^ f.width
  | none => s.get f i

/-! ### Pages -/

/-- TYPE and PAGES of a page's block (R528). -/
def pageType : Page → Nat × Nat
  | .hdr => (0, 1)
  | .glb => (1, 1) | .clk => (2, 1) | .pwr => (3, 1) | .thm => (4, 1) | .sec => (5, 1) | .ast => (6, 1) | .hif => (7, 1)
  | .qmg => (8, 1) | .xlt => (9, 1) | .ftm => (0xA, 1) | .evc => (0xB, 1) | .mig => (0xC, 1) | .ptn => (0xD, 1)
  | .rst => (0xE, 1) | .bwr => (0xF, 1) | .mbx => (0x10, 1) | .ptnp => (0x11, 1) | .lnk => (0x12, 16)
  | .die => (0x20, 1) | .noc => (0x21, 1) | .xltw => (0x22, 1) | .cls => (0x23, 1) | .seq => (0x24, 1)
  | .vec => (0x25, 1) | .mtx => (0x26, 1) | .sch => (0x27, 1) | .rtr => (0x28, 1) | .mch => (0x29, 1)
  | .nme => (0x2A, 4) | .brg => (0x2B, 1)
/-- INSTANCE of BLK_ID: clusters, channels, engines and bridges are numbered within their die (R528). -/
def pageInstance (t : Page) (i : Nat) : Nat :=
  match t with
  | .cls | .seq | .mtx | .sch | .rtr => i % 16
  | .evc => if 64 ≤ i then 0x40 else i % 16
  | .vec => i % 32
  | .mch => i % 192
  | .nme => i % 6
  | .brg => i % 3
  | .die | .noc | .xltw => 0
  | _ => i
/-- BLK_ID and BLK_CAP. -/
def headerWord (page : Nat) (t : Page) (d i off : Nat) : Nat :=
  if off = 0 then (pageType t).1 * 2 ^ 56 + pageInstance t i * 2 ^ 40 + d * 2 ^ 36 + 1
  else (bitsSet (evtMask page)).length * 2 ^ 16 + (pageType t).2
/-- Registers of an event controller (R431). -/
def State.readEvc (s : State) (n off : Nat) : Nat :=
  let e := s.evc n
  -- on the hub page one EVC_SEL serves every management core
  let sel := (s.evc (if n < 64 then n else 64)).sel
  let k := sel % 1024
  let x := e.source k
  if off = 0x40 then e.groupBits * 2 ^ 8 + bit01 e.mask
  else if off = 0x50 then 2 ^ 63
  else if off = 0x60 then
    e.badSource * 2 ^ 48 + e.topSource * 2 ^ 32 + bit01 e.line * 2 ^ 9 + bit01 e.frozen * 2 ^ 8 + e.stack.length
  else if off = 0x68 then sel
  else if off = 0x70 then
    x.countTh * 2 ^ 48 + x.acc * 2 ^ 32 + x.timeUs * 2 ^ 16 + x.prio * 2 ^ 8 + bit01 x.latched * 8 +
      bit01 (e.onStack k) * 4 + bit01 x.pending * 2 + bit01 x.enable
  else if 0x80 ≤ off ∧ off < 0x100 then
    match e.stack.reverse[(off - 0x80) / 8]? with
    | some y => 2 ^ 63 + y.1 * 2 ^ 8 + y.2
    | none => 0
  else if 0x100 ≤ off ∧ off < 0x180 then
    packBits ((List.range 64).map fun b => (e.source (64 * ((off - 0x100) / 8) + b)).pending)
  else 0
/-- A slot map word of a LNK page: eight entries of a direction (R346). -/
def State.readSlots (s : State) (page : Nat) : Option (Nat → Nat) :=
  match pageInfo page with
  | some (.lnk, _, n) =>
    let k := page - lnkPage n
    if k = 0 then none
    else if 5 ≤ k then some fun _ => 0
    else some fun off =>
      let dir := (k - 1) / 2
      let first := 4096 * ((k - 1) % 2) + off
      ((List.range 8).map fun j => s.net.slots.getD ((2 * n + dir) * 8192 + first + j) 0 * 2 ^ (8 * j)).sum
  | _ => none

/-- A register of the MBX page (R391): the pair base is 0x40 for ADM and 0x60 for FM. -/
def State.readMbx (s : State) (off : Nat) : Nat :=
  let i := if 0x60 ≤ off then 1 else 0
  let word := fun (l : List Field) k => (l.map fun f => s.view f k * 2 ^ f.lo).sum
  if off < 0x40 ∨ 0x80 ≤ off then 0
  else if off % 0x20 = 0 then word [Reg.mbxBaseAddr, Reg.mbxBaseLog2] (2 * i)
  else if off % 0x20 = 8 then word [Reg.mbxBaseAddr, Reg.mbxBaseLog2] (2 * i + 1)
  else if off % 0x20 = 0x10 then word [Reg.mbxDbCqHead, Reg.mbxDbSqTail] i
  else word [Reg.mbxStsNoticeLost, Reg.mbxStsSqHead, Reg.mbxStsError, Reg.mbxStsEnable] i

/-- The value of a 64-bit register of a page, gating and access apart. -/
def State.regWord (s : State) (page off : Nat) : Nat :=
  match pageInfo page with
  | none => 0
  | some (t, d, i) =>
    if ¬ headerPage page then match s.readSlots page with | some f => f off | none => 0
    else if off < 0x10 then headerWord page t d i off
    else if ¬ (off < 0x40 ∨ s.flag Reg.blkStsInService page) then 0
    else if t = .evc ∧ 0x40 ≤ off ∧ off < 0xF00 then s.readEvc (s.evcOfPage page) off
    else if t = .mbx ∧ 0x40 ≤ off ∧ off < 0xF00 then s.readMbx off
    else match regAt t i page off with
      | some (r, k) => (r.fields.map fun f => s.view f k * 2 ^ f.lo).sum
      | none => 0
/-- What the block's clock and slice state leave of a page (R437, R440). -/
def State.pageWord (s : State) (page off : Nat) : Nat :=
  if s.pageGated page ∨ s.pageStopped page then 0 else s.regWord page off
/-- What a 64-bit BAR0 read of a page's register returns (R505, R520). -/
def State.bar0Word (s : State) (page off : Nat) : Nat := if s.pageOpen page then s.pageWord page off else 0

/-! ### Instance pages (R351, R354) -/

/-- Q_STS of a queue of an instance; zero where it does not exist. RING_FULL reads 1 while the ring has not the room of R372, and
WAITING while the head descriptor waits on its fence. -/
def State.queueWord (s : State) (i q : Nat) : Nat :=
  match s.inst i, s.queue i q with
  | some x, some y =>
    y.sqHead * 2 ^ 48 + y.cqTail * 2 ^ 32 + bit01 y.dmaStop * 8 +
      bit01 (match y.waiting with | some (h, v) => s.fenceWaits x.ptn h v | none => false) * 4 +
      bit01 (decide (2 ^ (y.cqLog2 + 4) - y.used < 3 + 3 * y.taken)) * 2 + bit01 (decide (x.state = Is.active))
  | _, _ => 0
/-- INST_STS of an instance. -/
def State.instStatus (s : State) (i : Nat) : Nat :=
  match s.inst i with
  | some x => bit01 x.logging * 2 ^ 7 + bit01 (decide ((s.line x.ptn).resident = some i)) * 2 ^ 6 + x.state
  | none => 0
/-- FENCE_VIEW of a view slot: the value of the fence that is bound to it, or 0. -/
def State.viewWord (s : State) (i v : Nat) : Nat :=
  (((s.inst i).bind fun x => x.views.find v).bind fun h => (s.findFence h).map fun f => f.2.value).getD 0
/-- What a 64-bit BAR2 read of an instance's page returns. Registers that take writes only, and offsets that are not listed, read
zero (R354). -/
def State.bar2Word (s : State) (i off : Nat) : Nat :=
  if ¬ s.barsOpen then 0
  else if off < 0x200 then if off % 0x40 = 0x10 then s.queueWord i (off / 0x40) else 0
  else if off = 0x200 then s.instStatus i
  else if 0x1000 ≤ off ∧ off < 0x1800 then s.viewWord i ((off - 0x1000) / 8)
  else 0

end Sys2Proof.Machine
end

