-- ==== Sys2Proof/Machine/Boot.lean ====
section
/-! DEFINITION. Start-up, assay, ordered resets and their escalation, and the pins and bus events that reset the module
(R350, R351, R465, R466, R485, R489 to R506, R542). -/

namespace Sys2Proof.Machine

/-! ### Boot ROM (R465, R466) -/

/-- Start-up stops before release: FAULT_N is asserted (R506). -/
def State.stopStartup (s : State) : State := (s.set Reg.rstBootPhase 0 15).assertFault
/-- The boot ROM runs: the rails stand and no firmware has verified. -/
def State.inRom (s : State) : Bool :=
  decide (s.bootPhase = 0) && s.plant.pins.pwrEn && s.plant.pins.pwrGood && !s.plant.boot.held
/-- The bank that the boot ROM reads: BANK_NEXT, or the other one once that has failed. -/
def State.romBank (s : State) : Nat :=
  let n := s.get Reg.secStsBankNext 0
  if s.plant.sec.failedBanks.contains n then 1 - n else n
/-- A bank fails to verify: the other bank is tried, or start-up stops. -/
def State.bankFail (s : State) (k : Nat) : State :=
  let s := s.onSec fun x => { x with failedBanks := k :: x.failedBanks }
  if 2 ≤ s.plant.sec.failedBanks.length then s.stopStartup else s.raise Reg.secStsBootFallback 0

/-- The key of a flash line. -/
def flashKey (bank line : Nat) : Nat := bank * 2 ^ 19 + line
/-- The bank image that the boot ROM judges: the staged or shipped one, or after a rewrite of the bank the header in the flash
with what the hash and the signature check find; none for an erased bank (R466, R548). -/
def State.bankImage (s : State) (k : Nat) (seen : FwImage) : Option FwImage :=
  match s.plant.sec.banks.find k with
  | some i => some i
  | none => (s.plant.side.flash.find (flashKey k 0)).map fun l =>
    let h := lineBytes l
    { seen with
      magic := BitVec.ofNat 32 (bytesAt h 0 4), svn := BitVec.ofNat 8 (bytesAt h 4 1)
      zeroOk := decide (bytesAt h 5 3 = 0 ∧ bytesAt h 12 20 = 0), bodyBytes := BitVec.ofNat 32 (bytesAt h 8 4)
      headerDigest := Config.sha256 h }
/-- The negotiated link of function 0: 64 GT/s on every lane that it has. -/
def State.trainLink (s : State) : State :=
  if s.plant.bus.linkUp then
    (s.set Reg.hifStsRate 0 6).set Reg.hifStsWidth 0 (if s.flag Reg.hifCfgBifurcated 0 then 8 else 16)
  else s
/-- A bank runs: its measurements are fixed, and repairs of an NVM record that fails its check are discarded. -/
def State.bootFrom (s : State) (k : Nat) (i : FwImage) (nvmOk : Bool) (mNvm : BitVec 256) : State :=
  let s := ((s.set Reg.rstBootPhase 0 1).set Reg.secStsBank 0 k).set Reg.secStsSvn 0 i.svn.toNat
  let s := s.onSec fun x => { x with mFw := i.headerDigest, mNvm := mNvm }
  let s := (s.bump Reg.rstStsBootCount 0).trainLink
  let s := if nvmOk then s else s.onBoot fun b => { b with unfused := 0, steered := .empty }
  if s.get Reg.secStsBankNext 0 = k then s.set Reg.secStsStaged 0 0 else s

/-- FIRMWARE_VERIFIED (R466). -/
def execFirmwareVerified (bank : Bool) (image : FwImage) (nvmOk : Bool) (mNvm : BitVec 256) (s : State) : StepOut :=
  let k := bit01 bank
  .next (if ¬ s.inRom ∨ s.romBank ≠ k then s
    else match s.bankImage k image with
      | some i => if s.bankVerifies i then s.bootFrom k i nvmOk mNvm else s.bankFail k
      | none => s.bankFail k)
/-- BANK_VERIFY_FAIL (R466). -/
def execBankVerifyFail (bank : Bool) (s : State) : StepOut :=
  .next (if s.inRom ∧ s.romBank = bit01 bank then s.bankFail (bit01 bank) else s)

/-- TRNG_TIMEOUT: `what` 0 is a draw at boot, 1 one of a port in SECURE, 2 one of an attestation request (R465). -/
def execTrngTimeout (what : BitVec 2) (port : PortNo) (s : State) : StepOut :=
  let n := port.toNat
  .next (if what.toNat = 0 then if s.inRom then s.bankFail s.romBank else s
    else if what.toNat = 1 then if n < 6 ∧ s.portState n = 4 then s.closePort n Cl.key else s
    else if what.toNat = 2 then
      match s.plant.sec.attest with
      | r :: rest => (s.onSec fun x => { x with attest := rest }).answerAttest r St.busy 0
      | [] => s
    else s)

/-! ### Assay (R499 to R503) -/

/-- IN_SERVICE of the cluster pages of a slice but its router's (R526). -/
def State.serveSlice (s : State) (sl : Nat) (on : Bool) : State :=
  (List.range 7).foldl (fun s i => s.set Reg.blkStsInService (clusterPage sl i) (bit01 on)) s
/-- AST_STS and AST_DETAIL. -/
def State.assayWords (s : State) : Nat × Nat := (s.regWord astPage 0x40, s.regWord astPage 0x48)
/-- The target of an on-demand assay exists (R502). -/
def assayTargetOk (kind target : Nat) : Bool :=
  decide ((kind = 1 ∨ kind = 2) ∧ target < 64 ∨ kind = 3 ∧ target < 6 ∨ kind = 4 ∧ target < 24)
/-- The target is idle (R502). -/
def State.assayIdle (s : State) (kind target : Nat) : Bool :=
  if kind = 1 then Nat.testBit (s.get Reg.ptnFreeFree 0) target
  else if kind = 2 then Nat.testBit (s.get Reg.ptnSetsFreeSetsFree 0) target
  else if kind = 3 then !s.flag Reg.lnkCtlEnable target && decide (s.portState target = 0)
  else !s.engineInUse target
/-- Whether a router has an owner on any of its directions. -/
def State.routerOwned (s : State) (sl : Nat) : Bool :=
  (List.range 8).any fun k => decide (64 ≤ s.get (rtrOwnField k) sl)
/-- The results of a run. -/
def State.assayResult (s : State) (result repairs fails : Nat) : State :=
  ((((s.set Reg.astStsResult 0 result).set Reg.astDetailRepairs 0 repairs).set Reg.astDetailFails 0 fails).set
    Reg.astStsRunning 0 0).onBoot fun b => { b with unfused := b.unfused + repairs }

/-- ASSAY_RUN: the target leaves the pool while it is tested, a slice in SP0 (R441, R502). -/
def execAssayRun (a : Adm) (kind : Byte) (target : BitVec 16) (s : State) : StepOut :=
  .next (s.admin false a (assayTargetOk kind.toNat target.toNat) fun s =>
    let k := kind.toNat
    let t := target.toNat
    if s.plant.boot.assay.isSome ∨ s.plant.clock.stopped ∨ ¬ s.assayIdle k t then s.complete false a St.admState
    else
      let s := ((s.set Reg.astStsRunning 0 1).set Reg.astStsKind 0 k).set Reg.astStsTarget 0 t
      let s := ((s.set Reg.astStsResult 0 0).set Reg.astDetailRepairs 0 0).set Reg.astDetailFails 0 0
      let s := s.set Reg.astDetailSkipped 0 (bit01 (decide (k = 1) && s.routerOwned t))
      let s := if k = 1 then
          let s := (s.clearBits Reg.ptnFreeFree 0 (2 ^ t)).setSlicePower t 0
          ((List.range 8).foldl (fun s ti => s.setTile t ti Tile.reset) s).setCluster t ClusterStore.reset
        else if k = 2 then s.clearBits Reg.ptnSetsFreeSetsFree 0 (2 ^ t)
        else s
      s.onBoot fun b => { b with assay := some ⟨k, t, some a⟩ })

/-- A target of an on-demand assay passes. -/
def State.assayPass (s : State) (kind t repairs : Nat) : State :=
  if kind = 1 then s.toPool (2 ^ t) 0
  else if kind = 2 then
    let s := s.toPool 0 (2 ^ t)
    if repairs = 0 then s else (sliceChannels t).foldl (fun s ch => s.set Reg.mchEccStsLaneExhausted ch 0) s
  else if kind = 3 then
    (s.set Reg.blkStsInService (lnkPage t) 1).onBoot fun b => { b with failedPorts := maskDiff b.failedPorts (2 ^ t) }
  else (s.clearBits Reg.astDetailFailedEngines 0 (2 ^ t)).set Reg.blkStsInService (nmePage t) 1
/-- A target of an on-demand assay fails: it stays out until the next device reset, a slice in the pool's state (R503; log entry 99). -/
def State.assayFail (s : State) (kind t : Nat) : State :=
  if kind = 1 then ((s.serveSlice t false).setSlicePower t s.poolState).onBoot fun b => { b with failedSlices := b.failedSlices ||| 2 ^ t }
  else if kind = 2 then s.onBoot fun b => { b with failedSets := b.failedSets ||| 2 ^ t }
  else if kind = 3 then
    (s.set Reg.blkStsInService (lnkPage t) 0).onBoot fun b => { b with failedPorts := b.failedPorts ||| 2 ^ t }
  else (s.setBits Reg.astDetailFailedEngines 0 (2 ^ t)).set Reg.blkStsInService (nmePage t) 0

/-- The physical cluster of a die; the spare is number 16 (R25, R162). -/
def physCluster (d c : Nat) : Nat := 17 * d + c
/-- Whether a tile is fenced: more than two failed rows of 130 or more than eight failed lanes of 520 (R76, R77). -/
def tileFenced (t : TestedTile) : Bool := decide (2 < t.rows.toNat) || decide (8 < t.lanes.toNat)
/-- Whether an assay fences a physical cluster: its storage or a tile of it is beyond repair (R500). -/
def fences (f : AssayFound) (k : Nat) : Bool :=
  f.storage.getLsbD k || f.tiles.any fun t => decide (t.cluster.toNat = k) && tileFenced t
/-- The mesh position of a die that its spare cluster serves, where the spare itself passes: the first that is fenced
(R25, R162). -/
def sparePosOf (f : AssayFound) (d : Nat) : Option Nat :=
  if fences f (physCluster d 16) then none else (List.range 16).find? fun c => fences f (physCluster d c)
/-- Whether the slice at a mesh position is available: its cluster passes, or the spare serves it (R25). -/
def sliceFound (f : AssayFound) (sl : Nat) : Bool :=
  !fences f (physCluster (sl / 16) (sl % 16)) || decide (sparePosOf f (sl / 16) = some (sl % 16))
/-- The physical cluster whose router stands at a mesh position, for the spare's position (R162). -/
def routerAt (spare : Option Nat) (sl : Nat) : Nat :=
  physCluster (sl / 16) (if spare = some (sl % 16) then 16 else sl % 16)
/-- The failing bit lanes of a channel. -/
def lanesFailing (f : AssayFound) (ch : Nat) : Nat :=
  match f.lanes.find? fun e => decide (e.1.toNat = ch) with
  | some e => e.2.toNat
  | none => 0
/-- The spare lanes of a channel after an assay, which a third failing lane exhausts (R200, R216, R500). -/
def State.spareLanes (s : State) (ch failing : Nat) : State :=
  let s := (s.set Reg.mchLaneSparesLeft ch (2 - failing)).setChannel ch { s.channel ch with spares := 2 ^ min 2 failing - 1 }
  if 2 < failing then s.raise Reg.mchEccStsLaneExhausted ch else s
/-- Steer failed rows and lanes out of tiles that stay in use, with how many repairs that makes (R76, R77, R501). -/
def State.steer (s : State) (tiles : List TestedTile) : Nat × State :=
  tiles.foldl (fun (n, s) t =>
    let k := 8 * t.cluster.toNat + t.tile.toNat
    let was := s.plant.boot.steered.getD k (0, 0)
    let now := (Nat.max was.1 t.rows.toNat, Nat.max was.2 t.lanes.toNat)
    if tileFenced t then (n, s)
    else (n + (now.1 - was.1) + (now.2 - was.2), s.onBoot fun b => { b with steered := b.steered.put k now })) (0, s)

/-- The mesh position that a die's spare serves. -/
def State.spareServes (s : State) (d : Nat) : Option Nat :=
  if s.flag Reg.nocStsSpareUsed d then some (s.get Reg.nocStsSparePos d) else none
/-- The physical cluster that stands at a slice's mesh position. -/
def State.clusterAt (s : State) (sl : Nat) : Nat := routerAt (s.spareServes (sl / 16)) sl
/-- Units of the target of an on-demand assay that are beyond repair (R500). -/
def State.targetFails (s : State) (kind t : Nat) (f : AssayFound) : Nat :=
  if kind = 1 then bit01 (fences f (s.clusterAt t))
  else if kind = 2 then ((sliceChannels t).filter fun ch => decide (2 < lanesFailing f ch)).length
  else if kind = 3 then bit01 (f.ports.getLsbD t)
  else bit01 (f.engines.getLsbD t)
/-- Repair the target of an on-demand assay, with how many repairs of it that makes (R501, R503). -/
def State.targetRepair (s : State) (kind t : Nat) (f : AssayFound) : Nat × State :=
  if kind = 1 then s.steer (f.tiles.filter fun x => decide (x.cluster.toNat = s.clusterAt t))
  else if kind = 2 then
    let used := fun ch => min 2 (lanesFailing f ch)
    (sumOver (sliceChannels t) fun ch => used ch - (2 - s.get Reg.mchLaneSparesLeft ch),
      (sliceChannels t).foldl (fun s ch => s.spareLanes ch (lanesFailing f ch)) s)
  else (0, s)
/-- What the assay of a slice's router leaves, where it was tested (R502, R503). -/
def State.routerResult (s : State) (sl : Nat) (f : AssayFound) : State :=
  if s.flag Reg.astDetailSkipped 0 then s
  else if f.routers.getLsbD (s.clusterAt sl) then s.raise Reg.rtrStsFaultyAssay sl
  else s.set Reg.rtrStsFaultyRun sl 0
/-- The end of an on-demand assay. A stopped tick leaves its window, and the run ends ABORTED with its target back (R499). -/
def State.endAssay (s : State) (r : AssayRun) (f : AssayFound) : State :=
  let s := s.onBoot fun b => { b with assay := none }
  let s :=
    if s.plant.clock.stopped then (s.assayResult 4 0 0).assayPass r.kind r.target 0
    else
      let fails := s.targetFails r.kind r.target f
      let (mended, s) := s.targetRepair r.kind r.target f
      let repairs := f.repairs.toNat + mended
      let s := s.assayResult (if 0 < fails then 3 else if repairs = 0 then 1 else 2) repairs fails
      let s := if 0 < fails then s.assayFail r.kind r.target else s.assayPass r.kind r.target repairs
      if r.kind = 1 then s.routerResult r.target f else s
  match r.adm with
  | some a => s.complete false a St.success 0 s.assayWords.1 s.assayWords.2
  | none => s
/-- The power-up assay may run: firmware has verified, and neither COOL_FAIL_N nor a rail holds start-up (R496, R509). -/
def State.assayDue (s : State) : Bool :=
  decide (s.bootPhase = 2) || (decide (s.bootPhase = 1) && !s.plant.pins.coolFail && !s.plant.boot.held)

/-- What the results of a power-up assay set (R24, R25, R162, R163, R216, R500, R529): the slices available and the clusters
fenced, spares in use, faulty routers, failed engines and ports, and the spare lanes of each channel, with how many repairs
that makes. -/
def State.assayFound (s : State) (f : AssayFound) : Nat × State :=
  let s := (List.range 4).foldl (fun s d =>
    (s.set Reg.nocStsSpareUsed d (bit01 (sparePosOf f d).isSome)).set Reg.nocStsSparePos d ((sparePosOf f d).getD 15)) s
  let s := (List.range 64).foldl (fun s sl =>
    (s.set Reg.rtrStsBypass sl (bit01 (decide (sparePosOf f (sl / 16) = some (sl % 16))))).set Reg.rtrStsFaultyAssay sl
      (bit01 (f.routers.getLsbD (routerAt (sparePosOf f (sl / 16)) sl)))) s
  let s := s.set Reg.ptnAvailAvail 0 (packBits ((List.range 64).map (sliceFound f)))
  let s := (s.set Reg.astDetailFailedEngines 0 f.engines.toNat).onBoot fun b => { b with
    failedPorts := f.ports.toNat
    fenced := packBits ((List.range 68).map (fences f)) }
  let s := (List.range 768).foldl (fun s ch =>
    s.spareLanes ch (Nat.max (lanesFailing f ch) (2 - s.get Reg.mchLaneSparesLeft ch))) s
  s.steer f.tiles
/-- Units that a power-up assay leaves failing: clusters whose slices it makes unavailable, routers, engines, ports and
channels (log entry 81). -/
def unitsFailing (f : AssayFound) : Nat :=
  ((List.range 64).filter fun sl => !sliceFound f sl).length +
  ((List.range 64).filter fun sl => f.routers.getLsbD (routerAt (sparePosOf f (sl / 16)) sl)).length +
  ((List.range 24).filter fun e => f.engines.getLsbD e).length + ((List.range 6).filter fun n => f.ports.getLsbD n).length +
  ((List.range 768).filter fun ch => decide (2 < lanesFailing f ch)).length + bit01 (!f.hubOk)

/-- The end of the power-up assay, 30 ms into start-up or later. A hub unit that is beyond repair stops start-up (R506). -/
def State.endPowerUp (s : State) (f : AssayFound) : State :=
  let s := s.atLeast (s.plant.boot.bootAt + 30000000)
  let s := ((s.set Reg.astStsKind 0 0).set Reg.astStsTarget 0 0).set Reg.astDetailSkipped 0 0
  let (mended, s) := s.assayFound f
  let repairs := f.repairs.toNat + mended
  let s := s.assayResult (if 0 < unitsFailing f then 3 else if repairs = 0 then 1 else 2) repairs (unitsFailing f)
  if f.hubOk then s.set Reg.rstBootPhase 0 3 else s.stopStartup

/-- ASSAY_END: an assay finishes with what it found (R500, R503). -/
def execAssayEnd (repairs : BitVec 16) (hubOk : Bool) (routers : BitVec 68) (units : AssayUnits) (s : State) : StepOut :=
  let found : AssayFound := ⟨units, routers, hubOk, repairs⟩
  .next (match s.plant.boot.assay with
    | some r => s.endAssay r found
    | none => if s.assayDue then s.endPowerUp found else s)

/-- ASSAY_READ (R510). -/
def execAssayRead (a : Adm) (s : State) : StepOut :=
  .next (s.admin false a true fun s => s.complete false a St.success 0 s.assayWords.1 s.assayWords.2)
/-- ASSAY_READ_FM (R510). -/
def execAssayReadFm (a : Adm) (s : State) : StepOut :=
  .next (s.admin true a true fun s => s.complete true a St.success 0 s.assayWords.1 s.assayWords.2)

/-- ASSAY_FUSE (R501). -/
def execAssayFuse (a : Adm) (s : State) : StepOut :=
  .next (s.admin false a true fun s =>
    let n := s.get Reg.astStsFuseEvents 0
    if 8 ≤ n ∨ s.plant.boot.unfused = 0 then s.complete false a St.admState
    else ((s.set Reg.astStsFuseEvents 0 (n + 1)).onBoot fun b => { b with unfused := 0 }).complete false a St.success 0 (n + 1))

/-- ASSAY_OUT_OF_WINDOW: 100 ms after the power-up assay should have started (R499). -/
def execAssayOutOfWindow (s : State) : StepOut :=
  .next (if s.assayDue then
      let s := (s.atLeast (s.plant.boot.bootAt + 130000000)).set Reg.astStsKind 0 0
      ((s.set Reg.astStsResult 0 5).set Reg.astStsRunning 0 0).stopStartup
    else s)

/-! ### Release (R504, R505) -/

/-- In compatibility mode every available slice becomes a partition with one instance (R284). -/
def State.compatRelease (s : State) (avail : Nat) : State :=
  if ¬ s.compat then s
  else (bitsSet avail).foldl (fun s n =>
    ((s.createPtn n 0 (quarterEntries / 64) (2 ^ n) 0).setInst n (Inst.fresh n 0 imageSlots)).set Reg.ptnpCfgInstances n 1) s
/-- Ports at release: enabled ones enter DOWN (R339). -/
def State.releasePorts (s : State) : State :=
  (List.range 6).foldl (fun s n =>
    let s := s.set Reg.blkStsInService (lnkPage n) (bit01 (!Nat.testBit s.plant.boot.failedPorts n))
    if s.flag Reg.lnkCtlEnable n then s.enterPort n 1 else s) s
/-- Release: the pools, the pages in service, the ports and the time state. -/
def State.openDevice (s : State) : State :=
  let avail := s.get Reg.ptnAvailAvail 0
  let s := (s.set Reg.ptnFreeFree 0 avail).set Reg.ptnSetsFreeSetsFree 0 (maskDiff (2 ^ 64 - 1) avail)
  let s := s.onBoot fun b => { b with failedSlices := 0, failedSets := 0 }
  let s := (List.range 64).foldl (fun s sl =>
    let on := Nat.testBit avail sl
    (s.serveSlice sl on).setSlicePower sl s.poolState) s
  let s := (List.range 24).foldl (fun s e =>
    s.set Reg.blkStsInService (nmePage e) (bit01 (!Nat.testBit (s.get Reg.astDetailFailedEngines 0) e))) s
  let s := (s.set Reg.rstBootPhase 0 4).fillHist
  let s := s.set Reg.ftmStsLstate 0 (if s.role = 0 then Ts.local else if s.role = 1 then Ts.root else Ts.unlocked)
  let s := (s.releasePorts.onPins fun x => { x with fault := false }).compatRelease avail
  s.settlePhase

/-- DEVICE_RELEASE: once HBM training has completed, which the operand says, the device is released (R504, R505). -/
def execDeviceRelease (trained : Bool) (s : State) : StepOut :=
  .next (if trained ∧ s.bootPhase = 3 ∧ ¬ s.plant.boot.held then s.openDevice else s)

/-! ### Ordered resets (R490, R491, R495, R497) -/

/-- Whether ENGINE_RESET may act on a slice of a partition, or of the pool. -/
def State.engineResettable (s : State) (p sl : Nat) : Bool :=
  if p = 255 then Nat.testBit (s.get Reg.ptnFreeFree 0) sl
  else decide (s.sliceOwner sl = some p) && (decide (s.ptnState p = ptnFaulted) ||
    (decide (s.ptnState p = ptnActive) && (s.line p).items.isEmpty && (s.line p).killed.isEmpty))
/-- ENGINE_RESET (R491). -/
def execEngineReset (a : Adm) (p slice tiles : Byte) (s : State) : StepOut :=
  .next (s.admin false a (attestPtnOk p && decide (slice.toNat < 64)) fun s =>
    if s.engineResettable p.toNat slice.toNat then
      (s.engineReset slice.toNat tiles.toNat).complete false a St.success
    else s.complete false a St.admState)

/-- DEV_RESET, mode 0 (R495). -/
def execDevResetDevice (a : Adm) (s : State) : StepOut := .next (s.admin false a true fun s => s.deviceReset true 1 0x62)
/-- DEV_RESET, mode 1 (R497). -/
def execDevResetPowerCycle (a : Adm) (s : State) : StepOut := .next (s.admin false a true fun s => s.powerCycle)

/-- A context reset of a partition overruns: the partition faults, each of its clusters is reset, and the resets that run
there end with RESET_OVERRUN in DETAIL (R363, R484, R489, R490). Two that overrun escalate once (R509). -/
def State.contextOverrun (s : State) (p : Nat) : State :=
  let mine := s.host.insts.entries.filter fun e => decide (e.2.ptn = p)
  let late := mine.filter fun e => decide (e.2.state = Is.resetting)
  let draining := mine.filter fun e => decide (e.2.state = Is.draining)
  if s.ptnState p ≠ ptnActive ∧ s.ptnState p ≠ ptnFaulted ∨ late = [] ∧ draining = [] then s
  else
    let s := s.escalated.faultPtn p Fc.resetOverrun .none
    let s := (s.slicesOf p).foldl (fun s sl => s.engineReset sl 0) s
    let s := late.foldl (fun s e =>
      let s := s.setInst e.1 { e.2 with state := Is.faulted, wasSuspended := false, reset := none }
      match e.2.reset with
      | some a => s.complete false a St.admState Fc.resetOverrun
      | none => s) s
    draining.foldl (fun s e =>
      match s.inst e.1 with
      | some x => match x.destroy with
        | some a => (s.setInst e.1 { x with destroy := none }).complete false a St.admState Fc.resetOverrun
        | none => s
      | none => s) s
/-- RESET_OVERRUN: the reset of a level, 1 context to 4 device, overruns; the next level starts. A power cycle has no
bound to
overrun (R490). -/
def execResetOverrun (level : BitVec 3) (p : PtnNo) (s : State) : StepOut :=
  let q := p.toNat
  let l := level.toNat
  .next (if l = 1 then s.contextOverrun q
    else if l = 2 then
      if s.ptnState q = ptnActive ∨ s.ptnState q = ptnFaulted then
        (s.escalated.faultPtn q Fc.resetOverrun .none).resetPtn q false none
      else if s.ptnState q = ptnFree then s.escalated.deviceReset true 5 0x62
      else s
    else if l = 3 then s.escalated.deviceReset true 5 0x62
    else if l = 4 then s.escalated.powerCycle
    else s)

/-! ### The bus (R350, R351, R494) -/

/-- A configuration register: identity, class and revision as R350 gives them, what a write has left, or the value that the
base specification gives. -/
def State.configWord (s : State) (key : Nat) : BitVec 32 :=
  let base := Config.configSpace key
  if key % 4096 = 0 then (0x5324 : BitVec 16) ++ (base.setWidth 16 : BitVec 16)
  else if key % 4096 = 8 then 0x12000001
  else s.plant.bus.config.getD key base
/-- CONFIG_REQUEST: retried until firmware has verified; function 1 exists in x8 + x8 only (R350). -/
def execConfigRequest (fn : Bool) (offset : BitVec 12) (write : Bool) (value : BitVec 32) (s : State) : StepOut :=
  let key := 4096 * bit01 fn + offset.toNat / 4 * 4
  .next (if ¬ s.plant.bus.linkUp then s
    else if ¬ s.configOpen then s.emit (.configRead none)
    else if fn ∧ ¬ s.flag Reg.hifCfgBifurcated 0 then s.emit (.busRead none)
    else if write then
      if key % 4096 = 0 ∨ key % 4096 = 8 then s
      else s.onBus fun b => { b with config := b.config.put key value }
    else s.emit (.configRead (some (s.configWord key))))

/-- PCIE_LINK_RESET: a context reset of every instance of the function; on function 0 both admin pairs are disabled too
(R494). -/
def execPcieLinkReset (fn : Bool) (s : State) : StepOut :=
  let hit := s.host.insts.entries.filter fun e => decide (e.2.fn = bit01 fn) &&
    decide (e.2.state = Is.active ∨ e.2.state = Is.suspending ∨ e.2.state = Is.suspended)
  let s := hit.foldl (fun s e => s.contextReset e.1 none) s
  .next (if fn then s else (s.writeMbxEnable false false).writeMbxEnable true false)

/-- PERST_N: a device reset; during one it restarts without records (R494, R509). -/
def execPerstN (s : State) : StepOut :=
  let s := (s.onPins fun x => { x with perst := true }).onBus fun b => { b with linkUp := false }
  .next (if s.plant.pins.pwrEn then s.deviceReset s.released 2 0x62 else s)
/-- PERST_N_DEASSERT: the link trains (R494). -/
def execPerstNDeassert (s : State) : StepOut :=
  .next (if s.plant.pins.perst then
      let s := (s.onPins fun x => { x with perst := false }).onBus fun b => { b with linkUp := s.plant.pins.pwrEn }
      if s.verified then s.trainLink else s
    else s)

/-! ### Power (R485, R496, R542) -/

/-- PWR_EN_RISE: the rails come up, and start-up begins; a rail that does not reach regulation holds it (R542). -/
def execPwrEnRise (railsOk : Bool) (s : State) : StepOut :=
  .next (if s.plant.pins.pwrEn then s
    else
      let s := s.onPins fun x => { x with pwrEn := true, pwrGood := railsOk }
      let s := s.onBoot fun b => { b with held := !railsOk, bootAt := s.now }
      let s := (s.onBus fun b => { b with linkUp := !s.plant.pins.perst }).reload
      if railsOk then s else s.assertFault)
/-- PWR_EN_FALL: every rail goes; what OTP, the flash or the hub NVM record keeps stays (R542). -/
def execPwrEnFall (s : State) : StepOut :=
  .next (if ¬ s.plant.pins.pwrEn then s
    else
      let s := s.dropFields fun _ _ f => decide (f.backing = .table)
      let p := s.plant
      { State.reset with
        pending := s.pending, out := s.out, freeCtr := s.freeCtr, regs := s.regs
        mem := { MemState.reset with salt := s.mem.salt + 1 }
        plant := { PlantState.reset with
          pins := { PlantState.reset.pins with
            pwrEn := false, pwrGood := false, perst := p.pins.perst, alert := p.pins.alert, coolFail := p.pins.coolFail
            slotId := p.pins.slotId }
          sec := { PlantState.reset.sec with banks := p.sec.banks }
          boot := { PlantState.reset.boot with
            unfused := p.boot.unfused, fenced := p.boot.fenced, steered := p.boot.steered, failedSlices := p.boot.failedSlices, failedSets := p.boot.failedSets
            failedPorts := p.boot.failedPorts }
          side := { PlantState.reset.side with flash := p.side.flash }
          bus := { PlantState.reset.bus with linkUp := false } } })

/-- A reset with cause BROWNOUT, without step 1 of R495, which holds while a rail stays low; an assay that it meets ends ABORTED (R496, R509). -/
def State.brownoutReset (s : State) : State :=
  let aborted := s.bootPhase = 2 ∨ s.plant.boot.assay.isSome
  let s := (s.restart 4 0x61).onBoot fun b => { b with held := true }
  if aborted then s.set Reg.astStsResult 0 4 else s
/-- RAIL_OUT_OF_REGULATION (R542). -/
def execRailOutOfRegulation (s : State) : StepOut :=
  .next (if s.plant.pins.pwrEn then ((s.onPins fun x => { x with pwrGood := false }).assertFault).brownoutReset else s)
/-- BROWNOUT (R496). -/
def execBrownout (_rail : BitVec 3) (s : State) : StepOut :=
  .next (if s.plant.pins.pwrEn then s.brownoutReset else s)
/-- RESET_LEVEL_RECOVERY: the held reset proceeds. Rails that never came into regulation stay off until PWR_EN falls
(R496). -/
def execResetLevelRecovery (s : State) : StepOut :=
  .next (if s.plant.boot.held ∧ s.get Reg.rstStsLastCause 0 = 4 then
      (s.onBoot fun b => { b with held := false, bootAt := s.now }).onPins fun x => { x with pwrGood := true }
    else s)

/-- HUB_HEARTBEAT_CHECK: the cores whose heartbeat has advanced since the last check; two misses in a row are a hub fault
(R485). -/
def execHubHeartbeatCheck (incremented : BitVec 4) (recordsPosted : Bool) (s : State) : StepOut :=
  let s := s.atMultiple 1000000
  .next (if s.bootPhase = 0 ∨ s.get Reg.pwrStsDstate 0 = 3 then s
    else
      let missed := 15 - incremented.toNat
      if s.plant.boot.missed &&& missed ≠ 0 then s.hubFault recordsPosted
      else s.onBoot fun b => { b with missed := missed })

end Sys2Proof.Machine
end

