-- ==== Sys2Proof/Machine/Side.lean ====
section
/-! DEFINITION. The test port and the tray management interface (R475, R545 to R548). -/

namespace Sys2Proof.Machine

/-! ### The test port (R475) -/

/-- BYPASS: one bit of delay (R475). -/
def execBypass (tdi : Bool) (s : State) : StepOut :=
  .next (if s.plant.pins.pwrEn then
      (s.onSide fun x => { x with bypass := tdi }).emit (.tdo (BitVec.ofNat 64 (bit01 s.plant.side.bypass)))
    else s)
/-- IDCODE (R475). -/
def execIdcode (s : State) : StepOut :=
  .next (if s.plant.pins.pwrEn then s.emit (.tdo (Config.idcode.setWidth 64)) else s)
/-- SAMPLE/PRELOAD: what the pins show leaves, and the cells are loaded (R475). -/
def execSamplePreload (cells : Word) (s : State) : StepOut :=
  .next (if s.plant.pins.pwrEn then
      let d := s.draw
      (d.2.onSide fun x => { x with cells := cells }).emit (.tdo d.1)
    else s)
/-- EXTEST: before release the cells drive the pins and what the pins show leaves; from release on it acts as BYPASS
(R475). -/
def execExtest (tdi : Bool) (s : State) : StepOut :=
  if s.released then execBypass tdi s
  else .next (if s.plant.pins.pwrEn then
      let d := s.draw
      (d.2.onSide fun x => { x with cells := (x.cells.setWidth 63) ++ BitVec.ofBool tdi }).emit (.tdo d.1)
    else s)

/-- Word `w` of a value of 64-bit words. -/
def wordOf (v : BitVec n) (w : Nat) : BitVec 64 := (v >>> (64 * w)).setWidth 64
/-- A value of 64-bit words with word `w` replaced. -/
def putWord (v : BitVec n) (w : Nat) (x : BitVec 64) : BitVec n :=
  let m : BitVec n := (BitVec.allOnes 64).setWidth n <<< (64 * w)
  (v &&& ~~~m) ||| (x.setWidth n <<< (64 * w))

/-- A 64-bit word of a slice's storage, and the state with it replaced; none where nothing is at the address. Spaces: 0 tile
SRAM, 1 accumulators, 2 vector registers, 3 the cluster store, 4 sequencer local memory, 5 cluster pages, 6 address
registers. The tile, or the page, is in bits 23:21 of the address, and the word below it. -/
def State.debugWord (s : State) (sl space address : Nat) : Option (BitVec 64 × (BitVec 64 → State)) :=
  let ti := address / 2 ^ 21
  let w := address % 2 ^ 21
  let t := s.tile sl ti
  if space = 0 then
    if w / 8 < sramLines ti then
      let v := t.sramAt sl ti (w / 8)
      some (wordOf v (w % 8), fun x => s.setTile sl ti { t with sram := t.sram.put (w / 8) (putWord v (w % 8) x) })
    else none
  else if space = 1 then
    if ti < 6 ∧ w / 64 < 512 then
      let v := t.accAt sl ti (w / 8192) (w / 64 % 128)
      some (wordOf v (w % 64), fun x => s.setTile sl ti { t with acc := t.acc.put (w / 64) (putWord v (w % 64) x) })
    else none
  else if space = 2 then
    if 6 ≤ ti ∧ w / 256 < 64 then
      let v := t.vregAt sl ti (w / 256)
      some (wordOf v (w % 256), fun x => s.setTile sl ti { t with vregs := t.vregs.put (w / 256) (putWord v (w % 256) x) })
    else none
  else if space = 3 then
    if address / 32 < csLines then
      let c := s.cluster sl
      let v := c.at sl (address / 32)
      some (wordOf v (address % 32), fun x =>
        s.setCluster sl { c with lines := c.lines.put (address / 32) (putWord v (address % 32) x) })
    else none
  else if space = 4 then
    if address / 8 < 4096 then
      let v := s.localLine sl (address / 8)
      some (wordOf v (address % 8), fun x => s.setLocalLine sl (address / 8) (putWord v (address % 8) x))
    else none
  else if space = 5 then
    let page := clusterPage sl ti
    if 2 ≤ ti ∧ ti ≤ 4 ∧ w < 512 then
      some (BitVec.ofNat 64 (s.pageWord page (8 * w)), fun x => s.writeReg (.core 0) page (8 * w) (2 ^ 64 - 1) x.toNat)
    else none
  else if space = 6 then
    if w < 16 then
      let r := t.ar w
      some (BitVec.ofNat 64 (r.stride * 2 ^ 20 + r.value), fun x =>
        s.setTile sl ti { t with ars := t.ars.set w ⟨x.toNat % 2 ^ 20, x.toNat / 2 ^ 20 % 2 ^ 20⟩ })
    else none
  else none
/-- A debug instruction: it reaches the storage of the slices of one partition while its debug item runs; else it reads zero
and ignores writes (R475). -/
def execJtagDebugAccess (p : PtnNo) (slice : SliceNo) (space : BitVec 4) (address : BitVec 24) (write : Bool)
    (value : Word) (s : State) : StepOut :=
  let sl := slice.toNat
  let open_ := s.flag Reg.ptnpSecDbgItem p.toNat && decide (s.sliceOwner sl = some p.toNat)
  .next (if ¬ s.plant.pins.pwrEn then s
    else match (if open_ then s.debugWord sl space.toNat address.toNat else none) with
      | some (v, put) => if write then put value else s.emit (.tdo v)
      | none => if write then s else s.emit (.tdo 0))

/-! ### Commands of the tray controller (R546, R548) -/

/-- Status bytes of R546: done, refused, format. -/
def i3cDone : Byte := 0
/-- Refused. -/
def i3cRefused : Byte := 2
/-- Format. -/
def i3cFormat : Byte := 3
/-- A response of the target, which answers while the always-on domain is powered (R545). -/
def State.respond (s : State) (data : List Byte) : State := if s.plant.pins.pwrEn then s.emit (.i3c data) else s

/-- The pages that READ_REG serves: all six from release, those that R447 leaves readable in DS3, and RST and AST before
release (R505). -/
def State.trayPages (s : State) : List Nat :=
  if s.get Reg.pwrStsDstate 0 = 3 then [glbPage, pwrPage, thmPage, 0xD]
  else if s.released then [glbPage, pwrPage, thmPage, secPage, 0xD, astPage]
  else [0xD, astPage]
/-- READ_REG (R546). -/
def execReadReg (page offset : BitVec 16) (s : State) : StepOut :=
  .next (s.respond (if s.trayPages.contains page.toNat ∧ offset.toNat % 8 = 0 ∧ offset.toNat < 4096 then
      i3cDone :: natBytes 8 (s.pageWord page.toNat offset.toNat)
    else [i3cRefused]))
/-- STATUS (R546). -/
def execStatus (s : State) : StepOut :=
  let x := s.plant.pins
  let flags := packBits [x.fault, x.thermTrip, x.cycleReq, x.powerOff, x.alert, x.coolFail, x.pwrGood]
  .next (s.respond ([i3cDone] ++ natBytes 1 x.slotId ++ natBytes 1 s.bootPhase ++
    natBytes 1 (s.get Reg.pwrStsDstate 0) ++ natBytes 1 flags))
/-- WAKE (R546). -/
def execWake (s : State) : StepOut :=
  .next (if ¬ s.plant.pins.pwrEn then s
    else if s.get Reg.pwrStsDstate 0 = 3 then (s.respond [i3cDone]).warmBoot
    else s.respond [i3cRefused])

/-- Bytes of a bank that the tray controller may write: header, signature and the largest body. -/
def bankSpan : Nat := 16777216 + 8192
/-- Whether a flash line of a bank is erased. -/
def State.erased (s : State) (bank line : Nat) : Bool :=
  !s.plant.sec.banks.has bank && !s.plant.side.flash.has (flashKey bank line)
/-- A flash line as a read shows it: as written, of the standing image, or erased. -/
def State.flashLine (s : State) (bank line : Nat) : Line :=
  match s.plant.sec.banks.find bank with
  | some i => Config.bankLine i.headerDigest line
  | none => s.plant.side.flash.getD (flashKey bank line) (BitVec.allOnes 512)
/-- FLASH_ERASE (R548). -/
def execFlashErase (bank : Byte) (s : State) : StepOut :=
  let k := bank.toNat
  .next (if ¬ s.plant.pins.pwrEn then s
    else if s.bootPhase ≠ 15 then s.respond [i3cRefused]
    else if 1 < k then s.respond [i3cFormat]
    else
      let s := s.onSec fun x => { x with banks := x.banks.drop k }
      let s := s.onSide fun x => { x with flash := x.flash.keep fun a _ => decide (a / 2 ^ 19 ≠ k) }
      s.respond [i3cDone])
/-- FLASH_WRITE (R548). -/
def execFlashWrite (bank : Byte) (offset : BitVec 32) (data : Line) (s : State) : StepOut :=
  let k := bank.toNat
  let o := offset.toNat
  .next (if ¬ s.plant.pins.pwrEn then s
    else if s.bootPhase ≠ 15 then s.respond [i3cRefused]
    else if 1 < k ∨ o % 64 ≠ 0 ∨ bankSpan ≤ o then s.respond [i3cFormat]
    else if ¬ s.erased k (o / 64) then s.respond [i3cRefused]
    else (s.onSide fun x => { x with flash := x.flash.put (flashKey k (o / 64)) data }).respond [i3cDone])
/-- FLASH_READ (R546). -/
def execFlashRead (bank : Byte) (offset : BitVec 32) (s : State) : StepOut :=
  let k := bank.toNat
  let o := offset.toNat
  .next (if 1 < k ∨ bankSpan < o + 64 then s.respond [i3cFormat]
    else
      let bytes := lineBytes (s.flashLine k (o / 64)) ++ lineBytes (s.flashLine k (o / 64 + 1))
      s.respond (i3cDone :: (bytes.drop (o % 64)).take 64))

/-! ### Common command codes and In-Band Interrupts (R545, R547) -/

/-- ENEC: bit 0 enables In-Band Interrupts (R545). -/
def execEnec (events : Byte) (s : State) : StepOut :=
  .next (if s.plant.pins.pwrEn ∧ events.getLsbD 0 then s.onSide fun x => { x with ibiEnabled := true } else s)
/-- DISEC (R545). -/
def execDisec (events : Byte) (s : State) : StepOut :=
  .next (if s.plant.pins.pwrEn ∧ events.getLsbD 0 then s.onSide fun x => { x with ibiEnabled := false } else s)
/-- RSTDAA (R545). -/
def execRstdaa (s : State) : StepOut :=
  .next (if s.plant.pins.pwrEn then s.onSide fun x => { x with dynamic := none } else s)
/-- The target's static address. -/
def State.staticAddress (s : State) : Nat := 0x50 + s.plant.pins.slotId % 8
/-- SETDASA: the target of a static address takes a dynamic one (R545). -/
def execSetdasa (static dynamic : BitVec 7) (s : State) : StepOut :=
  .next (if s.plant.pins.pwrEn ∧ static.toNat = s.staticAddress ∧ s.plant.side.dynamic.isNone then
      s.onSide fun x => { x with dynamic := some dynamic.toNat }
    else s)
/-- ENTDAA: a target without a dynamic address takes the one that is assigned (R545). -/
def execEntdaa (dynamic : BitVec 7) (s : State) : StepOut :=
  .next (if s.plant.pins.pwrEn ∧ s.plant.side.dynamic.isNone then
      s.onSide fun x => { x with dynamic := some dynamic.toNat }
    else s)
/-- GETPID: the provisioned identifier, highest byte first (R545). -/
def execGetpid (s : State) : StepOut := .next (s.respond (natBytes 6 Config.provisionedId.toNat).reverse)
/-- GETBCR: In-Band Interrupts with a mandatory data byte (R545). -/
def execGetbcr (s : State) : StepOut := .next (s.respond [0x06])
/-- GETDCR (R545). -/
def execGetdcr (s : State) : StepOut := .next (s.respond [Config.deviceCharacter])
/-- GETSTATUS: the number of the first waiting interrupt (R545). -/
def execGetstatus (s : State) : StepOut :=
  .next (s.respond [0, BitVec.ofNat 8 (s.plant.side.ibis.headD 0)])

/-- The condition of an In-Band Interrupt still stands. -/
def State.ibiStands (s : State) (event : Nat) : Bool :=
  let x := s.plant.pins
  if event = 1 then x.fault else if event = 2 then x.powerOff else if event = 3 then x.cycleReq
  else if event = 4 then x.thermTrip else decide (event = 5 ∧ s.get Reg.pwrStsDstate 0 = 3)
/-- IN_BAND_INTERRUPT: a waiting event is raised, and repeated until it is taken or its condition ends (R547). -/
def execInBandInterrupt (event : Byte) (taken : Bool) (s : State) : StepOut :=
  let n := event.toNat
  let without := fun (s : State) => s.onSide fun x => { x with ibis := x.ibis.filter fun e => decide (e ≠ n) }
  .next (if ¬ s.plant.pins.pwrEn ∨ ¬ s.plant.side.ibis.contains n then s
    else if ¬ s.ibiStands n then without s
    else if ¬ s.plant.side.ibiEnabled then s
    else
      let s := s.emit (.ibi n)
      if taken then without s else s)

end Sys2Proof.Machine
end

