-- ==== Sys2Proof/Machine/Vector.lean ====
section
/-! DEFINITION. The vector tile slots: LANE, TRANS and LDST (R118 to R124). -/

namespace Sys2Proof.Machine

/-! ### Shared forms -/

/-- Apply an operation to three lists of lanes. -/
def zipLanes (g : Nat → Nat → Nat → VOut) : List Nat → List Nat → List Nat → List VOut
  | a :: as, b :: bs, c :: cs => g a b c :: zipLanes g as bs cs
  | _, _, _ => []

/-- The flags of every lane. -/
def flagsOf (l : List VOut) : VFlags := l.foldl (fun acc x => acc.or x.2) .zero

/-- Start a LANE operation: its sources are read now, and its result reaches DST so that an operation that issues `lat`
ticks after the last issue tick sees it (R84, R125). -/
def State.startLane (s : State) (t : TileRef) (spelled : Nat → BitVec 256 → Bool) (issue lat : Nat)
    (g : Tile → Nat → Nat → List (Nat × VReg) × VFlags) : State :=
  s.issueSlot t 1 spelled fun s sl ti x =>
    let r := g x sl ti
    s.startOp sl ti 1 issue (issue + lat - 1) (.vec (x.tick + issue + lat - 2) r.1 r.2.bits) []

/-- The lanes of operand b: the register, or IMM in every lane (R118); a BF16 immediate is each element's value. -/
def Tile.operandB (x : Tile) (sl ti : Nat) (f : LaneSlot) (half : Bool) : List Nat :=
  if f.useImm then List.replicate 512 (if half then f.imm.toNat % 65536 * 65537 else f.imm.toNat)
  else lanesOf (x.vregAt sl ti f.sb.toNat)

/-- An element-wise operation of two or three operands. -/
def laneData (f : LaneSlot) (half : Bool) (g : Nat → Nat → Nat → VOut) (x : Tile) (sl ti : Nat) :
    List (Nat × VReg) × VFlags :=
  let r := zipLanes g (lanesOf (x.vregAt sl ti f.sa.toNat)) (x.operandB sl ti f half) (lanesOf (x.vregAt sl ti f.sc.toNat))
  ([(f.dst.toNat, ofLanes (r.map Prod.fst))], flagsOf r)

/-- An FP32 operation with its opcode of R119. -/
def fp32Lane (t : TileRef) (op : Nat) (f : LaneSlot) (g : Nat → Nat → Nat → VOut) (s : State) : StepOut :=
  .next (s.startLane t (spellsLane op f) 1 4 (laneData f false g))
/-- A BF16 operation. -/
def bf16Lane (t : TileRef) (op : Nat) (f : LaneSlot) (g : Nat → Nat → Nat → VOut) (s : State) : StepOut :=
  .next (s.startLane t (spellsLane op f) 1 4 (laneData f true (perHalf g)))
/-- An integer or logic operation. -/
def intLane (t : TileRef) (op : Nat) (f : LaneSlot) (g : Nat → Nat → Nat) (s : State) : StepOut :=
  .next (s.startLane t (spellsLane op f) 1 2 (laneData f false fun a b _ => (g a b % 2 ^ 32, .zero)))

/-! ### FP32 element-wise (R78, R119) -/

/-- FADD (R119). -/
def execFadd (t : TileRef) (f : LaneSlot) (s : State) : StepOut := fp32Lane t 0x01 f (fun a b _ => Fmt.fp32.add a b) s
/-- FSUB (R119). -/
def execFsub (t : TileRef) (f : LaneSlot) (s : State) : StepOut := fp32Lane t 0x02 f (fun a b _ => Fmt.fp32.sub a b) s
/-- FMUL (R119). -/
def execFmul (t : TileRef) (f : LaneSlot) (s : State) : StepOut := fp32Lane t 0x03 f (fun a b _ => Fmt.fp32.mul a b) s
/-- FMA (R119). -/
def execFma (t : TileRef) (f : LaneSlot) (s : State) : StepOut := fp32Lane t 0x04 f (fun a b c => Fmt.fp32.fma a b c) s
/-- FMIN (R119). -/
def execFmin (t : TileRef) (f : LaneSlot) (s : State) : StepOut := fp32Lane t 0x05 f (fun a b _ => Fmt.fp32.minimum a b) s
/-- FMAX (R119). -/
def execFmax (t : TileRef) (f : LaneSlot) (s : State) : StepOut := fp32Lane t 0x06 f (fun a b _ => Fmt.fp32.maximum a b) s
/-- FCEQ (R119). -/
def execFceq (t : TileRef) (f : LaneSlot) (s : State) : StepOut :=
  fp32Lane t 0x07 f (fun a b _ => fcompare (fun x y => decide (x = y)) a b) s
/-- FCLT (R119). -/
def execFclt (t : TileRef) (f : LaneSlot) (s : State) : StepOut :=
  fp32Lane t 0x08 f (fun a b _ => fcompare (fun x y => decide (x < y)) a b) s
/-- FCLE (R119). -/
def execFcle (t : TileRef) (f : LaneSlot) (s : State) : StepOut :=
  fp32Lane t 0x09 f (fun a b _ => fcompare (fun x y => decide (x ≤ y)) a b) s
/-- SEL: a bit copy (R119). -/
def execSel (t : TileRef) (f : LaneSlot) (s : State) : StepOut :=
  fp32Lane t 0x0A f (fun a b c => (if c ≠ 0 then a else b, .zero)) s

/-! ### BF16 element-wise (R77, R78) -/

/-- HADD (R119). -/
def execHadd (t : TileRef) (f : LaneSlot) (s : State) : StepOut := bf16Lane t 0x10 f (fun a b _ => Fmt.bf16.add a b) s
/-- HSUB (R119). -/
def execHsub (t : TileRef) (f : LaneSlot) (s : State) : StepOut := bf16Lane t 0x11 f (fun a b _ => Fmt.bf16.sub a b) s
/-- HMUL (R119). -/
def execHmul (t : TileRef) (f : LaneSlot) (s : State) : StepOut := bf16Lane t 0x12 f (fun a b _ => Fmt.bf16.mul a b) s
/-- HFMA (R119). -/
def execHfma (t : TileRef) (f : LaneSlot) (s : State) : StepOut := bf16Lane t 0x13 f (fun a b c => Fmt.bf16.fma a b c) s
/-- HMIN (R119). -/
def execHmin (t : TileRef) (f : LaneSlot) (s : State) : StepOut := bf16Lane t 0x14 f (fun a b _ => Fmt.bf16.minimum a b) s
/-- HMAX (R119). -/
def execHmax (t : TileRef) (f : LaneSlot) (s : State) : StepOut := bf16Lane t 0x15 f (fun a b _ => Fmt.bf16.maximum a b) s

/-! ### Integer and logic (R119) -/

/-- IADD (R119). -/
def execIadd (t : TileRef) (f : LaneSlot) (s : State) : StepOut := intLane t 0x20 f (fun a b => a + b) s
/-- ISUB (R119). -/
def execIsub (t : TileRef) (f : LaneSlot) (s : State) : StepOut := intLane t 0x21 f (fun a b => a + 2 ^ 32 - b) s
/-- IMUL: the low 32 bits (R119). -/
def execImul (t : TileRef) (f : LaneSlot) (s : State) : StepOut := intLane t 0x22 f (fun a b => a * b) s
/-- AND (R119). -/
def execAnd (t : TileRef) (f : LaneSlot) (s : State) : StepOut := intLane t 0x23 f (fun a b => a &&& b) s
/-- OR (R119). -/
def execOr (t : TileRef) (f : LaneSlot) (s : State) : StepOut := intLane t 0x24 f (fun a b => a ||| b) s
/-- XOR (R119). -/
def execXor (t : TileRef) (f : LaneSlot) (s : State) : StepOut := intLane t 0x25 f (fun a b => a ^^^ b) s
/-- SHL by b[4:0] (R119). -/
def execShl (t : TileRef) (f : LaneSlot) (s : State) : StepOut := intLane t 0x26 f (fun a b => a * 2 ^ (b % 32)) s
/-- SHR, logical, by b[4:0] (R119). -/
def execShr (t : TileRef) (f : LaneSlot) (s : State) : StepOut := intLane t 0x27 f (fun a b => a / 2 ^ (b % 32)) s
/-- SRA, arithmetic, by b[4:0] (R119). -/
def execSra (t : TileRef) (f : LaneSlot) (s : State) : StepOut :=
  intLane t 0x28 f (fun a b => intBits 32 (intOf 32 a / 2 ^ (b % 32))) s
/-- ICEQ (R119). -/
def execIceq (t : TileRef) (f : LaneSlot) (s : State) : StepOut := intLane t 0x29 f (fun a b => maskOf (decide (a = b))) s
/-- ICLT: signed (R119). -/
def execIclt (t : TileRef) (f : LaneSlot) (s : State) : StepOut :=
  intLane t 0x2A f (fun a b => maskOf (decide (intOf 32 a < intOf 32 b))) s

/-! ### Conversions (R75, R79, R121) -/

/-- A conversion of each of the 512 lanes. -/
def cvtFull (t : TileRef) (f : LaneSlot) (code : Nat) (g : Nat → VOut) (s : State) : StepOut :=
  .next (s.startLane t (spellsCvt code f) 1 4 fun x sl ti =>
    let r := (lanesOf (x.vregAt sl ti f.sa.toNat)).map g
    ([(f.dst.toNat, ofLanes (r.map Prod.fst))], flagsOf r))
/-- A narrowing conversion: the packed result in the low lanes, zero in the others. -/
def cvtNarrow (t : TileRef) (f : LaneSlot) (code width : Nat) (g : Nat → VOut) (s : State) : StepOut :=
  .next (s.startLane t (spellsCvt code f) 1 4 fun x sl ti =>
    let r := (lanesOf (x.vregAt sl ti f.sa.toNat)).map g
    ([(f.dst.toNat, BitVec.ofNat 16384 (packAll width (r.map Prod.fst)))], flagsOf r))
/-- A widening conversion: the packed source from the lanes that the part selects. -/
def cvtWiden (t : TileRef) (f : LaneSlot) (code width : Nat) (g : Nat → VOut) (s : State) : StepOut :=
  .next (s.startLane t (spellsCvt code f) 1 4 fun x sl ti =>
    let src := (x.vregAt sl ti f.sa.toNat).toNat / 2 ^ (512 * width * (f.imm.toNat / 256))
    let r := (List.range 512).map fun n => g (packedAt src width n)
    ([(f.dst.toNat, ofLanes (r.map Prod.fst))], flagsOf r))

/-- FP32 to INT32 (R121). -/
def execCvtFp32ToInt32 (t : TileRef) (f : LaneSlot) (s : State) : StepOut :=
  cvtFull t f 0x00 (fun a => ((toInt 32 (Fmt.fp32.decode a)).1, .invalid (toInt 32 (Fmt.fp32.decode a)).2)) s
/-- INT32 to FP32 (R121). -/
def execCvtInt32ToFp32 (t : TileRef) (f : LaneSlot) (s : State) : StepOut :=
  cvtFull t f 0x01 (fun a => (Fmt.fp32.ofInt (intOf 32 a), .zero)) s
/-- FP32 to BF16 (R121). -/
def execCvtFp32ToBf16 (t : TileRef) (f : LaneSlot) (s : State) : StepOut := cvtNarrow t f 0x02 16 (narrowLane .bf16 f.sat) s
/-- BF16 to FP32 (R121). -/
def execCvtBf16ToFp32 (t : TileRef) (f : LaneSlot) (s : State) : StepOut := cvtWiden t f 0x03 16 (widenLane .bf16) s
/-- FP32 to FP16 (R121). -/
def execCvtFp32ToFp16 (t : TileRef) (f : LaneSlot) (s : State) : StepOut := cvtNarrow t f 0x04 16 (narrowLane .fp16 f.sat) s
/-- FP16 to FP32 (R121). -/
def execCvtFp16ToFp32 (t : TileRef) (f : LaneSlot) (s : State) : StepOut := cvtWiden t f 0x05 16 (widenLane .fp16) s
/-- FP32 to FP8 E4M3 (R121). -/
def execCvtFp32ToE4m3 (t : TileRef) (f : LaneSlot) (s : State) : StepOut := cvtNarrow t f 0x06 8 (narrowLane .e4m3 f.sat) s
/-- FP8 E4M3 to FP32 (R121). -/
def execCvtE4m3ToFp32 (t : TileRef) (f : LaneSlot) (s : State) : StepOut := cvtWiden t f 0x07 8 (widenLane .e4m3) s
/-- FP32 to FP8 E5M2 (R121). -/
def execCvtFp32ToE5m2 (t : TileRef) (f : LaneSlot) (s : State) : StepOut := cvtNarrow t f 0x08 8 (narrowLane .e5m2 f.sat) s
/-- FP8 E5M2 to FP32 (R121). -/
def execCvtE5m2ToFp32 (t : TileRef) (f : LaneSlot) (s : State) : StepOut := cvtWiden t f 0x09 8 (widenLane .e5m2) s
/-- FP32 to INT8 (R121). -/
def execCvtFp32ToInt8 (t : TileRef) (f : LaneSlot) (s : State) : StepOut :=
  cvtNarrow t f 0x0A 8 (fun a => ((toInt 8 (Fmt.fp32.decode a)).1, .invalid (toInt 8 (Fmt.fp32.decode a)).2)) s
/-- INT8 to FP32 (R121). -/
def execCvtInt8ToFp32 (t : TileRef) (f : LaneSlot) (s : State) : StepOut :=
  cvtWiden t f 0x0B 8 (fun a => (Fmt.fp32.ofInt (intOf 8 a), .zero)) s

/-! ### Permute, broadcast and reductions (R81, R119) -/

/-- PERM: lane l takes lane b[l][8:0] of a (R119). -/
def execPerm (t : TileRef) (f : LaneSlot) (s : State) : StepOut :=
  .next (s.startLane t (spellsLane 0x31 f) 1 4 fun x sl ti =>
    let a := (x.vregAt sl ti f.sa.toNat).toNat
    ([(f.dst.toNat, ofLanes ((lanesOf (x.vregAt sl ti f.sb.toNat)).map fun b => packedAt a 32 (b % 512)))], .zero))
/-- BCAST: every lane takes lane IMM[8:0] of a (R119). -/
def execBcast (t : TileRef) (f : LaneSlot) (s : State) : StepOut :=
  .next (s.startLane t (spellsLane 0x32 f) 1 4 fun x sl ti =>
    ([(f.dst.toNat, ofLanes (List.replicate 512 (packedAt (x.vregAt sl ti f.sa.toNat).toNat 32 f.imm.toNat)))], .zero))

/-- A reduction: nine levels, the result in every lane. -/
def reduceLane (t : TileRef) (op : Nat) (f : LaneSlot) (g : Nat → Nat → VOut) (s : State) : StepOut :=
  .next (s.startLane t (spellsLane op f) 1 12 fun x sl ti =>
    let r := reduceLevels g 9 (lanesOf (x.vregAt sl ti f.sa.toNat))
    ([(f.dst.toNat, ofLanes (List.replicate 512 (r.1.headD 0)))], r.2))
/-- RSUM (R81). -/
def execRsum (t : TileRef) (f : LaneSlot) (s : State) : StepOut := reduceLane t 0x38 f (fun a b => Fmt.fp32.add a b) s
/-- RMAX (R81). -/
def execRmax (t : TileRef) (f : LaneSlot) (s : State) : StepOut := reduceLane t 0x39 f (fun a b => Fmt.fp32.maximum a b) s
/-- RMIN (R81). -/
def execRmin (t : TileRef) (f : LaneSlot) (s : State) : StepOut := reduceLane t 0x3A f (fun a b => Fmt.fp32.minimum a b) s

/-- MXQ (R82, R122): elements to DST, scales to SC, both at one tick; it occupies LANE for two ticks. -/
def execMxq (t : TileRef) (f : LaneSlot) (s : State) : StepOut :=
  .next (s.startLane t (spellsLane 0x3C f) 2 8 fun x sl ti =>
    let code := f.imm.toNat
    let fm := (fmtOfCode code).getD .e2m1
    let lanes := lanesOf (x.vregAt sl ti f.sa.toNat)
    let blocks := (List.range 16).map fun b => mxBlock code fm ((lanes.drop (32 * b)).take 32)
    ([(f.dst.toNat, BitVec.ofNat 16384 (packAll (codeBits code) (blocks.flatMap Prod.snd))),
      (f.sc.toNat, BitVec.ofNat 16384 (packAll 8 (blocks.map Prod.fst)))], .zero))

/-! ### Transcendental slot (R83, R123) -/

/-- Start a TRANS operation: four issue ticks, latency 16. -/
def transOp (t : TileRef) (op : Nat) (f : TransSlot) (g : Nat → VOut) (s : State) : StepOut :=
  .next (s.issueSlot t 2 (spellsTrans op f) fun s sl ti x =>
    let r := (lanesOf (x.vregAt sl ti f.src.toNat)).map g
    s.startOp sl ti 2 4 19 (.vec (x.tick + 18) [(f.dst.toNat, ofLanes (r.map Prod.fst))] (flagsOf r).bits) [])
/-- EXP (R83). -/
def execExp (t : TileRef) (f : TransSlot) (s : State) : StepOut := transOp t 1 f vexp s
/-- LOG (R83). -/
def execLog (t : TileRef) (f : TransSlot) (s : State) : StepOut := transOp t 2 f vlog s
/-- RCP (R83). -/
def execRcp (t : TileRef) (f : TransSlot) (s : State) : StepOut := transOp t 3 f vrcp s
/-- RSQRT (R83). -/
def execRsqrt (t : TileRef) (f : TransSlot) (s : State) : StepOut := transOp t 4 f vrsqrt s
/-- SIGMOID (R83). -/
def execSigmoid (t : TileRef) (f : TransSlot) (s : State) : StepOut := transOp t 5 f vsigmoid s
/-- TANH (R83). -/
def execTanh (t : TileRef) (f : TransSlot) (s : State) : StepOut := transOp t 6 f vtanh s
/-- SILU (R83). -/
def execSilu (t : TileRef) (f : TransSlot) (s : State) : StepOut := transOp t 7 f vsilu s

/-! ### Load or store slot (R124) -/

/-- LD: two issue ticks, the register at the sixth tick after the first (R124). -/
def execLd (t : TileRef) (f : LdstSlot) (s : State) : StepOut :=
  .next (s.issueSlot t 3 (spellsLdst 1 f) fun s sl ti x =>
    s.startOp sl ti 3 2 7 (.ld f.reg.toNat (x.ar f.ar.toNat).value .empty) (postIf f.post f.ar))
/-- ST: the register read now, its lines written five and six ticks later (R124). -/
def execSt (t : TileRef) (f : LdstSlot) (s : State) : StepOut :=
  .next (s.issueSlot t 3 (spellsLdst 2 f) fun s sl ti x =>
    s.startOp sl ti 3 2 7 (.st (x.ar f.ar.toNat).value (x.vregAt sl ti f.reg.toNat)) (postIf f.post f.ar))

end Sys2Proof.Machine
end

