-- ==== Sys2Proof/Machine/Dispatch.lean ====
section
/-! DEFINITION. Dispatch: one arm for each command. -/

namespace Sys2Proof.Machine

/-- The effect of a command on everything but the queue. -/
def exec (i : Instr) (s : State) : Host.Outcome State Fault Refusal :=
  match i with
  | .qSqTail inst q tail => Sys2Proof.Machine.execQSqTail inst q tail s
  | .qCqHead inst q head => Sys2Proof.Machine.execQCqHead inst q head s
  | .instLaunch inst segment delay => Sys2Proof.Machine.execInstLaunch inst segment delay s
  | .run inst q desc => Sys2Proof.Machine.execRun inst q desc s
  | .alloyRun inst q desc => Sys2Proof.Machine.execAlloyRun inst q desc s
  | .signal inst q desc => Sys2Proof.Machine.execSignal inst q desc s
  | .commandLaunch p => Sys2Proof.Machine.execCommandLaunch p s
  | .alloyLaunchInstant p => Sys2Proof.Machine.execAlloyLaunchInstant p s
  | .walk p chain tableUe => Sys2Proof.Machine.execWalk p chain tableUe s
  | .translationPhaseEnd p => Sys2Proof.Machine.execTranslationPhaseEnd p s
  | .loadSegmentEnd p => Sys2Proof.Machine.execLoadSegmentEnd p s
  | .nop t wait bits => Sys2Proof.Machine.execNop t wait bits s
  | .setar t wait ar value stride zero bits => Sys2Proof.Machine.execSetar t wait ar value stride zero bits s
  | .loop t wait count halfLen zero bits => Sys2Proof.Machine.execLoop t wait count halfLen zero bits s
  | .tileEnd t wait bits => Sys2Proof.Machine.execTileEnd t wait bits s
  | .mma t f => Sys2Proof.Machine.execMma t f s
  | .clear t f => Sys2Proof.Machine.execClear t f s
  | .load t f => Sys2Proof.Machine.execLoad t f s
  | .store t f => Sys2Proof.Machine.execStore t f s
  | .toCs t f => Sys2Proof.Machine.execToCs t f s
  | .fromCs t f => Sys2Proof.Machine.execFromCs t f s
  | .fadd t f => Sys2Proof.Machine.execFadd t f s
  | .fsub t f => Sys2Proof.Machine.execFsub t f s
  | .fmul t f => Sys2Proof.Machine.execFmul t f s
  | .fma t f => Sys2Proof.Machine.execFma t f s
  | .fmin t f => Sys2Proof.Machine.execFmin t f s
  | .fmax t f => Sys2Proof.Machine.execFmax t f s
  | .fceq t f => Sys2Proof.Machine.execFceq t f s
  | .fclt t f => Sys2Proof.Machine.execFclt t f s
  | .fcle t f => Sys2Proof.Machine.execFcle t f s
  | .sel t f => Sys2Proof.Machine.execSel t f s
  | .hadd t f => Sys2Proof.Machine.execHadd t f s
  | .hsub t f => Sys2Proof.Machine.execHsub t f s
  | .hmul t f => Sys2Proof.Machine.execHmul t f s
  | .hfma t f => Sys2Proof.Machine.execHfma t f s
  | .hmin t f => Sys2Proof.Machine.execHmin t f s
  | .hmax t f => Sys2Proof.Machine.execHmax t f s
  | .iadd t f => Sys2Proof.Machine.execIadd t f s
  | .isub t f => Sys2Proof.Machine.execIsub t f s
  | .imul t f => Sys2Proof.Machine.execImul t f s
  | .and t f => Sys2Proof.Machine.execAnd t f s
  | .or t f => Sys2Proof.Machine.execOr t f s
  | .xor t f => Sys2Proof.Machine.execXor t f s
  | .shl t f => Sys2Proof.Machine.execShl t f s
  | .shr t f => Sys2Proof.Machine.execShr t f s
  | .sra t f => Sys2Proof.Machine.execSra t f s
  | .iceq t f => Sys2Proof.Machine.execIceq t f s
  | .iclt t f => Sys2Proof.Machine.execIclt t f s
  | .cvtFp32ToInt32 t f => Sys2Proof.Machine.execCvtFp32ToInt32 t f s
  | .cvtInt32ToFp32 t f => Sys2Proof.Machine.execCvtInt32ToFp32 t f s
  | .cvtFp32ToBf16 t f => Sys2Proof.Machine.execCvtFp32ToBf16 t f s
  | .cvtBf16ToFp32 t f => Sys2Proof.Machine.execCvtBf16ToFp32 t f s
  | .cvtFp32ToFp16 t f => Sys2Proof.Machine.execCvtFp32ToFp16 t f s
  | .cvtFp16ToFp32 t f => Sys2Proof.Machine.execCvtFp16ToFp32 t f s
  | .cvtFp32ToE4m3 t f => Sys2Proof.Machine.execCvtFp32ToE4m3 t f s
  | .cvtE4m3ToFp32 t f => Sys2Proof.Machine.execCvtE4m3ToFp32 t f s
  | .cvtFp32ToE5m2 t f => Sys2Proof.Machine.execCvtFp32ToE5m2 t f s
  | .cvtE5m2ToFp32 t f => Sys2Proof.Machine.execCvtE5m2ToFp32 t f s
  | .cvtFp32ToInt8 t f => Sys2Proof.Machine.execCvtFp32ToInt8 t f s
  | .cvtInt8ToFp32 t f => Sys2Proof.Machine.execCvtInt8ToFp32 t f s
  | .perm t f => Sys2Proof.Machine.execPerm t f s
  | .bcast t f => Sys2Proof.Machine.execBcast t f s
  | .rsum t f => Sys2Proof.Machine.execRsum t f s
  | .rmax t f => Sys2Proof.Machine.execRmax t f s
  | .rmin t f => Sys2Proof.Machine.execRmin t f s
  | .mxq t f => Sys2Proof.Machine.execMxq t f s
  | .exp t f => Sys2Proof.Machine.execExp t f s
  | .log t f => Sys2Proof.Machine.execLog t f s
  | .rcp t f => Sys2Proof.Machine.execRcp t f s
  | .rsqrt t f => Sys2Proof.Machine.execRsqrt t f s
  | .sigmoid t f => Sys2Proof.Machine.execSigmoid t f s
  | .tanh t f => Sys2Proof.Machine.execTanh t f s
  | .silu t f => Sys2Proof.Machine.execSilu t f s
  | .ld t f => Sys2Proof.Machine.execLd t f s
  | .st t f => Sys2Proof.Machine.execSt t f s
  | .flowTick node entry rep at_ fails => Sys2Proof.Machine.execFlowTick node entry rep at_ fails s
  | .streamAccess slice stream tick errs => Sys2Proof.Machine.execStreamAccess slice stream tick errs s
  | .microTlbRequest slice stream line => Sys2Proof.Machine.execMicroTlbRequest slice stream line s
  | .refreshWindow channel fails reads => Sys2Proof.Machine.execRefreshWindow channel fails reads s
  | .holdRefresh channel => Sys2Proof.Machine.execHoldRefresh channel s
  | .attn engine p desc ecc => Sys2Proof.Machine.execAttn engine p desc ecc s
  | .matvec engine p desc ecc => Sys2Proof.Machine.execMatvec engine p desc ecc s
  | .gather engine p desc ecc => Sys2Proof.Machine.execGather engine p desc ecc s
  | .scatter engine p desc ecc => Sys2Proof.Machine.execScatter engine p desc ecc s
  | .topk engine p desc ecc => Sys2Proof.Machine.execTopk engine p desc ecc s
  | .sum engine p desc ecc => Sys2Proof.Machine.execSum engine p desc ecc s
  | .max engine p desc ecc => Sys2Proof.Machine.execMax engine p desc ecc s
  | .min engine p desc ecc => Sys2Proof.Machine.execMin engine p desc ecc s
  | .merge engine p desc ecc => Sys2Proof.Machine.execMerge engine p desc ecc s
  | .copy engine p desc ecc => Sys2Proof.Machine.execCopy engine p desc ecc s
  | .fill engine p desc ecc => Sys2Proof.Machine.execFill engine p desc ecc s
  | .descriptorEnd engine p => Sys2Proof.Machine.execDescriptorEnd engine p s
  | .openEntryStart engine start => Sys2Proof.Machine.execOpenEntryStart engine start s
  | .openEntryEnd engine entry outcome => Sys2Proof.Machine.execOpenEntryEnd engine entry outcome s
  | .alloc slice cls => Sys2Proof.Machine.execAlloc slice cls s
  | .free slice va => Sys2Proof.Machine.execFree slice va s
  | .openGroupStart p group => Sys2Proof.Machine.execOpenGroupStart p group s
  | .openGroupNeed p group => Sys2Proof.Machine.execOpenGroupNeed p group s
  | .internalCommit p => Sys2Proof.Machine.execInternalCommit p s
  | .pacedRelease p => Sys2Proof.Machine.execPacedRelease p s
  | .promiseOverrun p => Sys2Proof.Machine.execPromiseOverrun p s
  | .seam drain => Sys2Proof.Machine.execSeam drain s
  | .lineItemEnd p => Sys2Proof.Machine.execLineItemEnd p s
  | .bindItem p => Sys2Proof.Machine.execBindItem p s
  | .unbindItem p => Sys2Proof.Machine.execUnbindItem p s
  | .translationUpdate p => Sys2Proof.Machine.execTranslationUpdate p s
  | .rebindingItem p errs => Sys2Proof.Machine.execRebindingItem p errs s
  | .parkItem p => Sys2Proof.Machine.execParkItem p s
  | .wakeItem p => Sys2Proof.Machine.execWakeItem p s
  | .debugItem p => Sys2Proof.Machine.execDebugItem p s
  | .directLaunch p => Sys2Proof.Machine.execDirectLaunch p s
  | .tickSwitchItem => Sys2Proof.Machine.execTickSwitchItem s
  | .tickRestart => Sys2Proof.Machine.execTickRestart s
  | .standbyPllLock => Sys2Proof.Machine.execStandbyPllLock s
  | .autoTickSwitch => Sys2Proof.Machine.execAutoTickSwitch s
  | .leaveItem p => Sys2Proof.Machine.execLeaveItem p s
  | .leaveInstant p => Sys2Proof.Machine.execLeaveInstant p s
  | .heartbeatMissed slice => Sys2Proof.Machine.execHeartbeatMissed slice s
  | .seqTrap slice mcause => Sys2Proof.Machine.execSeqTrap slice mcause s
  | .sxlaunch slice value => Sys2Proof.Machine.execSxlaunch slice value s
  | .sxkill slice value => Sys2Proof.Machine.execSxkill slice value s
  | .halt slice value => Sys2Proof.Machine.execHalt slice value s
  | .evcDoorbell evc source => Sys2Proof.Machine.execEvcDoorbell evc source s
  | .evcMessage evc source => Sys2Proof.Machine.execEvcMessage evc source s
  | .evcTimeExpiry evc source => Sys2Proof.Machine.execEvcTimeExpiry evc source s
  | .evcClaim evc origin => Sys2Proof.Machine.execEvcClaim evc origin s
  | .evcComplete evc source => Sys2Proof.Machine.execEvcComplete evc source s
  | .stackClr evc origin => Sys2Proof.Machine.execStackClr evc origin s
  | .evtEn page value => Sys2Proof.Machine.execEvtEn page value s
  | .blkEnable page => Sys2Proof.Machine.execBlkEnable page s
  | .softRst page origin => Sys2Proof.Machine.execSoftRst page origin s
  | .freeze page value => Sys2Proof.Machine.execFreeze page value s
  | .lock page value => Sys2Proof.Machine.execLock page value s
  | .badAccess bar offset size write => Sys2Proof.Machine.execBadAccess bar offset size write s
  | .registerWrite origin offset size value => Sys2Proof.Machine.execRegisterWrite origin offset size value s
  | .ptnpXltRoot p value => Sys2Proof.Machine.execPtnpXltRoot p value s
  | .quota p value => Sys2Proof.Machine.execQuota p value s
  | .rtrOwn slice value => Sys2Proof.Machine.execRtrOwn slice value s
  | .lnkOwn port value => Sys2Proof.Machine.execLnkOwn port value s
  | .openMask channel value => Sys2Proof.Machine.execOpenMask channel value s
  | .openMin channel value => Sys2Proof.Machine.execOpenMin channel value s
  | .poolState value => Sys2Proof.Machine.execPoolState value s
  | .openReserve port value => Sys2Proof.Machine.execOpenReserve port value s
  | .clkGate reg value => Sys2Proof.Machine.execClkGate reg value s
  | .retrain port => Sys2Proof.Machine.execRetrain port s
  | .enable port value => Sys2Proof.Machine.execEnable port value s
  | .mbxEnable fm => Sys2Proof.Machine.execMbxEnable fm s
  | .mbxSqBase fm value => Sys2Proof.Machine.execMbxSqBase fm value s
  | .mbxCqBase fm value => Sys2Proof.Machine.execMbxCqBase fm value s
  | .sqTail fm value => Sys2Proof.Machine.execSqTail fm value s
  | .cqHead fm value => Sys2Proof.Machine.execCqHead fm value s
  | .admOpcode fm a opcode => Sys2Proof.Machine.execAdmOpcode fm a opcode s
  | .admDenied fm a opcode => Sys2Proof.Machine.execAdmDenied fm a opcode s
  | .noticePost => Sys2Proof.Machine.execNoticePost s
  | .instCreate a inst p fn image => Sys2Proof.Machine.execInstCreate a inst p fn image s
  | .instDestroyDrain a inst => Sys2Proof.Machine.execInstDestroyDrain a inst s
  | .instDestroySquash a inst => Sys2Proof.Machine.execInstDestroySquash a inst s
  | .instReset a inst => Sys2Proof.Machine.execInstReset a inst s
  | .instSuspend a inst => Sys2Proof.Machine.execInstSuspend a inst s
  | .instResume a inst => Sys2Proof.Machine.execInstResume a inst s
  | .instImage a inst image => Sys2Proof.Machine.execInstImage a inst image s
  | .instQuery a inst => Sys2Proof.Machine.execInstQuery a inst s
  | .qCreate a inst q sqLog2 cqLog2 sqBase cqBase => Sys2Proof.Machine.execQCreate a inst q sqLog2 cqLog2 sqBase cqBase s
  | .qDestroy a inst q => Sys2Proof.Machine.execQDestroy a inst q s
  | .moCreate a p kind flags owner va bytes => Sys2Proof.Machine.execMoCreate a p kind flags owner va bytes s
  | .moFree a obj => Sys2Proof.Machine.execMoFree a obj s
  | .objRef a kind h delta => Sys2Proof.Machine.execObjRef a kind h delta s
  | .appendSet a obj extent => Sys2Proof.Machine.execAppendSet a obj extent s
  | .fenceCreate a p value => Sys2Proof.Machine.execFenceCreate a p value s
  | .fenceFree a fence => Sys2Proof.Machine.execFenceFree a fence s
  | .fenceSignal a fence value => Sys2Proof.Machine.execFenceSignal a fence value s
  | .fenceView a inst view fence => Sys2Proof.Machine.execFenceView a inst view fence s
  | .argsetWrite a p set data => Sys2Proof.Machine.execArgsetWrite a p set data s
  | .ptWrite a p rec => Sys2Proof.Machine.execPtWrite a p rec s
  | .regionCreate a engine flags region obj base lines kind => Sys2Proof.Machine.execRegionCreate a engine flags region obj base lines kind s
  | .regionDestroy a engine region => Sys2Proof.Machine.execRegionDestroy a engine region s
  | .openOrder a engine p desc => Sys2Proof.Machine.execOpenOrder a engine p desc s
  | .imgBind a p flags index obj => Sys2Proof.Machine.execImgBind a p flags index obj s
  | .imgUnbind a image => Sys2Proof.Machine.execImgUnbind a image s
  | .heapSet a p obj => Sys2Proof.Machine.execHeapSet a p obj s
  | .heapReset a p => Sys2Proof.Machine.execHeapReset a p s
  | .ptnCreate a p profile quota slices sets => Sys2Proof.Machine.execPtnCreate a p profile quota slices sets s
  | .ptnDestroy a p => Sys2Proof.Machine.execPtnDestroy a p s
  | .ptnReset a p => Sys2Proof.Machine.execPtnReset a p s
  | .annealOverwriteEnd p => Sys2Proof.Machine.execAnnealOverwriteEnd p s
  | .ptnReshape a p profile slices sets plan => Sys2Proof.Machine.execPtnReshape a p profile slices sets plan s
  | .preemptAbsorb a p inst q desc => Sys2Proof.Machine.execPreemptAbsorb a p inst q desc s
  | .preemptWithdraw a p inst q desc => Sys2Proof.Machine.execPreemptWithdraw a p inst q desc s
  | .preemptKill a p inst q desc => Sys2Proof.Machine.execPreemptKill a p inst q desc s
  | .hoCreate a p cls count extents inline => Sys2Proof.Machine.execHoCreate a p cls count extents inline s
  | .hoArm a p srcDevice srcHandle obj capacity => Sys2Proof.Machine.execHoArm a p srcDevice srcHandle obj capacity s
  | .hoOffer a record dstDevice dstHandle => Sys2Proof.Machine.execHoOffer a record dstDevice dstHandle s
  | .hoFree a record => Sys2Proof.Machine.execHoFree a record s
  | .hoRead a record dst => Sys2Proof.Machine.execHoRead a record dst s
  | .hoRuleSource a state record epoch => Sys2Proof.Machine.execHoRuleSource a state record epoch s
  | .hoRuleDestination a state record epoch => Sys2Proof.Machine.execHoRuleDestination a state record epoch s
  | .hoRuleLost a state record epoch => Sys2Proof.Machine.execHoRuleLost a state record epoch s
  | .hoRuleKeep a state record epoch => Sys2Proof.Machine.execHoRuleKeep a state record epoch s
  | .hoRuleDrop a state record epoch => Sys2Proof.Machine.execHoRuleDrop a state record epoch s
  | .logCtlEnable a inst => Sys2Proof.Machine.execLogCtlEnable a inst s
  | .logCtlDisable a inst => Sys2Proof.Machine.execLogCtlDisable a inst s
  | .logFetch a inst first count dst => Sys2Proof.Machine.execLogFetch a inst first count dst s
  | .apertureMap a inst base => Sys2Proof.Machine.execApertureMap a inst base s
  | .pasidBind a inst pasid => Sys2Proof.Machine.execPasidBind a inst pasid s
  | .alloyJoin a p lead alloy windowUs tJoin plan => Sys2Proof.Machine.execAlloyJoin a p lead alloy windowUs tJoin plan s
  | .joinInstant p => Sys2Proof.Machine.execJoinInstant p s
  | .joinWindowEnd p => Sys2Proof.Machine.execJoinWindowEnd p s
  | .alloyUndecided p => Sys2Proof.Machine.execAlloyUndecided p s
  | .alloyLeave a p leaving => Sys2Proof.Machine.execAlloyLeave a p leaving s
  | .alloyDissolve a p => Sys2Proof.Machine.execAlloyDissolve a p s
  | .alloyResume a p => Sys2Proof.Machine.execAlloyResume a p s
  | .alloyRuleNone a p => Sys2Proof.Machine.execAlloyRuleNone a p s
  | .alloyRuleActive a p => Sys2Proof.Machine.execAlloyRuleActive a p s
  | .alloyTreeInstall a up down member alloy => Sys2Proof.Machine.execAlloyTreeInstall a up down member alloy s
  | .alloyTreeRemove a up down member alloy => Sys2Proof.Machine.execAlloyTreeRemove a up down member alloy s
  | .routeWrite a first count entries => Sys2Proof.Machine.execRouteWrite a first count entries s
  | .vecAlloc a inst count => Sys2Proof.Machine.execVecAlloc a inst count s
  | .vecFree a inst => Sys2Proof.Machine.execVecFree a inst s
  | .tickSourceLocal a => Sys2Proof.Machine.execTickSourceLocal a s
  | .tickSourceFabric a => Sys2Proof.Machine.execTickSourceFabric a s
  | .pwrPark a p state => Sys2Proof.Machine.execPwrPark a p state s
  | .pwrWake a p => Sys2Proof.Machine.execPwrWake a p s
  | .devStateDs0 a => Sys2Proof.Machine.execDevStateDs0 a s
  | .devStateDs2 a => Sys2Proof.Machine.execDevStateDs2 a s
  | .devStateDs3 a => Sys2Proof.Machine.execDevStateDs3 a s
  | .alloyGap a p gap epoch => Sys2Proof.Machine.execAlloyGap a p gap epoch s
  | .alloyGapEpoch p => Sys2Proof.Machine.execAlloyGapEpoch p s
  | .fwStage a bytes image => Sys2Proof.Machine.execFwStage a bytes image s
  | .fwSvnCommit a svn => Sys2Proof.Machine.execFwSvnCommit a svn s
  | .attest a p capacity dst nonce => Sys2Proof.Machine.execAttest a p capacity dst nonce s
  | .attestFm a p capacity dst nonce => Sys2Proof.Machine.execAttestFm a p capacity dst nonce s
  | .attestDoe kind p capacity nonce => Sys2Proof.Machine.execAttestDoe kind p capacity nonce s
  | .attestSnapshot => Sys2Proof.Machine.execAttestSnapshot s
  | .consent a p flags => Sys2Proof.Machine.execConsent a p flags s
  | .dbgOpen a p => Sys2Proof.Machine.execDbgOpen a p s
  | .dbgClose a p => Sys2Proof.Machine.execDbgClose a p s
  | .pkgUnseal a p src dst first count => Sys2Proof.Machine.execPkgUnseal a p src dst first count s
  | .engineReset a p slice tiles => Sys2Proof.Machine.execEngineReset a p slice tiles s
  | .devResetDevice a => Sys2Proof.Machine.execDevResetDevice a s
  | .devResetPowerCycle a => Sys2Proof.Machine.execDevResetPowerCycle a s
  | .assayRun a kind target => Sys2Proof.Machine.execAssayRun a kind target s
  | .assayEnd repairs hubOk routers units => Sys2Proof.Machine.execAssayEnd repairs hubOk routers units s
  | .assayRead a => Sys2Proof.Machine.execAssayRead a s
  | .assayReadFm a => Sys2Proof.Machine.execAssayReadFm a s
  | .assayFuse a => Sys2Proof.Machine.execAssayFuse a s
  | .resetOverrun level p => Sys2Proof.Machine.execResetOverrun level p s
  | .apertureRead inst offset size outcome => Sys2Proof.Machine.execApertureRead inst offset size outcome s
  | .apertureWrite inst offset data outcome => Sys2Proof.Machine.execApertureWrite inst offset data outcome s
  | .selfRefreshReturn channel => Sys2Proof.Machine.execSelfRefreshReturn channel s
  | .dmaError what inst q => Sys2Proof.Machine.execDmaError what inst q s
  | .configRequest fn offset write value => Sys2Proof.Machine.execConfigRequest fn offset write value s
  | .pcieLinkReset fn => Sys2Proof.Machine.execPcieLinkReset fn s
  | .perstN => Sys2Proof.Machine.execPerstN s
  | .pwrEnRise railsOk => Sys2Proof.Machine.execPwrEnRise railsOk s
  | .pwrEnFall => Sys2Proof.Machine.execPwrEnFall s
  | .railOutOfRegulation => Sys2Proof.Machine.execRailOutOfRegulation s
  | .firmwareVerified bank image nvmOk mNvm => Sys2Proof.Machine.execFirmwareVerified bank image nvmOk mNvm s
  | .bankVerifyFail bank => Sys2Proof.Machine.execBankVerifyFail bank s
  | .deviceRelease trained => Sys2Proof.Machine.execDeviceRelease trained s
  | .assayOutOfWindow => Sys2Proof.Machine.execAssayOutOfWindow s
  | .hubHeartbeatCheck incremented recordsPosted => Sys2Proof.Machine.execHubHeartbeatCheck incremented recordsPosted s
  | .pwrAlertNAssert widthNs => Sys2Proof.Machine.execPwrAlertNAssert widthNs s
  | .pwrAlertNDeassert => Sys2Proof.Machine.execPwrAlertNDeassert s
  | .alertHoldEnd => Sys2Proof.Machine.execAlertHoldEnd s
  | .coolFailNAssert widthNs => Sys2Proof.Machine.execCoolFailNAssert widthNs s
  | .coolFailNDeassert => Sys2Proof.Machine.execCoolFailNDeassert s
  | .quenchPowerOffRequest => Sys2Proof.Machine.execQuenchPowerOffRequest s
  | .thermTrip => Sys2Proof.Machine.execThermTrip s
  | .supplyWarning rail => Sys2Proof.Machine.execSupplyWarning rail s
  | .clampEnd => Sys2Proof.Machine.execClampEnd s
  | .brownout rail => Sys2Proof.Machine.execBrownout rail s
  | .droop stretchedTicks totalPs => Sys2Proof.Machine.execDroop stretchedTicks totalPs s
  | .capLoop lastMs fixed other alloys => Sys2Proof.Machine.execCapLoop lastMs fixed other alloys s
  | .calibration measured estimated => Sys2Proof.Machine.execCalibration measured estimated s
  | .thermalFloor maxC hotDie => Sys2Proof.Machine.execThermalFloor maxC hotDie s
  | .trim errPpm refPresent => Sys2Proof.Machine.execTrim errPpm refPresent s
  | .idleSp1 slice => Sys2Proof.Machine.execIdleSp1 slice s
  | .idleSp2 slice => Sys2Proof.Machine.execIdleSp2 slice s
  | .counterLatch => Sys2Proof.Machine.execCounterLatch s
  | .pwrViewUpdate powers => Sys2Proof.Machine.execPwrViewUpdate powers s
  | .trngFail => Sys2Proof.Machine.execTrngFail s
  | .trngTimeout what port => Sys2Proof.Machine.execTrngTimeout what port s
  | .timePps => Sys2Proof.Machine.execTimePps s
  | .time port valid hops root start arrival => Sys2Proof.Machine.execTime port valid hops root start arrival s
  | .parentLost => Sys2Proof.Machine.execParentLost s
  | .parentUsable => Sys2Proof.Machine.execParentUsable s
  | .trainingFrame port lanes => Sys2Proof.Machine.execTrainingFrame port lanes s
  | .trainDone port ber => Sys2Proof.Machine.execTrainDone port ber s
  | .alignDone port lanes => Sys2Proof.Machine.execAlignDone port lanes s
  | .hello port certOk device peerPort nonce => Sys2Proof.Machine.execHello port certOk device peerPort nonce s
  | .encap port ok => Sys2Proof.Machine.execEncap port ok s
  | .portStateTimeout port => Sys2Proof.Machine.execPortStateTimeout port s
  | .interval port corrected lanes => Sys2Proof.Machine.execInterval port corrected lanes s
  | .lostInterval port => Sys2Proof.Machine.execLostInterval port s
  | .laneSwap port logical spare stroke => Sys2Proof.Machine.execLaneSwap port logical spare stroke s
  | .laneSwapStroke port => Sys2Proof.Machine.execLaneSwapStroke port s
  | .keyRefresh port => Sys2Proof.Machine.execKeyRefresh port s
  | .echoReq port seq delta => Sys2Proof.Machine.execEchoReq port seq delta s
  | .echoRsp port seq delta elapsed => Sys2Proof.Machine.execEchoRsp port seq delta elapsed s
  | .close port cause => Sys2Proof.Machine.execClose port cause s
  | .pause port set => Sys2Proof.Machine.execPause port set s
  | .scheduledSlot port slot => Sys2Proof.Machine.execScheduledSlot port slot s
  | .openSlot port slot => Sys2Proof.Machine.execOpenSlot port slot s
  | .scheduledFlit port slot kind point cmd srcPart alloy units => Sys2Proof.Machine.execScheduledFlit port slot kind point cmd srcPart alloy units s
  | .holdBegin p port => Sys2Proof.Machine.execHoldBegin p port s
  | .holdEnd p => Sys2Proof.Machine.execHoldEnd p s
  | .holdLimitUs p => Sys2Proof.Machine.execHoldLimitUs p s
  | .barrierTick p index => Sys2Proof.Machine.execBarrierTick p index s
  | .barrierArrive m => Sys2Proof.Machine.execBarrierArrive m s
  | .barrierGo m => Sys2Proof.Machine.execBarrierGo m s
  | .launch m => Sys2Proof.Machine.execLaunch m s
  | .commit m => Sys2Proof.Machine.execCommit m s
  | .release m => Sys2Proof.Machine.execRelease m s
  | .void m => Sys2Proof.Machine.execVoid m s
  | .abort m => Sys2Proof.Machine.execAbort m s
  | .joinSync m device => Sys2Proof.Machine.execJoinSync m device s
  | .active m => Sys2Proof.Machine.execActive m s
  | .abandon m => Sys2Proof.Machine.execAbandon m s
  | .leave m leaving => Sys2Proof.Machine.execLeave m leaving s
  | .hopReport p device hops => Sys2Proof.Machine.execHopReport p device hops s
  | .wcetDigest p device index digest => Sys2Proof.Machine.execWcetDigest p device index digest s
  | .resumeReport p device => Sys2Proof.Machine.execResumeReport p device s
  | .offer m => Sys2Proof.Machine.execOffer m s
  | .stream h data => Sys2Proof.Machine.execStream h data s
  | .streamEnd record => Sys2Proof.Machine.execStreamEnd record s
  | .trailer record epoch length digest => Sys2Proof.Machine.execTrailer record epoch length digest s
  | .taken m => Sys2Proof.Machine.execTaken m s
  | .released m => Sys2Proof.Machine.execReleased m s
  | .refuse m => Sys2Proof.Machine.execRefuse m s
  | .query m => Sys2Proof.Machine.execQuery m s
  | .answer m => Sys2Proof.Machine.execAnswer m s
  | .stale m => Sys2Proof.Machine.execStale m s
  | .holdQueryExpiry record => Sys2Proof.Machine.execHoldQueryExpiry record s
  | .takenResend record => Sys2Proof.Machine.execTakenResend record s
  | .hoHoldLimit record => Sys2Proof.Machine.execHoHoldLimit record s
  | .readReq h va lines deadline outcome => Sys2Proof.Machine.execReadReq h va lines deadline outcome s
  | .readData h lines => Sys2Proof.Machine.execReadData h lines s
  | .writeReq h va lines deadline => Sys2Proof.Machine.execWriteReq h va lines deadline s
  | .writeData h lines => Sys2Proof.Machine.execWriteData h lines s
  | .ack h status lines => Sys2Proof.Machine.execAck h status lines s
  | .nack h status va => Sys2Proof.Machine.execNack h status va s
  | .openRequestTimeout tag => Sys2Proof.Machine.execOpenRequestTimeout tag s
  | .grant kind index => Sys2Proof.Machine.execGrant kind index s
  | .guaranteeCheck kind index => Sys2Proof.Machine.execGuaranteeCheck kind index s
  | .bypass tdi => Sys2Proof.Machine.execBypass tdi s
  | .idcode => Sys2Proof.Machine.execIdcode s
  | .samplePreload cells => Sys2Proof.Machine.execSamplePreload cells s
  | .extest tdi => Sys2Proof.Machine.execExtest tdi s
  | .jtagDebugAccess p slice space address write value => Sys2Proof.Machine.execJtagDebugAccess p slice space address write value s
  | .readReg page offset => Sys2Proof.Machine.execReadReg page offset s
  | .status => Sys2Proof.Machine.execStatus s
  | .wake => Sys2Proof.Machine.execWake s
  | .flashErase bank => Sys2Proof.Machine.execFlashErase bank s
  | .flashWrite bank offset data => Sys2Proof.Machine.execFlashWrite bank offset data s
  | .flashRead bank offset => Sys2Proof.Machine.execFlashRead bank offset s
  | .enec events => Sys2Proof.Machine.execEnec events s
  | .disec events => Sys2Proof.Machine.execDisec events s
  | .rstdaa => Sys2Proof.Machine.execRstdaa s
  | .setdasa static dynamic => Sys2Proof.Machine.execSetdasa static dynamic s
  | .entdaa dynamic => Sys2Proof.Machine.execEntdaa dynamic s
  | .getpid => Sys2Proof.Machine.execGetpid s
  | .getbcr => Sys2Proof.Machine.execGetbcr s
  | .getdcr => Sys2Proof.Machine.execGetdcr s
  | .getstatus => Sys2Proof.Machine.execGetstatus s
  | .inBandInterrupt event taken => Sys2Proof.Machine.execInBandInterrupt event taken s
  | .markerDiscontinuity port => Sys2Proof.Machine.execMarkerDiscontinuity port s
  | .resetLevelRecovery => Sys2Proof.Machine.execResetLevelRecovery s
  | .perstNDeassert => Sys2Proof.Machine.execPerstNDeassert s
  | .lineItemOverrun p => Sys2Proof.Machine.execLineItemOverrun p s
  | .vectorUnmask fn vector => Sys2Proof.Machine.execVectorUnmask fn vector s
  | .ideKm stream subStream rx keyOk setGo => Sys2Proof.Machine.execIdeKm stream subStream rx keyOk setGo s
  | .doeDiscovery index => Sys2Proof.Machine.execDoeDiscovery index s

end Sys2Proof.Machine
end

