-- ==== Sys2Proof/Machine/SeqCore.lean ====
section
/-! DEFINITION. What a sequencer's core reaches, and one instruction of it: the address map, the CSRs, WFI and interrupts (R86 to
R89, R426, R430; log entry 94). -/

namespace Sys2Proof.Machine

/-! ### The address map (R88) -/

/-- A place of the sequencer's address map. -/
inductive SeqPlace where
  /-- A line of local memory. -/
  | mem (line : Nat)
  /-- A register of one of the cluster's pages. -/
  | page (page off : Nat)
  /-- An entry of the translation cache. -/
  | cache (entry : Nat)
  /-- A word of the mailbox. -/
  | mailbox (word : Nat)
  /-- A line of the reserved area: a table's, or one of the device reserve. -/
  | reserved (q : Nat)
  deriving DecidableEq, Repr

/-- The place of an aligned access, and the byte of the place at which it begins; none outside the map (R88). -/
def seqPlace (sl a size : Nat) : Option (SeqPlace × Nat) :=
  if a < 0x40000 then some (.mem (a / 64), a % 64)
  else if 0x1000000 ≤ a ∧ a < 0x1008000 ∧ 4 ≤ size then some (.page (clusterPage sl (a / 4096 % 8)) (a % 4096 / 8 * 8), a % 8)
  else if 0x2000000 ≤ a ∧ a < 0x2010000 then some (.cache (a / 16 % 4096), a % 16)
  else if 0x3000000 ≤ a ∧ a < 0x3001000 then some (.mailbox (a / 8 % 512), a % 8)
  else if 0x10000000 ≤ a ∧ a < 0x20000000 then some (.reserved ((a - 0x10000000) / 64), a % 64)
  else none
/-- LR, SC and the atomic operations reach local memory and the reserved area only (R86). -/
def SeqPlace.atomic : SeqPlace → Bool
  | .mem _ => true
  | .reserved _ => true
  | _ => false

/-- A line of a slice's table area. -/
def State.tableLine (s : State) (sl q : Nat) : Line :=
  BitVec.ofNat 512 ((List.range 8).map fun i => (s.tableEntry sl q i).toNat * 2 ^ (64 * i)).sum
/-- Write the bytes of a table line that a mask names. -/
def State.putTableLine (s : State) (sl q : Nat) (v : Line) (mask : Nat) : State :=
  let w := mergeBytes (s.tableLine sl q) v mask
  (List.range 8).foldl (fun s i => s.setTableEntry sl q i (wordOf w i)) s

/-- An uncorrectable line that firmware read: the channel notes it, and the partition that holds the slice is faulted; for a
slice in no partition it is logged only (R219). -/
def State.reservedBad (s : State) (sl dpa : Nat) : State :=
  let t := s.noteLine [] false dpa
  match s.sliceOwner sl with
  | some p => t.faultPtn p Fc.memUe (.channel (dpaChannel dpa))
  | none => t

/-- What a place holds, and the state after the read; none is an access fault. -/
def State.seqRead (s : State) (sl : Nat) : SeqPlace → Option (Nat × State)
  | .mem l => some ((s.localLine sl l).toNat, s)
  | .page page off =>
    if page = clusterPage sl 5 ∧ off = 0x50 then some (s.claim sl) else some (s.pageWord page off, s)
  | .cache e => some ((s.mem.caches.getD (cacheEntries * sl + e) 0).toNat, s)
  | .mailbox w => some (((s.seqr sl).mailbox.getD w ((unwritten 1 (placeOf 6 sl 0 w)).setWidth 64)).toNat, s)
  | .reserved q =>
    let dpa := s.reservedDpa sl q
    if s.decoded [] dpa = .uncorrectable then none
    else some ((if q < tableArea then s.tableLine sl q else s.delivered [] dpa).toNat, s.noteLine [] false dpa)
/-- The state after a read that ended in an access fault. -/
def State.seqBad (s : State) (sl : Nat) : SeqPlace → State
  | .reserved q => s.reservedBad sl (s.reservedDpa sl q)
  | _ => s
/-- Write bytes of a place: `v` is the data from the byte `at_` on, of a size. A store to part of an uncorrectable line merges into
what cannot be read, and is an access fault (R220). -/
def State.seqWrite (s : State) (sl : Nat) (at_ size v : Nat) : SeqPlace → Option State
  | .mem l => some (s.setLocalLine sl l (mergeBytes (s.localLine sl l) (BitVec.ofNat 512 (v * 2 ^ (8 * at_))) ((2 ^ size - 1) * 2 ^ at_)))
  | .page page off =>
    let o : Origin := .sequencer (BitVec.ofNat 6 sl)
    some (if s.mayWrite o page off then s.writeReg o page off ((2 ^ (8 * size) - 1) * 2 ^ (8 * at_)) (v * 2 ^ (8 * at_)) else s)
  | .cache e =>
    let k := cacheEntries * sl + e
    let mask := (2 ^ (8 * size) - 1) * 2 ^ (8 * at_)
    some (s.onMem fun m => { m with
      caches := m.caches.putD k 0 (BitVec.ofNat 128 (mergeMask (m.caches.getD k 0).toNat mask (v * 2 ^ (8 * at_)))) })
  | .mailbox w =>
    let x := s.seqr sl
    let old := (x.mailbox.getD w ((unwritten 1 (placeOf 6 sl 0 w)).setWidth 64)).toNat
    some (s.setSeqr sl { x with
      mailbox := x.mailbox.put w (BitVec.ofNat 64 (mergeMask old ((2 ^ (8 * size) - 1) * 2 ^ (8 * at_)) (v * 2 ^ (8 * at_)))) })
  | .reserved q =>
    let dpa := s.reservedDpa sl q
    let data := BitVec.ofNat 512 (v * 2 ^ (8 * at_))
    let mask := (2 ^ size - 1) * 2 ^ at_
    if s.decoded [] dpa = .uncorrectable then none
    else some (if q < tableArea then (s.noteLine [] false dpa).putTableLine sl q data mask else (s.putBytes [] dpa data mask).2)

/-! ### CSRs (R89) -/

/-- Write the core of a sequencer. -/
def State.setCore (s : State) (sl : Nat) (c : SeqCore) : State := s.setSeqr sl { s.seqr sl with core := c }
/-- The core of a sequencer takes a trap. -/
def State.seqTrap (s : State) (sl cause : Nat) (tval : BitVec 64) : State :=
  s.setCore sl ((s.seqr sl).core.trap false cause tval)

/-- Whether the core's mode may access a CSR: bits [9:8] of its number give the lowest mode, and mcounteren opens the counters
to user mode. -/
def SeqCore.mayAccess (c : SeqCore) (n : Nat) : Bool :=
  c.machine || decide (rvBits n 8 2 = 0) && (decide (n / 32 ≠ 0xC00 / 32) || (c.csr 0x306).getLsbD (n % 32))
/-- What a CSR reads; none where the core has no such CSR. -/
def State.readCsr (s : State) (sl n : Nat) : Option (BitVec 64) :=
  let x := s.seqr sl
  let c := x.core
  if csrKept n then some (c.csr n)
  else if csrZero n then some 0
  else match n with
    | 0x300 => some c.mstatusWord
    | 0x301 => some 0x8000000000101105
    | 0x344 => some (if (s.evc sl).line then 0x800 else 0)
    | 0xF11 | 0xF12 | 0xF13 | 0xF14 | 0xF15 => some (Config.seqCsr sl n)
    | 0xB00 | 0xC00 => some (BitVec.ofNat 64 (c.fifthsAt s.now / 5))
    | 0xC01 => some (BitVec.ofNat 64 s.now)
    | 0xB02 | 0xC02 => some (BitVec.ofNat 64 c.instret)
    | 0xFC0 => some (BitVec.ofNat 64 (s.get Reg.dieTickTick (sl / 16)))
    | 0xFC1 => some (BitVec.ofNat 64 (s.deviceId % 2 ^ 14 * 2 ^ 16 + sl / 16 * 2 ^ 8 + sl % 16))
    | 0xFC2 => some (match s.sliceOwner sl with
      | some p => BitVec.ofNat 64 (s.gapOf p % 16)
      | none => Config.seqCsr sl n)
    | 0x7C0 => some (if x.launchAt.isSome then 0x8000000000000000 else 0)
    | 0x7C1 => some 0
    | _ => none
/-- Write a CSR that reads something and is not read-only. -/
def State.writeCsr (s : State) (sl n : Nat) (v : BitVec 64) : State :=
  let c := (s.seqr sl).core
  if csrKept n then s.setCore sl (c.writeKept s.now n v)
  else match n with
    | 0x300 => s.setCore sl (c.writeMstatus v)
    | 0xB00 => s.setCore sl { c.settle s.now with fifths := 5 * v.toNat }
    | 0xB02 => s.setCore sl { c with instret := v.toNat }
    | 0x7C0 => s.sxlaunch sl v
    | 0x7C1 => s.sxkill sl v
    | _ => s

/-! ### One instruction -/

/-- The external interrupt is taken: its line asserts, mie lets it, and the mode or mstatus.MIE does (R426). -/
def State.seqInterrupt (s : State) (sl : Nat) : Bool :=
  let c := (s.seqr sl).core
  (s.evc sl).line && (c.csr 0x304).getLsbD 11 && (!c.machine || c.mstatus.getLsbD 3)
/-- Two bytes of the instruction stream: local memory and the reserved area hold code. -/
def State.fetchHalf (s : State) (sl a : Nat) : Option (Nat × State) :=
  if (s.seqr sl).core.pmpOk (s.seqr sl).core.machine 2 a 2 then
    match seqPlace sl a 2 with
    | some (pl, o) => if pl.atomic then (s.seqRead sl pl).map fun r => (r.1 / 2 ^ (8 * o) % 65536, r.2) else none
    | none => none
  else none
/-- The state after a fetch that ended in an access fault, which is taken as a trap. -/
def State.fetchFault (s : State) (sl a : Nat) : State :=
  let s' := match seqPlace sl a 2 with
    | some (pl, _) => if pl.atomic ∧ (s.seqr sl).core.pmpOk (s.seqr sl).core.machine 2 a 2 then s.seqBad sl pl else s
    | none => s
  s'.seqTrap sl 1 (BitVec.ofNat 64 a)

/-- A load: misaligned and access faults trap (R86, R88). -/
def State.seqLoad (s : State) (sl len rd size : Nat) (unsigned : Bool) (addr : BitVec 64) : State :=
  let a := addr.toNat
  let c := (s.seqr sl).core
  let fault := s.seqTrap sl 5 addr
  if a % size ≠ 0 then s.seqTrap sl 4 addr
  else if ¬ c.pmpOk c.dataMachine 0 a size then fault
  else match seqPlace sl a size with
    | none => fault
    | some (pl, o) => match s.seqRead sl pl with
      | none => (s.seqBad sl pl).seqTrap sl 5 addr
      | some (v, s') =>
        let w := v / 2 ^ (8 * o) % 2 ^ (8 * size)
        s'.setCore sl ((c.setX rd (if unsigned then BitVec.ofNat 64 w else rvSx (8 * size) w)).past len).retire
/-- A store. -/
def State.seqStore (s : State) (sl len size : Nat) (addr v : BitVec 64) : State :=
  let a := addr.toNat
  let c := (s.seqr sl).core
  let fault := s.seqTrap sl 7 addr
  if a % size ≠ 0 then s.seqTrap sl 6 addr
  else if ¬ c.pmpOk c.dataMachine 1 a size then fault
  else match seqPlace sl a size with
    | none => fault
    | some (pl, o) => match s.seqWrite sl o size (v.toNat % 2 ^ (8 * size)) pl with
      | none => (s.seqBad sl pl).seqTrap sl 7 addr
      | some s' => s'.setCore sl ((s'.seqr sl).core.past len).retire
/-- LR, SC and the atomic operations: a misaligned one, and one outside local memory and the reserved area, traps (R86). -/
def State.seqAmo (s : State) (sl len f5 size rd : Nat) (addr v : BitVec 64) : State :=
  let a := addr.toNat
  let c := (s.seqr sl).core
  let lr := decide (f5 = 2)
  let fault := s.seqTrap sl (if lr then 5 else 7) addr
  let sx := fun (w : Nat) => rvSx (8 * size) w
  let done := fun (s : State) (c : SeqCore) (r : BitVec 64) => s.setCore sl ((c.setX rd r).past len).retire
  if a % size ≠ 0 then s.seqTrap sl (if lr then 4 else 6) addr
  else if ¬ ((f5 = 3 ∨ c.pmpOk c.dataMachine 0 a size) ∧ (lr ∨ c.pmpOk c.dataMachine 1 a size)) then fault
  else match seqPlace sl a size with
    | none => fault
    | some (pl, o) =>
      if ¬ pl.atomic then fault
      else if f5 = 3 then
        let free := { c with reserved := none }
        if c.reserved = some (a, size) then
          match s.seqWrite sl o size (v.toNat % 2 ^ (8 * size)) pl with
          | none => (s.seqBad sl pl).seqTrap sl 7 addr
          | some s' => done s' free 0
        else done s free 1
      else match s.seqRead sl pl with
        | none => (s.seqBad sl pl).seqTrap sl (if lr then 5 else 7) addr
        | some (w, s') =>
          let old := w / 2 ^ (8 * o) % 2 ^ (8 * size)
          if lr then done s' { c with reserved := some (a, size) } (sx old)
          else
            let new := if size = 4 then (rvAmo f5 (BitVec.ofNat 32 old) (v.setWidth 32)).map BitVec.toNat
              else (rvAmo f5 (BitVec.ofNat 64 old) v).map BitVec.toNat
            match s'.seqWrite sl o size (new.getD 0) pl with
            | none => (s'.seqBad sl pl).seqTrap sl 7 addr
            | some s'' => done s'' c (sx old)
/-- A CSR instruction: 1 writes, 2 sets and 3 clears bits; a CSR that is absent, closed to the mode or read-only and written is
an illegal instruction. -/
def State.seqCsrOp (s : State) (sl len w rd n how : Nat) (write : Bool) (v : BitVec 64) : State :=
  let c := (s.seqr sl).core
  match s.readCsr sl n with
  | some old =>
    if c.mayAccess n ∧ ¬ (write ∧ rvBits n 10 2 = 3) then
      let new := if how = 1 then v else if how = 2 then old ||| v else old &&& ~~~v
      let c := c.retire
      let s := s.setCore sl c
      let s := if write then s.writeCsr sl n new else s
      s.setCore sl (((s.seqr sl).core.setX rd old).past len)
    else s.seqTrap sl 2 (BitVec.ofNat 64 w)
  | none => s.seqTrap sl 2 (BitVec.ofNat 64 w)

/-- WFI: the core halts, unless a source is pending and enabled, and goes on behind it (R86, R430). -/
def State.seqWfi (s : State) (sl len : Nat) : State :=
  let e := s.evc sl
  let s := s.setCore sl ((s.seqr sl).core.past len).retire
  if e.sources.vals.any fun x => x.pending && x.enable then s else s.setEvc sl { e with wfi := true }
/-- An instruction of a length, from its word. -/
def State.seqExec (s : State) (sl w len : Nat) : State :=
  match (s.seqr sl).core.decode w len with
  | .core c => s.setCore sl c.retire
  | .trap cause tval => s.seqTrap sl cause tval
  | .load rd size u a => s.seqLoad sl len rd size u a
  | .store size a v => s.seqStore sl len size a v
  | .amo f5 size rd a v => s.seqAmo sl len f5 size rd a v
  | .csr rd n how write v => s.seqCsrOp sl len w rd n how write v
  | .wfi => s.seqWfi sl len

/-- A sequencer's core runs: out of HALT, not halted by WFI, with its clock (R440, R456). -/
def State.seqRuns (s : State) (sl : Nat) : Bool :=
  s.flag Reg.seqStsRunning sl && !(s.evc sl).wfi && decide (s.slicePower sl ≤ 1) && !s.quenched
/-- One instruction of a sequencer, or the trap that comes instead of it. -/
def State.seqInstr (s : State) (sl : Nat) : State :=
  let pc := (s.seqr sl).core.pc
  match s.fetchHalf sl pc.toNat with
  | none => s.fetchFault sl pc.toNat
  | some (h, s1) =>
    if h % 4 ≠ 3 then
      match rvExpand h with
      | some w => s1.seqExec sl w 2
      | none => s1.seqTrap sl 2 (BitVec.ofNat 64 h)
    else match s1.fetchHalf sl ((pc + 2).toNat) with
      | none => s1.fetchFault sl ((pc + 2).toNat)
      | some (g, s2) => s2.seqExec sl (g * 65536 + h) 4
/-- A nanosecond of a sequencer: an interrupt or one instruction (log entry 94). -/
def State.seqStep (s : State) (sl : Nat) : State :=
  if ¬ s.seqRuns sl then s
  else if s.seqInterrupt sl then s.setCore sl ((s.seqr sl).core.trap true 11 0)
  else s.seqInstr sl

/-- A nanosecond with no command: fabric time and the tick counts move on, TIME goes out at a stroke, launches that sxlaunch requested come, and each
sequencer that runs acts (R28, R87, R89, R331; log entries 3 and 94). -/
def State.tick (s : State) : State := (List.range 64).foldl (fun s sl => (s.launchDue sl).seqStep sl) s.idle.strokeTime

end Sys2Proof.Machine
end

