-- ==== Sys2Proof/Safety.lean ====
section
/-! DEFINITION. What counts as a safe run, in the terms that claims use: states in canonical form, steps that only add to
what has left the module, and the commands that may write HBM. -/

namespace Sys2Proof.Machine

/-- A state in canonical form: memory as `Memory.wf` says, and register fields listed by rising key. -/
def State.wf (s : State) : Bool := Memory.wf s.mem && s.regs.wf

/-- What every command keeps of what came before it: the waiting commands stay as they are, what has left the module is
never taken back, and free values are drawn in order. -/
structure Follows (s t : State) : Prop where
  pending : t.pending = s.pending
  out : s.out <+: t.out
  drawn : s.freeCtr ≤ t.freeCtr

/-- A step that stops the block. -/
def Stops (o : StepOut) : Prop := ∀ t, o ≠ .next t

/-- The commands that may change what HBM lines hold: the stores of streams and planish results, the copies and entries of
open queues, aperture and remote writes and answers, committed handoff data, unsealed packages, and the commands that start
the device anew with its HBM unpowered. Every other command leaves every line as it was. -/
def mayWriteHbm : Instr → Bool
  | .streamAccess .. | .descriptorEnd .. | .openEntryEnd .. | .grant .. => true
  | .apertureWrite .. | .readData .. | .writeData .. | .trailer .. | .pkgUnseal .. => true
  | .devStateDs0 .. | .wake .. | .pwrEnFall .. => true
  | _ => false

end Sys2Proof.Machine
end

