-- ==== Sys2Proof/Certificates/Slice0/Obligations.lean ====
section
/-! DEFINITION. The statements for the provers. Where a statement says what a command does, it names the state that the
command answers, so it says what stays as well: a shared operation of Machine/ changes what its own docstring says. -/

open Sys2Proof Sys2Proof.Machine

namespace Sys2Proof.Certificates

/-- Lane `l` of a vector register. -/
def laneAt (v : VReg) (l : Nat) : BitVec 32 := v.extractLsb' (32 * l) 32
/-- Lane `l` of vector register `r` of a tile. -/
def regLane (s : State) (t : TileRef) (r : BitVec 6) (l : Nat) : BitVec 32 :=
  laneAt ((s.tile t.slice.toNat t.tile.toNat).vregAt t.slice.toNat t.tile.toNat r.toNat) l
/-- Operand b of a LANE slot (R118): the immediate in every lane, or the lane of SB. -/
def bLane (s : State) (t : TileRef) (f : LaneSlot) (l : Nat) : BitVec 32 := if f.useImm then f.imm else regLane s t f.sb l
/-- Operand b of a BF16 slot: an immediate is the value of both elements of a lane (R118). -/
def bHalves (s : State) (t : TileRef) (f : LaneSlot) (l : Nat) : BitVec 32 :=
  if f.useImm then f.imm.setWidth 16 ++ f.imm.setWidth 16 else regLane s t f.sb l
/-- The register whose lane `l` holds `g l`. -/
def vector (g : Nat → Nat) : VReg := ofLanes ((List.range 512).map g)
/-- The tile stands at the issue of a bundle whose every slot is legal and finds its unit free (R101, R126, R129), the bundle's
word spells the operation in that slot, and the slot's command has not come yet. -/
abbrev AtSlot (s : State) (t : TileRef) (slot : Nat) (spelled : Nat → BitVec 256 → Bool) : Prop :=
  let x := s.tile t.slice.toNat t.tile.toNat
  s.atIssue t.slice.toNat t.tile.toNat = true ∧ x.breach (isGraver t.tile.toNat) = none ∧
    spelled t.tile.toNat x.word = true ∧ x.started.contains slot = false
/-- The lane slot of the bundle at issue on a graver tile has an opcode of R119 and the fields. -/
abbrev LaneAt (s : State) (t : TileRef) (f : LaneSlot) (op : Nat) : Prop := AtSlot s t 1 (spellsLane op f)
/-- The lane slot of the bundle at issue on a graver tile is a CVT of a code of R121 with the fields. -/
abbrev CvtAt (s : State) (t : TileRef) (f : LaneSlot) (code : Nat) : Prop := AtSlot s t 1 (spellsCvt code f)
/-- The transcendental slot of the bundle at issue on a graver tile has an opcode of R123 and the fields. -/
abbrev TransAt (s : State) (t : TileRef) (f : TransSlot) (op : Nat) : Prop := AtSlot s t 2 (spellsTrans op f)
/-- A LANE or TRANS operation in flight: it holds its unit for `issue` ticks, and its results and flags arrive so that an
operation that issues `latency` ticks after its last issue tick sees them (R84, R125); its slot's command has come. Nothing
else of the state changes. -/
def vecIssued (s : State) (t : TileRef) (slot issue latency : Nat) (writes : List (Nat × VReg)) (flags : VFlags) : State :=
  let sl := t.slice.toNat
  let ti := t.tile.toNat
  let x := s.tile sl ti
  s.setTile sl ti { x with
    ops := x.ops ++ [⟨slot, x.index, x.tick, issue, x.tick + (issue + latency - 1),
      .vec (x.tick + issue + latency - 2) writes flags.bits⟩]
    started := x.started ++ [slot] }
/-- An element-wise LANE operation in flight whose lane `l` is `g l`. -/
def laneIssued (s : State) (t : TileRef) (f : LaneSlot) (latency : Nat) (g : Nat → VOut) : State :=
  vecIssued s t 1 1 latency [(f.dst.toNat, vector fun l => (g l).1)] (flagsOf ((List.range 512).map g))
/-- An integer LANE operation in flight: no flag. -/
def intIssued (s : State) (t : TileRef) (f : LaneSlot) (g : Nat → BitVec 32) : State :=
  vecIssued s t 1 1 2 [(f.dst.toNat, vector fun l => (g l).toNat)] .zero
/-- All ones or all zeros. -/
def allOnes (b : Bool) : BitVec 32 := if b then 0xFFFFFFFF else 0

/-- The element of a BF16 lane: half 0 is the low half (R77). -/
def halfAt (v : BitVec 32) (h : Nat) : Nat := (v.extractLsb' (16 * h) 16).toNat
/-- A BF16 operation on both elements of a lane. -/
def halves (g : Nat → Nat → Nat → VOut) (a b c : BitVec 32) : VOut :=
  let lo := g (halfAt a 0) (halfAt b 0) (halfAt c 0)
  let hi := g (halfAt a 1) (halfAt b 1) (halfAt c 1)
  (lo.1 + 2 ^ 16 * hi.1, lo.2.or hi.2)

/-- The hub takes the next command of a pair's ring: it is released and the pair runs, an entry waits and a completion entry
is free, the layout is in order and no DMA that it names failed (R352, R356 to R358). -/
abbrev AdmTaken (s : State) (fm : Bool) (a : Adm) : Prop := s.canTake fm = true ∧ a.layoutOk = true ∧ a.dmaErr = false

/-- The descriptor of place `k` in the program of an engine starts for a partition: its results are computed from memory as it
stands, to become visible at END, with the engine active, its line and tick counters advanced and the ECC outcome noted; an
uncorrectable line among its operands faults the partition, and else the segment runs as far as it goes (R170, R186, R219). -/
def descStarted (s : State) (e p k : Nat) (g : SegRun) (d : Line) (ecc : ReadOutcome) : State :=
  let dpas := s.descReads d
  let r := (s.asRead [] dpas).descOut d
  let t := (s.noteLines [] dpas).setSeg p { g with descs := (e, k) :: g.descs }
  let t := (t.addMasked e r.2).set Reg.nmeStsActive e 1
  let t := (t.count (nmePage e) 1 (descLines d)).count (nmePage e) 2 (descTicks d (t.groupSize e p))
  let t := (t.setEngine e { t.engine e with running := (t.engine e).running.put p ⟨d, r.1⟩ }).engineEcc e p ecc
  match s.badLine [] dpas with
  | some x => t.faultPtn p Fc.memUe (.channel (dpaChannel x))
  | none => t.runSeg p

/-- A started open-queue entry leaves its queue with the line errors that its accesses met, and is counted (R172, R219). -/
def entryLeft (s : State) (e k : Nat) (errs : List LineError) : State :=
  let t := s.meetErrors errs
  let t := t.setEngine e { t.engine e with queue := (t.engine e).queue.drop k }
  (t.set Reg.nmeStsOpenBusy e (if (t.engine e).queue.vals.any OpenEntry.started then 1 else 0)).count (nmePage e) 3 1

/-- The results of an order or group entry none of whose lines is uncorrectable: written, counted and, for an order, sealed where
its region is (R172, R389, R471). -/
def entryWritten (s : State) (e : Nat) (o : OpenEntry) (errs : List LineError) : State :=
  let dpas := s.descReads o.desc
  let r := (s.asRead errs dpas).descOut o.desc
  let t := ((dpas ++ r.1.map Prod.fst).foldl (fun (s : State) d => s.touchChannel (dpaChannel d)) s).noteLines errs dpas
  let t := match o.origin with
    | .order _ => t.sealFrom (t.readDpas o.desc) (r.1.map Prod.fst)
    | _ => t
  ((t.writeLines r.1).addMasked e r.2).count (nmePage e) 1 (descLines o.desc)

/-- What a page's 31 counters show, held (R525). -/
def heldCounts (s : State) (p : Nat) (m : FMap Nat) : FMap Nat :=
  ((List.range 31).map fun n => (32 * p + n, s.shownCount p n)).foldl (fun m e => m.putD e.1 0 e.2) m

end Sys2Proof.Certificates

open Sys2Proof.Certificates

/-- Where the bundle at issue on a graver tile, all of whose slots are legal and find their units free, spells it with its
opcode of R119 (0x20 to 0x2A), an IADD, ISUB, IMUL, AND, OR, XOR, SHL, SHR, SRA, ICEQ or ICLT answers the state, at
that tick, with one more operation in flight: register DST receives in every lane the 32-bit function of lanes a and b
that R119 names (b from SB or the immediate), sets no flag, holds the lanes one tick and is visible two ticks later.
Nothing else changes. Rests on R119. -/
def Obligations.LaneIntegerOperations : Prop :=
  ∀ (s : State) (t : TileRef) (f : LaneSlot),
    let u := s.runSlice t.slice.toNat
    let a := regLane u t f.sa
    let b := bLane u t f
    (LaneAt u t f 0x20 → exec (.iadd t f) s = .next (intIssued u t f fun l => a l + b l)) ∧
    (LaneAt u t f 0x21 → exec (.isub t f) s = .next (intIssued u t f fun l => a l - b l)) ∧
    (LaneAt u t f 0x22 → exec (.imul t f) s = .next (intIssued u t f fun l => a l * b l)) ∧
    (LaneAt u t f 0x23 → exec (.and t f) s = .next (intIssued u t f fun l => a l &&& b l)) ∧
    (LaneAt u t f 0x24 → exec (.or t f) s = .next (intIssued u t f fun l => a l ||| b l)) ∧
    (LaneAt u t f 0x25 → exec (.xor t f) s = .next (intIssued u t f fun l => a l ^^^ b l)) ∧
    (LaneAt u t f 0x26 → exec (.shl t f) s = .next (intIssued u t f fun l => a l <<< ((b l).toNat % 32))) ∧
    (LaneAt u t f 0x27 → exec (.shr t f) s = .next (intIssued u t f fun l => a l >>> ((b l).toNat % 32))) ∧
    (LaneAt u t f 0x28 → exec (.sra t f) s = .next (intIssued u t f fun l => (a l).sshiftRight ((b l).toNat % 32))) ∧
    (LaneAt u t f 0x29 → exec (.iceq t f) s = .next (intIssued u t f fun l => allOnes (a l == b l))) ∧
    (LaneAt u t f 0x2A → exec (.iclt t f) s = .next (intIssued u t f fun l => allOnes ((a l).slt (b l))))

/-- Where the bundle at issue on a graver tile, all of whose slots are legal and find their units free, spells it with its
opcode of R119 (0x01 to 0x15), an FADD, FSUB, FMUL, FMIN, FMAX, FCEQ, FCLT, FCLE, FMA, SEL, HADD, HSUB, HMUL, HMIN,
HMAX or HFMA answers the state, at that tick, with one more operation in flight: lane l of DST receives the function
of lanes l of a, b and (FMA, SEL, HFMA) c that R119 names, BF16 forms on each of the two elements; its flags are those
of every lane together; it holds the lanes one tick and is visible four ticks later. Nothing else changes. Rests on
R119. -/
def Obligations.LaneFloatOperations : Prop :=
  ∀ (s : State) (t : TileRef) (f : LaneSlot),
    let u := s.runSlice t.slice.toNat
    let a := fun l => (regLane u t f.sa l).toNat
    let b := fun l => (bLane u t f l).toNat
    let c := fun l => (regLane u t f.sc l).toNat
    let half := fun (g : Nat → Nat → Nat → VOut) l => halves g (regLane u t f.sa l) (bHalves u t f l) (regLane u t f.sc l)
    (LaneAt u t f 0x01 → exec (.fadd t f) s = .next (laneIssued u t f 4 fun l => Fmt.fp32.add (a l) (b l))) ∧
    (LaneAt u t f 0x02 → exec (.fsub t f) s = .next (laneIssued u t f 4 fun l => Fmt.fp32.sub (a l) (b l))) ∧
    (LaneAt u t f 0x03 → exec (.fmul t f) s = .next (laneIssued u t f 4 fun l => Fmt.fp32.mul (a l) (b l))) ∧
    (LaneAt u t f 0x05 → exec (.fmin t f) s = .next (laneIssued u t f 4 fun l => Fmt.fp32.minimum (a l) (b l))) ∧
    (LaneAt u t f 0x06 → exec (.fmax t f) s = .next (laneIssued u t f 4 fun l => Fmt.fp32.maximum (a l) (b l))) ∧
    (LaneAt u t f 0x07 → exec (.fceq t f) s = .next (laneIssued u t f 4 fun l => fcompare (fun x y => decide (x = y)) (a l) (b l))) ∧
    (LaneAt u t f 0x08 → exec (.fclt t f) s = .next (laneIssued u t f 4 fun l => fcompare (fun x y => decide (x < y)) (a l) (b l))) ∧
    (LaneAt u t f 0x09 → exec (.fcle t f) s = .next (laneIssued u t f 4 fun l => fcompare (fun x y => decide (x ≤ y)) (a l) (b l))) ∧
    (LaneAt u t f 0x04 → exec (.fma t f) s = .next (laneIssued u t f 4 fun l => Fmt.fp32.fma (a l) (b l) (c l))) ∧
    (LaneAt u t f 0x0A → exec (.sel t f) s = .next (laneIssued u t f 4 fun l => (if c l ≠ 0 then a l else b l, .zero))) ∧
    (LaneAt u t f 0x10 → exec (.hadd t f) s = .next (laneIssued u t f 4 (half fun x y _ => Fmt.bf16.add x y))) ∧
    (LaneAt u t f 0x11 → exec (.hsub t f) s = .next (laneIssued u t f 4 (half fun x y _ => Fmt.bf16.sub x y))) ∧
    (LaneAt u t f 0x12 → exec (.hmul t f) s = .next (laneIssued u t f 4 (half fun x y _ => Fmt.bf16.mul x y))) ∧
    (LaneAt u t f 0x14 → exec (.hmin t f) s = .next (laneIssued u t f 4 (half fun x y _ => Fmt.bf16.minimum x y))) ∧
    (LaneAt u t f 0x15 → exec (.hmax t f) s = .next (laneIssued u t f 4 (half fun x y _ => Fmt.bf16.maximum x y))) ∧
    (LaneAt u t f 0x13 → exec (.hfma t f) s = .next (laneIssued u t f 4 (half fun x y z => Fmt.bf16.fma x y z)))

/-- Where the bundle at issue on a graver tile, all of whose slots are legal and find their units free, spells a CVT with
one of the twelve codes of R121, that conversion answers the state, at that tick, with one more operation in flight
(issue 1, latency 4). FP32 to INT32 and INT32 to FP32 convert lane by lane. A narrowing conversion packs the 512
results in the low bits of DST, zero above. A widening conversion takes element l of part IMM[31:8] of the packed
source to lane l. Flags are those of every element together. Nothing else changes. Rests on R121. -/
def Obligations.LaneConversions : Prop :=
  ∀ (s : State) (t : TileRef) (f : LaneSlot),
    let u := s.runSlice t.slice.toNat
    let a := fun l => (regLane u t f.sa l).toNat
    let src := ((u.tile t.slice.toNat t.tile.toNat).vregAt t.slice.toNat t.tile.toNat f.sa.toNat).toNat
    let part := f.imm.toNat / 256
    let narrowed := fun (w : Nat) (g : Nat → VOut) =>
      let r := (List.range 512).map fun l => g (a l)
      vecIssued u t 1 1 4 [(f.dst.toNat, BitVec.ofNat 16384 (packAll w (r.map Prod.fst)))] (flagsOf r)
    let widened := fun (w : Nat) (g : Nat → VOut) =>
      laneIssued u t f 4 fun l => g (packedAt src w (512 * part + l))
    let toInts := fun w x => ((toInt w (Fmt.fp32.decode x)).1, VFlags.invalid (toInt w (Fmt.fp32.decode x)).2)
    (CvtAt u t f 0x00 → exec (.cvtFp32ToInt32 t f) s = .next (laneIssued u t f 4 fun l => toInts 32 (a l))) ∧
    (CvtAt u t f 0x01 →
      exec (.cvtInt32ToFp32 t f) s = .next (laneIssued u t f 4 fun l => (Fmt.fp32.ofInt (regLane u t f.sa l).toInt, .zero))) ∧
    (CvtAt u t f 0x02 → exec (.cvtFp32ToBf16 t f) s = .next (narrowed 16 (narrowLane .bf16 f.sat))) ∧
    (CvtAt u t f 0x03 → exec (.cvtBf16ToFp32 t f) s = .next (widened 16 (widenLane .bf16))) ∧
    (CvtAt u t f 0x04 → exec (.cvtFp32ToFp16 t f) s = .next (narrowed 16 (narrowLane .fp16 f.sat))) ∧
    (CvtAt u t f 0x05 → exec (.cvtFp16ToFp32 t f) s = .next (widened 16 (widenLane .fp16))) ∧
    (CvtAt u t f 0x06 → exec (.cvtFp32ToE4m3 t f) s = .next (narrowed 8 (narrowLane .e4m3 f.sat))) ∧
    (CvtAt u t f 0x07 → exec (.cvtE4m3ToFp32 t f) s = .next (widened 8 (widenLane .e4m3))) ∧
    (CvtAt u t f 0x08 → exec (.cvtFp32ToE5m2 t f) s = .next (narrowed 8 (narrowLane .e5m2 f.sat))) ∧
    (CvtAt u t f 0x09 → exec (.cvtE5m2ToFp32 t f) s = .next (widened 8 (widenLane .e5m2))) ∧
    (CvtAt u t f 0x0A → exec (.cvtFp32ToInt8 t f) s = .next (narrowed 8 (toInts 8))) ∧
    (CvtAt u t f 0x0B →
      exec (.cvtInt8ToFp32 t f) s = .next (widened 8 fun x => (Fmt.fp32.ofInt (BitVec.ofNat 8 x).toInt, .zero)))

/-- Where the bundle at issue on a graver tile, all of whose slots are legal and find their units free, spells it with its
opcode of R119 or R123: PERM takes lane b[l][8:0] of a to lane l; BCAST takes lane IMM[8:0] to every lane; RSUM, RMAX
and RMIN reduce a in nine levels and put the result in every lane (latency 12); MXQ quantises 16 blocks of 32 lanes,
elements to DST and scales to SC (issue 2, latency 8); EXP, LOG, RCP, RSQRT, SIGMOID, TANH and SILU apply their
function to every lane (issue 4, latency 16). Each answers the state, at that tick, with exactly that operation in
flight. Rests on R81, R83, R119, R122. -/
def Obligations.LaneShufflesReductionsAndTrans : Prop :=
  ∀ (s : State) (t : TileRef),
    let u := s.runSlice t.slice.toNat
    let reg := fun (r : BitVec 6) => (u.tile t.slice.toNat t.tile.toNat).vregAt t.slice.toNat t.tile.toNat r.toNat
    (∀ f : LaneSlot,
      let reduced := fun (g : Nat → Nat → VOut) =>
        let r := reduceLevels g 9 (lanesOf (reg f.sa))
        vecIssued u t 1 1 12 [(f.dst.toNat, vector fun _ => r.1.headD 0)] r.2
      (LaneAt u t f 0x31 → exec (.perm t f) s = .next (vecIssued u t 1 1 4
        [(f.dst.toNat, vector fun l => (regLane u t f.sa ((regLane u t f.sb l).toNat % 512)).toNat)] .zero)) ∧
      (LaneAt u t f 0x32 → exec (.bcast t f) s = .next (vecIssued u t 1 1 4
        [(f.dst.toNat, vector fun _ => (regLane u t f.sa f.imm.toNat).toNat)] .zero)) ∧
      (LaneAt u t f 0x38 → exec (.rsum t f) s = .next (reduced fun a b => Fmt.fp32.add a b)) ∧
      (LaneAt u t f 0x39 → exec (.rmax t f) s = .next (reduced fun a b => Fmt.fp32.maximum a b)) ∧
      (LaneAt u t f 0x3A → exec (.rmin t f) s = .next (reduced fun a b => Fmt.fp32.minimum a b)) ∧
      (LaneAt u t f 0x3C → exec (.mxq t f) s = .next (
        let fm := (fmtOfCode f.imm.toNat).getD .e2m1
        let blocks := (List.range 16).map fun b => mxBlock f.imm.toNat fm (((lanesOf (reg f.sa)).drop (32 * b)).take 32)
        vecIssued u t 1 2 8
          [(f.dst.toNat, BitVec.ofNat 16384 (packAll (codeBits f.imm.toNat) (blocks.flatMap Prod.snd))),
            (f.sc.toNat, BitVec.ofNat 16384 (packAll 8 (blocks.map Prod.fst)))] .zero))) ∧
    (∀ f : TransSlot,
      let applied := fun (g : Nat → VOut) =>
        let r := (List.range 512).map fun l => g (regLane u t f.src l).toNat
        vecIssued u t 2 4 16 [(f.dst.toNat, ofLanes (r.map Prod.fst))] (flagsOf r)
      (TransAt u t f 1 → exec (.exp t f) s = .next (applied vexp)) ∧
      (TransAt u t f 2 → exec (.log t f) s = .next (applied vlog)) ∧
      (TransAt u t f 3 → exec (.rcp t f) s = .next (applied vrcp)) ∧
      (TransAt u t f 4 → exec (.rsqrt t f) s = .next (applied vrsqrt)) ∧
      (TransAt u t f 5 → exec (.sigmoid t f) s = .next (applied vsigmoid)) ∧
      (TransAt u t f 6 → exec (.tanh t f) s = .next (applied vtanh)) ∧
      (TransAt u t f 7 → exec (.silu t f) s = .next (applied vsilu)))

/-- Where a bundle stands at issue on a tile, its slots are legal and find their units free, and every other slot's
operation has come: the NOP, SETAR, LOOP or END that its word spells closes it, and the segment then runs as far as it
goes. SETAR names its register, VALUE and STRIDE; LOOP a loop of 2 × (HALF_LEN + 1) bundles and COUNT iterations, and
nothing where its bundle was reached by its own loop's return; END that no bundle follows. At the end of the issue
tick the next bundle is set WAIT + 1 ticks on, an address register that SETAR names holds VALUE and STRIDE, and after
END the tile issues no more. A bundle with an illegal slot, or one whose unit is busy, is aborted instead with that
slot and cause, whichever of its commands comes. Rests on R103, R104, R105. -/
def Obligations.TileControlSlots : Prop :=
  ∀ (s : State) (t : TileRef), let sl := t.slice.toNat; let ti := t.tile.toNat
    let u := s.runSlice sl
    let x := u.tile sl ti
    let closed := fun (c : TileCtl) => (u.setTile sl ti { x with ctl := some c }).runSlice sl
    (u.atIssue sl ti = true → x.breach (isGraver ti) = none →
      (Machine.slotsOf (isGraver ti) x.word).all x.started.contains = true →
      (∀ wait bits, spellsNop wait x.word = true →
        exec (.nop t wait bits) s = .next (closed ⟨wait.toNat, none, none, false, bits⟩)) ∧
      (∀ wait ar value stride zero bits, spellsSetar wait ar value stride zero x.word = true →
        exec (.setar t wait ar value stride zero bits) s =
          .next (closed ⟨wait.toNat, some (ar.toNat, ⟨value.toNat, stride.toNat⟩), none, false, bits⟩)) ∧
      (∀ wait count halfLen zero bits, spellsLoop wait count halfLen zero x.word = true →
        exec (.loop t wait count halfLen zero bits) s = .next (closed ⟨wait.toNat, none,
          if x.returned then none else some ⟨x.index, 2 * (halfLen.toNat + 1), count.toNat⟩, false, bits⟩)) ∧
      (∀ wait bits, spellsEnd wait x.word = true →
        exec (.tileEnd t wait bits) s = .next (closed ⟨wait.toNat, none, none, true, bits⟩))) ∧
    (∀ k cause, u.atIssue sl ti = true → x.breach (isGraver ti) = some (k, cause) →
      (∀ wait bits, exec (.nop t wait bits) s = .next (u.bundleAbort sl ti k cause)) ∧
      (∀ wait ar value stride zero bits,
        exec (.setar t wait ar value stride zero bits) s = .next (u.bundleAbort sl ti k cause)) ∧
      (∀ wait count halfLen zero bits,
        exec (.loop t wait count halfLen zero bits) s = .next (u.bundleAbort sl ti k cause)) ∧
      (∀ wait bits, exec (.tileEnd t wait bits) s = .next (u.bundleAbort sl ti k cause))) ∧
    (∀ (y : Tile) (c : TileCtl), (y.advance c).tick = y.tick + c.wait + 1 ∧ (y.advance c).ended = c.last ∧
      ∀ n r, c.setar = some (n, r) → n < y.ars.length → (y.advance c).ar n = r)

/-- Where the bundle at issue on a tile, all of whose slots are legal and find their units free, spells it: an MMA whose
operand group matches its bank's mode, a CLEAR, a LOAD, a STORE whose format suits its bank's mode, a TO_CS or FROM_CS
inside the cluster store, an LD and an ST each answer the state, at that tick, with that operation in flight, with the
issue ticks and the completion of R111, R115, R117 and R124, its operands at the lines that the named address
registers hold, and those with POST set noted for the end of the bundle. A mode mismatch or a cluster-store line
beyond the last keeps the operation from being performed, is recorded, and faults the partition when its tick has run.
Rests on R111, R115, R117, R124. -/
def Obligations.TileMatrixTransferAndLoadStoreSlots : Prop :=
  ∀ (s : State) (t : TileRef), let sl := t.slice.toNat; let ti := t.tile.toNat
    let u := s.runSlice sl
    let x := u.tile sl ti
    (∀ f : MmaSlot, AtSlot u t 1 (spellsMma f) →
      exec (.mma t f) s = .next (if x.intMode.contains f.bank.toNat = decide (f.fmtA = 8) then
        u.startOp sl ti 1 (mmaTicks f) (mmaTicks f + 5)
          (.mma f (x.ar f.arA.toNat).value (x.ar f.arB.toNat).value .empty .empty)
          (postIf f.postA f.arA ++ postIf f.postB f.arB)
      else u.operationAbort sl ti 1 Bf.modeMismatch)) ∧
    (∀ f : AccSlot,
      (AtSlot u t 2 (spellsAcc 1 f) →
        exec (.clear t f) s = .next (u.startOp sl ti 2 1 1 (.clear f.bank.toNat (decide (f.fmt = 9))) [])) ∧
      (AtSlot u t 2 (spellsAcc 2 f) →
        exec (.load t f) s = .next (u.startOp sl ti 2 (accTicks f.fmt.toNat) (accTicks f.fmt.toNat + 7)
          (.load f.bank.toNat f.fmt.toNat (x.ar f.ar.toNat).value .empty) (postIf f.post f.ar))) ∧
      (AtSlot u t 2 (spellsAcc 3 f) →
        exec (.store t f) s = .next (if storeSuits (x.intMode.contains f.bank.toNat) f.fmt.toNat then
          u.startOp sl ti 2 (accTicks f.fmt.toNat) (accTicks f.fmt.toNat + 7)
            (.store f.bank.toNat f.fmt.toNat f.sat (x.ar f.ar.toNat).value .empty) (postIf f.post f.ar)
        else u.operationAbort sl ti 2 Bf.modeMismatch))) ∧
    (∀ f : XferSlot,
      let first := (x.ar f.arC.toNat).value
      let tile := (x.ar f.arT.toNat).value / 4 * 4
      let posts := postIf f.postT f.arT ++ postIf f.postC f.arC
      (AtSlot u t (xferSlot ti) (fun _ b => spellsXfer 1 f b) →
        exec (.toCs t f) s = .next (if first + f.len.toNat ≤ 98304 then
          u.startOp sl ti (xferSlot ti) f.len.toNat (f.len.toNat + 7) (.toCs tile first f.len.toNat .empty) posts
        else u.operationAbort sl ti (xferSlot ti) Bf.addrRange)) ∧
      (AtSlot u t (xferSlot ti) (fun _ b => spellsXfer 2 f b) →
        exec (.fromCs t f) s = .next (if first + f.len.toNat ≤ 98304 then
          u.startOp sl ti (xferSlot ti) f.len.toNat (f.len.toNat + 7) (.fromCs tile first f.len.toNat .empty) posts
        else u.operationAbort sl ti (xferSlot ti) Bf.addrRange))) ∧
    (∀ f : LdstSlot,
      (AtSlot u t 3 (spellsLdst 1 f) → exec (.ld t f) s =
        .next (u.startOp sl ti 3 2 7 (.ld f.reg.toNat (x.ar f.ar.toNat).value .empty) (postIf f.post f.ar))) ∧
      (AtSlot u t 3 (spellsLdst 2 f) → exec (.st t f) s =
        .next (u.startOp sl ti 3 2 7 (.st (x.ar f.ar.toNat).value (x.vregAt sl ti f.reg.toNat)) (postIf f.post f.ar))))

/-- For partition p: a waiting command at the head of its line launches at a seam where work may start, with a load
segment where its instance is not resident and the stored entries it uses held, and enters its translation phase (a
SIGNAL runs at once; an alloy command has no launch time before T_s); an alloy command launches at T_s with its phase
finished; a WALK finds its page or breach, or, for an uncorrectable table line, sets TABLE_UE on the die of its walker
and faults the partition; one whose chain has a breach ends the command; one whose chain is translated only pins what
is used; the end of the phase launches the translated command unless it is an alloy's; the end of a LOAD segment, with
nothing of it left to run, makes the instance resident and launches the command's own segment; a direct launch starts
at a seam. Rests on R43, R44, R247, R254, R285, R393. -/
def Obligations.CommandLaunchAndTranslation : Prop :=
  ∀ (s : State) (p : PtnNo), let q := p.toNat
    (∀ c, s.headCmd q = some c → c.phase = .waiting → s.atSeam q = true → s.mayStart q = true →
      let c := s.asLaunched q c
      let t := (s.startHead q).holdStored c
      exec (.commandLaunch p) s = .next (t.setHead q { c with
        launch := if c.op = 2 then none else some t.now
        phase := if c.op = 3 then .running else .translating })) ∧
    (∀ c ts, s.headCmd q = some c → c.tStart = some ts → c.phase = .translating →
      let t := s.atLeast ts
      exec (.alloyLaunchInstant p) s =
        .next (((t.setHead q { c with launch := some t.now, phase := .translating }).finishPhase q).launchTranslated q)) ∧
    (∀ c ts, s.headCmd q = some c → c.tStart = some ts → c.phase = .waiting → s.atSeam q = true → s.mayStart q = true →
      let c := (s.atLeast ts).asLaunched q c
      let t := ((s.atLeast ts).startHead q).holdStored c
      exec (.alloyLaunchInstant p) s =
        .next (((t.setHead q { c with launch := some t.now, phase := .translating }).finishPhase q).launchTranslated q)) ∧
    (∀ c chain ue, s.translating q = some c →
      let w := s.pinHits q c
      (∀ pc va, (w.chainNeed q c chain.toNat).next = .walk pc va →
        exec (.walk p chain ue) s = .next (w.walkPiece q c (w.walkerDie q c chain.toNat pc) ue pc va)) ∧
      (∀ st va, (w.chainNeed q c chain.toNat).next = .stop st va → exec (.walk p chain ue) s = .next (w.phaseBreach q c st va)) ∧
      ((w.chainNeed q c chain.toNat).next = .done → exec (.walk p chain ue) s = .next w)) ∧
    (∀ (c : Cmd) (die : Nat) (pc : Piece) (va : Nat), s.walkBad [] q va = none →
      s.walkPiece q c die true pc va = (s.raise Reg.xltwStsTableUe die).faultPtn q Fc.tableUe (.inSlice 15 pc.slice)) ∧
    (∀ c, s.translating q = some c →
      exec (.translationPhaseEnd p) s = .next (if c.op = 2 then s.finishPhase q else (s.finishPhase q).launchTranslated q)) ∧
    (∀ c im, let t := s.runSeg q
      t.headCmd q = some c → c.phase = .loading → t.segIdle q = true → t.host.images.find c.image = some im →
      exec (.loadSegmentEnd p) s =
        .next (((t.setLine q { t.line q with resident := some c.inst }).setHead q { c with phase := .running }).launchSegment
          q c.image im c.segment c.args)) ∧
    (∀ it rest i k d, (s.line q).items = it :: rest → it.kind = .direct i k d → s.atSeam q = true → s.mayStart q = true →
      exec (.directLaunch p) s = .next (s.startHead q))

/-- For partition p: a command whose run is done, with the ticks that its segment can run all run, commits; an alloy
member's part is held, its units idle, and its COMMIT joins the tree, which at the lead commits the alloy;
PACED_RELEASE takes time to the first held command's T_promise and releases every held command whose instant has come;
PROMISE_OVERRUN takes time to the least T_promise that stands plus GRACE, raises the QMG event and faults the
partition; an item that is not a command and outlasts its duration plus GRACE faults it too; the end of a started item
ends it and, where it leaves the line, seam effects follow; a seam finishes the kills that wait, ends a hold, empties
the queues, has its effects and then counts the bit errors that the drain met on its own tiles, and with none and
nothing running has its effects. Rests on R34, R45, R46, R48, R165, R483. -/
def Obligations.CommitReleaseOverrunAndSeam : Prop :=
  ∀ (s : State) (p : PtnNo), let q := p.toNat
    (∀ c, let t := s.runSeg q
      t.headCmd q = some c → t.runDone q c = true → c.op ≠ 2 → exec (.internalCommit p) s = .next (t.commitHead q)) ∧
    (∀ c, let u := s.runSeg q
      u.headCmd q = some c → u.runDone q c = true → c.op = 2 →
      let t := (u.setHead q { c with phase := .held }).idleUnits q
      let r := t.arrive (t.get Reg.ptnpAlloyAlloyId q) 0x11 c.cmdSeq 0 8
      exec (.internalCommit p) s = .next (if r.1 then r.2.alloyCommit q c.cmdSeq else r.2)) ∧
    (∀ c rest, (s.line q).held = c :: rest →
      let t := s.atLeast c.tPromise
      let l := t.line q
      exec (.pacedRelease p) s = .next ((l.held.filter fun c => decide (c.tPromise ≤ t.now)).foldl (fun s c => s.release q c)
        (t.setLine q { l with held := l.held.filter fun c => decide (¬ c.tPromise ≤ t.now) }))) ∧
    (∀ x rest, ((s.line q).cmds.filter fun c => c.voided.isNone && !c.withdrawn && !c.remote).map Cmd.tPromise = x :: rest →
      exec (.promiseOverrun p) s =
        .next (((s.atLeast (rest.foldl min x + s.graceNs)).event qmgPage 3).faultPtn q Fc.overrun .none)) ∧
    (∀ it t, s.headItem q = some it → it.started = some t → it.cmd = none → it.isDebug = false →
      exec (.lineItemOverrun p) s = .next ((s.atLeast (t + it.duration + s.graceNs)).faultPtn q Fc.overrun .none)) ∧
    (∀ it t, s.headItem q = some it → it.started = some t →
      let e := s.endItem q it t
      exec (.lineItemEnd p) s = .next (if (e.line q).items.length < (s.line q).items.length then e.seamEffects q else e)) ∧
    ((s.line q).killed ≠ [] →
      let e := (((s.finishKills q).endHold q).emptyQueues q).seamEffects q
      ∀ bits : List (TileRef × BitErrors), exec (.seam ⟨p, bits⟩) s =
        .next ((bits.filter fun b => (e.slicesOf q).contains b.1.slice.toNat).foldl (fun s b =>
          s.bitErrors b.1.slice.toNat b.1.tile.toNat b.2) e)) ∧
    ((s.line q).killed = [] → (∀ it rest, (s.line q).items = it :: rest → it.started = none) →
      ∀ bits, exec (.seam ⟨p, bits⟩) s = .next (s.seamEffects q))

/-- Where the item at the head of partition p's line may start (a seam, no quench, not started): a bind item installs its
image's hop entries; an unbind item only starts; a translation update writes its records and invalidates what they
cover; a re-binding item takes steps 1 and 2, and once started, outside a quench, takes its next step; a park item
puts every slice in its state and sets PARKED; a wake item returns every slice to SP0 and clears PARKED; a debug item
sets DBG_ITEM and completes its command; a leave item fixes T_l one launch delay ahead, enters LEAVING and sends LEAVE
down the tree. Rests on R133, R240, R270, R281, R442, R443, R475, R553. -/
def Obligations.LineItemsStart : Prop :=
  ∀ (s : State) (p : PtnNo) (it : Item), let q := p.toNat
    s.headItem q = some it →
    (s.itemReady q = true →
      (∀ k a im, it.kind = .bind k a → s.host.images.find k = some im →
        exec (.bindItem p) s = .next ((s.startHead q).installHops im)) ∧
      (∀ k a, it.kind = .unbind k a → exec (.unbindItem p) s = .next (s.startHead q)) ∧
      (∀ rec a, it.kind = .update rec a → exec (.translationUpdate p) s = .next ((s.startHead q).applyUpdate q [rec])) ∧
      (∀ profile slices sets plan a, it.kind = .reshape profile slices sets plan a → it.started = none →
        ∀ errs, exec (.rebindingItem p errs) s = .next ((((s.meetErrors errs).startHead q).rebindStart q slices sets).setStep q 2)) ∧
      (∀ st a, it.kind = .park st a → exec (.parkItem p) s =
        .next (((s.slicesOf q).foldl (fun s sl => s.setSlicePower sl st) (s.startHead q)).raise Reg.ptnpPwrParked q)) ∧
      (∀ a, it.kind = .wake a → exec (.wakeItem p) s =
        .next (((s.slicesOf q).foldl (fun s sl => s.setSlicePower sl 0) (s.startHead q)).set Reg.ptnpPwrParked q 0)) ∧
      (∀ a, it.kind = .debug a → exec (.debugItem p) s =
        .next (((s.startHead q).raise Reg.ptnpSecDbgItem q).complete false a St.success)) ∧
      (∀ leaving tl a tr, it.kind = .leave leaving tl a →
        let t := s.now + (s.member q).launchNs
        let alloy := s.get Reg.ptnpAlloyAlloyId q
        let u := (s.startHead q).setMstate q Ms.leaving
        let v := u.setMember q { u.member q with tLeave := some t, leaving := leaving }
        v.tree alloy = some tr →
        exec (.leaveItem p) s = .next (v.sendMask tr.down 0x1A (v.line q).cmdSeq alloy
          (BitVec.ofNat 64 (t % 2 ^ 40 * 2 ^ 24 + leaving.length % 2 ^ 14))))) ∧
    (∀ profile slices sets plan a, it.kind = .reshape profile slices sets plan a → it.started ≠ none → s.quenched = false →
      ∀ errs, exec (.rebindingItem p errs) s = .next ((s.meetErrors errs).rebindStep q it))

/-- TICK_SOURCE completes at once where the source is in force; else it begins a switch unless one runs or fabric lock has
no usable parent. Standby PLL lock sets STANDBY_LOCKED and, for an ordered switch, puts an item on the line of every
partition, promised to end 1,463 ns after the latest T_queue_free. Once every line stands at its item the tick stops
at T_sw, with a refresh round counted of every channel not in self-refresh; a switch to fabric lock without a usable
parent is dropped there instead, its order refused ADM_STATE. Restart comes no earlier than T_sw + 1,463 ns, counts
another refresh round, adds 1,024 to each die's count, begins the frames anew, sets TICK_SOURCE, ends the switch and
completes the order. A CHILD on the local reference begins a switch by itself once its parent is usable. Rests on
R337, R438, R439. -/
def Obligations.TickSourceSwitch : Prop :=
  ∀ (s : State),
    (∀ a, AdmTaken s false a → let t := s.takeAdm false
      (t.flag Reg.clkTickSource 0 = false →
        exec (.tickSourceLocal a) s = .next (t.complete false a St.success) ∧
        exec (.tickSourceFabric a) s = .next (if t.parentUsable = true ∧ t.plant.clock.switch = none then
          t.beginSwitch true (some a) else t.complete false a St.admState)) ∧
      (t.flag Reg.clkTickSource 0 = true →
        exec (.tickSourceFabric a) s = .next (t.complete false a St.success) ∧
        exec (.tickSourceLocal a) s = .next (if t.plant.clock.switch = none then
          t.beginSwitch false (some a) else t.complete false a St.admState))) ∧
    (∀ w a, s.plant.clock.switch = some w → w.placed = false → w.adm = some a →
      let t := s.raise Reg.clkTickStandbyLocked 0
      let ps := (List.range 64).filter fun p => decide (t.ptnState p ≠ ptnFree)
      let free := ps.foldl (fun n p => max n ((t.line p).queueFree t.now)) t.now
      exec .standbyPllLock s = .next (ps.foldl (fun s p => s.setLine p { s.line p with
        items := (s.line p).items ++ [⟨.tickSwitch w.fabric none, s.now, 1463, free + 1463, none, 0⟩] })
        (t.onClock fun c => { c with switch := some { w with placed := true, tx := free } }))) ∧
    (∀ w, s.plant.clock.switch = some w → w.placed = true → w.tsw = none → s.quenched = false →
      (s.switchLines.all fun p => s.itemReady p && ((s.headItem p).map Item.isSwitch).getD false) = true →
      (w.fabric = true → s.parentUsable = true) →
      let u := (s.switchLines.foldl (fun s p => s.startHead p) s).refreshAll
      exec .tickSwitchItem s =
        .next (u.onClock fun c => { c with stopped := true, switch := some { w with tsw := some u.now } })) ∧
    (∀ w, s.plant.clock.switch = some w → w.placed = true → w.tsw = none → s.quenched = false →
      (s.switchLines.all fun p => s.itemReady p && ((s.headItem p).map Item.isSwitch).getD false) = true →
      w.fabric = true → s.parentUsable = false →
      exec .tickSwitchItem s = .next (s.dropSwitch.completeSome w.adm St.admState)) ∧
    (∀ w t0, s.plant.clock.switch = some w → w.tsw = some t0 →
      let t := (s.atLeast (t0 + 1463)).refreshAll
      let u := (List.range 4).foldl (fun s d => s.set Reg.dieTickTick d (s.get Reg.dieTickTick d + 1024)) t
      let v := ((u.onClock fun c => { c with stopped := u.quenched, frac := 0 }).restartFrames).dropSwitch
      exec .tickRestart s = .next (((v.set Reg.clkTickSource 0 (if w.fabric then 1 else 0)).afterSwitch w.fabric).completeSome
        w.adm St.success)) ∧
    (s.released = true → s.flag Reg.clkTickSource 0 = false → s.plant.clock.switch = none → s.parentUsable = true →
      s.get Reg.ftmStsLstate 0 = Ts.unlocked → exec .autoTickSwitch s = .next (s.beginSwitch true none))

/-- For a descriptor of place k in the running segment's program for an engine that runs none of the partition's, whose
START has come while the ticks run: ATTN, MATVEC, GATHER, SCATTER, TOPK, SUM, MAX, MIN, MERGE, COPY and FILL, for a
descriptor of that operation (and mode), answer the state in which its results are computed from memory as it stands
and held by the engine, which is active, with its counters advanced and the ECC outcome noted, and the partition
faulted where a line that it reads is uncorrectable. A row whose operation is not the descriptor's changes nothing.
DESCRIPTOR_END, once END has come, writes the held results to memory, ends the descriptor, counts it, clears ACTIVE
where no other runs and lets the segment go on. Rests on R186, R189, R190, R191, R192, R193, R194. -/
def Obligations.PlanishDescriptorsStartAndEnd : Prop :=
  ∀ (s : State) (e : BitVec 5) (p : PtnNo) (d : Line) (ecc : ReadOutcome),
    let u := s.runSeg p.toNat
    (∀ g k, u.seg p.toNat = some g → u.progPlace e.toNat p.toNat d = some k → u.ticking p.toNat = true →
      (u.engine e.toNat).running.has p.toNat = false →
      let t := descStarted u e.toNat p.toNat k g d ecc
      (exec (.attn e p d ecc) s = .next (if descOp d = 1 then t else u)) ∧
      (exec (.matvec e p d ecc) s = .next (if descOp d = 2 then t else u)) ∧
      (exec (.gather e p d ecc) s = .next (if descOp d = 3 then t else u)) ∧
      (exec (.scatter e p d ecc) s = .next (if descOp d = 4 then t else u)) ∧
      (exec (.topk e p d ecc) s = .next (if descOp d = 5 then t else u)) ∧
      (exec (.sum e p d ecc) s = .next (if descOp d = 6 ∧ rdMode d = 0 then t else u)) ∧
      (exec (.max e p d ecc) s = .next (if descOp d = 6 ∧ rdMode d = 1 then t else u)) ∧
      (exec (.min e p d ecc) s = .next (if descOp d = 6 ∧ rdMode d = 2 then t else u)) ∧
      (exec (.merge e p d ecc) s = .next (if descOp d = 6 ∧ rdMode d = 3 then t else u)) ∧
      (exec (.copy e p d ecc) s = .next (if descOp d = 7 then t else u)) ∧
      (exec (.fill e p d ecc) s = .next (if descOp d = 8 then t else u))) ∧
    (∀ r g, (u.engine e.toNat).running.find p.toNat = some r → u.seg p.toNat = some g → descEnd r.desc ≤ g.tick →
      u.ticking p.toNat = true →
      let t := u.writeLines r.results
      let left := (u.engine e.toNat).running.drop p.toNat
      exec (.descriptorEnd e p) s = .next ((((t.setEngine e.toNat { u.engine e.toNat with running := left }).set
        Reg.nmeStsActive e.toNat (if left.entries = [] then 0 else 1)).count (nmePage e.toNat) 0 1).runSeg p.toNat))

/-- An open-queue entry that is the first of its partition, within its share of the engine and not under quench starts,
OPEN_BUSY is set and its ECC outcome noted. A started entry ends with the line errors that its accesses met: it leaves
the queue and is counted; an order's or a group's results are written, and the order completes or the group ends,
where no line of it is uncorrectable, and else the order is refused ADM_STATE and the partition faults MEM_UE naming
the line's channel; an overwrite fills the slice's channels of the engine and a copy of a seam ends its move; its
regions are used once less, and the regulator may place the next. ALLOC takes the block that the heap's rule places,
FREE notes a held block once, an OPEN_GROUP_START whose START tick has come notes the group as issued and issues its
copy or order, OPEN_GROUP_NEED at its tick holds the line, and GRANT serves the channel, the port or the engine queue
that it names. Rests on R195, R383, R409, R412, R413, R414. -/
def Obligations.OpenQueueRows : Prop :=
  ∀ (s : State),
    (∀ (e : BitVec 5) (k : BitVec 6) o, (s.engine e.toNat).queue.find k.toNat = some o →
      (∀ ecc, o.started = false →
        ((s.engine e.toNat).queue.vals.all fun q => decide (q.ptn ≠ o.ptn) || q.started || decide (o.arrival ≤ q.arrival)) = true →
        withinShare 16 (s.groupsOn e.toNat) o.ptn s.reservedBuf (s.engine e.toNat).bufOf = true → s.quenched = false →
        exec (.openEntryStart e ⟨k, ecc⟩) s = .next (((s.setEngine e.toNat { s.engine e.toNat with
          queue := (s.engine e.toNat).queue.put k.toNat { o with started := true } }).set Reg.nmeStsOpenBusy e.toNat 1).engineEcc
            e.toNat o.ptn ecc)) ∧
      (o.started = true → ∀ errs,
        let t := entryLeft s e.toNat k.toNat errs
        let dpas := t.descReads o.desc
        let done := fun (v : State) => Host.Outcome.next ((v.unuseRegions o.desc).grantQueue e.toNat)
        (∀ a, o.origin = .order a → t.badLine errs dpas = none →
          exec (.openEntryEnd e k errs) s = done ((entryWritten t e.toNat o errs).complete false a St.success)) ∧
        (∀ seq g, o.origin = .group seq g → t.badLine errs dpas = none →
          exec (.openEntryEnd e k errs) s = done ((entryWritten t e.toNat o errs).endGroup o.ptn seq g)) ∧
        (∀ a x, o.origin = .order a → t.badLine errs dpas = some x →
          let r := (t.asRead errs dpas).descOut o.desc
          let v := ((dpas ++ r.1.map Prod.fst).foldl (fun (s : State) d => s.touchChannel (dpaChannel d)) t).noteLines errs dpas
          exec (.openEntryEnd e k errs) s =
            done ((v.complete false a St.admState).faultPtn o.ptn Fc.memUe (.channel (dpaChannel x)))) ∧
        (∀ seq g x, o.origin = .group seq g → t.badLine errs dpas = some x →
          let r := (t.asRead errs dpas).descOut o.desc
          let v := ((dpas ++ r.1.map Prod.fst).foldl (fun (s : State) d => s.touchChannel (dpaChannel d)) t).noteLines errs dpas
          exec (.openEntryEnd e k errs) s = done (v.faultPtn o.ptn Fc.memUe (.channel (dpaChannel x)))) ∧
        (∀ sl, o.origin = .fill sl →
          let chans := (sliceChannels sl).filter fun ch => decide (ch / 32 = e.toNat)
          exec (.openEntryEnd e k errs) s =
            done ((t.overwrite chans).count (nmePage e.toNat) 1 (sumOver chans t.offeredRows))) ∧
        (∀ n, o.origin = .move n → exec (.openEntryEnd e k errs) s = done (t.endMove o.ptn n errs)))) ∧
    (∀ (slice : SliceNo) p c, s.sliceOwner slice.toNat = some p → s.headCmd p = some c →
      c.phase = .running ∨ c.phase = .loading →
      (∀ cls hp o va, s.host.heaps.find p = some hp → s.host.objs.find hp.obj = some o → cls.toNat ≤ 14 →
        hp.place o.va o.bytes cls.toNat = some va →
        exec (.alloc slice cls) s = .next (((s.onHost fun h => { h with
          heaps := h.heaps.put p { hp with blocks := hp.blocks ++ [(va, cls.toNat, some c.seq)] } }).setHead p
            { c with allocs := va :: c.allocs }).emit (.heapCall (some va)))) ∧
      (∀ cls hp o, s.host.heaps.find p = some hp → s.host.objs.find hp.obj = some o →
        (14 < cls.toNat ∨ hp.place o.va o.bytes cls.toNat = none) →
        exec (.alloc slice cls) s = .next (s.emit (.heapCall none))) ∧
      (∀ (va : Word) hp, s.host.heaps.find p = some hp → (hp.blocks.any fun b => decide (b.1 = va.toNat)) = true →
        c.frees.contains va.toNat = false →
        exec (.free slice va) s = .next (s.setHead p { c with frees := va.toNat :: c.frees }))) ∧
    (∀ (p : PtnNo) (g : BitVec 16) c im r, let u := s.runSeg p.toNat
      u.headCmd p.toNat = some c → u.groupRec c g.toNat = some (im, r) → c.phase = .running →
      let t := u.setHead p.toNat { c with openIssued := g.toNat :: c.openIssued }
      (c.openIssued.contains g.toNat = false → u.reached p.toNat (ogStart r) = true → ogCopy r = true →
        exec (.openGroupStart p g) s = .next (t.issueCopy p.toNat c g.toNat r)) ∧
      (c.openIssued.contains g.toNat = false → u.reached p.toNat (ogStart r) = true → ogCopy r = false →
        let d := im.orders.getD (((im.segments[c.segment]?).map Segment.openFirst).getD 0 + g.toNat) 0
        exec (.openGroupStart p g) s =
          .next ((t.useRegions d).placeOrder (orderEngine d) p.toNat (ogClass r) d (.group c.seq g.toNat))) ∧
      (c.openDone.contains g.toNat = false → u.reached p.toNat (ogNeed r) = true → (u.line p.toNat).hold = none →
        exec (.openGroupNeed p g) s =
          .next (u.setLine p.toNat { u.line p.toNat with hold := some (.group g.toNat, u.now) }))) ∧
    (s.quenched = false → ∀ n : BitVec 10,
      exec (.grant 0 n) s = .next (s.grantChannel n.toNat) ∧
      (∀ k, s.portOpen n.toNat = true → (firstIn 6250 0 fun k => s.openTxSlot n.toNat k) = some k →
        exec (.grant 1 n) s = .next (s.sendOpenSlot n.toNat k)) ∧
      exec (.grant 3 n) s = .next (s.grantQueue n.toNat))

/-- A FLOW_TICK of an entry of a loaded run, at a repetition and step that it has and a tick not yet run, is noted for
that tick, and the segment runs as far as it goes; at the tick, units of another input that are missing, marked bad or
another partition's raise the node's ROUTER_FAULT and go no further. A STREAM_ACCESS in the stream's scheduled unit,
of a translated line, reads it into the stream's buffer, ready 64 ticks after the unit began, or writes the buffer's
oldest line that is ready, and is counted; an uncorrectable read, or a write refused, faults the partition, and one
without its translation faults it XLT_LATE. A micro-TLB request fills the entry that the cluster's translations hold,
at most eight. A held refresh counts where the frame is paused and a round is due. A REFRESH_WINDOW of a refresh unit
counts a round, steers a marked lane to the spares or exhausts the channel, takes failing spares off, marks one
failing lane and exhausts the channel on more, scrubs the next line and makes its reserve reads. Rests on R146, R218,
R244, R250, R315. -/
def Obligations.NetworkStreamsAndRefresh : Prop :=
  ∀ (s : State),
    (∀ (node : BitVec 7) (entry : BitVec 18) (rep i : BitVec 12) run e g fail bits, let n := node.toNat
      ((s.node n).runs.find? fun r => decide (r.first ≤ entry.toNat ∧ entry.toNat < r.first + r.count)) = some run →
      (s.node n).store.find entry.toNat = some e → s.seg run.ptn = some g → rep.toNat ≤ hopRepeat e → i.toNat ≤ hopLenM1 e →
      g.tick ≤ hopTick e rep.toNat i.toNat → g.flow ⟨n, entry.toNat, e⟩ (hopTick e rep.toNat i.toNat) = none →
      exec (.flowTick node entry rep i ⟨fail, bits⟩) s = .next ((s.setSeg run.ptn { g with
        flows := g.flows ++ [⟨n, entry.toNat, rep.toNat, i.toNat, fail, bits⟩] }).runSeg run.ptn)) ∧
    (∀ (old : State) us p tick e f, e.node < 64 → hopPort e.node e.word ≠ 4 → Nat.testBit (hopOut e.word) 4 = false →
      let r := s.takeUnits p e.node (hopPort e.node e.word) tick (hopW e.word)
      (f.fail = true ∨ r.1.length < hopW e.word ∨ (r.1.all fun u => u.ok && decide (u.ptn = p)) = false) →
      s.runFlow old us p tick e f = (⟨[], [e.node]⟩, r.2)) ∧
    (∀ (slice : SliceNo) (stream : BitVec 6) (tick : BitVec 24) errs st,
      let u := s.runSlice slice.toNat
      let key := 64 * slice.toNat + stream.toNat
      let start := tick.toNat / 64 * 64
      let va := srVa st.record st.base st.next
      u.mem.streams.find key = some st → u.streamReady slice.toNat st tick.toNat = true →
      (coverOf st.tlb va = none →
        exec (.streamAccess slice stream tick errs) s = .next (u.faultPtn st.ptn Fc.xltLate (.inSlice 15 slice.toNat))) ∧
      (∀ tr, coverOf st.tlb va = some tr → u.heapBars st.ptn (srWrite st.record) va = false →
        let dpa := tr.dpa va
        let t := u.count (mchPage (dpaChannel dpa)) 0 1
        (∀ l ready rest, srWrite st.record = true → st.buffer = (l, ready) :: rest → ready < start →
          let w := t.putLine errs dpa l
          let v := w.2.setStream key { st with next := st.next + 1, buffer := rest }
          exec (.streamAccess slice stream tick errs) s =
            .next ((if w.1 then v.faultPtn st.ptn Fc.memUe (.channel (dpaChannel dpa)) else v).runSeg st.ptn)) ∧
        (srWrite st.record = false →
          let v := (t.meetErrors errs).noteLine errs false dpa
          exec (.streamAccess slice stream tick errs) s =
            .next ((if v.decoded errs dpa = .uncorrectable then v.faultPtn st.ptn Fc.memUe (.channel (dpaChannel dpa))
              else v.setStream key { st with
                next := st.next + 1, buffer := st.buffer ++ [(v.delivered errs dpa, start + 64)] }).runSeg st.ptn)))) ∧
    (∀ (slice : SliceNo) (stream : BitVec 6) (line : BitVec 40) st e,
      let key := 64 * slice.toNat + stream.toNat
      let va := srVa st.record st.base line.toNat
      s.mem.streams.find key = some st → coverOf st.tlb va = none → s.heldTrans slice.toNat st.ptn va = some e →
      exec (.microTlbRequest slice stream line) s = .next ((s.noteUse slice.toNat st.ptn va).onMem fun m => { m with
        streams := m.streams.put key { st with tlb := (st.tlb ++ [e]).drop (st.tlb.length + 1 - 8) } })) ∧
    (∀ (channel : BitVec 10), let ch := channel.toNat
      ch < 768 → (s.channel ch).selfRefresh = false →
      (s.framePaused ch = true → (s.channel ch).refreshedAt + 1024 ≤ s.dieTick ch →
        exec (.holdRefresh channel) s = .next (s.refreshRound ch 3)) ∧
      (∀ (fails : LaneFails) errs, s.framePaused ch = false → Nat.testBit refreshMask (s.frameUnit ch) = true →
        (s.channel ch).window ≠ some (s.frameTick ch / 64) →
        let t := (s.meetErrors errs).refreshRound ch 2
        let t := t.setChannel ch { t.channel ch with window := some (t.frameTick ch / 64) }
        (t.flag Reg.mchEccStsMarked ch = false →
          exec (.refreshWindow channel fails ⟨errs, []⟩) s =
            .next (((t.laneCheck ch none fails).scrub ch errs).reserveReads ch errs [])) ∧
        (t.flag Reg.mchEccStsMarked ch = true → t.flag Reg.mchEccStsLaneExhausted ch = false →
          exec (.refreshWindow channel fails ⟨errs, []⟩) s =
            .next ((((t.steerMarked ch).laneCheck ch (some (t.get Reg.mchEccStsMarkLane ch)) fails).scrub ch errs).reserveReads
              ch errs [])))) ∧
    (∀ (ch : Nat) (fails : LaneFails),
      let u := if fails = 0 then s else s.bump Reg.mchLaneCheckFails ch
      (failingLanes fails.toNat = [] → ∀ m, s.laneCheck ch m fails =
        u.takeSpares ch ((List.range 2).filter fun k => fails.getLsbD (72 + k))) ∧
      (∀ l, failingLanes fails.toNat = [l] → s.laneCheck ch none fails =
        ((u.raise Reg.mchEccStsMarked ch).set Reg.mchEccStsMarkLane ch l).setChannel ch
          { u.channel ch with failing := fails.toNat / 2 ^ (8 * l) % 256 }) ∧
      (∀ a b rest, failingLanes fails.toNat = a :: b :: rest → s.laneCheck ch none fails = u.exhaust ch) ∧
      (∀ l a rest, failingLanes fails.toNat = a :: rest → a ≠ l → s.laneCheck ch (some l) fails = u.exhaust ch))

/-- A running sequencer whose heartbeat stood still for a period sets HB_MISSED and its partition faults; one that counted
has its period restarted. A trap of a running sequencer enters its handler, records its cause's low byte and faults
the partition. HALT of a powered sequencer clears HALT's counterpart RUNNING and its core, or starts a halted one. A
write of SXLAUNCH that starts the direct launch at the head of its slice's line has the launch pending for the later
of 12 and D ticks; any other sets SXL_IGNORED. SXKILL of a running slice sets its SCH block's state and stops its
tiles, whose issued operations complete. A doorbell or a message gives its source one message; an expired window makes
an enabled source pending that has a count; a claim by the controller's own core takes the best source, clears its
pending bit and count and pushes it; completing pops the stack; STACK_CLR from a core that may write the controller
empties it. Rests on R89, R90, R92, R420, R423, R424, R427, R428, R483. -/
def Obligations.SequencersAndEventControllers : Prop :=
  ∀ (s : State),
    (∀ (slice : SliceNo), let sl := slice.toNat;
      s.flag Reg.seqStsRunning sl = true →
      (s.slicePower sl < 2 → s.get Reg.seqHeartbeatCount sl = (s.seqr sl).beat →
        let t := s.atLeast ((s.seqr sl).beatAt + 1000 * max 1 (s.get Reg.seqCtlHbPeriodUs sl))
        exec (.heartbeatMissed slice) s = .next (((t.raise Reg.seqStsHbMissed sl).setSeqr sl
          { s.seqr sl with beatAt := t.now }).faultSlice sl Fc.heartbeat 8)) ∧
      (s.slicePower sl < 2 → s.get Reg.seqHeartbeatCount sl ≠ (s.seqr sl).beat →
        exec (.heartbeatMissed slice) s =
          .next (s.setSeqr sl { s.seqr sl with beatAt := s.now, beat := s.get Reg.seqHeartbeatCount sl })) ∧
      (∀ mcause, exec (.seqTrap slice mcause) s =
        .next (((s.setSeqr sl { s.seqr sl with
          core := (s.seqr sl).core.trap (mcause.getLsbD 63) (mcause.toNat % 2 ^ 63) 0 }).set Reg.seqStsTrapCause sl
            (mcause.toNat % 256)).faultSlice sl Fc.seqTrap 8))) ∧
    (∀ (slice : SliceNo), let sl := slice.toNat;
      (s.slicePower sl ≤ 1 →
        (let t := (s.set Reg.seqCtlHalt sl 1).set Reg.seqStsRunning sl 0
          let t := t.setEvc sl { t.evc sl with wfi := false }
          exec (.halt slice true) s = .next (t.setSeqr sl ((t.seqr sl).halted t.now))) ∧
        (s.flag Reg.seqStsRunning sl = false →
          let t := (s.set Reg.seqCtlHalt sl 0).set Reg.seqStsRunning sl 1
          exec (.halt slice false) s = .next (t.setSeqr sl { t.seqr sl with
            beatAt := t.now, beat := t.get Reg.seqHeartbeatCount sl, launchAt := none
            core := .start (BitVec.ofNat 64 (t.get Reg.seqBootBootPc sl / 2 * 2)) t.now })) ∧
        (s.flag Reg.seqStsRunning sl = true → exec (.halt slice false) s = .next (s.set Reg.seqCtlHalt sl 0))) ∧
      (∀ v p i k d im, s.directOn sl = some (p, i, k, d) → k = bitsOf v.toNat 0 16 → d = bitsOf v.toNat 16 16 →
        s.compat = true → s.get Reg.schStsState sl = 0 → (s.seqr sl).launchAt = none → s.imageOf i = some im →
        exec (.sxlaunch slice v) s = .next (s.setSeqr sl { s.seqr sl with
          launchAt := some (k, s.get Reg.dieTickTick (sl / 16) + max 12 d) })) ∧
      (∀ v, (∀ p i k d, s.directOn sl = some (p, i, k, d) → ¬ (k = bitsOf v.toNat 0 16 ∧ d = bitsOf v.toNat 16 16)) ∨
          s.compat = false ∨ s.get Reg.schStsState sl ≠ 0 →
        exec (.sxlaunch slice v) s = .next (s.raise Reg.schStsSxlIgnored sl)) ∧
      (∀ v, v.getLsbD 0 = true → s.get Reg.schStsState sl ≠ 0 →
        exec (.sxkill slice v) s = .next (((s.set Reg.schStsState sl 3).haltTiles [sl]).runSlice sl))) ∧
    (∀ (evc : BitVec 7) (source : BitVec 10), let n := evc.toNat; let k := source.toNat;
      s.evcLive n = true →
      let told := fun (t : State) => (t.setEvc n ((t.evc n).setSource k (((t.evc n).source k).message t.now))).wakeEvc n
      exec (.evcDoorbell evc source) s = .next (told s) ∧
      exec (.evcMessage evc source) s = .next (told { s with msgs := dropMsg n k s.msgs }) ∧
      (let x := (s.evc n).source k;
        x.enable = true → 1 ≤ x.acc → x.window ≠ 0 → x.pending = false →
        let t := s.atLeast (x.since + 1000 * x.window);
        exec (.evcTimeExpiry evc source) s = .next ((t.setEvc n ((t.evc n).setSource k { x with pending := true })).wakeEvc n)) ∧
      (∀ origin b, ownEvc origin = some n → (s.evc n).line = true → (s.evc n).best = some b →
        let x := (s.evc n).source b.1
        let e := (s.evc n).setSource b.1 { x with pending := false, acc := 0 }
        exec (.evcClaim evc origin) s = .next ((s.setEvc n (e.withStack (b :: (s.evc n).stack))).emit
          (.coreRead (BitVec.ofNat 64 (x.acc * 2 ^ 32 + b.1))))) ∧
      (∀ origin, ownEvc origin ≠ some n ∨ (s.evc n).line = false →
        exec (.evcClaim evc origin) s = .next (s.emit (.coreRead (BitVec.ofNat 64 (2 ^ 63))))) ∧
      exec (.evcComplete evc source) s = .next (s.evcCompleted n k) ∧
      (∀ origin, mayWriteEvc origin n = true → exec (.stackClr evc origin) s = .next (s.clearStack n)))

/-- When an event bit of a page rises, EVT_PEND gains the bit; the page sends a message exactly when no pending and
enabled event stood before and one stands now and ENABLE is 1, and the message joins those in flight only when
EVT_ROUTE names a controller that exists. Clearing ENABLE clears that field and does nothing else: no message, no
EVT_PEND bit. BLK_ENABLE sets ENABLE and sends one message exactly when ENABLE was 0 and an enabled event is pending.
A write of EVT_EN sends one under the same rule. Register fields other than the one written keep their values. -/
def Obligations.EventMessageRule : Prop :=
  ∀ (s : State) (page bit : Nat),
    (let t := s.setBits Reg.evtPendPend page (2 ^ bit);
      s.event page bit = (if s.evtActive page = false ∧ t.evtActive page = true ∧ s.flag Reg.blkCtlEnable page = true
        then t.sendEvent page else t)) ∧
    (s.sendEvent page).regs = s.regs ∧
    s.writeEnable page false = s.set Reg.blkCtlEnable page 0 ∧
    ((s.sendEvent page).msgs = s.msgs ∨
      (s.sendEvent page).msgs = s.msgs ++ [⟨page, s.get Reg.evtRouteEvc page, s.get Reg.evtRouteSource page⟩] ∧
        (s.get Reg.evtRouteEvc page < 64 ∧ Nat.testBit (s.get Reg.ptnAvailAvail 0) (s.get Reg.evtRouteEvc page) = true ∨
          64 ≤ s.get Reg.evtRouteEvc page ∧ s.get Reg.evtRouteEvc page < 68)) ∧
    (∀ (pg : BitVec 14), s.headerOpen pg.toNat = true →
      let p := pg.toNat
      let on := s.set Reg.blkCtlEnable p 1
      exec (.blkEnable pg) s =
        .next (if s.flag Reg.blkCtlEnable p = false ∧ on.evtActive p = true then on.sendEvent p else on) ∧
      ∀ value, let t := s.set Reg.evtEnEn p (value.toNat &&& evtMask p)
        exec (.evtEn pg value) s =
          .next (if s.evtActive p = false ∧ t.evtActive p = true ∧ s.flag Reg.blkCtlEnable p = true then t.sendEvent p else t))

/-- For BAR0 and BAR2: an access whose size is not 4 or 8 bytes or whose offset is not a multiple of its size answers a
next state in which GLB_STS.BAD_ACCESS counts one more (it stays at its greatest value), whatever the offset, a
doorbell's included; a write does nothing else and a read also returns as many zero bytes as it asked for.
REGISTER_WRITE of that kind does the same. BAD_ACCESS for a well-formed access changes nothing, so such an access is
not counted, and a read of an offset of a page that no register of the page lists gives zero. -/
def Obligations.BadAccessCompletesAndCounts : Prop :=
  ∀ (s : State) (offset : BitVec 26) (size : BitVec 8),
    let aligned := size = 4 ∧ offset.toNat % 4 = 0 ∨ size = 8 ∧ offset.toNat % 8 = 0;
    let n := s.get Reg.glbStsBadAccess 0;
    let counted := s.set Reg.glbStsBadAccess 0 (satAdd (2 ^ Reg.glbStsBadAccess.width - 1) n 1);
    (∀ bar : BitVec 3, bar = 0 ∨ bar = 2 →
      (¬ aligned → exec (.badAccess bar offset size true) s = .next counted ∧
        exec (.badAccess bar offset size false) s = .next (counted.emit (.busRead (some (List.replicate size.toNat 0))))) ∧
      (aligned → ∀ w, exec (.badAccess bar offset size w) s = .next s)) ∧
    (¬ aligned → ∀ origin value, exec (.registerWrite origin offset size value) s = .next counted) ∧
    (∀ page off t d i, pageInfo page = some (t, d, i) → headerPage page = true → 0x10 ≤ off → regAt t i page off = none →
      (t = .evc ∨ t = .mbx → ¬ (0x40 ≤ off ∧ off < 0xF00)) → s.bar0Word page off = 0)

/-- An aligned REGISTER_WRITE changes nothing where the origin may not write the page, and otherwise writes only the bytes
of the access within its 64-bit register; one to BAR0's vector table writes that vector's word while the BARs are
open. SOFT_RST by a management core of a page with a header that takes writes (no clock gate stops it, and it is not
the page of a unit of a running tile) resets the page's block when it is idle and changes nothing when it is not; from
any other origin it changes nothing. FREEZE of 1 sets FREEZE and holds what the page's 31 counters show, unless it is
set already; FREEZE of 0 clears it. LOCK writes the page's configuration register whole and, with bit 63, locks it; a
page without a LOCK register, or one that may not be written, keeps its state. Rests on R13, R524, R525, R527. -/
def Obligations.BusHeaderAndRegisterWrites : Prop :=
  ∀ (s : State),
    (∀ origin (offset : BitVec 26) (size : BitVec 8) (value : Word), accessOk offset.toNat size.toNat = true →
      let sh := 8 * (offset.toNat % 8)
      let mask := (2 ^ (8 * size.toNat) - 1) * 2 ^ sh
      let v := value.toNat % 2 ^ (8 * size.toNat) * 2 ^ sh
      let word := offset.toNat / 8 * 8
      (0x2000000 ≤ word → word < 0x2008000 → exec (.registerWrite origin offset size value) s =
        .next (if s.barsOpen then s.writeVectorWord ((word - 0x2000000) / 16) (word / 8 % 2) mask v else s)) ∧
      (word < 0x2000000 ∨ 0x2008000 ≤ word →
        (s.mayWrite origin (word / 4096) (word % 4096) = false → exec (.registerWrite origin offset size value) s = .next s) ∧
        (s.mayWrite origin (word / 4096) (word % 4096) = true → exec (.registerWrite origin offset size value) s =
          .next (s.writeReg origin (word / 4096) (word % 4096) mask v)))) ∧
    (∀ (page : BitVec 14), let p := page.toNat;
      (∀ c pg t d i, s.headerOpen p = true → pageInfo p = some (t, d, i) →
        exec (.softRst page (.core c)) s = .next (if s.blockIdle p = true then
          s.dropFields fun pg k f => f.kept.upToC && (decide (pg = t ∧ k = i) || decide (pg = .hdr ∧ k = p)) else s) ∧
        exec (.softRst page .bar0) s = .next s ∧ exec (.softRst page (.sequencer pg)) s = .next s) ∧
      (s.headerOpen p = true →
        (s.flag Reg.blkCtlFreeze p = true → exec (.freeze page true) s = .next (s.set Reg.blkCtlFreeze p 1)) ∧
        (s.flag Reg.blkCtlFreeze p = false → exec (.freeze page true) s =
          .next ((s.onBus fun b => { b with shown := heldCounts s p b.shown }).raise Reg.blkCtlFreeze p)) ∧
        exec (.freeze page false) s = .next (s.set Reg.blkCtlFreeze p 0)) ∧
      (∀ value, (s.mayWrite (.core 0) p 0x40 = false ∨ lockReg p = none) → exec (.lock page value) s = .next s) ∧
      (∀ value, s.mayWrite (.core 0) p 0x40 = true → exec (.lock page value) s = .next (s.writeLockReg p (2 ^ 64 - 1) value.toNat)))

/-- XLT_ROOT is written only while the partition's line is empty and nothing resident, else ROOT_REFUSED. XLT_QUOTA above
the quarter, or with the other quotas above it, sets QUOTA_REFUSED and keeps the quota; else the quota is written and
each quarter trimmed to it. RTR_OWN and LNK_OWN write each direction's owner or refuse it. OPEN_MASK with a refresh
bit, more than 32 bits or fewer than OPEN_MIN is refused; OPEN_MIN above 32, above the mask's count or above what a
bound image relies on is refused; both act at once on a channel that is not busy, else wait. POOL_STATE sets the state
and moves every pool slice. OPEN_RESERVE beyond what the grants leave is refused with an event, else written. CLK_GATE
writes its gates. RETRAIN closes the port with cause ADMIN; ENABLE of 1 takes a port in state 0 to state 1, ENABLE of
0 closes it and takes it to state 0. Rests on R155, R161, R238, R253, R263, R339, R346, R418, R437. -/
def Obligations.NetworkClockAndPoolRegisters : Prop :=
  ∀ (s : State),
    (∀ (p : PtnNo) (v : Word), let w := s.writeField (ptnpPage p.toNat) Reg.ptnpXltRootRootRefused p.toNat (2 ^ 64 - 1) v.toNat;
      ((w.line p.toNat).isEmpty = true ∧ (w.line p.toNat).resident = none → exec (.ptnpXltRoot p v) s =
        .next ([Reg.ptnpXltRootDie, Reg.ptnpXltRootCluster, Reg.ptnpXltRootLine, Reg.ptnpXltRootValid].foldl
          (fun s f => s.writeField (ptnpPage p.toNat) f p.toNat (2 ^ 64 - 1) v.toNat) w)) ∧
      ((w.line p.toNat).isEmpty = false ∨ (w.line p.toNat).resident ≠ none →
        exec (.ptnpXltRoot p v) s = .next (w.raise Reg.ptnpXltRootRootRefused p.toNat))) ∧
    (∀ (p : PtnNo) (v : BitVec 20),
      (quarterEntries < s.quotaElse p.toNat + v.toNat →
        exec (.quota p v) s = .next (s.raise Reg.ptnpXltQuotaQuotaRefused p.toNat)) ∧
      (s.quotaElse p.toNat + v.toNat ≤ quarterEntries → exec (.quota p v) s =
        .next ((List.range 4).foldl (fun s q => s.trimStore p.toNat q v.toNat) (s.set Reg.ptnpXltQuotaQuota p.toNat v.toNat)))) ∧
    (∀ (slice : SliceNo) (v : Word), exec (.rtrOwn slice v) s = .next (s.writeRtrOwn slice.toNat v.toNat)) ∧
    (∀ (port : PortNo) (v : Word), exec (.lnkOwn port v) s =
      .next (if port = 4 ∨ port = 5 then s.writeLnkOwn port.toNat v.toNat else s)) ∧
    (∀ (ch : BitVec 10) (v : Word), ch.toNat < 768 →
      let n := popcount 64 v.toNat
      (v.toNat &&& refreshMask ≠ 0 ∨ 32 < n ∨ n < s.openMinNext ch.toNat →
        exec (.openMask ch v) s = .next (s.raise Reg.mchWincfgWinRefused ch.toNat)) ∧
      (v.toNat &&& refreshMask = 0 → n ≤ 32 → s.openMinNext ch.toNat ≤ n → exec (.openMask ch v) s =
        .next (if s.channelBusy ch.toNat = true then
            s.setChannel ch.toNat { s.channel ch.toNat with maskNext := some v.toNat }
          else s.set Reg.mchWindowOpenMask ch.toNat v.toNat))) ∧
    (∀ (ch : BitVec 10) (v : BitVec 6), ch.toNat < 768 →
      let bound := ∃ im ∈ s.boundImages, ∃ w ∈ im.content.windows, w.1 = ch.toNat ∧ popcount 64 w.2.toNat < v.toNat
      (32 < v.toNat ∨ popcount 64 (s.openMaskNext ch.toNat) < v.toNat ∨ bound →
        exec (.openMin ch v) s = .next (s.raise Reg.mchWincfgWinRefused ch.toNat)) ∧
      (v.toNat ≤ 32 → v.toNat ≤ popcount 64 (s.openMaskNext ch.toNat) → ¬ bound → exec (.openMin ch v) s =
        .next (if s.channelBusy ch.toNat = true then
            s.setChannel ch.toNat { s.channel ch.toNat with minNext := some v.toNat }
          else s.set Reg.mchWincfgOpenMin ch.toNat v.toNat))) ∧
    (∀ v : BitVec 3, let t := s.set Reg.pwrLadderPoolState 0 v.toNat;
      exec (.poolState v) s = .next (t.poolSlices.foldl (fun s sl => s.setSlicePower sl s.poolState) t)) ∧
    (∀ (port : PortNo) (v : BitVec 13), port.toNat < 6 →
      let free := 6200 - max (s.grantedSlots port.toNat 0) (s.grantedSlots port.toNat 1)
      (free < v.toNat → exec (.openReserve port v) s =
        .next ((s.raise Reg.bwrStsReserveRefused 0).event bwrPage 1)) ∧
      (v.toNat ≤ free → exec (.openReserve port v) s = .next (s.set Reg.bwrLinkOpenReserve port.toNat v.toNat))) ∧
    (∀ (reg : BitVec 3) (v : Word), exec (.clkGate reg v) s = .next (s.writeClkGate reg.toNat (2 ^ 64 - 1) v.toNat)) ∧
    (∀ port : PortNo, port.toNat < 6 →
      (exec (.retrain port) s = .next (s.closePort port.toNat Cl.admin)) ∧
      (let t := s.set Reg.lnkCtlEnable port.toNat 1;
        exec (.enable port true) s = .next (if t.portState port.toNat = 0 then t.enterPort port.toNat 1 else t)) ∧
      exec (.enable port false) s =
        .next (((s.set Reg.lnkCtlEnable port.toNat 0).closePort port.toNat Cl.admin).enterPort port.toNat 0))

/-- While the BARs are open, a queue's SQ_TAIL within its ring is taken, its doorbell noted with its time, and CQ_HEAD
within its ring frees the entries read; a tail or head beyond the ring, or of no queue, changes nothing. For either
mailbox pair of a released device: ENABLE of a stopped pair starts it and writes the completions kept for it, ENABLE
of a running one changes nothing; the bases are written only while the pair is stopped and set their heads and tails
to 0; SQ_TAIL and CQ_HEAD within the ring are taken, and CQ_HEAD frees the entries read. Unmasking a vector of a
function that there is sends its pending message once. NOTICE_POST writes the oldest notice that waits while the FM
pair runs and has an entry that no taken command needs. Rests on R355, R358, R359, R391, R434. -/
def Obligations.RingRegistersAndVectors : Prop :=
  ∀ (s : State),
    (∀ (inst : BitVec 9) (q : BitVec 3) (v : BitVec 16) x, s.queue inst.toNat q.toNat = some x → s.barsOpen = true →
      (v.toNat < 2 ^ (x.sqLog2 + 4) → exec (.qSqTail inst q v) s =
        .next (s.setQueue inst.toNat q.toNat { x with
          sqTail := v.toNat, bells := if v.toNat = x.sqTail then x.bells else x.bells ++ [(v.toNat, s.now)] })) ∧
      (2 ^ (x.sqLog2 + 4) ≤ v.toNat → exec (.qSqTail inst q v) s = .next s) ∧
      (let n := 2 ^ (x.cqLog2 + 4);
        (v.toNat < n → exec (.qCqHead inst q v) s =
          .next (s.setQueue inst.toNat q.toNat
            { x with cqHead := v.toNat, used := x.used - (v.toNat + n - x.cqHead) % n })) ∧
        (n ≤ v.toNat → exec (.qCqHead inst q v) s = .next s))) ∧
    (∀ (inst : BitVec 9) (q : BitVec 3) (v : BitVec 16), s.queue inst.toNat q.toNat = none ∨ s.barsOpen = false →
      exec (.qSqTail inst q v) s = .next s ∧ exec (.qCqHead inst q v) s = .next s) ∧
    (s.released = true → ∀ fm : Bool, let i := pairIdx fm;
      (s.flag Reg.mbxStsEnable i = true → exec (.mbxEnable fm) s = .next s ∧
        ∀ w, exec (.mbxSqBase fm w) s = .next s ∧ exec (.mbxCqBase fm w) s = .next s) ∧
      (s.flag Reg.mbxStsEnable i = false →
        exec (.mbxEnable fm) s = .next ((s.raise Reg.mbxStsEnable i).writeKept fm) ∧
        ∀ w, let base := fun k => [Reg.mbxBaseAddr, Reg.mbxBaseLog2].foldl
              (fun s f => s.writeField mbxPage f (2 * i + k) (2 ^ 64 - 1) w.toNat) s
          exec (.mbxSqBase fm w) s = .next (((base 0).set Reg.mbxStsSqHead i 0).set Reg.mbxDbSqTail i 0) ∧
          exec (.mbxCqBase fm w) s = .next (((base 1).setPair fm
            { (base 1).pair fm with cqTail := 0, phase := true, used := 0 }).set Reg.mbxDbCqHead i 0)) ∧
      (∀ v : BitVec 16,
        (v.toNat < s.ringSize fm false → exec (.sqTail fm v) s = .next (s.set Reg.mbxDbSqTail i v.toNat)) ∧
        (s.ringSize fm false ≤ v.toNat → exec (.sqTail fm v) s = .next s) ∧
        (v.toNat < s.ringSize fm true → exec (.cqHead fm v) s = .next ((s.setPair fm { s.pair fm with
          used := (s.pair fm).used - (v.toNat + s.ringSize fm true - s.get Reg.mbxDbCqHead i) % s.ringSize fm true }).set
            Reg.mbxDbCqHead i v.toNat)) ∧
        (s.ringSize fm true ≤ v.toNat → exec (.cqHead fm v) s = .next s))) ∧
    (s.barsOpen = true → ∀ (fn : Bool) (vector : BitVec 11),
      let f := if fn then 1 else 0
      let e := s.vector f vector.toNat
      let key := 2048 * f + vector.toNat
      let t := s.onHost fun h => { h with msix := h.msix.putD key (0, 0, true) (e.1, e.2.1, false) }
      (fn = true → s.flag Reg.hifCfgBifurcated 0 = true) →
      exec (.vectorUnmask fn vector) s = .next (if s.host.pba.has key = true then
        (t.onHost fun h => { h with pba := h.pba.drop key }).emit (.msix f vector.toNat e.1 e.2.1) else t)) ∧
    (s.host.fmPair.notices = [] → exec .noticePost s = .next s) ∧
    (∀ n rest, s.host.fmPair.notices = n :: rest →
      exec .noticePost s = .next (if s.flag Reg.mbxStsEnable 1 = true ∧ s.host.fmPair.taken < s.ringFree true then
        (s.setPair true { s.host.fmPair with notices := rest }).writeNotice n else s))

/-- A DMA error sets DMA_ERR. For a queue's submission or completion ring it stops that queue; for a mailbox ring it
clears the pair's ENABLE and sets its ERROR, and when a completion entry could not be written the hub keeps that
entry. An administration command taken from a running pair whose opcode is not assigned completes with ADM_OPCODE, and
one that its pair may not issue with ADM_DENIED; with no command to take neither changes anything. Rests on R352,
R356, R360. -/
def Obligations.DmaErrorsAndRefusedAdmin : Prop :=
  ∀ (s : State),
    (let t := s.raise Reg.hifStsDmaErr 0;
      (∀ (w : BitVec 3) (inst : BitVec 9) (q : BitVec 3), w.toNat ≤ 1 → ∀ x, s.queue inst.toNat q.toNat = some x →
        exec (.dmaError w inst q) s = .next (t.setQueue inst.toNat q.toNat { x with dmaStop := true })) ∧
      (∀ inst q, let stop := fun i => (t.set Reg.mbxStsEnable i 0).raise Reg.mbxStsError i;
        exec (.dmaError 2 inst q) s = .next (stop 0) ∧ exec (.dmaError 3 inst q) s = .next ((stop 0).keepLast false) ∧
        exec (.dmaError 4 inst q) s = .next (stop 1) ∧ exec (.dmaError 5 inst q) s = .next ((stop 1).keepLast true) ∧
        exec (.dmaError 6 inst q) s = .next t ∧ exec (.dmaError 7 inst q) s = .next t)) ∧
    (∀ fm a op,
      (s.canTake fm = true →
        exec (.admOpcode fm a op) s = .next ((s.takeAdm fm).complete fm a St.admOpcode) ∧
        exec (.admDenied fm a op) s = .next ((s.takeAdm fm).complete fm a St.admDenied)) ∧
      (s.canTake fm = false →
        exec (.admOpcode fm a op) s = .next s ∧ exec (.admDenied fm a op) s = .next s))

/-- For a queue that the hub may take from, a descriptor whose fence has not reached its value waits at the head. Else it
is taken where no doorbell of the partition's queues came first: the head moves on, the idle state is left, a wake
item is placed ahead where the slices need one, and the command is judged: an accepted one joins the line with its
ACCEPTED record (an alloy command's LAUNCH goes out), a refused one posts its record and leaves the queue's count of
taken commands as before. RUN is any operation but ALLOY_RUN and SIGNAL. INST_LAUNCH, which a compatibility-mode
management core commands, places a direct item of the segment's assured duration for an ACTIVE instance and counts
SXL_IGNORED for a segment that its image lacks. Rests on R285, R370. -/
def Obligations.SubmissionTakesADescriptor : Prop :=
  ∀ (s : State) (inst : BitVec 9) (q : BitVec 3) (desc : BitVec 2048) x y,
    s.inst inst.toNat = some x → s.queue inst.toNat q.toNat = some y → s.mayTake x y = true →
    let d := parseDesc desc
    let i := inst.toNat
    let k := q.toNat
    let p := x.ptn
    let head := (y.sqHead + 1) % 2 ^ (y.sqLog2 + 4)
    let r := (((s.setQueue i k (y.take head)).count qmgPage 0 1).exitIdle p).otherMembers p d
    let t := if r.2.wakeAhead p = 0 then r.2 else r.2.placeItem p (.wake none) (r.2.wakeAhead p)
    let j := t.judge p i k head x d (t.line p).items ((t.line p).queueFree r.2.now) r.1
    let after : State → Prop := fun u =>
      (s.waits p d = true → u = s.setQueue i k { y with waiting := some (d.waitFence, d.waitValue) }) ∧
      (s.waits p d = false → s.isNext p i k y = true →
        (∀ c, j.cmd = some c → u =
          ((t.placeCmd p (t.line p).items.length c).postAdmission p i k head d j).sendLaunch p c d.imgIndex) ∧
        (j.cmd = none → ∀ z, (r.2.postAdmission p i k head d j).queue i k = some z →
          u = (r.2.postAdmission p i k head d j).setQueue i k { z with taken := z.taken - 1 }))
    (d.op ≠ 2 → d.op ≠ 3 → ∃ u, exec (.run inst q desc) s = .next u ∧ after u) ∧
    (d.op = 2 → ∃ u, exec (.alloyRun inst q desc) s = .next u ∧ after u) ∧
    (d.op = 3 → ∃ u, exec (.signal inst q desc) s = .next u ∧ after u) ∧
    (s.compat = true → ∀ (segment delay : BitVec 16),
      (∀ sg, s.commandSegment i segment.toNat = some sg → x.state = Is.active →
        exec (.instLaunch inst segment delay) s =
          .next (s.placeItem p (.direct i segment.toNat delay.toNat) (Config.assuredNs sg.wcet))) ∧
      (s.commandSegment i segment.toNat = none → exec (.instLaunch inst segment delay) s =
        .next (s.setSlices Reg.schStsSxlIgnored (s.slicesOf p) 1)))

/-- For every partition, descriptor, line and state: if the judgement of a descriptor accepts a command, the command is
paced exactly when the descriptor says so, its T_promise is the one reported, and T_promise (plus 20 ns for a paced
command) is at most the descriptor's deadline, unless the descriptor gives no deadline (all ones). A descriptor that
is accepted has status ACCEPTED, and one that is refused another status and no command. -/
def Obligations.AdmissionMeetsTheDeadline : Prop :=
  ∀ (s : State) (p i q sqHead : Nat) (x : Inst) (d : Desc) (ahead : List Item) (free : Nat) (other : Nat × List Word),
    let j := s.judge p i q sqHead x d ahead free other
    (∀ c, j.cmd = some c → j.status = St.accepted ∧ j.tPromise = c.tPromise ∧ c.paced = Nat.testBit d.flags 0 ∧
      (d.deadline ≠ never → c.tPromise + (if c.paced = true then 20 else 0) ≤ d.deadline)) ∧
    (j.cmd = none → j.status ≠ St.accepted)

/-- For an INST_* command, VEC_* or Q_* taken from the driver pair with operands in range: INST_CREATE in an ACTIVE
partition with fewer than 8 instances, of a free slot and a bound image, makes the instance, counts it and succeeds; a
used slot gives OBJ_BUSY. INST_DESTROY of a settled instance drains it, SQUASH withdrawing its commands first;
INST_RESET squashes it and resets it; INST_SUSPEND needs ACTIVE, INST_RESUME SUSPENDED. INST_IMAGE changes the image
at once on an empty line, else at the next. INST_QUERY answers state, heads and LINE_SEQ. VEC_ALLOC takes the lowest
free aligned run of vectors; VEC_FREE gives it back. Q_CREATE makes an empty queue, Q_DESTROY drops one that has no
command taken. Otherwise the status of the rule is answered. Rests on R360, R363, R364, R365, R367, R433. -/
def Obligations.InstancesAndTheirQueues : Prop :=
  ∀ (s : State) (a : Adm) (inst : BitVec 16), AdmTaken s false a → instOk inst = true →
    let t := s.takeAdm false
    let i := inst.toNat
    let done : State → State := fun u => u.complete false a St.success
    let bad : Nat → Host.Outcome State Fault Refusal := fun st => .next (t.complete false a st)
    (∀ (p fn : Byte) image, ptnOk p = true → let q := p.toNat; let n := t.get Reg.ptnpCfgInstances q;
      (t.ptnState q ≠ ptnActive ∨ 8 ≤ n → exec (.instCreate a inst p fn image) s = bad St.admState) ∧
      (t.ptnState q = ptnActive → n < 8 → (t.inst i).isSome = true → exec (.instCreate a inst p fn image) s = bad St.objBusy) ∧
      (t.ptnState q = ptnActive → n < 8 → t.inst i = none →
        (t.usableImage q image = none → exec (.instCreate a inst p fn image) s = bad St.objHandle) ∧
        (∀ k, t.usableImage q image = some k →
          (fn = 0 ∨ (fn = 1 ∧ t.flag Reg.hifCfgBifurcated 0 = true) → exec (.instCreate a inst p fn image) s =
            .next (done ((t.setInst i (Inst.fresh q fn.toNat k)).set Reg.ptnpCfgInstances q (n + 1))))))) ∧
    (t.inst i = none → exec (.instDestroyDrain a inst) s = bad St.admState ∧
      exec (.instDestroySquash a inst) s = bad St.admState ∧ exec (.instReset a inst) s = bad St.admState ∧
      exec (.instQuery a inst) s = bad St.success) ∧
    (∀ x, t.inst i = some x →
      (x.settled = true → exec (.instDestroyDrain a inst) s = .next (t.drainInst a i x) ∧
        exec (.instDestroySquash a inst) s = .next ((t.squash i).drainInst a i x) ∧
        exec (.instReset a inst) s = .next (t.contextReset i (some a))) ∧
      (x.settled = false → exec (.instDestroyDrain a inst) s = bad St.admState ∧
        exec (.instDestroySquash a inst) s = bad St.admState ∧ exec (.instReset a inst) s = bad St.admState) ∧
      (exec (.instSuspend a inst) s = if x.state = Is.active then
        .next (done ((t.setInst i { x with state := Is.suspending }).settleInst i)) else bad St.admState) ∧
      (exec (.instResume a inst) s = if x.state = Is.suspended then
        .next (done (t.setInst i { x with state := Is.active })) else bad St.admState) ∧
      (∀ image k, t.usableImage x.ptn image = some k →
        ((t.line x.ptn).items = [] → (t.line x.ptn).killed = [] → exec (.instImage a inst image) s =
          .next (done ((t.setInst i { x with image := k, nextImage := none }).setLine x.ptn { t.line x.ptn with
            resident := if (t.line x.ptn).resident = some i then none else (t.line x.ptn).resident }))) ∧
        ((t.line x.ptn).items ≠ [] → exec (.instImage a inst image) s =
          .next (done (t.setInst i { x with nextImage := some k })))) ∧
      (exec (.instQuery a inst) s = .next (t.complete false a St.success 0
        (x.state + 2 ^ 16 * t.sqHeadOf i 0 + 2 ^ 32 * t.sqHeadOf i 1 + 2 ^ 48 * t.sqHeadOf i 2)
        (t.sqHeadOf i 3 + 2 ^ 32 * (((t.line x.ptn).seq + 1) % 2 ^ 32)))) ∧
      (∀ n : Byte, n = 1 ∨ n = 2 ∨ n = 4 ∨ n = 8 → x.vectors = none → ∀ v,
        firstIn 2048 0 (fun v => decide (v % n.toNat = 0 ∧ 16 ≤ v ∧ v + n.toNat ≤ 2048) &&
          (List.range n.toNat).all fun k => !t.vectorTaken x.fn (v + k)) = some v →
        exec (.vecAlloc a inst n) s =
          .next ((t.setInst i { x with vectors := some (v, n.toNat) }).complete false a St.success 0 v)) ∧
      (exec (.vecFree a inst) s = if x.vectors.isSome = true then
        .next (done (t.setInst i { x with vectors := none })) else bad St.admState) ∧
      (∀ (q sqLog2 cqLog2 : Byte) (sqBase cqBase : Word), q.toNat < 8 → sqLog2.toNat ≤ 8 → cqLog2.toNat ≤ 8 →
        sqBase.toNat % 4096 = 0 → cqBase.toNat % 4096 = 0 →
        exec (.qCreate a inst q sqLog2 cqLog2 sqBase cqBase) s = if (t.queue i q.toNat).isSome = true then bad St.objBusy else
          .next (done (t.setQueue i q.toNat ⟨sqLog2.toNat, cqLog2.toNat, sqBase.toNat, cqBase.toNat, 0, 0, 0, 0, true, 0, false,
            none, [], 0⟩)))) ∧
    (∀ (q : Byte) y, q.toNat < 8 → t.queue i q.toNat = some y → exec (.qDestroy a inst q) s =
      if 0 < y.taken then bad St.objBusy else
        .next (done (t.onHost fun h => { h with queues := h.queues.drop (8 * i + q.toNat) })))

/-- For an object command taken from the driver pair with operands in range: MO_CREATE in a partition that may create, of
an allowed owner and a 64 KiB aligned range that meets no object of the partition, takes the lowest free slot and
answers its handle; FENCE_CREATE takes the lowest free slot and answers its handle. MO_FREE and FENCE_FREE free by
handle. OBJ_REF of an object, a fence or an image answers the new host count, frees at 0, and refuses a negative or
too large count. APPEND_SET sets the extent of an append object within its bytes that no command writes; FENCE_SIGNAL
raises the value, or answers ADM_STATE; FENCE_VIEW sets or clears a view; ARGSET_WRITE of live objects of the
partition within their limits writes the set, refers to its objects and gives back those it held. Rests on R370, R378,
R379, R380, R381, R382. -/
def Obligations.MemoryObjectsAndReferences : Prop :=
  ∀ (s : State) (a : Adm), AdmTaken s false a →
    let t := s.takeAdm false
    let done : State → State := fun u => u.complete false a St.success
    let bad : Nat → Host.Outcome State Fault Refusal := fun st => .next (t.complete false a st)
    (∀ (p kind flags : Byte) (owner : BitVec 16) (va bytes : Word), ptnOk p = true → kind.toNat ≤ 1 → flags.toNat ≤ 3 →
      t.mayCreate p.toNat = true → t.ownerOk p.toNat owner.toNat = true →
      let free := va.toNat % 65536 = 0 ∧ bytes.toNat % 65536 = 0 ∧ bytes.toNat ≠ 0 ∧ va.toNat + bytes.toNat ≤ 2 ^ 48 ∧
        ∀ o ∈ t.host.objs.vals, o.ptn = p.toNat → rangesMeet va.toNat bytes.toNat o.va o.bytes = false
      (¬ free → exec (.moCreate a p kind flags owner va bytes) s = bad St.objRange) ∧
      (free → ∀ k, firstGap 262144 t.host.objs.entries 0 = some k →
        let g := t.host.objGens.getD k 1
        exec (.moCreate a p kind flags owner va bytes) s = .next ((t.setObj k
          { gen := g, ptn := p.toNat, append := decide (kind.toNat = 1), w := flags.getLsbD 0, ap := flags.getLsbD 1
            owner := if owner.toNat = 0xFFFF then none else some owner.toNat, va := va.toNat, bytes := bytes.toNat, extent := 0
            void := false, scratching := 0, host := 1, soft := 0, hard := 0, freeing := false }).complete
              false a St.success 0 (mkHandle g k)))) ∧
    (∀ h, exec (.moFree a h) s = .next (t.moFree a h) ∧ exec (.fenceFree a h) s = .next (t.fenceFree a h)) ∧
    (∀ (h : Handle) (delta : BitVec 32) k o, t.findObj h = some (k, o) → o.freeing = false →
      let n : Int := o.host + delta.toInt
      (n < 0 ∨ (hostLimit : Int) < n → exec (.objRef a 0 h delta) s = bad St.objLimit) ∧
      (n = 0 → exec (.objRef a 0 h delta) s = .next (t.moFree a h)) ∧
      (0 < n → n ≤ (hostLimit : Int) → exec (.objRef a 0 h delta) s =
        .next ((t.setObj k { o with host := n.toNat }).complete false a St.success 0 n.toNat))) ∧
    (∀ (h : Handle) (delta : BitVec 32) k f, t.findFence h = some (k, f) → f.freeing = false →
      let n : Int := f.host + delta.toInt
      (n < 0 ∨ (hostLimit : Int) < n → exec (.objRef a 1 h delta) s = bad St.objLimit) ∧
      (n = 0 → exec (.objRef a 1 h delta) s = .next (t.fenceFree a h)) ∧
      (0 < n → n ≤ (hostLimit : Int) → exec (.objRef a 1 h delta) s =
        .next ((t.setFence k { f with host := n.toNat }).complete false a St.success 0 n.toNat))) ∧
    (∀ (h : Handle) (delta : BitVec 32) k i, t.findImage h = some (k, i) → i.freeing = false →
      let n : Int := i.host + delta.toInt
      (n < 0 ∨ (hostLimit : Int) < n → exec (.objRef a 2 h delta) s = bad St.objLimit) ∧
      (n = 0 → exec (.objRef a 2 h delta) s = .next (t.imageFree a h)) ∧
      (0 < n → n ≤ (hostLimit : Int) → exec (.objRef a 2 h delta) s =
        .next ((t.setImage k { i with host := n.toNat }).complete false a St.success 0 n.toNat))) ∧
    (∀ (obj : Handle) (extent : Word) k o, extent.toNat % 64 = 0 → t.findObj obj = some (k, o) → o.freeing = false →
      o.append = true → exec (.appendSet a obj extent) s = if 0 < o.hard then bad St.objBusy else
        if o.bytes < extent.toNat then bad St.objRange else .next (done (t.setObj k { o with extent := extent.toNat }))) ∧
    (∀ (p : Byte) (value : Word), ptnOk p = true → t.mayCreate p.toNat = true →
      ∀ k, firstGap 65536 t.host.fences.entries 0 = some k →
        let g := t.host.fenceGens.getD k 1
        exec (.fenceCreate a p value) s =
          .next ((t.setFence k ⟨g, p.toNat, value.toNat, 1, 0, false⟩).complete false a St.success 0 (mkHandle g k))) ∧
    (∀ (fence : Handle) k f, t.findFence fence = some (k, f) → f.freeing = false →
      (∀ value : Word, let r := t.signal fence value.toNat
        exec (.fenceSignal a fence value) s = .next (r.2.complete false a (if r.1 = true then St.success else St.admState))) ∧
      (∀ (inst : BitVec 16) x (view : Byte), instOk inst = true → t.inst inst.toNat = some x → fence ≠ 0 →
        exec (.fenceView a inst view fence) s = if f.ptn ≠ x.ptn then bad St.objHandle else
          .next (done (t.setInst inst.toNat { x with views := x.views.put view.toNat fence })))) ∧
    (∀ (inst : BitVec 16) x (view : Byte), instOk inst = true → t.inst inst.toNat = some x →
      exec (.fenceView a inst view 0) s =
        .next (done (t.setInst inst.toNat { x with views := x.views.drop view.toNat }))) ∧
    (∀ (p set : Byte) (data : BitVec 1536), ptnOk p = true →
      let key := 256 * p.toNat + set.toNat
      let old := ((t.host.argsets.find key).map argSlots).getD []
      (∀ e ∈ argObjs data, ∃ k o, t.findObj e.handle = some (k, o) ∧ o.freeing = false ∧ o.ptn = p.toNat) →
      (∀ k ∈ argSlots data, ∀ o, t.host.objs.find k = some o → o.dev + 1 - (if old.contains k = true then 1 else 0) ≤ devLimit) →
      exec (.argsetWrite a p set data) s = .next (done ((old.foldl (fun s k => s.unrefObj k 1 0)
        ((argSlots data).foldl (fun s k => s.refObj k 1 0) t)).onHost fun h => { h with argsets := h.argsets.put key data })))

/-- For these commands taken from the driver pair with operands in range: PT_WRITE of a slice the partition holds writes
the table at once where the rule lets it, else in an ACTIVE partition placed on the line with the pages it covers
stale. REGION_CREATE of a free region on a working engine over a live object, in range, makes it and refers to the
object; REGION_DESTROY drops an unused region and defers one in use. OPEN_ORDER of a placed COPY, pattern FILL, GATHER
or SCATTER with START and END zero joins the engine's open queue with its regions used. IMG_BIND, of an alloy index
only for a member that is JOINING or ACTIVE, walks the image's pages and reads its lines: an uncorrectable one answers
IMG_FORMAT and faults the partition; an image whose status is SUCCESS takes the lowest free slot; staged it completes
at once, else as an item of the line. IMG_UNBIND releases by handle. HEAP_SET names an aligned object of heap size or
no object, giving up the heap before; HEAP_RESET empties a heap that no command uses. Rests on R174, R176, R195, R239,
R383, R551, R553. -/
def Obligations.TablesRegionsOrdersImagesAndHeaps : Prop :=
  ∀ (s : State) (a : Adm), AdmTaken s false a →
    let t := s.takeAdm false
    let done : State → State := fun u => u.complete false a St.success
    let bad : Nat → Host.Outcome State Fault Refusal := fun st => .next (t.complete false a st)
    (∀ (p : Byte) (rec : TableRec), ptnOk p = true → recInRange rec = true → let q := p.toNat;
      (t.ptnState q = ptnFree → exec (.ptWrite a p rec) s = bad St.admState) ∧
      (t.ptnState q ≠ ptnFree → Nat.testBit (t.get Reg.ptnpSlicesSlices q) (recSlice rec) = false →
        exec (.ptWrite a p rec) s = bad St.objRange) ∧
      (t.ptnState q ≠ ptnFree → Nat.testBit (t.get Reg.ptnpSlicesSlices q) (recSlice rec) = true →
        (t.immediate q rec = true → exec (.ptWrite a p rec) s = .next (done (t.writeTable rec))) ∧
        (t.immediate q rec = false → t.ptnState q = ptnActive → exec (.ptWrite a p rec) s =
          .next ((t.staleRanges q (t.coveredRanges q rec)).placeItem q (.update rec a) (updateNs rec.entries.length))))) ∧
    (∀ (engine flags kind : Byte) (region : BitVec 16) (obj : Handle) (base lines : BitVec 32) k o, engine.toNat < 24 →
      flags.toNat ≤ 1 → region.toNat < 1024 → base.toNat < 2 ^ 30 → lines.toNat < 2 ^ 30 → kind.toNat ≤ 2 →
      t.findObj obj = some (k, o) → o.freeing = false → (t.engine engine.toNat).regions.has region.toNat = false →
      Nat.testBit (t.get Reg.astDetailFailedEngines 0) engine.toNat = false →
      let g : Region := ⟨base.toNat, lines.toNat, o.ptn, kind.toNat, k, decide (flags = 1), 0, false⟩
      let u := t.hubWalks o.ptn o.va o.bytes
      exec (.regionCreate a engine flags region obj base lines kind) s =
        if u.regionOk o.ptn engine.toNat g = false then .next (u.complete false a St.objRange) else
        if devLimit ≤ o.dev then .next (u.complete false a St.objLimit) else
          .next (done ((u.setEngine engine.toNat { t.engine engine.toNat with
            regions := (t.engine engine.toNat).regions.put region.toNat g }).refObj k 1 0))) ∧
    (∀ (engine : Byte) (region : BitVec 16) g, engine.toNat < 24 → region.toNat < 1024 →
      let x := t.engine engine.toNat
      x.regions.find region.toNat = some g → g.freeing = false →
      exec (.regionDestroy a engine region) s = if g.uses = 0 then
        .next (done ((t.setEngine engine.toNat { x with regions := x.regions.drop region.toNat }).unrefObj g.obj 1 0))
      else .next ((t.setEngine engine.toNat { x with regions := x.regions.put region.toNat { g with freeing := true } }).complete
        false a St.deferred)) ∧
    (∀ (engine p : Byte) (d : Line), engine.toNat < 24 → ptnOk p = true → t.ptnState p.toNat = ptnActive →
      descLayoutOk d = true → descStart d = 0 → descEnd d = 0 → descFlag d 5 = false → (descOp d = 3 ∨ descOp d = 4 ∨ descOp d = 7 ∨ descOp d = 8) →
      exec (.openOrder a engine p d) s = if t.descPlaced p.toNat engine.toNat d true = false then bad St.objRange else
        .next ((t.useRegions d).placeOrder engine.toNat p.toNat (t.get Reg.ptnpRegCfgApClass p.toNat) d (.order a))) ∧
    (∀ (p flags index : Byte) (obj : Handle) ok o, ptnOk p = true → flags.toNat ≤ 1 → t.ptnState p.toNat = ptnActive →
      t.findObj obj = some (ok, o) → o.freeing = false → o.ptn = p.toNat →
      index = 255 ∨ index.toNat ≤ 15 ∧ (t.mstate p.toNat = Ms.joining ∨ t.mstate p.toNat = Ms.active) →
      let q := p.toNat
      let rd := t.objRd q o.va
      let im := readImage rd
      let j := if flags = 1 then t.asStaged q (sliceMask im.sliceMap) (t.get Reg.ptnpSetsSets q ||| imageSets im) else t
      let status := j.imageStatus q rd o.bytes (t.mappedX q o.va (min o.bytes (max im.bytes 64))) (decide (index.toNat ≤ 15))
      let w := t.hubWalks q o.va (min o.bytes (max im.bytes 64))
      let dpas := w.vaDpas q ((List.range (min im.bytes o.bytes / 64)).map fun n => o.va + 64 * n)
      (∀ x, w.badLine [] dpas = some x → exec (.imgBind a p flags index obj) s =
        .next (((w.noteLines [] dpas).faultPtn q Fc.memUe (.channel (dpaChannel x))).complete false a St.imgFormat)) ∧
      (w.badLine [] dpas = none → status ≠ St.success →
        exec (.imgBind a p flags index obj) s = .next ((w.noteLines [] dpas).complete false a status)) ∧
      (w.badLine [] dpas = none → status = St.success → o.dev < devLimit →
        let v := w.noteLines [] dpas
        ∀ k, firstGap imageSlots v.host.images.entries 0 = some k →
        let bytes := (List.range (im.bytes / 64)).flatMap fun n => lineBytes ((v.readVa q (o.va + 64 * n)).getD 0)
        let r := v.takeBlocks q im
        let img : Image :=
          { gen := v.host.imageGens.getD k 1, ptn := q, obj := ok, index := if index.toNat ≤ 15 then some index.toNat else none, staged := decide (flags = 1), content := im
            digest := Config.sha256 bytes, wcetDigest := Config.sha256 (wcetBytes im), host := 1, dev := 0, freeing := false
            unbinding := false, blocks := r.1 }
        let u := (r.2.setImage k img).refObj ok 0 1
        exec (.imgBind a p flags index obj) s = if flags = 1 then
          .next ((u.installHops img).complete false a St.success 0 (mkHandle (v.host.imageGens.getD k 1) k))
        else .next (u.placeItem q (.bind k a) (bindNs im)))) ∧
    (∀ h, exec (.imgUnbind a h) s = .next (t.imageFree a h)) ∧
    (∀ (p : Byte), ptnOk p = true → let q := p.toNat;
      (t.ptnState q ≠ ptnFree → t.ptnState q ≠ ptnDestroying → ∀ (obj : Handle) k o, obj ≠ 0 → t.findObj obj = some (k, o) →
        o.freeing = false → o.ptn = q → o.append = false → heapSizeOk o.bytes = true → o.va % o.bytes = 0 →
        (t.line q).names k = false → o.dev < devLimit → t.host.heaps.find q = none → exec (.heapSet a p obj) s =
          .next (done ((t.refObj k 0 1).onHost fun h => { h with heaps := h.heaps.put q ⟨k, []⟩ }))) ∧
      (∀ hp, t.host.heaps.find q = some hp →
        (t.ptnState q ≠ ptnFree → t.ptnState q ≠ ptnDestroying → exec (.heapSet a p 0) s =
          if (t.line q).names hp.obj = true then bad St.objBusy else
            .next (done ((t.onHost fun h => { h with heaps := h.heaps.drop q }).unrefObj hp.obj 0 1))) ∧
        (exec (.heapReset a p) s = if (t.line q).names hp.obj = true then bad St.objBusy else
          .next (done (t.onHost fun h => { h with heaps := h.heaps.put q { hp with blocks := [] } })))))

/-- For a partition command taken from the driver pair with operands in range, outside compatibility mode: PTN_CREATE of a
FREE partition with an empty line, free slices and sets, a quota that fits and a known profile creates it and
succeeds; each failed check answers its own status, in order. PTN_DESTROY of an ACTIVE or FAULTED partition without
instances or membership resets it for destruction. PTN_RESET of an ACTIVE or FAULTED partition resets it; of an alloy
member that does not lead, it first faults the partition. PTN_RESHAPE of an ACTIVE partition whose plan meets every
check joins the line. ANNEAL_OVERWRITE_END ends the anneal that overwrites, once no fill of it is left. ENGINE_RESET
of a resettable slice resets its engines. Rests on R197, R264, R266, R269, R491, R492. -/
def Obligations.PartitionsCreatedDestroyedAndReshaped : Prop :=
  ∀ (s : State) (a : Adm) (p : Byte), AdmTaken s false a → ptnOk p = true →
    let t := s.takeAdm false
    let q := p.toNat
    let done : State → State := fun u => u.complete false a St.success
    let bad : Nat → Host.Outcome State Fault Refusal := fun st => .next (t.complete false a st)
    (t.compat = true → (∀ pr qu sl se, pr.toNat ≤ 3 → exec (.ptnCreate a p pr qu sl se) s = bad St.ptnCompat) ∧
      exec (.ptnDestroy a p) s = bad St.ptnCompat) ∧
    (t.compat = false → ∀ (profile : Byte) (quota : BitVec 32) (slices sets : Word), profile.toNat ≤ 3 →
      let free := slices.toNat ≠ 0 ∧ maskDiff slices.toNat (t.get Reg.ptnFreeFree 0) = 0 ∧
        maskDiff sets.toNat (t.get Reg.ptnSetsFreeSetsFree 0) = 0
      let fits := t.quotaElse q + quota.toNat ≤ quarterEntries
      let cmd := exec (.ptnCreate a p profile quota slices sets) s
      (t.ptnState q ≠ ptnFree ∨ (t.line q).items ≠ [] → cmd = bad St.ptnInUse) ∧
      (t.ptnState q = ptnFree → (t.line q).items = [] →
        (¬ free → cmd = bad St.ptnNotFree) ∧
        (free → ¬ fits → cmd = bad St.ptnQuota) ∧
        (free → fits → profile = 3 → cmd = bad St.ptnFormat) ∧
        (free → fits → profile ≠ 3 →
          cmd = .next (done (t.createPtn q profile.toNat quota.toNat slices.toNat sets.toNat))))) ∧
    (t.compat = false → let cmd := exec (.ptnDestroy a p) s;
      (t.ptnState q ≠ ptnActive → t.ptnState q ≠ ptnFaulted → cmd = bad St.admState) ∧
      (t.ptnState q = ptnActive ∨ t.ptnState q = ptnFaulted →
        (0 < t.get Reg.ptnpCfgInstances q → cmd = bad St.ptnInstances) ∧
        (t.get Reg.ptnpCfgInstances q = 0 → cmd =
          if t.mstate q ≠ Ms.none then bad St.ptnAlloy else .next (t.resetPtn q true (some a))))) ∧
    (let cmd := exec (.ptnReset a p) s;
      (t.ptnState q ≠ ptnActive → t.ptnState q ≠ ptnFaulted → cmd = bad St.admState) ∧
      (t.ptnState q = ptnActive ∨ t.ptnState q = ptnFaulted → cmd =
        .next ((if (t.mstate q = Ms.joining ∨ t.mstate q = Ms.active ∨ t.mstate q = Ms.leaving) ∧
            t.flag Reg.ptnpCfgLead q = false then t.faultPtn q Fc.orderedReset .none else t).resetPtn q false (some a)))) ∧
    (∀ r, (s.plant.boot.resets.find? fun r => decide (r.level = 3 ∧ r.ptn = q) && r.overwriting) = some r → q < 64 →
      s.fillsLeft q = false → exec (.annealOverwriteEnd (BitVec.ofNat 6 q)) s = .next ((s.endAnneal r true).tellResume q)) ∧
    (t.compat = false → ∀ (profile : Byte) (slices sets : Word) (plan : ReshapePlan), profile.toNat ≤ 3 → planOk plan = true →
      let sl := slices.toNat
      let se := sets.toNat
      let was := t.get Reg.ptnpSlicesSlices q
      let new := t.asStaged q sl se
      let cmd := exec (.ptnReshape a p profile slices sets plan) s
      (t.ptnState q ≠ ptnActive → cmd = bad St.admState) ∧
      (t.ptnState q = ptnActive → profile = 3 → cmd = bad St.ptnFormat) ∧
      (t.ptnState q = ptnActive → profile ≠ 3 → maskDiff (maskDiff sl was) (t.get Reg.ptnFreeFree 0) = 0 →
        maskDiff (maskDiff se (t.get Reg.ptnpSetsSets q)) (t.get Reg.ptnSetsFreeSetsFree 0) = 0 → sl ≠ 0 →
        (t.tables q).any (fun e => Nat.testBit (maskDiff was sl) e.1) = false →
        plan.tables.any (fun r => !Nat.testBit (sl ||| was) (recSlice r)) = false → t.movesOk new q plan.moves = true →
        t.stagesOk q sl se plan = true → ((bitsSet sl).length ≤ 4 ∨ t.get Reg.ptnpXltQuotaQuota q ≠ 0) →
        t.grantsOk q plan.grants = true →
        cmd = .next (t.placeReshape a q profile.toNat sl se plan (t.reshapeNs new q sl se plan)))) ∧
    (∀ (n slice tiles : Byte), attestPtnOk n = true → slice.toNat < 64 → exec (.engineReset a n slice tiles) s =
      if t.engineResettable n.toNat slice.toNat = true then .next (done (t.engineReset slice.toNat tiles.toNat)) else bad St.admState)

/-- PREEMPT ABSORB, WITHDRAW and KILL, taken from the driver pair with operands in range, of an ACTIVE instance of the
partition, whose partition does not follow an alloy, and of a queue that the hub may take from with no unmet fence,
take the head descriptor, judge it at the insertion point of the line (for KILL from the kill of the running victim),
and: if it is refused, post its record, give the queue's count back and complete with its status and the sequence
count; else, if ABSORB would have victims, complete with BUSY and change nothing more; else apply it and complete with
ACCEPTED, the number of victims and the sequence number. An instance that does not exist or is not ACTIVE, and a queue
that may not be taken from, answer ADM_STATE. Rests on R402. -/
def Obligations.PreemptJudgesTheHeadDescriptor : Prop :=
  ∀ (s : State) (a : Adm) (p q : Byte) (inst : BitVec 16) (desc : BitVec 2048), AdmTaken s false a → ptnOk p = true →
    instOk inst = true → q.toNat < 8 →
    let t := s.takeAdm false
    let pn := p.toNat
    let i := inst.toNat
    let k := q.toNat
    let d := parseDesc desc
    let after : Nat → State → Prop := fun mode u =>
      ((t.inst i = none ∨ ∃ x, t.inst i = some x ∧ (x.state ≠ Is.active ∨ x.ptn ≠ pn)) → u = t.complete false a St.admState) ∧
      (∀ x y, t.inst i = some x → x.state = Is.active → x.ptn = pn →
        ¬ ((t.mstate pn = Ms.joining ∨ t.mstate pn = Ms.active ∨ t.mstate pn = Ms.leaving) ∧ t.flag Reg.ptnpCfgLead pn = false) →
        t.queue i k = some y →
        (t.mayTake x y = false ∨ t.waits pn d = true → u = t.complete false a St.admState) ∧
        (t.mayTake x y = true → t.waits pn d = false →
          let head := (y.sqHead + 1) % 2 ^ (y.sqLog2 + 4)
          let r := (((t.setQueue i k (y.take head)).count
            qmgPage 0 1).exitIdle pn).otherMembers pn d
          let v := if r.2.wakeAhead pn = 0 then r.2 else r.2.placeItem pn (.wake none) (r.2.wakeAhead pn)
          let l := v.line pn
          let idx := insertionPoint l.items
          let ahead := l.items.take idx
          let alloy := decide (r.2.mstate pn ≠ Ms.none)
          let run := if mode = 2 then runningVictim l.items else none
          let tIns := match run with
            | some _ => r.2.now + Config.admitNs + (if r.2.mstate pn ≠ Ms.none then (r.2.member pn).launchNs else 0) +
                Config.killNs
            | none => (boundEnds 0 ahead).getLastD 0
          let j := v.judge pn i k head x d ahead tIns r.1
          let seq := fun c => if d.op = 2 then c.cmdSeq else c.seq
          (j.cmd = none → ∀ z, (r.2.postAdmission pn i k head d j).queue i k = some z → u =
            ((r.2.postAdmission pn i k head d j).setQueue i k { z with taken := z.taken - 1 }).complete false a j.status 0
              ((if d.op = 2 then l.cmdSeq else l.seq) * 2 ^ 32)) ∧
          (∀ c, j.cmd = some c →
            let w := ((l.items.drop idx).filterMap Item.cmd).foldl (fun w c => v.walkOne pn alloy w c)
              ⟨match run with | some x => [(x, none)] | none => [], [], c.tPromise, c.inst, c.reserved⟩
            u = if mode = 0 ∧ w.victims ≠ [] then t.complete false a St.busy
              else (v.applyPreempt pn i k head idx d.imgIndex d j c w).complete false a St.accepted 0
                (w.victims.length + seq c * 2 ^ 32))))
    (∃ u, exec (.preemptAbsorb a p inst q desc) s = .next u ∧ after 0 u) ∧
    (∃ u, exec (.preemptWithdraw a p inst q desc) s = .next u ∧ after 1 u) ∧
    (∃ u, exec (.preemptKill a p inst q desc) s = .next u ∧ after 2 u)

/-- For a handoff command taken from its pair with operands in range outside compatibility mode: HO_CREATE of one to four
extents that are in order makes an OWNED record of epoch 1 that holds its objects and answers its handle, or answers
REJ_RESOURCE without a slot. HO_ARM walks the receiving tail, and of one that fits and no record has armed makes an
ARMED record. HO_OFFER of an owned record to a reachable peer makes it OFFERED, sends the OFFER and queues its stream.
HO_FREE frees an owned, moved or armed record. HO_READ writes the record to the host. With the handle of a FREE record
HO_OFFER and HO_FREE answer HO_STATE and HO_READ writes zeros; with any other that names none they answer OBJ_HANDLE.
HO_RULE of the record's own state and epoch applies its ruling where the record admits it: SOURCE gives the epoch plus
2 to the source, DESTINATION releases, LOST frees it with an event, KEEP confirms, DROP frees; a stale state or epoch
answers HO_EPOCH, a ruling not admitted HO_STATE. Rests on R289, R291, R293, R297. -/
def Obligations.HandoffCommands : Prop :=
  ∀ (s : State) (a : Adm),
    (AdmTaken s false a → let t := s.takeAdm false;
      t.compat = false →
      let bad : Nat → Host.Outcome State Fault Refusal := fun st => .next (t.complete false a st)
      (∀ (p cls count : Byte) extents inline, ptnOk p = true → cls.toNat ≤ 15 → 1 ≤ count.toNat → count.toNat ≤ 4 →
        let ex := extents.take count.toNat;
        ex.length = count.toNat → ex.all (t.extentOk p.toNat) = true →
        (t.freeRecordSlot = none → exec (.hoCreate a p cls count extents inline) s = bad St.rejResource) ∧
        (∀ k, t.freeRecordSlot = some k →
          let r := { t.newRecord k p.toNat 1 with
            cls := cls.toNat, epoch := 1, length := (ex.map fun e => e.bytes.toNat).sum, extents := ex, inline := inline }
          exec (.hoCreate a p cls count extents inline) s =
            .next (((t.setRecord k r).holdRecord r).complete false a St.success 0 (r.handle k)))) ∧
      (∀ (p : Byte) (dev : BitVec 16) (src obj : Handle) (cap : Word) ok o k, ptnOk p = true → dev.toNat < 16384 →
        t.findObj obj = some (ok, o) → let u := t.hubWalks p.toNat (o.va + o.extent) (min cap.toNat o.bytes)
        (u.tailOk p.toNat ok o cap.toNat = false → exec (.hoArm a p dev src obj cap) s =
          .next (u.complete false a St.hoExtent)) ∧
        (u.tailOk p.toNat ok o cap.toNat = true → u.freeRecordSlot = some k →
          let r := { u.newRecord k p.toNat 4 with
            peerDevice := dev.toNat, peerHandle := src.toNat, recvObj := ok, capacity := cap.toNat, tail := o.va + o.extent }
          exec (.hoArm a p dev src obj cap) s =
            .next (((u.setRecord k r).holdRecord r).complete false a St.success 0 (r.handle k)))) ∧
      (∀ (h : Handle), t.findRecord h.toNat = none →
        let st := if t.freeHandle h.toNat = true then St.hoState else St.objHandle
        (∀ (dev : BitVec 16) (dst : Handle), dev.toNat < 16384 → exec (.hoOffer a h dev dst) s = bad st) ∧
        exec (.hoFree a h) s = bad st ∧
        (∀ dst : Word, exec (.hoRead a h dst) s = if t.freeHandle h.toNat = true then
          .next ((t.emit (.hostWrite dst.toNat (natBytes 256 0))).complete false a St.success) else bad St.objHandle)) ∧
      (∀ (h : Handle) k r, t.findRecord h.toNat = some (k, r) →
        (∀ (dev : BitVec 16) (dst : Handle), dev.toNat < 16384 → r.owned = true →
          t.reachable dev.toNat = true → r.epoch ≤ 0xFFFFFFFB → ∀ x,
          let u := (t.enterRecord k 2 r.epoch fun x => { x with peerDevice := dev.toNat, peerHandle := dst.toNat }).complete
            false a St.success
          u.record k = some x → exec (.hoOffer a h dev dst) s =
            .next (((u.hoToDest k x 1 x.epoch x.length).onNet fun n => { n with streams := n.streams ++ [k] }).beginStreams)) ∧
        (exec (.hoFree a h) s = if r.owned = true ∨ r.state = 3 ∨ r.state = 4 then
          .next ((t.freeRecord k).complete false a St.success) else bad St.hoState) ∧
        (∀ dst : Word, exec (.hoRead a h dst) s =
          .next ((t.emit (.hostWrite dst.toNat r.bytes)).complete false a St.success)))) ∧
    (AdmTaken s true a → let t := s.takeAdm true;
      t.compat = false → ∀ (st : Byte) (h : Handle) (ep : BitVec 32), st.toNat ≤ 6 →
      let done : State → State := fun u => u.beginStreams.complete true a St.success
      let all : Host.Outcome State Fault Refusal → Prop := fun o =>
        exec (.hoRuleSource a st h ep) s = o ∧ exec (.hoRuleDestination a st h ep) s = o ∧ exec (.hoRuleLost a st h ep) s = o ∧
        exec (.hoRuleKeep a st h ep) s = o ∧ exec (.hoRuleDrop a st h ep) s = o
      (t.findRecord h.toNat = none → all (.next (t.complete true a St.hoEpoch))) ∧
      (∀ k r, t.findRecord h.toNat = some (k, r) →
        (r.state ≠ st.toNat ∨ r.epoch ≠ ep.toNat → all (.next (t.complete true a St.hoEpoch))) ∧
        (r.state = st.toNat → r.epoch = ep.toNat →
          (r.offered = true →
            exec (.hoRuleSource a st h ep) s = .next (done (t.enterRecord k 1 (r.epoch + 2))) ∧
            (let u := t.enterRecord k 3 r.epoch;
              exec (.hoRuleDestination a st h ep) s = .next (done
                (if u.reachable r.peerDevice = true then u.hoToDest k r 7 r.epoch 0 else u))) ∧
            (r.dataLost = true → exec (.hoRuleLost a st h ep) s = .next (done ((t.hoEvent k r 3).freeRecord k)))) ∧
          (r.unconfirmed = true →
            exec (.hoRuleKeep a st h ep) s =
              .next (done (t.setRecord k { r with confirmed := true, rulingWait := false, nextSend := none })) ∧
            exec (.hoRuleDrop a st h ep) s = .next (done (t.freeRecord k))))))

/-- For an existing instance: LOG_CTL enable clears its log and turns logging on, disable turns it off; LOG_FETCH within
the log writes the words asked for to the host and clears their bits, beyond it answers OBJ_RANGE; APERTURE_MAP sets
the window's base and PASID_BIND the PASID. While the BARs are open: an aperture read through an open window whose
lines are all found serves each line and returns the bytes asked for (zeros where an append object reads as zero), and
an uncorrectable line faults the partition and aborts the read; an aperture write whose lines are found writes its
bytes line by line, or is discarded and counted where a live command names one of its objects; to a resetting instance
it is discarded and counted, through a closed window of an instance that neither drains nor resets it counts an error.
Rests on R285, R385, R386, R388, R390. -/
def Obligations.LogsApertureAndPasid : Prop :=
  ∀ (s : State),
    (∀ (a : Adm) (inst : BitVec 16) x, AdmTaken s false a → instOk inst = true → let t := s.takeAdm false;
      let i := inst.toNat
      let done : State → State := fun u => u.complete false a St.success
      t.inst i = some x →
      exec (.logCtlEnable a inst) s = .next (done
        ((t.onHost fun h => { h with logBits := h.logBits.keep fun k _ => decide (k / 2 ^ 25 ≠ i) }).setInst i
          { x with logging := true })) ∧
      exec (.logCtlDisable a inst) s = .next (done (t.setInst i { x with logging := false })) ∧
      (∀ (first count : BitVec 32) (dst : Word), let f := first.toNat; let n := count.toNat;
        (t.logWords < f + n → exec (.logFetch a inst first count dst) s = .next (t.complete false a St.objRange)) ∧
        (f + n ≤ t.logWords → exec (.logFetch a inst first count dst) s = .next (done
          ((t.emit (.hostWrite dst.toNat ((List.range n).flatMap fun k => natBytes 8 (t.logWord i (f + k))))).onHost fun h =>
            { h with logBits := h.logBits.keep fun k _ =>
              !(decide (k / 2 ^ 25 = i) && decide (64 * f ≤ k % 2 ^ 25 ∧ k % 2 ^ 25 < 64 * (f + n))) })))) ∧
      (∀ base : Word, base.toNat % 65536 = 0 →
        exec (.apertureMap a inst base) s = .next (done (t.setInst i { x with apertureBase := base.toNat }))) ∧
      (∀ pasid : BitVec 32, pasid.toNat < 2 ^ 20 →
        exec (.pasidBind a inst pasid) s = .next (done (t.setInst i { x with pasid := some pasid.toNat })))) ∧
    (s.barsOpen = true → ∀ (inst : BitVec 9) (offset : BitVec 27) x, s.inst inst.toNat = some x →
      let i := inst.toNat
      let va := x.apertureBase + offset.toNat
      (x.windowOpen = false → ∀ size errs, exec (.apertureRead inst offset size errs) s = .next s.apRefuse) ∧
      (x.windowOpen = true → ∀ (size : BitVec 13) errs ls, let r := (s.meetErrors errs).apLines errs i x false (lineVas va size.toNat)
        r.1 = some ls → let t := ls.foldl (fun s l => s.apServe x.ptn l.2.1) r.2
          let live := (ls.filter fun l => !l.2.2.2.1.readsZero l.1).map fun l => l.2.1
          (t.badLine errs live = none → exec (.apertureRead inst offset size errs) s =
            .next ((t.noteLines errs live).emit (.busRead (some (((ls.flatMap fun l =>
              lineBytes (if l.2.2.2.1.readsZero l.1 = true then 0 else t.delivered errs l.2.1)).drop (va % 64)).take size.toNat))))) ∧
          (∀ d, t.badLine errs live = some d → exec (.apertureRead inst offset size errs) s =
            .next (((t.noteLines errs live).faultPtn x.ptn Fc.memUe (.channel (dpaChannel d))).emit .busAbort))) ∧
      (x.state = Is.resetting → ∀ data errs,
        exec (.apertureWrite inst offset data errs) s = .next (s.bump Reg.hifStsApDiscard 0)) ∧
      (x.windowOpen = false → x.state ≠ Is.resetting → x.state ≠ Is.draining → ∀ data errs,
        exec (.apertureWrite inst offset data errs) s = .next (s.bump Reg.hifStsApErr 0)) ∧
      (x.windowOpen = true → x.state ≠ Is.draining → ∀ data errs ls, let r := (s.meetErrors errs).apLines errs i x true (lineVas va data.length);
        r.1 = some ls → exec (.apertureWrite inst offset data errs) s =
          .next (if (ls.any fun l => r.2.namedByCommand x.ptn l.2.2.1 fun _ => false) = true then r.2.bump Reg.hifStsApDiscard 0
            else ls.foldl (fun s l => s.apWriteLine i x.ptn va data errs l) r.2)))

/-- For a command taken from the FM pair with operands in range, outside compatibility mode: ALLOY_JOIN answers the status
its checks give, else the partition is JOINING with the members, the plan, the join time and window, LEAD if this
device leads. ALLOY_LEAVE at the ACTIVE lead, of distinct members, joins the line. ALLOY_DISSOLVE of a member voids
and kills the alloy's commands and ends the membership. ALLOY_RESUME at a FAULTED lead whose members have all resumed
sends ACTIVE down and makes it ACTIVE. ALLOY_RULE of a JOINING member abandons the join or makes it ACTIVE. ALLOY_TREE
installs an entry within 256 trees and 11 a port, or removes one. ROUTE_WRITE writes the entries, in compatibility
mode too. ALLOY_GAP of a member at an epoch not past keeps the gap for that epoch. In compatibility mode each of them
but ROUTE_WRITE answers ALLOY_COMPAT. Rests on R277, R281, R283, R321, R343, R451. -/
def Obligations.AlloyCommands : Prop :=
  ∀ (s : State) (a : Adm), AdmTaken s true a →
    let t := s.takeAdm true
    let done : State → State := fun u => u.complete true a St.success
    let bad : Nat → Host.Outcome State Fault Refusal := fun st => .next (t.complete true a st)
    (∀ (p : Byte) (lead : BitVec 16) (alloy windowUs : BitVec 32) (tJoin : Word) (plan : JoinPlan), ptnOk p = true →
      lead.toNat < 16384 → joinPlanOk plan = true →
      let q := p.toNat
      let members := plan.members.map BitVec.toNat
      (∀ st, t.joinCheck q lead.toNat alloy.toNat members = some st →
        exec (.alloyJoin a p lead alloy windowUs tJoin plan) s = bad st) ∧
      (t.joinCheck q lead.toNat alloy.toNat members = none →
        let u := t.setMember q { Membership.empty with
          members := members, hops := plan.hops, paths := plan.paths.map fun x => x.map BitVec.toNat
          tJoin := tJoin.toNat, window := 1000 * windowUs.toNat, join := some a }
        exec (.alloyJoin a p lead alloy windowUs tJoin plan) s =
          .next (((((u.setMstate q Ms.joining).set Reg.ptnpCfgLead q (if lead.toNat = t.deviceId then 1 else 0)).set
            Reg.ptnpAlloyAlloyId q alloy.toNat).set Reg.ptnpAlloyMembers q members.length).set
              Reg.ptnpAlloyLeadDevice q lead.toNat))) ∧
    (t.compat = true → (∀ (up down member : Byte) alloy, treeArgsOk up down member = true →
      exec (.alloyTreeInstall a up down member alloy) s = bad St.alloyCompat ∧
      exec (.alloyTreeRemove a up down member alloy) s = bad St.alloyCompat) ∧
      ∀ p : Byte, ptnOk p = true → exec (.alloyDissolve a p) s = bad St.alloyCompat ∧
      exec (.alloyResume a p) s = bad St.alloyCompat ∧ exec (.alloyRuleNone a p) s = bad St.alloyCompat ∧
      exec (.alloyRuleActive a p) s = bad St.alloyCompat ∧ ∀ l, exec (.alloyLeave a p l) s = bad St.alloyCompat) ∧
    (t.compat = false → ∀ p : Byte, ptnOk p = true → let q := p.toNat; let m := t.member q;
      (∀ leaving : List (BitVec 16), let ds := leaving.map BitVec.toNat;
        t.mstate q = Ms.active → t.flag Reg.ptnpCfgLead q = true → t.ptnState q = ptnActive →
        exec (.alloyLeave a p leaving) s = if ds = [] ∨ distinct ds = false ∨ (∃ d ∈ ds, m.members.contains d = false) then
          bad St.alloyList else .next (t.placeItem q (.leave ds none a) (m.launchNs + 2000))) ∧
      (exec (.alloyDissolve a p) s = if t.mstate q = Ms.none then bad St.admState else
        .next (done (((((t.voidAlloy q .fault Fc.dissolved).killAlloy q
          ⟨St.killedVoided, .fault, Fc.dissolved, none, 0⟩).endJoin q St.joinFailed).endMembership q)))) ∧
      (t.mstate q = Ms.faulted → t.flag Reg.ptnpCfgLead q = true → exec (.alloyResume a p) s =
        if ∀ d ∈ m.members, m.resumed.contains d = true then
          .next (done ((t.sendDown (t.get Reg.ptnpAlloyAlloyId q) 0x18 0 0).becomeActive q)) else bad St.alloyBusy) ∧
      (exec (.alloyRuleNone a p) s = if t.mstate q = Ms.joining then .next (done (t.abandonJoin q)) else bad St.admState) ∧
      (exec (.alloyRuleActive a p) s = if t.mstate q = Ms.joining then .next (done (t.becomeActive q)) else bad St.admState)) ∧
    (t.compat = false → ∀ (up down member : Byte) (alloy : BitVec 32), treeArgsOk up down member = true →
      let e : TreeEntry := ⟨if up.toNat = 7 then none else some up.toNat, down.toNat,
        if member.toNat = 255 then none else some member.toNat, [], []⟩
      let full := 256 ≤ (t.net.trees.entries.filter fun e => decide (e.1 ≠ alloy.toNat)).length ∨
        ∃ n, n < 6 ∧ e.uses n = true ∧ 11 ≤ t.treesOn alloy.toNat n
      (full → exec (.alloyTreeInstall a up down member alloy) s = bad St.alloyTreeFull) ∧
      (¬ full → exec (.alloyTreeInstall a up down member alloy) s =
        .next (done (t.onNet fun n => { n with trees := n.trees.put alloy.toNat e }))) ∧
      (exec (.alloyTreeRemove a up down member alloy) s = if t.tree alloy.toNat = none then bad St.admState else
        .next (done (t.onNet fun n => { n with trees := n.trees.drop alloy.toNat })))) ∧
    (∀ (first count : BitVec 16) (entries : List (BitVec 4)), first.toNat + count.toNat ≤ 16384 →
      entries.length = count.toNat → entries.all routeCode = true → exec (.routeWrite a first count entries) s =
        .next (done (t.onNet fun n => { n with routes := (withIdx entries).foldl (fun (m : FMap Nat) e =>
          m.putD (first.toNat + e.1) 0xF e.2.toNat) n.routes }))) ∧
    (∀ (p gap : Byte) (epoch : Word), ptnOk p = true → gap.toNat ≤ 8 → epoch.toNat % 1000000 = 0 →
      exec (.alloyGap a p gap epoch) s = if t.compat = true then bad St.alloyCompat else if t.mstate p.toNat = Ms.none ∨ epoch.toNat < t.now then bad St.admState else
        .next (done (t.setMember p.toNat { t.member p.toNat with gapNext := some (gap.toNat, epoch.toNat) })))

/-- JOIN_INSTANT of a JOINING member not yet synced, with an empty line at a seam, within the window, takes time to
T_join, reports its hops unless it leads, and its JOIN_SYNC arrives, which at a lead whose members are all in
completes the join. The window's end at a JOINING lead sends ABANDON, posts the notice that names the first missing
member and abandons. ALLOY_UNDECIDED posts its notice once, two windows after T_join. The leave instant ends the
membership of a leaving device, and at the others drops the leaving members. The epoch of a new gap applies it outside
an alert and a quench, and does nothing else. With the partition's segment run to now, a barrier record at the tick
that a running alloy command has reached, not yet arrived at, holds the line and sends the arrival, which at the lead
with all arrived opens the barrier. Rests on R277, R281, R344, R451. -/
def Obligations.AlloyInstants : Prop :=
  ∀ (s : State) (p : PtnNo), let q := p.toNat; let m := s.member q; let alloy := fun t : State => t.get Reg.ptnpAlloyAlloyId q;
    (s.mstate q = Ms.joining → m.synced = false → (s.line q).isEmpty = true → s.atSeam q = true →
      max s.now m.tJoin < m.tJoin + m.window →
      let t := s.atLeast (max s.now m.tJoin)
      let u := if t.flag Reg.ptnpCfgLead q = true then t else t.sendHopReport q
      let v := u.setMember q { u.member q with synced := true }
      let r := v.arrive (alloy v) 0x17 0 0 8
      exec (.joinInstant p) s = .next (if r.1 = true then r.2.joinComplete (alloy v) q else r.2)) ∧
    (s.mstate q = Ms.joining → s.flag Reg.ptnpCfgLead q = true →
      let t := s.atLeast (m.tJoin + m.window)
      let missing := ((withIdx m.members).find? fun e => !t.syncedFrom q e.1 e.2).map Prod.snd
      exec (.joinWindowEnd p) s = .next (((t.sendDown (alloy t) 0x19 0 0).notice St.nJoinAbandoned q (alloy t)
        (missing.getD 0)).abandonJoin q)) ∧
    (s.mstate q = Ms.joining → m.undecided = false → let t := s.atLeast (m.tJoin + 2 * m.window);
      exec (.alloyUndecided p) s =
        .next ((t.setMember q { m with undecided := true }).notice St.nAlloyUndecided q (alloy t) 0)) ∧
    (s.mstate q = Ms.joining → m.undecided = true → exec (.alloyUndecided p) s = .next s) ∧
    (∀ at_, m.tLeave = some at_ → let t := s.atLeast at_;
      (m.leaving.contains t.deviceId = true → exec (.leaveInstant p) s = .next (t.endMembership q)) ∧
      (m.leaving.contains t.deviceId = false →
        let left := m.members.filter fun d => !m.leaving.contains d
        let u := ((t.setMember q { m with
          members := left, tLeave := none, leaving := []
          digests := m.digests.filter fun e => !m.leaving.contains e.1 }).setMstate q Ms.active).set
            Reg.ptnpAlloyMembers q left.length
        exec (.leaveInstant p) s = .next ((List.range 16).foldl (fun s i =>
          if Nat.testBit (s.get Reg.ptnpAlloyImgBound q) i then s.settleReady q i else s) u))) ∧
    (∀ g epoch, m.gapNext = some (g, epoch) → let t := s.atLeast epoch;
      exec (.alloyGapEpoch p) s =
        .next (if t.flag Reg.pwrStsAlert 0 = true ∨ t.quenched = true ∨ t.now < epoch then t else
          (t.setMember q { t.member q with gapNext := none }).set Reg.ptnpPwrAlloyG q g)) ∧
    (m.gapNext = none → exec (.alloyGapEpoch p) s = .next s) ∧
    (∀ c g im (index : BitVec 16), let r := s.runSeg q; r.headCmd q = some c → r.seg q = some g →
      r.host.images.find c.image = some im → c.op = 2 → c.phase = .running → r.ticking q = true →
      g.barriers.contains index.toNat = false →
      (∃ x ∈ im.content.linkSlots, barrierRec x c.segment index.toNat = true ∧ recField x 8 4 = g.tick) →
      let t := r.setSeg q { g with barriers := g.barriers ++ [index.toNat] }
      let u := t.setLine q { t.line q with hold := some (.barrier index.toNat, t.now) }
      let a := u.arrive (alloy r) 0x15 c.cmdSeq index.toNat 8
      exec (.barrierTick p index) s =
        .next (if a.1 = true then a.2.barrierOpens (alloy r) q c.cmdSeq index.toNat else a.2))

/-- A message that comes down from the tree's upper port goes on to every lower port and then acts on the local member if
the device has one: BARRIER_GO opens the barrier, LAUNCH, RELEASE and ABORT are delivered, ACTIVE makes the member
ACTIVE, ABANDON ends its join, LEAVE makes an ACTIVE member LEAVING at its time. One that does not come from the upper
port, open, is stray at its port. BARRIER_ARRIVE, COMMIT and JOIN_SYNC from a lower port count there, and at the root,
once every lower port and the local member have arrived, open the barrier, commit, or complete the join; a JOIN_SYNC
at an ACTIVE root adds the member, and at a root neither ACTIVE nor JOINING is discarded. VOID goes on away from its
port once. Hop reports, digests and resume reports of a member are noted at its lead and ignored elsewhere. Rests on
R53, R277, R280, R281, R283, R320, R321, R344, R345, R405. -/
def Obligations.AlloyMessages : Prop :=
  ∀ (s : State) (m : AlloyMsg), let id := alloyId m; let seq := alloySeq m; let index := m.arg.toNat % 2 ^ 16;
    (s.fromUp m = true → let down := fun op => s.sendDown id op seq m.arg;
      (∀ p, s.localMember id = some p →
        exec (.barrierGo m) s = .next ((down 0x16).passBarrier p seq index) ∧
        exec (.launch m) s = .next ((down 0x10).deliverLaunch p m) ∧
        exec (.release m) s = .next ((down 0x12).deliverRelease p m) ∧
        exec (.abort m) s = .next ((down 0x14).deliverAbort p m) ∧
        exec (.active m) s = .next ((down 0x18).becomeActive p) ∧
        exec (.abandon m) s = .next ((down 0x19).abandonJoin p) ∧
        ∀ leaving : List (BitVec 16), exec (.leave m leaving) s = .next (if (down 0x1A).mstate p = Ms.active then
          ((down 0x1A).setMstate p Ms.leaving).setMember p { (down 0x1A).member p with
            tLeave := some (alloyTime m (down 0x1A).now), leaving := leaving.map BitVec.toNat } else down 0x1A)) ∧
      (s.localMember id = none →
        exec (.barrierGo m) s = .next (down 0x16) ∧ exec (.launch m) s = .next (down 0x10) ∧
        exec (.release m) s = .next (down 0x12) ∧ exec (.abort m) s = .next (down 0x14) ∧
        exec (.active m) s = .next (down 0x18) ∧ exec (.abandon m) s = .next (down 0x19) ∧
        ∀ leaving, exec (.leave m leaving) s = .next (down 0x1A))) ∧
    (s.fromUp m = false → let stray := Host.Outcome.next (s.strayMsg m); ∀ leaving,
      exec (.barrierGo m) s = stray ∧ exec (.launch m) s = stray ∧ exec (.release m) s = stray ∧
      exec (.abort m) s = stray ∧ exec (.active m) s = stray ∧ exec (.abandon m) s = stray ∧
      exec (.leave m leaving) s = stray) ∧
    (∀ n, s.fromDown m = some n →
      (let r := s.arrive id 0x15 seq index n;
        (∀ p, r.1 = true → s.localMember id = some p → exec (.barrierArrive m) s = .next (r.2.barrierOpens id p seq index)) ∧
        (r.1 = false ∨ s.localMember id = none → exec (.barrierArrive m) s = .next r.2)) ∧
      (let r := s.arrive id 0x11 seq 0 n;
        (∀ p, r.1 = true → s.localMember id = some p → exec (.commit m) s = .next (r.2.alloyCommit p seq)) ∧
        (r.1 = false ∨ s.localMember id = none → exec (.commit m) s = .next r.2)) ∧
      (∀ (device : DeviceId) t p, s.tree id = some t → t.member = some p → (s.mstate p = Ms.joining) →
        let r := (s.setMember p { s.member p with syncs := device.toNat :: (s.member p).syncs }).arrive id 0x17 seq 0 n
        exec (.joinSync m device) s = .next (if r.1 = true then r.2.joinComplete id p else r.2)) ∧
      (∀ (device : DeviceId) t p, s.tree id = some t → t.member = some p → t.up = none →
        (s.mstate p = Ms.active → exec (.joinSync m device) s = .next (s.addMember id p device.toNat)) ∧
        (s.mstate p ≠ Ms.active → s.mstate p ≠ Ms.joining → exec (.joinSync m device) s = .next s)) ∧
      (∀ device, s.localMember id = none → exec (.joinSync m device) s = .next (s.arrive id 0x17 seq 0 n).2)) ∧
    (s.fromDown m = none → let stray := Host.Outcome.next (s.strayMsg m); ∀ device,
      exec (.barrierArrive m) s = stray ∧ exec (.commit m) s = stray ∧ exec (.joinSync m device) s = stray) ∧
    (∀ t n, s.tree id = some t → m.port = some n → t.uses n.toNat = true → s.portOpen n.toNat = true →
      (t.voided.contains seq = true → exec (.void m) s = .next (s.strayMsg m)) ∧
      (t.voided.contains seq = false →
        let u := s.sendVoid id seq (causeOf (m.arg.toNat % 256)) (m.arg.toNat / 256 % 256) (some n.toNat)
        exec (.void m) s = .next (match t.member with
          | some p => u.deliverVoid p m
          | none => u))) ∧
    (∀ (p : PtnNo) (device : DeviceId), let q := p.toNat; let d := device.toNat; let x := s.member q;
      (s.leads q d = true →
        (∀ hops : List (BitVec 16 × BitVec 16), let named := hops.map fun h => h.1.toNat;
          exec (.hopReport p device hops) s = .next (s.setMember q { x with
            hopS := (x.hopS.filter fun e => !(decide (e.1 = d) && named.contains e.2.1)) ++
              hops.map fun h => (d, h.1.toNat, h.2.toNat) })) ∧
        (∀ i g, exec (.wcetDigest p device i g) s = .next (s.noteDigest q d i.toNat (some g))) ∧
        exec (.resumeReport p device) s = .next (if s.mstate q = Ms.faulted then s.noteResumed q d else s)) ∧
      (s.leads q d = false → (∀ h, exec (.hopReport p device h) s = .next s) ∧
        (∀ i g, exec (.wcetDigest p device i g) s = .next s) ∧ exec (.resumeReport p device) s = .next s))

/-- Of a command taken from the driver pair: PWR_PARK of an ACTIVE partition outside an alloy (and with nothing resident
for SP4) joins the line; PWR_WAKE succeeds at once when every slice is at SP2 or above, else joins the line. DEV_STATE
to DS0 from DS3 answers SUCCESS and boots warm, from DS2 restores every slice and unparks every partition, and else
only answers. To DS2, with every line empty, no membership and nothing resident, it takes every bound and pool slice
to SP4, parks every partition, puts every channel in self-refresh. To DS3, with every partition FREE and no record or
tree held, it closes every port and stops time. A slice idle since the last end of its partition's work falls, no
sooner than IDLE_SP1_NS later, from SP0 to SP1, and, no sooner than IDLE_SP2_US later, from SP1 to SP2; one that is
not idle stays. A channel's return from self-refresh ends at its instant, where the states of its slices let it serve.
Rests on R441, R443, R445, R446, R447. -/
def Obligations.PowerStatesByCommand : Prop :=
  ∀ (s : State),
    (∀ a, AdmTaken s false a → let t := s.takeAdm false;
      let done : State → State := fun u => u.complete false a St.success
      let bad : Nat → Host.Outcome State Fault Refusal := fun st => .next (t.complete false a st)
      (∀ (p st : Byte), ptnOk p = true → let q := p.toNat;
        (st = 3 ∨ st = 4 → exec (.pwrPark a p st) s =
          if t.ptnState q ≠ ptnActive ∨ t.mstate q ≠ Ms.none ∨ (st = 4 ∧ (t.line q).resident.isSome = true) then bad St.admState
          else .next (t.placeItem q (.park st.toNat a) 2000)) ∧
        (let up := ∀ sl ∈ t.slicesOf q, t.slicePower sl ≤ 2;
          (up → exec (.pwrWake a p) s = bad St.success) ∧
          (¬ up → t.ptnState q ≠ ptnActive → exec (.pwrWake a p) s = bad St.admState) ∧
          (¬ up → t.ptnState q = ptnActive → exec (.pwrWake a p) s =
            .next (t.placeItem q (.wake (some a)) (greatestOver (t.slicesOf q) fun sl => exitNs (t.slicePower sl)))))) ∧
      (t.get Reg.pwrStsDstate 0 = 3 → exec (.devStateDs0 a) s = .next (done t).warmBoot) ∧
      (t.get Reg.pwrStsDstate 0 = 2 → exec (.devStateDs0 a) s =
        (let u := t.set Reg.pwrStsDstate 0 0;
          let u := u.boundSlices.foldl (fun s sl => s.setSlicePower sl 0) u;
          let u := (List.range 64).foldl (fun s p => s.set Reg.ptnpPwrParked p 0) u;
          .next (done (u.poolSlices.foldl (fun s sl => s.setSlicePower sl s.poolState) u)))) ∧
      (t.get Reg.pwrStsDstate 0 ≠ 2 → t.get Reg.pwrStsDstate 0 ≠ 3 → exec (.devStateDs0 a) s = .next (done t)) ∧
      (let idle := (∀ l ∈ t.host.lines.vals, l.isEmpty = true) ∧ (∀ p < 64, t.mstate p = Ms.none) ∧ t.anyResident = false;
        (¬ idle → exec (.devStateDs2 a) s = bad St.admState) ∧
        (idle → exec (.devStateDs2 a) s =
          (let u := (t.boundSlices ++ t.poolSlices).foldl (fun s sl => s.setSlicePower sl 4) t;
            let u := (List.range 64).foldl (fun s p => if s.ptnState p = ptnFree then s else s.raise Reg.ptnpPwrParked p) u;
            let u := (List.range 768).foldl (fun s ch => s.setChannel ch { s.channel ch with selfRefresh := true }) u;
            .next (done (u.set Reg.pwrStsDstate 0 2))))) ∧
      (let clear := (∀ p < 64, t.ptnState p = ptnFree) ∧ t.net.records.entries = [] ∧ t.net.trees.entries = [];
        (¬ clear → exec (.devStateDs3 a) s = bad St.admState) ∧
        (clear → exec (.devStateDs3 a) s =
          (let u := (List.range 6).foldl (fun s n => s.closePort n Cl.admin) t;
            let u := u.set Reg.ftmStsLstate 0 (if u.role = 0 then Ts.local else Ts.unlocked);
            let u := (u.onSide fun x => { x with ibis := x.ibis ++ [5] }).onClock fun x => { x with stopped := true };
            .next ((done u).set Reg.pwrStsDstate 0 3))))) ∧
    (∀ slice : SliceNo, let sl := slice.toNat;
      (s.sliceIdle sl = true →
        (s.slicePower sl = 0 → exec (.idleSp1 slice) s =
          .next ((s.atLeast (s.idleSince sl + max 1 (s.get Reg.pwrLadderIdleSp1Ns 0))).setSlicePower sl 1)) ∧
        (s.slicePower sl = 1 → exec (.idleSp2 slice) s =
          .next ((s.atLeast (s.idleSince sl + 1000 * max 1 (s.get Reg.pwrLadderIdleSp2Us 0))).setSlicePower sl 2))) ∧
      (s.sliceIdle sl = false → exec (.idleSp1 slice) s = .next s ∧ exec (.idleSp2 slice) s = .next s)) ∧
    (∀ channel : BitVec 10, let ch := channel.toNat;
      (∀ at_, (s.channel ch).returnAt = some at_ → let t := s.atLeast at_;
        exec (.selfRefreshReturn channel) s = .next (t.setChannel ch { s.channel ch with
          returnAt := none, selfRefresh := t.chAtRest ch })) ∧
      ((s.channel ch).returnAt = none → exec (.selfRefreshReturn channel) s = .next s))

/-- FW_STAGE of an image that verifies and fits writes the other bank and stages it; one that does not is stored
unverified with ADM_DENIED. FW_SVN_COMMIT never lowers the fuses and refuses a number above the running one. ATTEST by
either pair queues its request; the snapshot answers the first request with the report, or OBJ_RANGE and its length
where the capacity is short. CONSENT that adds consent needs an ACTIVE partition without instances; a change counts a
new epoch, and withdrawing debug ends the session. DBG_OPEN needs an ACTIVE consenting partition and joins the line;
DBG_CLOSE ends it. The DOE objects answer while the mailbox is open: identity, endorsement, discovery, and link keys
of a known stream. TRNG_FAIL sets its status; its timeout closes a port in SECURE, or answers the first attestation
request BUSY. Rests on R349, R465, R468, R472, R474, R475. -/
def Obligations.FirmwareAttestationAndConsent : Prop :=
  ∀ (s : State),
    (∀ a, AdmTaken s false a → let t := s.takeAdm false;
      let done : State → State := fun u => u.complete false a St.success
      let bad : Nat → Host.Outcome State Fault Refusal := fun st => .next (t.complete false a st)
      (∀ (bytes : BitVec 32) image, let k := 1 - t.get Reg.secStsBank 0;
        let ok := t.bankVerifies image = true ∧ bankBytes image ≤ bytes.toNat
        (ok → exec (.fwStage a bytes image) s = .next (done (((t.onSec fun x => { x with banks := x.banks.put k image }).set
          Reg.secStsBankNext 0 k).set Reg.secStsStaged 0 1))) ∧
        (¬ ok → exec (.fwStage a bytes image) s =
          .next (((t.onSec fun x => { x with banks := x.banks.put k { image with sigOk := false } }).set
            Reg.secStsStaged 0 0).complete false a St.admDenied))) ∧
      (∀ svn : Byte, svn.toNat ≤ 64 → let n := max (t.get Reg.secStsFuses 0) svn.toNat;
        exec (.fwSvnCommit a svn) s = if t.get Reg.secStsSvn 0 < svn.toNat then bad St.admDenied
          else .next ((t.set Reg.secStsFuses 0 n).complete false a St.success 0 n)) ∧
      (∀ (p : Byte) cap dst nonce, attestPtnOk p = true → exec (.attest a p cap dst nonce) s =
        .next (t.askAttest ⟨some false, a, p.toNat, cap.toNat, dst.toNat, nonce⟩)) ∧
      (∀ (p flags : Byte), ptnOk p = true → flags.toNat < 4 → let q := p.toNat;
        let d := t.get Reg.ptnpSecDebug q
        let r := t.get Reg.ptnpSecProfile q
        let d' := flags.toNat % 2
        let r' := flags.toNat / 2
        let barred := (d < d' ∨ r < r') ∧ (t.ptnState q ≠ ptnActive ∨ 0 < t.get Reg.ptnpCfgInstances q)
        (barred → exec (.consent a p flags) s = bad St.admState) ∧
        (¬ barred →
          let u := ((if d = 1 ∧ d' = 0 then t.endDebug q else t).set Reg.ptnpSecDebug q d').set Reg.ptnpSecProfile q r'
          let v := if d ≠ d' ∨ r ≠ r' then u.set Reg.ptnpSecConsentEpoch q (u.get Reg.ptnpSecConsentEpoch q + 1) else u
          exec (.consent a p flags) s =
            .next (v.complete false a St.success 0 (v.get Reg.ptnpSecConsentEpoch q)))) ∧
      (∀ p : Byte, ptnOk p = true → let q := p.toNat;
        (exec (.dbgOpen a p) s = if t.ptnState q ≠ ptnActive ∨ t.flag Reg.ptnpSecDebug q = false then bad St.admState
          else .next (t.placeItem q (.debug a) 0)) ∧
        (exec (.dbgClose a p) s = if (t.line q).items.any Item.isDebug = true then .next (done (t.endDebug q))
          else bad St.admState))) ∧
    (∀ a (p : Byte) cap dst nonce, AdmTaken s true a → attestPtnOk p = true → exec (.attestFm a p cap dst nonce) s =
      .next ((s.takeAdm true).askAttest ⟨some true, a, p.toNat, cap.toNat, dst.toNat, nonce⟩)) ∧
    (∀ r rest, s.plant.sec.attest = r :: rest → let t := s.onSec fun x => { x with attest := rest };
      let total := t.reportBytes r.ptn (t.reportValid r.ptn)
      exec .attestSnapshot s = .next (if r.capacity < total then t.answerAttest r St.objRange total else
        if r.pair.isSome = true then (t.emit (.hostWrite r.dst (t.report r.ptn r.nonce))).answerAttest r St.success total
        else t.emit (.doe (0 :: (t.report r.ptn r.nonce).map BitVec.toNat))) ∧
      exec (.trngTimeout 2 0) s = .next (t.answerAttest r St.busy 0)) ∧
    (s.mailboxOpen = true → ∀ (p : Byte) cap nonce,
      (attestPtnOk p = true → exec (.attestDoe 0 p cap nonce) s =
        .next (s.askAttest ⟨none, ⟨0, false, true, false⟩, p.toNat, cap.toNat, 0, nonce⟩)) ∧
      exec (.attestDoe 1 p cap nonce) s = .next (s.emit (.doe (0 :: Config.identityCert.map BitVec.toNat))) ∧
      exec (.attestDoe 2 p cap nonce) s = .next (s.emit (.doe (0 :: s.endorsement.map BitVec.toNat))) ∧
      (∀ (stream sub : BitVec 3) rx setGo, let key := 16 * stream.toNat + 2 * sub.toNat + (if rx = true then 1 else 0);
        stream.toNat ≤ 4 → sub.toNat ≤ 2 → (setGo = false ∨ s.plant.bus.ideKeys.has key = true) →
        exec (.ideKm stream sub rx true setGo) s =
          .next ((s.onBus fun b => { b with ideKeys := b.ideKeys.put key setGo }).emit (.doe [0])) ∧
        exec (.ideKm stream sub rx false setGo) s = .next (s.emit (.doe [1]))) ∧
      (∀ i : Byte, i.toNat ≤ 2 → exec (.doeDiscovery i) s = .next (s.emit (.doe [i.toNat, (i.toNat + 1) % 3])))) ∧
    exec .trngFail s = .next (s.raise Reg.secStsTrngFail 0) ∧
    (∀ port : PortNo, port.toNat < 6 → exec (.trngTimeout 1 port) s =
      .next (if s.portState port.toNat = 4 then s.closePort port.toNat Cl.key else s))

/-- PKG_UNSEAL taken from the driver pair, in an ACTIVE partition, with a source and a writable destination BUFFER of the
partition that holds no bound image and is neither freeing nor named by a live command: a first call that meets an
uncorrectable line of the header faults the partition and fails with code 5, as one whose header is unreadable or
malformed fails; a destination shorter than the content answers OBJ_RANGE, a full package list OBJ_SPACE; a package
that does not open fails with its code, dropping any session; one that opens starts a session of its chunks, clears
the destination's mark of unusable content and unseals the chunks asked for, or fails with code 5 where more are asked
for than it has. A later call continues the session of the same destination at its next chunk, and fails with code 5
where it does not fit or none is open. Rests on R470. -/
def Obligations.PackagesUnseal : Prop :=
  ∀ (s : State) (a : Adm) (p : Byte) (src dst : Handle) (first count : BitVec 32), AdmTaken s false a → ptnOk p = true →
    let t := s.takeAdm false
    let q := p.toNat
    let cmd := exec (.pkgUnseal a p src dst first count) s
    (t.ptnState q ≠ ptnActive → cmd = .next (t.complete false a St.admState)) ∧
    (∀ sk so dk d, t.ptnState q = ptnActive → t.findObj src = some (sk, so) → t.findObj dst = some (dk, d) → so.ptn = q →
      d.ptn = q → d.append = false → d.w = true → d.ap = false → d.freeing = false →
      ((t.imageObjs q).any fun o => rangesMeet o.va o.bytes d.va d.bytes) = false →
      t.namedByCommand q dk (fun _ => false) = false →
      (first = 0 → let dpas := t.vaDpas q (lineVas so.va (packageHead ((t.vaBytes q so.va 64).getD [])))
        (∀ l, t.badLine [] dpas = some l → cmd =
          .next (((t.noteLines [] dpas).faultPtn q Fc.memUe (.channel (dpaChannel l))).failUnseal q dst a 5)) ∧
        (t.badLine [] dpas = none → let t := t.noteLines [] dpas;
        (∀ head, ((t.vaBytes q so.va 64).bind fun h =>
            if packageHeaderOk h = true then t.vaBytes q so.va (packageHead h) else none) = some head →
          let bytes := bytesAt head 16 8
          (d.bytes < bytes → cmd = .next (t.complete false a St.objRange)) ∧
          (bytes ≤ d.bytes → 256 ≤ (t.listedPackages q).length → cmd = .next (t.complete false a St.objSpace)) ∧
          (bytes ≤ d.bytes → (t.listedPackages q).length < 256 →
            let v := t.dropSession q
            ∀ k o, v.findObj dst = some (k, o) → cmd = .next (match v.openPackage head with
              | .failed c => v.failUnseal q dst a c
              | .opened h key => if ceilDiv bytes 65536 < count.toNat then v.failUnseal q dst a 5 else
                (((v.setObj k { o with void := false, scratching := o.scratching + 1 }).onSec fun x =>
                  { x with unseals := x.unseals.put q ⟨dst, 0, ceilDiv bytes 65536, bytes, h, key⟩ }).runUnseal q
                    (so.va + h.length) d.va ⟨dst, 0, ceilDiv bytes 65536, bytes, h, key⟩ count.toNat a)))) ∧
        (((t.vaBytes q so.va 64).bind fun h =>
            if packageHeaderOk h = true then t.vaBytes q so.va (packageHead h) else none) = none →
          cmd = .next (t.failUnseal q dst a 5)))) ∧
      (first ≠ 0 →
        (t.plant.sec.unseals.find q = none → cmd = .next (t.failUnseal q dst a 5)) ∧
        (∀ u, t.plant.sec.unseals.find q = some u →
          (u.dst = dst → first.toNat = u.next → u.next + count.toNat ≤ u.chunks →
            cmd = .next (t.runUnseal q so.va d.va u count.toNat a)) ∧
          (u.dst ≠ dst ∨ first.toNat ≠ u.next ∨ u.chunks < u.next + count.toNat → cmd = .next (t.failUnseal q dst a 5)))))

/-- DEV_RESET taken from the driver pair resets the device with cause 1, or cycles its power. ASSAY_RUN of a valid idle
target while no test runs starts the test, takes a tested slice or set out of the free ones and wipes a tested slice;
else it answers ADM_STATE. Its end reports through the test's end. ASSAY_READ answers the two words of the result to
either pair; ASSAY_FUSE burns the unfused repairs once, at most eight times. RESET_OVERRUN raises each level to the
next: an instance to its own overrun rule, an engine to its partition's reset, a partition that has gone, or is reset
already, to a device reset with cause 5, a device to a power cycle. A boot self test past its limit reports result 5
and stops the start. A hub core that counts no heartbeat in two checks is a hub fault. Rests on R485, R490, R495,
R497, R499, R501, R502, R503, R510. -/
def Obligations.SelfTestAndResetLevels : Prop :=
  ∀ (s : State),
    (∀ a, AdmTaken s false a → let t := s.takeAdm false;
      let bad : Nat → Host.Outcome State Fault Refusal := fun st => .next (t.complete false a st)
      exec (.devResetDevice a) s = .next (t.deviceReset true 1 0x62) ∧
      exec (.devResetPowerCycle a) s = .next t.powerCycle ∧
      exec (.assayRead a) s = .next (t.complete false a St.success 0 t.assayWords.1 t.assayWords.2) ∧
      (let n := t.get Reg.astStsFuseEvents 0;
        exec (.assayFuse a) s = if 8 ≤ n ∨ t.plant.boot.unfused = 0 then bad St.admState else
          .next (((t.set Reg.astStsFuseEvents 0 (n + 1)).onBoot fun b => { b with unfused := 0 }).complete
            false a St.success 0 (n + 1))) ∧
      (∀ (kind : Byte) (target : BitVec 16), let k := kind.toNat; let g := target.toNat;
        assayTargetOk k g = true →
        (t.plant.boot.assay ≠ none ∨ t.plant.clock.stopped = true ∨ t.assayIdle k g = false →
          exec (.assayRun a kind target) s = bad St.admState) ∧
        (t.plant.boot.assay = none → t.plant.clock.stopped = false → t.assayIdle k g = true →
          let u := ((t.set Reg.astStsRunning 0 1).set Reg.astStsKind 0 k).set Reg.astStsTarget 0 g
          let u := ((u.set Reg.astStsResult 0 0).set Reg.astDetailRepairs 0 0).set Reg.astDetailFails 0 0
          let u := u.set Reg.astDetailSkipped 0 (bit01 (decide (k = 1) && u.routerOwned g))
          let u := if k = 1 then
              let v := (u.clearBits Reg.ptnFreeFree 0 (2 ^ g)).setSlicePower g 0
              ((List.range 8).foldl (fun s ti => s.setTile g ti Tile.reset) v).setCluster g ClusterStore.reset
            else if k = 2 then u.clearBits Reg.ptnSetsFreeSetsFree 0 (2 ^ g)
            else u
          exec (.assayRun a kind target) s = .next (u.onBoot fun b => { b with assay := some ⟨k, g, some a⟩ })))) ∧
    (∀ a, AdmTaken s true a → let t := s.takeAdm true;
      exec (.assayReadFm a) s = .next (t.complete true a St.success 0 t.assayWords.1 t.assayWords.2)) ∧
    (∀ found : AssayFound,
      (∀ r, s.plant.boot.assay = some r → exec (.assayEnd found.repairs found.hubOk found.routers found.toAssayUnits) s = .next (s.endAssay r found)) ∧
      (s.plant.boot.assay = none → exec (.assayEnd found.repairs found.hubOk found.routers found.toAssayUnits) s =
        .next (if s.assayDue = true then s.endPowerUp found else s))) ∧
    (∀ p : PtnNo, let q := p.toNat;
      exec (.resetOverrun 1 p) s = .next (s.contextOverrun q) ∧
      (s.ptnState q = ptnActive ∨ s.ptnState q = ptnFaulted → exec (.resetOverrun 2 p) s =
        .next ((s.escalated.faultPtn q Fc.resetOverrun .none).resetPtn q false none)) ∧
      (s.ptnState q = ptnFree → exec (.resetOverrun 2 p) s = .next (s.escalated.deviceReset true 5 0x62)) ∧
      exec (.resetOverrun 3 p) s = .next (s.escalated.deviceReset true 5 0x62) ∧
      exec (.resetOverrun 4 p) s = .next s.escalated.powerCycle) ∧
    (s.assayDue = true → let t := (s.atLeast (s.plant.boot.bootAt + 130000000)).set Reg.astStsKind 0 0;
      exec .assayOutOfWindow s = .next ((t.set Reg.astStsResult 0 5).set Reg.astStsRunning 0 0).stopStartup) ∧
    (∀ (inc : BitVec 4) posted, let t := s.atMultiple 1000000; let missed := 15 - inc.toNat;
      t.bootPhase ≠ 0 → t.get Reg.pwrStsDstate 0 ≠ 3 → exec (.hubHeartbeatCheck inc posted) s =
        .next (if t.plant.boot.missed &&& missed ≠ 0 then t.hubFault posted
          else t.onBoot fun b => { b with missed := missed }))

/-- PWR_EN's rise on an unpowered module powers it, holds it where the rails are not in regulation, and loads it as at
power-on; its fall leaves only what fuses, non-volatile memory, firmware banks and flash hold, and the input pins. A
rail out of regulation clears PWR_GOOD, asserts FAULT_N and resets; a brownout resets. PERST_N drops the host link and
resets the device with cause 2; its release raises the link and trains it once firmware is verified. A configuration
request of an open space answers or writes its word, but for the identity words; before that it is answered unready. A
link reset resets the function's instances and, for function 0, stops both mailbox pairs. In the ROM phase the bank's
image, verified, boots, and a bank that fails leads to the other. The release opens the device in boot phase 3 unless
held, and a brownout's recovery lets go. Rests on R350, R466, R494, R496, R504, R542. -/
def Obligations.PowerUpBootAndHostReset : Prop :=
  ∀ (s : State),
    (s.plant.pins.pwrEn = false →
      (∀ ok,
        let t := (s.onPins fun x => { x with pwrEn := true, pwrGood := ok }).onBoot fun b =>
          { b with held := !ok, bootAt := s.now }
        let u := (t.onBus fun b => { b with linkUp := !t.plant.pins.perst }).reload
        exec (.pwrEnRise ok) s = .next (if ok = true then u else u.assertFault)) ∧
      exec .pwrEnFall s = .next s ∧ exec .railOutOfRegulation s = .next s ∧ (∀ r, exec (.brownout r) s = .next s)) ∧
    (s.plant.pins.pwrEn = true → (∀ ok, exec (.pwrEnRise ok) s = .next s) ∧
      exec .railOutOfRegulation s = .next (s.onPins fun x => { x with pwrGood := false }).assertFault.brownoutReset ∧
      (∀ r, exec (.brownout r) s = .next s.brownoutReset) ∧
      ∃ t, exec .pwrEnFall s = .next t ∧ t.pending = s.pending ∧ t.out = s.out ∧
        t.regs = (s.dropFields fun _ _ f => decide (f.backing = .table)).regs ∧ t.mem.lines = State.reset.mem.lines ∧
        t.mem.salt = s.mem.salt + 1 ∧ t.host = State.reset.host ∧ t.net = State.reset.net ∧ t.tiles = State.reset.tiles ∧
        t.plant.sec.banks = s.plant.sec.banks ∧ t.plant.side.flash = s.plant.side.flash ∧
        t.plant.pins.pwrEn = false ∧ t.plant.pins.pwrGood = false ∧ t.plant.pins.slotId = s.plant.pins.slotId) ∧
    (let t := (s.onPins fun x => { x with perst := true }).onBus fun b => { b with linkUp := false };
      exec .perstN s = .next (if t.plant.pins.pwrEn = true then t.deviceReset t.released 2 0x62 else t)) ∧
    (s.plant.pins.perst = true →
      let t := s.onPins fun x => { x with perst := false }
      let u := t.onBus fun b => { b with linkUp := t.plant.pins.pwrEn }
      exec .perstNDeassert s = .next (if u.verified = true then u.trainLink else u)) ∧
    (s.plant.pins.perst = false → exec .perstNDeassert s = .next s) ∧
    (∀ (fn : Bool) (offset : BitVec 12) (v : BitVec 32), let key := 4096 * bit01 fn + offset.toNat / 4 * 4;
      (s.plant.bus.linkUp = false → ∀ w, exec (.configRequest fn offset w v) s = .next s) ∧
      (s.plant.bus.linkUp = true → s.configOpen = false → ∀ w,
        exec (.configRequest fn offset w v) s = .next (s.emit (.configRead none))) ∧
      (s.plant.bus.linkUp = true → s.configOpen = true → (fn = false ∨ s.flag Reg.hifCfgBifurcated 0 = true) →
        exec (.configRequest fn offset false v) s = .next (s.emit (.configRead (some (s.configWord key)))) ∧
        exec (.configRequest fn offset true v) s = .next (if key % 4096 = 0 ∨ key % 4096 = 8 then s else
          s.onBus fun b => { b with config := b.config.put key v }))) ∧
    (∀ fn : Bool,
      let hit := s.host.insts.entries.filter fun e => decide (e.2.fn = bit01 fn) &&
        decide (e.2.state = Is.active ∨ e.2.state = Is.suspending ∨ e.2.state = Is.suspended)
      let t := hit.foldl (fun s e => s.contextReset e.1 none) s
      exec (.pcieLinkReset fn) s =
        .next (if fn = true then t else (t.writeMbxEnable false false).writeMbxEnable true false)) ∧
    (s.inRom = true → ∀ bank : Bool, s.romBank = bit01 bank →
      exec (.bankVerifyFail bank) s = .next (s.bankFail (bit01 bank)) ∧
      ∀ image nvm m,
        (∀ i, s.bankImage (bit01 bank) image = some i → exec (.firmwareVerified bank image nvm m) s =
          .next (if s.bankVerifies i = true then s.bootFrom (bit01 bank) i nvm m else s.bankFail (bit01 bank))) ∧
        (s.bankImage (bit01 bank) image = none →
          exec (.firmwareVerified bank image nvm m) s = .next (s.bankFail (bit01 bank)))) ∧
    (s.bootPhase = 3 → s.plant.boot.held = false → exec (.deviceRelease true) s = .next s.openDevice) ∧
    (∀ trained, s.bootPhase ≠ 3 ∨ s.plant.boot.held = true → exec (.deviceRelease trained) s = .next s) ∧
      exec (.deviceRelease false) s = .next s ∧
    (s.plant.boot.held = true → s.get Reg.rstStsLastCause 0 = 4 → exec .resetLevelRecovery s =
      .next ((s.onBoot fun b => { b with held := false, bootAt := s.now }).onPins fun x => { x with pwrGood := true }))

/-- An assertion of PWR_ALERT_N that the filter recognises marks the pin and, unless an alert stands, raises ALERT and
applies the alert to every line that holds items or killed commands; an unrecognised pulse changes only what the
filter notes. Deassertion starts the hold of at least 1 us; its end clears ALERT and applies every gap ratio whose
epoch has come. A recognised COOL_FAIL_N assertion and a thermal trip quench the device, its deassertion tries to
recover; 100 ms after the quench the device asks for power-off and asserts FAULT. A supply warning counts, names its
rail and clamps for 100 us; the clamp's end releases it. Rests on R453, R454, R455, R456. -/
def Obligations.AlertQuenchSupplyAndClamp : Prop :=
  ∀ (s : State),
    (∀ w : BitVec 16, let r := s.recognised w.toNat 20 50;
      (r.1 = false → exec (.pwrAlertNAssert w) s = .next r.2) ∧
      (r.1 = true → let t := (r.2.onPins fun x => { x with alert := true }).onPower fun x => { x with alertEnd := none };
        exec (.pwrAlertNAssert w) s = .next (if t.flag Reg.pwrStsAlert 0 = true then t else
          (List.range 64).foldl (fun s p =>
            if (s.line p).items = [] ∧ (s.line p).killed = [] then s else s.alertLine p) (t.raise Reg.pwrStsAlert 0)))) ∧
    (exec .pwrAlertNDeassert s = .next (if s.plant.pins.alert = true then
      (s.onPins fun x => { x with alert := false }).onPower fun x => { x with
        alertEnd := some (s.now + 1000 * max 1 (s.get Reg.pwrCapAlertHoldUs 0)) } else s)) ∧
    (∀ at_, s.plant.power.alertEnd = some at_ →
      let t := ((s.atLeast at_).onPower fun x => { x with alertEnd := none }).set Reg.pwrStsAlert 0 0
      exec .alertHoldEnd s = .next ((List.range 64).foldl (fun s p => s.applyGap p) t)) ∧
    (s.plant.power.alertEnd = none → exec .alertHoldEnd s = .next s) ∧
    (∀ w : BitVec 16, let r := s.recognised w.toNat 200 1000;
      exec (.coolFailNAssert w) s =
        .next (if r.1 = true then (r.2.onPins fun x => { x with coolFail := true }).quench else r.2)) ∧
    exec .coolFailNDeassert s = .next (s.onPins fun x => { x with coolFail := false }).tryRecover ∧
    (∀ at_, s.plant.power.quenchAt = some at_ → exec .quenchPowerOffRequest s =
      .next (((s.atLeast (at_ + 100000000)).onPins fun x => { x with powerOff := true }).onSide fun x =>
        { x with ibis := x.ibis ++ [2] }).assertFault) ∧
    (s.plant.power.quenchAt = none → exec .quenchPowerOffRequest s = .next s) ∧
    exec .thermTrip s = .next (((s.raise Reg.thmStsTrip 0).onPins fun x => { x with thermTrip := true }).onSide fun x =>
      { x with ibis := x.ibis ++ [4] }).quench ∧
    (∀ rail : BitVec 3,
      let t := ((s.raise Reg.pwrSupplyWarn 0).bump Reg.pwrSupplyWarnCount 0).set Reg.pwrSupplyLastRail 0 rail.toNat
      exec (.supplyWarning rail) s = .next ((t.onPower fun x => { x with clampEnd := some (t.now + 100000) }).raise
        Reg.pwrStsClamp 0)) ∧
    (∀ at_, s.plant.power.clampEnd = some at_ → exec .clampEnd s =
      .next (((s.atLeast at_).set Reg.pwrStsClamp 0 0).onPower fun x => { x with clampEnd := none }))

/-- A droop adds the stretched ticks, keeps the worst, and above 25 ns faults every partition that holds slices. The
capping loop, on each millisecond, keeps the last window's estimates, shows the last and the mean, clears saturation
when the window is low enough, and takes the least gap of 0 to 8 that fits the allowance, not below the thermal gap;
if none fits and no alloy gap would help, the cap saturates; where one would, the notice names the least that fits and
the gap becomes 8. Calibration sets the ratio measured to estimated in units of 1/4096, held to 3072 to 5447. The
thermal floor moves by at most one step by the hottest die against the limit, trips at 115 degrees, and saturates more
than 5 degrees above the limit at gap 8. The trim follows a present reference within 50 ppm. Latched counters show
multiples of 65,536, but on frozen pages. The power view shows each partition's power in steps of 5. Rests on R436,
R448, R449, R452, R455, R476. -/
def Obligations.CapLoopCalibrationAndThermalFloor : Prop :=
  ∀ (s : State),
    (s.plant.clock.stopped = false → ∀ (ticks : BitVec 16) (ps : BitVec 32),
      let t := s.set Reg.pwrDroopStretched 0 (satAdd (2 ^ 32 - 1) (s.get Reg.pwrDroopStretched 0) ticks.toNat)
      let u := t.set Reg.pwrDroopWorstNs 0 (max (t.get Reg.pwrDroopWorstNs 0) (min 65535 (ps.toNat / 1000)))
      exec (.droop ticks ps) s = .next (if 25000 < ps.toNat then
        u.faultAll ((List.range 64).filter fun p => decide (u.get Reg.ptnpSlicesSlices p ≠ 0)) Fc.droopBudget .none else u)) ∧
    (∀ (last fixed other : BitVec 32) (alloys : List (BitVec 32)),
      let t := s.atMultiple 1000000
      let w := t.windowMs
      let all := t.plant.power.hist ++ [last.toNat]
      let hist := all.drop (all.length - w)
      let t := ((t.onPower fun x => { x with hist := hist }).set Reg.pwrStsEstW 0 (min 65535 last.toNat)).set
        Reg.pwrStsAvgW 0 (min 65535 (hist.sum / w))
      let t := if t.flag Reg.pwrStsCapSaturated 0 = true ∧ t.flag Reg.thmStsThermal 0 = false ∧
        64 * hist.sum ≤ 63 * t.capW * w then t.clearCap else t
      let fits : Nat → Prop := fun p => (p : Int) ≤ ((t.capW * w : Nat) - ((hist.sum - hist.headD 0 : Nat) : Int)) * gapScale
      let gaps := (t.alloyGaps.zip alloys).map fun e => (e.2.toNat, e.1.2.1, e.1.2.2)
      let at_ := fun g => predicted fixed.toNat other.toNat (t.get Reg.pwrStsG 0) g gaps
      ∀ g, (fits (at_ g) ∧ (∀ k < g, ¬ fits (at_ k)) ∧ g ≤ 8 ∨ (∀ k ≤ 8, ¬ fits (at_ k)) ∧ g = 8) →
        let gm := max g t.plant.power.gTherm
        let u := t.set Reg.pwrStsG 0 gm
        (fits (at_ gm) → exec (.capLoop last fixed other alloys) s = .next u) ∧
        let with_ := fun ga => predicted fixed.toNat other.toNat (t.get Reg.pwrStsG 0) gm (gaps.map fun a => (a.1, a.2.1, ga))
        (¬ fits (at_ gm) → gaps = [] ∨ (∀ k ≤ 8, ¬ fits (with_ k)) →
          exec (.capLoop last fixed other alloys) s = .next u.saturateCap) ∧
        (¬ fits (at_ gm) → gaps ≠ [] → ∀ ga ≤ 8, fits (with_ ga) → (∀ k < ga, ¬ fits (with_ k)) →
          exec (.capLoop last fixed other alloys) s = .next ((u.set Reg.pwrStsG 0 8).notice St.nCapSaturated 0 0 (256 + ga)))) ∧
    (∀ (measured estimated : BitVec 48), estimated ≠ 0 → let t := s.atMultiple 10000000;
      let r := measured.toNat * 4096 / estimated.toNat
      exec (.calibration measured estimated) s =
        .next ((if r < 3072 ∨ 5447 < r then t.raise Reg.pwrCalCalRange 0 else t).set Reg.pwrCalCal 0 (min 5447 (max 3072 r)))) ∧
    (∀ (maxC die : Byte),
      let t := (s.set Reg.thmStsMaxC 0 maxC.toNat).set Reg.thmStsHotDie 0 die.toNat
      let l := t.limitC
      let was := t.plant.power.gTherm
      let g := if l < maxC.toNat then min 8 (was + 1) else if maxC.toNat + 3 < l then was - 1 else was
      let u := t.onPower fun x => { x with gTherm := g }
      let v := if 115 ≤ maxC.toNat ∧ u.plant.pins.thermTrip = false then
          (((u.raise Reg.thmStsTrip 0).onPins fun x => { x with thermTrip := true }).onSide fun x =>
            { x with ibis := x.ibis ++ [4] }).quench
        else u
      exec (.thermalFloor maxC die) s = .next (if l + 5 < maxC.toNat ∧ g = 8
        then (v.raise Reg.thmStsThermal 0).saturateCap else v.set Reg.thmStsThermal 0 0).tryRecover) ∧
    (∀ (ppm : BitVec 16) (present : Bool), let t := s.atMultiple 10000000; let src := t.get Reg.clkAonTrimSrc 0;
      (present = true → 1 ≤ src → src < 8 → (src = 1 ∨ t.portOpen (src - 2) = true) → exec (.trim ppm present) s =
        .next ((t.set Reg.clkAonErrPpm 0 ppm.toNat).set Reg.clkAonTrimmed 0 (if ppm.toInt.natAbs ≤ 50 then 1 else 0))) ∧
      (present = false → exec (.trim ppm present) s = .next (t.set Reg.clkAonTrimmed 0 0))) ∧
    (let t := s.atMultiple 10000000;
      exec .counterLatch s = .next (t.onBus fun b => { b with shown :=
        (t.regs.entries.filter fun e => decide (e.1 / fieldStride = Reg.countCount.id)).foldl (fun (m : FMap Nat) e =>
          if t.flag Reg.blkCtlFreeze (e.1 % fieldStride / 32) = true then m
          else m.putD (e.1 % fieldStride) 0 (e.2 / 65536 * 65536)) t.plant.bus.shown })) ∧
    (∀ powers : List (BitVec 16), exec (.pwrViewUpdate powers) s = .next (((List.range 64).zip powers).foldl
      (fun s e => s.set Reg.ptnpPwrViewSteps e.1 (e.2.toNat / 5)) (s.atMultiple 1000000000)))

/-- While FTM_CFG.PPS_EN is 1 a rising edge of TIME_PPS answers the state in which FTM_PPS holds fabric time, with every
other part of the state as it was: fabric time, the clocks and their tick source, every other register field, memory
and the network among them. The captured value is read back in every state whose register table has its canonical
form, which every step keeps. While PPS_EN is 0 it changes nothing. -/
def Obligations.TimePpsCapturesTimeOnly : Prop :=
  ∀ (s : State),
    (s.flag Reg.ftmCfgPpsEn 0 = true → ∃ t, exec .timePps s = .next t ∧
      (s.regs.wf = true → t.get Reg.ftmPpsPpsNs 0 = s.now % 2 ^ 64) ∧
      t.now = s.now ∧ t.plant = s.plant ∧ t.net = s.net ∧ t.host = s.host ∧ t.mem = s.mem ∧ t.tiles = s.tiles ∧
      t.clusters = s.clusters ∧ t.engines = s.engines ∧ t.evcs = s.evcs ∧ t.msgs = s.msgs ∧ t.out = s.out ∧
      t.pending = s.pending ∧ t.freeCtr = s.freeCtr ∧
      ∀ f i, Field.key f i ≠ Field.key Reg.ftmPpsPpsNs 0 → t.get f i = s.get f i) ∧
    (s.flag Reg.ftmCfgPpsEn 0 = false → exec .timePps s = .next s)

/-- For a port: a training frame on at least 64 lanes takes TRAIN's first state to the next. TRAIN_DONE takes the 64 best
lanes if each is good enough, with four spares left, and goes to ALIGN, else closes with LANES. ALIGN_DONE with all 64
lanes opens a port that has keys and else starts the key exchange. HELLO of this device's own id clashes and closes
with PEER, one without a valid certificate closes with KEY, else the peer's names are kept. ENCAP after HELLO installs
keys and goes to MEASURE, or closes with KEY. The first echo request goes on entering MEASURE and the next after each
answer; a peer's requests are answered in MEASURE and OPEN; the 1,024th echo gives the flight time, half the mean, and
opens the port. A training frame, HELLO or ENCAP within 10 us of the last one acted on is counted as misrouted. A
state that passes its bound closes with TIMEOUT. CLOSE from the peer closes from ALIGN on. Rests on R304, R324, R330,
R339. -/
def Obligations.PortBringUp : Prop :=
  ∀ (s : State) (port : PortNo), port.toNat < 6 → let n := port.toNat; let x := s.port n;
    (∀ lanes : BitVec 68, s.portState n = 1 → 64 ≤ popcount 68 lanes.toNat →
      exec (.trainingFrame port lanes) s = .next (s.received n fun s => s.enterPort n 2)) ∧
    (∀ ber : List (BitVec 32), s.portState n = 2 → ber.length = 68 → let chosen := (sortLanes ber).take 64;
      ((∀ e ∈ chosen, e.1 < 10000) → let act := chosen.map Prod.snd;
        exec (.trainDone port ber) s = .next (((s.setPort n { x with
          lanes := (List.range 68).filter fun l => act.contains l
          spares := (List.range 68).filter fun l => !act.contains l
          txLanes := .empty, swap := none, txSwap := none, prbs := .empty }).set Reg.lnkStsSparesLeft n 4).enterPort n 3)) ∧
      ((∃ e ∈ chosen, 10000 ≤ e.1) → exec (.trainDone port ber) s = .next (s.closePort n Cl.lanes))) ∧
    (s.portState n = 3 → let t := fun k => s.setPort n { x with aligned := k };
      (x.keys = true → exec (.alignDone port (BitVec.allOnes 64)) s =
        .next ((t (popcount 64 (BitVec.allOnes 64).toNat)).enterPort n 6)) ∧
      (x.keys = false → let d := (t (popcount 64 (BitVec.allOnes 64).toNat)).draw;
        exec (.alignDone port (BitVec.allOnes 64)) s = .next ((d.2.enterPort n 4).emit (.bringUp n 1 d.1.toNat))) ∧
      (∀ lanes, lanes ≠ BitVec.allOnes 64 → exec (.alignDone port lanes) s = .next (t (popcount 64 lanes.toNat)))) ∧
    (s.portState n = 4 → (∀ (device : DeviceId) (peer : BitVec 3) nonce,
        (device.toNat = s.deviceId → ∀ ok, exec (.hello port ok device peer nonce) s =
          .next (s.received n fun s => (s.raise Reg.glbStsIdClash 0).closePort n Cl.peer)) ∧
        (device.toNat ≠ s.deviceId → exec (.hello port false device peer nonce) s = .next (s.received n fun s => s.closePort n Cl.key) ∧
          exec (.hello port true device peer nonce) s =
            .next (s.received n fun s => (((s.setPort n { s.port n with helloOk := true }).set Reg.lnkStsPeerDevice n device.toNat).set
              Reg.lnkStsPeerPort n peer.toNat).emit (.bringUp n 2 0)))) ∧
      (x.helloOk = true → exec (.encap port true) s = .next (s.received n fun s =>
          ((s.setPort n { s.port n with keys := true, keyEpoch := 0, echoes := 0, echoSum := 0 }).enterPort n 5).askEcho n) ∧
        exec (.encap port false) s = .next (s.received n fun s => s.closePort n Cl.key))) ∧
    (s.askEcho n = s.emit (.control n 0x02 (x.echoes % 256) 0 0)) ∧
    (s.portState n = 5 ∨ s.portOpen n = true → ∀ (seq : Byte) (delta : BitVec 48), exec (.echoReq port seq delta) s =
        .next (s.emit (.control n 0x03 seq.toNat 0 (delta.setWidth 64)))) ∧
    (s.portState n = 5 →
      (∀ (seq : Byte) (delta elapsed : BitVec 48), let sum := x.echoSum + (elapsed.toNat - delta.toNat);
        let t := s.setPort n { x with echoes := x.echoes + 1, echoSum := sum };
        let f := halfMean sum 1024;
        exec (.echoRsp port seq delta elapsed) s = .next (if x.echoes + 1 < 1024 then t.askEcho n else
          (((t.set Reg.lnkFlightFNs n (f / 65536)).set Reg.lnkFlightFFrac n (f % 65536)).enterPort n 6).settleParent))) ∧
    (∀ b, portBound (s.portState n) = some b → exec (.portStateTimeout port) s =
      .next ((s.atLeast (x.since + b)).closePort n Cl.timeout)) ∧
    (portBound (s.portState n) = none → exec (.portStateTimeout port) s = .next s) ∧
    (∀ cause, exec (.close port cause) s = .next (if 3 ≤ s.portState n then s.closePort n Cl.peer else s))

/-- At an open port of a follower: a TIME message of the parent port that is too deep or invalid is a missed stroke, the
fourth in a row loses the parent, and a depth of 63 sets TOO_DEEP; a valid one is followed by its error against the
flight time and settles the phase. One of the alternative parent's port, while it is not in use, notes whether its
root and its error agree. A device that does not follow ignores it, and at a port that is not open it is stray.
PARENT_LOST loses the parent. PARENT_USABLE in HOLDOVER with an open parent port acquires again. Rests on R331, R334,
R336. -/
def Obligations.FabricTimeFromTheParent : Prop :=
  ∀ (s : State) (port : PortNo) (valid : Bool) (hops : BitVec 6) (root : DeviceId) (start : Word) (arrival : BitVec 80),
    let n := port.toNat
    let cmd := exec (.time port valid hops root start arrival) s
    let f := s.get Reg.lnkFlightFNs n * 65536 + s.get Reg.lnkFlightFFrac n
    let e : Int := (arrival.toNat : Int) - ((start.toNat * 65536 + f : Nat) : Int)
    (s.portOpen n = false ∨ s.role ≠ 2 → cmd = .next (s.strayed n)) ∧
    (n < 6 → s.portOpen n = true → s.role = 2 →
      (n = s.parentPort →
        (hops ≠ 63 → valid = true → cmd = .next (s.followTime n hops.toNat root.toNat e).settlePhase) ∧
        (hops = 63 ∨ valid = false →
          let t := if hops = 63 then s.raise Reg.ftmStsTooDeep 0 else s
          let u := t.onNet fun m => { m with missStrokes := t.net.missStrokes + 1 }
          cmd = .next (if 4 ≤ t.net.missStrokes + 1 then u.loseParent else u))) ∧
      (n ≠ s.parentPort → n = s.get Reg.ftmCfgAltParent 0 → s.net.altInUse = false → cmd = .next (s.onNet fun m => { m with
        altGood := valid && decide (m.rootHeard = some root.toNat) && within5ps e })) ∧
      (n ≠ s.parentPort → n ≠ s.get Reg.ftmCfgAltParent 0 → cmd = .next s)) ∧
    exec .parentLost s = .next s.loseParent ∧
    (s.get Reg.ftmStsLstate 0 = Ts.holdover → s.parentPort < 6 → s.portOpen s.parentPort = true → exec .parentUsable s =
      .next ((s.set Reg.ftmStsLstate 0 Ts.acquiring).onNet fun m => { m with goodStrokes := 0, missStrokes := 0 }))

/-- An interval in MEASURE or OPEN counts its corrected flits, notes the spare lanes that failed the test pattern, and on
an open port each lane's errors. A lost interval counts, faults the receiving partitions with STROKE_LOSS and on the
third stroke in a row closes the port with LOSS. LANE_SWAP's order waits for its stroke, to which fabric time moves
on, and at which a receiver's swap replaces the lane and uses a spare, and a sender's swap moves its lane. A key
refresh counts an epoch; PAUSE sets the paused partitions of an open port. A discontinuity of markers takes an open
port back to ALIGN and loses a parent. A running segment that a link holds, for units to send or to receive, begins
its hold, which ends, the segment running on, once the link holds it no longer; past the hold limit the hold ends and
the partition faults with STROKE_LOSS, on the link's limit or for a barrier the least of all. Rests on R305, R314,
R315, R325, R326, R327, R339. -/
def Obligations.LinkIntervalsLanesAndHolds : Prop :=
  ∀ (s : State),
    (∀ (port : PortNo), port.toNat < 6 → let n := port.toNat; let x := s.port n;
      (s.portState n = 5 ∨ s.portOpen n = true →
        (∀ (c : BitVec 16) errs (prbs : List (BitVec 7)),
          let t := s.set Reg.lnkCntCorrFlits n (satAdd 65535 (s.get Reg.lnkCntCorrFlits n) c.toNat);
          let u := t.setPort n { t.port n with
            prbs := prbs.foldl (fun m l => m.put l.toNat (t.now / 1000 + 1)) (t.port n).prbs };
          exec (.interval port c ⟨errs, prbs⟩) s =
            .next (if u.portOpen n = true then errs.foldl (fun s e => s.laneErrors n e) u else u)) ∧
        (let run := if x.lostStroke = s.now / 1000 then x.lostRun + 1 else 1;
          let t := (s.bump Reg.lnkCntLostIntervals n).setPort n { x with lostRun := run, lostStroke := s.now / 1000 };
          let u := t.faultAll (t.portUsers n [1]) Fc.strokeLoss (.port n);
          exec (.lostInterval port) s = .next (if 3 ≤ run then u.closePort n Cl.loss else u))) ∧
      (s.portOpen n = true →
        (∀ (logical spare : Byte) (stroke : BitVec 20), exec (.laneSwap port logical spare stroke) s =
          .next (s.setPort n { x with txSwap := some (logical.toNat, spare.toNat, stroke.toNat) })) ∧
        (∀ lane sp k, x.swap = some (lane, sp, k) → x.txSwap = none → let t := s.atLeast (s.strokeAt k);
          exec (.laneSwapStroke port) s = .next ((t.setPort n { x with
            lanes := (List.range x.lanes.length).map fun k => if k = lane then sp else x.lanes.getD k 0
            spares := x.spares.filter (· ≠ sp), swap := none }).set Reg.lnkStsSparesLeft n (t.get Reg.lnkStsSparesLeft n - 1))) ∧
        (∀ lane sp k, x.swap = none → x.txSwap = some (lane, sp, k) → exec (.laneSwapStroke port) s =
          .next ((s.atLeast (s.strokeAt k)).setPort n { x with txLanes := x.txLanes.put lane sp, txSwap := none })) ∧
        (∀ k, (s.now ≤ s.strokeAt k) ∧ (k < 2 ^ 20 → s.now < s.strokeAt k → s.strokeAt k / 1000 % 2 ^ 20 = k)) ∧
        (∀ set : Word, exec (.pause port set) s = .next (s.setPort n { x with paused := set.toNat })) ∧
        (let t := s.enterPort n 3; exec (.markerDiscontinuity port) s =
          .next (if t.flag Reg.lnkStsTimeParent n = true then t.loseParent else t))) ∧
      (x.keys = true → exec (.keyRefresh port) s = .next (s.setPort n { x with keyEpoch := x.keyEpoch + 1 })) ∧
      (s.portOpen n = false → (∀ a b c, exec (.laneSwap port a b c) s = .next (s.strayed n)) ∧
        (∀ v, exec (.pause port v) s = .next (s.strayed n)))) ∧
    (∀ (p : PtnNo), let q := p.toNat; let l := s.line q;
      (∀ port : PortNo, port.toNat < 6 → l.hold = none → (s.seg q).isSome = true → s.linkHolds port.toNat q = true →
        exec (.holdBegin p port) s = .next (s.setLine q { l with hold := some (.link port.toNat, s.now) })) ∧
      (∀ n at_, l.hold = some (.link n, at_) →
        exec (.holdEnd p) s = .next (if s.linkHolds n q = true then s else (s.endHold q).runSeg q) ∧
        exec (.holdLimitUs p) s =
          .next (((s.atLeast (at_ + 1000 * max 1 (s.get Reg.lnkCtlHoldLimitUs n))).endHold q).faultPtn
            q Fc.strokeLoss (.port n))) ∧
      (∀ k at_, l.hold = some (.barrier k, at_) → exec (.holdEnd p) s = .next s ∧ exec (.holdLimitUs p) s =
        .next (((s.atLeast (at_ + 1000 * leastOver (List.range 6) fun n =>
          max 1 (s.get Reg.lnkCtlHoldLimitUs n))).endHold q).faultPtn q Fc.strokeLoss .none)) ∧
      (l.hold = none → exec (.holdEnd p) s = .next s ∧ exec (.holdLimitUs p) s = .next s))

/-- At an open port, a scheduled slot that a partition holds for sending carries a filler while the partition is paused,
quenched, not ACTIVE or has nothing, else the units of its next point, counted; a slot that nobody holds sends
nothing. An open slot of an open port outside a quench sends by the open queue's rule. An arriving flit of a kind from
4, of the wrong kind for a control slot, or of no holder's slot as scheduled is misrouted; one of another alloy or of
a partition outside an alloy is misrouted; one of a command killed is discarded and counted; any other joins the
partition's receive queue, and its segment runs on. GUARANTEE_CHECK ends the point's 10 us window: each master that
was late or, waiting throughout, was granted less than its rate by more than two units counts a miss, and the window
starts anew. Rests on R313, R317, R415. -/
def Obligations.FlitsLeaveAndArrive : Prop :=
  ∀ (s : State),
    (∀ (port : PortNo) (slot : BitVec 13), port.toNat < 6 → s.portOpen port.toNat = true → slot.toNat % 125 ≠ 0 →
      slot.toNat < 6250 → let n := port.toNat; let x := s.port n; let k := slot.toNat;
      (s.slotHolder n 0 k = none → exec (.scheduledSlot port slot) s = .next s) ∧
      (∀ p, s.slotHolder n 0 k = some p →
        (Nat.testBit x.paused p = true ∨ s.quenched = true ∨ s.ptnState p ≠ ptnActive ∨ x.nextPoint p = none →
          exec (.scheduledSlot port slot) s = .next (s.emit (.flit n k 0 [] []))) ∧
        (∀ pt, Nat.testBit x.paused p = false → s.quenched = false → s.ptnState p = ptnActive → x.nextPoint p = some pt →
          let r := takeUnits p pt 4 x.tx
          let t := s.setPort n { x with tx := r.2, lastPoint := x.lastPoint.put p pt }
          exec (.scheduledSlot port slot) s = .next ((t.emit (.flit n k 2
            [r.1.length - 1, pt, t.runningCmdSeq p % 2 ^ 18, p, t.get Reg.ptnpAlloyAlloyId p] (r.1.map PortUnit.data))).count
              (lnkPage n) 0 1)))) ∧
    (∀ (port : PortNo) (slot : BitVec 13), exec (.openSlot port slot) s =
      .next (if s.portOpen port.toNat = true ∧ s.openTxSlot port.toNat slot.toNat = true ∧ s.quenched = false
        then s.sendOpenSlot port.toNat slot.toNat else s)) ∧
    (∀ (port : PortNo) (slot : BitVec 13) (kind : BitVec 4) pt cmd src (alloy : BitVec 32) (units : List Line), port.toNat < 6 →
      let n := port.toNat
      let misrouted := s.bump Reg.lnkCntMisrouted n
      let o := exec (.scheduledFlit port slot kind pt cmd src alloy units) s
      (s.portOpen n = false → o = .next (if kind = 4 then s else misrouted)) ∧
      (s.portOpen n = true →
        (4 ≤ kind.toNat → o = .next misrouted) ∧
        (kind.toNat < 4 → (kind = 1 ∧ slot.toNat % 125 ≠ 0 ∨ kind ≠ 1 ∧ slot.toNat % 125 = 0) → o = .next misrouted) ∧
        (kind = 0 → slot.toNat % 125 ≠ 0 → o = .next s) ∧ (kind = 1 → slot.toNat % 125 = 0 → o = .next s) ∧
        (slot.toNat % 125 ≠ 0 →
          (s.slotHolder n 1 slot.toNat = none → (kind = 2 → o = .next misrouted) ∧
            (kind = 3 → o = .next (s.count (lnkPage n) 3 1))) ∧
          (∀ p, s.slotHolder n 1 slot.toNat = some p → (kind = 3 → o = .next misrouted) ∧
            (kind = 2 →
              (s.get Reg.ptnpAlloyAlloyId p ≠ alloy.toNat ∨ s.mstate p = Ms.none → o = .next misrouted) ∧
              (s.get Reg.ptnpAlloyAlloyId p = alloy.toNat → s.mstate p ≠ Ms.none →
                let dead := ∃ k ∈ (s.line p).killed, k.1.op = 2 ∧ k.1.cmdSeq % 2 ^ 18 = cmd.toNat
                (dead → o = .next (s.bump Reg.lnkCntKillDiscard n)) ∧
                (¬ dead → o = .next ((((s.setPort n { s.port n with
                  rx := (s.port n).rx ++ units.map fun u => ⟨p, pt.toNat, u⟩ }).count (lnkPage n) 2 1).settlePause n p).runSeg p)))))))) ∧
    (∀ (kind : BitVec 2) (index : BitVec 10), let k := kind.toNat; let n := index.toNat; let x := s.point k n;
      let t := s.atLeast (x.windowAt + 10000);
      let u := ((x.masters.entries.filter fun e => e.2.late ||
        (e.2.throughout && decide (e.2.granted + 2 * unitBytes k < t.pointRate k e.1 * 10))).map Prod.fst).foldl
          (fun s key => s.guaranteeMiss k key) t;
      exec (.guaranteeCheck kind index) s = .next (u.setPoint k n { x with
        windowAt := u.now
        masters := x.masters.mapVal fun key m =>
          { m with granted := 0, late := false, throughout := (u.waitingAt k n).contains key } }))

/-- A message for another device goes on unchanged. At its device, OFFER to an ARMED record of the same source within its
capacity makes it RECEIVING with the length, else a REFUSE goes back with its reason. A stream flit appends its bytes
to the record that receives, with its class. TAKEN from the destination with the next epoch ends a source's OFFERED
record as moved, is answered by RELEASED again by one that has moved, and else by STALE with an event. RELEASED
confirms the destination's record. REFUSE gives the record back to the source with epoch plus 2. QUERY is answered
taken by a record past that epoch, and not taken else, a receiving record going back to ARMED. ANSWER taken moves the
record, not taken gives it back, or frees it with an event when its data were lost. STALE frees an unconfirmed record
with an event. Any other message is discarded and counted. Rests on R293, R295, R296, R317. -/
def Obligations.HandoffMessages : Prop :=
  ∀ (s : State) (m : HoMsg), let e := m.epoch.toNat;
    (m.dstDevice.toNat ≠ s.deviceId → ∀ type, (type = 1 ∨ type = 4 ∨ type = 6 ∨ type = 7) →
      let on := s.sendHo m.dstDevice.toNat type m.code.toNat e m.srcDevice.toNat m.dstDevice.toNat m.srcHandle.toNat
        m.dstHandle.toNat m.length.toNat
      (type = 1 → exec (.offer m) s = .next on) ∧ (type = 4 → exec (.query m) s = .next on) ∧
      (type = 6 → exec (.stale m) s = .next on) ∧ (type = 7 → exec (.released m) s = .next on)) ∧
    (m.dstDevice.toNat = s.deviceId →
      (s.findRecord m.dstHandle.toNat = none → exec (.offer m) s = .next (s.hoReply m true 3 3 e) ∧
        exec (.query m) s = .next (s.hoReply m true 5 0 e) ∧
        exec (.released m) s = .next (s.hoDiscard m.dstHandle.toNat) ∧ exec (.stale m) s = .next (s.hoDiscard m.dstHandle.toNat)) ∧
      (∀ k r, s.findRecord m.dstHandle.toNat = some (k, r) →
        (r.state ≠ 4 ∨ r.peerIsSource m = false → exec (.offer m) s = .next (s.hoReply m true 3 3 e)) ∧
        (r.state = 4 → r.peerIsSource m = true → exec (.offer m) s = .next (if r.capacity < m.length.toNat
          then s.hoReply m true 3 2 e else s.enterRecord k 5 e fun x => { x with length := m.length.toNat })) ∧
        (r.peerIsSource m = true → r.unconfirmed = true → r.epoch = e + 1 → exec (.released m) s =
          .next (s.setRecord k { r with confirmed := true, rulingWait := false, nextSend := none })) ∧
        ((r.state = 6 ∨ r.state = 2 ∨ r.state = 3) → e + 1 ≤ r.epoch → exec (.query m) s = .next (s.hoReply m true 5 1 e)) ∧
        (r.state = 5 → r.epoch = e → r.peerIsSource m = true →
          exec (.query m) s = .next ((s.enterRecord k 4 0).hoReply m true 5 0 e)) ∧
        (r.peerIsSource m = true → r.unconfirmed = true → r.epoch = e →
          exec (.stale m) s = .next ((s.hoEvent k r 2).freeRecord k)) ∧
        (r.peerIsSource m = false ∨ r.unconfirmed = false ∨ r.epoch ≠ e →
          exec (.stale m) s = .next (s.hoDiscard m.dstHandle.toNat)) ∧
        (r.peerIsSource m = false ∨ r.unconfirmed = false ∨ r.epoch ≠ e + 1 →
          exec (.released m) s = .next (s.hoDiscard m.dstHandle.toNat)))) ∧
    (m.srcDevice.toNat = s.deviceId →
      (s.findRecord m.srcHandle.toNat = none → let t := s.hoReply m false 6 0 e; let slot := m.srcHandle.toNat % 262144
        (t.record slot = none → exec (.taken m) s = .next t) ∧
        (∀ r, t.record slot = some r → exec (.taken m) s = .next (t.hoEvent slot r 2)) ∧
        exec (.refuse m) s = .next (s.hoDiscard m.srcHandle.toNat) ∧
        exec (.answer m) s = .next (s.hoDiscard m.srcHandle.toNat)) ∧
      (∀ k r, s.findRecord m.srcHandle.toNat = some (k, r) →
        (r.peerIsDest m = true → r.epoch + 1 = e →
          (r.state = 2 → exec (.taken m) s = .next (s.hoTaken k r)) ∧
          (r.state = 3 → exec (.taken m) s = .next (s.hoToDest k r 7 r.epoch 0))) ∧
        (r.peerIsDest m = false ∨ r.epoch + 1 ≠ e →
          exec (.taken m) s = .next ((s.hoReply m false 6 0 e).hoEvent k r 2)) ∧
        (r.peerIsDest m = true → r.state = 2 → r.epoch = e →
          exec (.refuse m) s = .next (s.enterRecord k 1 (r.epoch + 2)).beginStreams ∧
          (m.code = 1 → exec (.answer m) s = .next (s.hoTaken k r)) ∧
          (m.code = 0 → exec (.answer m) s = .next (if r.dataLost = true then ((s.hoEvent k r 3).freeRecord k).beginStreams
            else (s.enterRecord k 1 (r.epoch + 2)).beginStreams))) ∧
        (r.peerIsDest m = false ∨ r.state ≠ 2 ∨ r.epoch ≠ e →
          exec (.refuse m) s = .next (s.hoDiscard m.srcHandle.toNat) ∧
          exec (.answer m) s = .next (s.hoDiscard m.srcHandle.toNat)))) ∧
    (∀ (h : OpenHdr) (data : BitVec 2048), h.dstDevice.toNat = s.deviceId →
      (∀ k r, s.receiver h.srcDevice.toNat h.tag.toNat = some (k, r) → exec (.stream h data) s =
        .next (s.setRecord k { r with received := r.received ++ (List.range 256).map fun i => (data >>> (8 * i)).setWidth 8, cls := h.cls.toNat })) ∧
      (s.receiver h.srcDevice.toNat h.tag.toNat = none → exec (.stream h data) s = .next s))

/-- The end of a stream of an OFFERED record with no flit of it left in a port's queue stops the stream and keeps its
digest; the next streams begin. The trailer of a RECEIVING record of that epoch whose lengths and digest agree writes
the received bytes at the tail reserved for it, moves the object's extent on, makes the record TAKEN with the next
epoch and sends TAKEN; a wrong length or digest takes the record back to ARMED and refuses with its reason. Each timer
takes time to its instant: of an OFFERED record the query goes out, three at one millisecond, then at the hold's
interval, the fourth waiting for a ruling with an event instead; a TAKEN not confirmed is sent again, with an event at
the third; past the hold limit an OFFERED record has its event, once. Rests on R293, R296. -/
def Obligations.HandoffStreamsAndTimers : Prop :=
  ∀ (s : State) (record : BitVec 14) r, let k := record.toNat;
    s.record k = some r →
    (r.state = 2 → r.streaming = true →
      (∀ x ∈ s.net.ports.vals, ∀ f ∈ x.openQueue, s.streamFlit k f = false) →
      exec (.streamEnd record) s = .next ((s.stopStream k).onNet fun n => { n with
        records := n.records.adjust k fun x => { x with digest := Config.sha256 r.received } }).beginStreams) ∧
    (∀ (epoch : BitVec 32) (length : Word) (digest : BitVec 256), let n := length.toNat;
      let fail := fun code => (s.enterRecord k 4 0).hoToSource k r 3 code r.epoch
      let sized := n = r.length ∧ r.received.length = 256 * ceilDiv (n + 128) 256
      (r.state ≠ 5 ∨ r.epoch ≠ epoch.toNat → exec (.trailer record epoch length digest) s = .next s) ∧
      (r.state = 5 → r.epoch = epoch.toNat →
        (¬ sized → exec (.trailer record epoch length digest) s = .next (fail 2)) ∧
        (sized → Config.sha256 (r.received.take (n + 64)) ≠ digest →
          exec (.trailer record epoch length digest) s = .next (fail 1)) ∧
        (sized → Config.sha256 (r.received.take (n + 64)) = digest → ∀ o, s.host.objs.find r.recvObj = some o →
          let t := (s.commitTail r.ptn o r.tail ((r.received.take (n + 64)).take n)).setObj r.recvObj
            { o with extent := o.extent + n }
          let ext : Extent := ⟨BitVec.ofNat 32 (mkHandle o.gen r.recvObj), BitVec.ofNat 64 r.tail, length⟩
          exec (.trailer record epoch length digest) s = .next ((t.enterRecord k 6 (r.epoch + 1) fun x => { x with
            extents := [ext], inline := bytesLine ((r.received.take (n + 64)).drop n), digest := digest, length := n, sends := 1
            nextSend := some (t.now + t.holdQueryNs r.ptn) }).hoToSource k r 2 0 (r.epoch + 1))))) ∧
    (∀ at_, r.nextSend = some at_ → let t := s.atLeast at_; let n := r.sends;
      (r.state = 2 →
        let x := { r with
          sends := n + 1, nextSend := some (at_ + if n < 3 then 1000000 else t.holdQueryNs r.ptn)
          rulingWait := r.rulingWait || decide (n = 3) }
        let u := t.setRecord k x
        exec (.holdQueryExpiry record) s = .next (if n = 3 then u.hoEvent k x 0 else u.hoToDest k x 4 x.epoch 0)) ∧
      (r.unconfirmed = true →
        let waits := decide (3 ≤ n) && !r.rulingWait
        let x := { r with
          sends := n + 1, nextSend := some (at_ + t.holdQueryNs r.ptn), rulingWait := r.rulingWait || waits }
        let u := t.setRecord k x
        exec (.takenResend record) s = .next ((if waits = true then u.hoEvent k x 0 else u).hoToSource k x 2 0 x.epoch)) ∧
      (r.state ≠ 2 → exec (.holdQueryExpiry record) s = .next s) ∧
      (r.unconfirmed = false → exec (.takenResend record) s = .next s)) ∧
    (∀ at_, r.streamEnd = some at_ → let t := s.atLeast (at_ + s.holdLimitNs r.ptn);
      (r.state = 2 → r.limitPassed = false →
        exec (.hoHoldLimit record) s = .next ((t.setRecord k { r with limitPassed := true }).hoEvent k r 1)) ∧
      (r.limitPassed = true → exec (.hoHoldLimit record) s = .next s))

/-- At the destination device: READ_REQ whose sender is no member, or that meets a line it may not read, is refused with
its status and address; else each line is served at its class, the data go back line by line (zeros where an append
object reads as zero) and then the ACK with the count; an uncorrectable line faults the partition and answers nothing.
WRITE_REQ, checked in the same way, waits for its data, replacing any request of the same tag; of no lines it is
acknowledged at once. WRITE_DATA writes the next lines of the request that waits, logging each object (a line that its
channel cannot write faults the partition), and acknowledges after the last; a line it may not write ends the request
and refuses it; data of no request change nothing. A flit for another device goes on. Rests on R317. -/
def Obligations.RemoteRequestsAtTheirTarget : Prop :=
  ∀ (s : State) (h : OpenHdr) (va : Word) (lines : BitVec 32) (deadline : Word),
    (h.dstDevice.toNat ≠ s.deviceId → ∀ errs,
      let on := fun otype => s.sendOpen (hdrFlit h otype (some deadline.toNat)
        (requestPayload va.toNat lines.toNat deadline.toNat)) 0
      exec (.readReq h va lines deadline errs) s = .next (on 1) ∧ exec (.writeReq h va lines deadline) s = .next (on 3)) ∧
    (h.dstDevice.toNat = s.deviceId →
      let n := lines.toNat
      let base := va.toNat % 2 ^ 48
      let vas := (List.range n).map fun k => base + 64 * k
      (s.targetOf h = none →
        let no := s.refuseRemote h deadline.toNat St.unmapped va.toNat
        (∀ errs, exec (.readReq h va lines deadline errs) s = .next no) ∧ exec (.writeReq h va lines deadline) s = .next no) ∧
      (∀ p, s.targetOf h = some p →
        (∀ errs, let r := (s.meetErrors errs).remoteLines errs p false vas;
          (∀ st bad, r.2.1 = some (st, bad) → exec (.readReq h va lines deadline errs) s =
            .next (r.2.2.refuseRemote h deadline.toNat st (va.toNat - base + bad))) ∧
          (r.2.1 = none →
            let t := r.1.foldl (fun s l => s.remoteServe p h.cls.toNat l.2.1) r.2.2
            let zero := fun (l : Nat × Nat × Option MemObj) => (l.2.2.any fun o => o.readsZero l.1) && !t.ownAccess p false l.1
            let live := (r.1.filter fun l => !zero l).map fun l => l.2.1
            let seen := t.noteLines errs live
            (t.badLine errs live = none → exec (.readReq h va lines deadline errs) s =
              .next ((seen.sendData h.cls.toNat p h.srcDevice.toNat h.tag.toNat 2 (some deadline.toNat)
                (r.1.map fun l => if zero l = true then (0 : Line) else t.delivered errs l.2.1)).answer h 5 deadline.toNat
                  (n * 2 ^ 16))) ∧
            (∀ d, t.badLine errs live = some d → exec (.readReq h va lines deadline errs) s =
              .next (seen.faultPtn p Fc.memUe (.channel (dpaChannel d)))))) ∧
        (let r := s.remoteLines [] p true vas;
          (∀ st bad, r.2.1 = some (st, bad) → exec (.writeReq h va lines deadline) s =
            .next (r.2.2.refuseRemote h deadline.toNat st (va.toNat - base + bad))) ∧
          (r.2.1 = none → exec (.writeReq h va lines deadline) s = .next (if n = 0 then r.2.2.answer h 5 deadline.toNat 0
            else r.2.2.onNet fun m => { m with remoteWrites := (m.remoteWrites.filter fun w => !w.of h) ++
              [⟨h.srcDevice.toNat, h.srcPart.toNat, h.tag.toNat, p, va.toNat, n, 0, deadline.toNat⟩] })))) ∧
      (∀ data : List Line,
        (s.net.remoteWrites.find? (fun w => w.of h) = none → exec (.writeData h data) s = .next s) ∧
        (∀ w, s.net.remoteWrites.find? (fun w => w.of h) = some w →
          let now := (data.take 4).take (w.lines - w.done)
          let others := s.net.remoteWrites.filter fun x => !x.of h
          let r := s.remoteLines [] w.ptn true ((List.range now.length).map fun k => w.va % 2 ^ 48 + 64 * (w.done + k))
          (∀ st bad, r.2.1 = some (st, bad) → exec (.writeData h data) s =
            .next ((r.2.2.onNet fun m => { m with remoteWrites := others }).refuseRemote h w.deadline st
              (w.va - w.va % 2 ^ 48 + bad))) ∧
          (r.2.1 = none →
            let t := (r.1.zip now).foldl (fun s e =>
              let u := (s.remoteServe w.ptn h.cls.toNat e.1.2.1).putLine [] e.1.2.1 e.2
              if u.1 = true then u.2.faultPtn w.ptn Fc.memUe (.channel (dpaChannel e.1.2.1))
              else match e.1.2.2 with
                | some o => u.2.logObject o e.1.2.1
                | none => u.2) r.2.2
            exec (.writeData h data) s = .next (if w.done + now.length < w.lines then
              t.onNet fun m => { m with remoteWrites := others ++ [{ w with done := w.done + now.length }] }
            else (t.onNet fun m => { m with remoteWrites := others }).answer h 5 w.deadline (w.lines * 2 ^ 16))))))

/-- At the destination device of an answer whose tag names a request to the device it comes from: while the request lives,
READ_DATA of a read counts its lines and writes them to the request's own destination, or sends them on to the device
that the destination names; ACK ends the request; NACK fails it with its status. When the request's command no longer
lives, the answer is discarded, and ACK and NACK drop the request. An answer to no request, or from another device,
changes nothing. The timeout, 10 us past the deadline, fails a living request as LOST and drops another. Rests on
R317, R327. -/
def Obligations.RemoteAnswersAtTheirSource : Prop :=
  ∀ (s : State) (h : OpenHdr), h.dstDevice.toNat = s.deviceId → let tag := h.tag.toNat;
    (s.net.requests.find tag = none → (∀ ls, exec (.readData h ls) s = .next s) ∧ (∀ st n, exec (.ack h st n) s = .next s) ∧
      (∀ st va, exec (.nack h st va) s = .next s)) ∧
    (∀ r, s.net.requests.find tag = some r →
      (r.device ≠ h.srcDevice.toNat → (∀ ls, exec (.readData h ls) s = .next s) ∧
        (∀ st n, exec (.ack h st n) s = .next s) ∧ (∀ st va, exec (.nack h st va) s = .next s)) ∧
      (r.device = h.srcDevice.toNat → s.requestLives r = true →
        (∀ (ls : List Line), r.write = false → let now := (ls.take 4).take (r.lines - r.done);
          let t := s.onNet fun n => { n with requests := n.requests.put tag { r with done := r.done + now.length } };
          (∀ a, s.localVa r.dst = some a → exec (.readData h ls) s =
            .next ((withIdx now).foldl (fun s e => s.writeVa r.ptn (a + 64 * (r.done + e.1)) e.2) t)) ∧
          (s.localVa r.dst = none → exec (.readData h ls) s =
            .next (t.sendData h.cls.toNat r.ptn (vaDevice r.dst) (tag + 1) 4 (some r.deadline) now))) ∧
        (∀ st n, exec (.ack h st n) s = .next (s.endRequest tag r)) ∧
        (∀ (st : BitVec 16) va, exec (.nack h st va) s = .next (s.failRequest tag r st.toNat))) ∧
      (r.device = h.srcDevice.toNat → s.requestLives r = false →
        let out := (s.onNet fun n => { n with requests := n.requests.drop tag }).discardAnswer r.ptn
        (∀ ls, r.write = false → exec (.readData h ls) s = .next (s.discardAnswer r.ptn)) ∧
        (∀ st n, exec (.ack h st n) s = .next out) ∧ (∀ st va, exec (.nack h st va) s = .next out)) ∧
      (let t := s.atLeast (r.deadline + 10000); exec (.openRequestTimeout h.tag) s = .next
        (if s.requestLives r = true then t.failRequest tag r St.lost
          else t.onNet fun n => { n with requests := n.requests.drop tag })))

/-- While the module is powered: BYPASS shifts one bit by one; IDCODE answers the code; SAMPLE/PRELOAD answers the pins,
whose values the spec leaves open (the model's free value), and loads the cells; EXTEST shifts the cells before
release and acts as BYPASS after; a debug access reaches a word of the slice while its partition has a debug item and
holds it, else it reads 0 and writes nothing. I3C: READ_REG answers a word of a page open to the tray and refuses
another; STATUS answers slot, boot phase, device state and flags; WAKE from DS3 boots warm; flash is erased and
written only when no bank verified, by whole lines of an erased bank, and read at any time. The common codes enable
and disable interrupts and assign and drop the address. An event that stands is sent while enabled and leaves when
taken. An unpowered module answers none of them. Rests on R475, R545, R546, R547, R548. -/
def Obligations.JtagAndI3c : Prop :=
  ∀ (s : State),
    (s.plant.pins.pwrEn = true →
      (∀ tdi : Bool,
        let out := (s.onSide fun x => { x with bypass := tdi }).emit (.tdo (BitVec.ofNat 64 (bit01 s.plant.side.bypass)))
        exec (.bypass tdi) s = .next out ∧ (s.released = true → exec (.extest tdi) s = .next out) ∧
        (s.released = false → exec (.extest tdi) s = .next ((s.draw.2.onSide fun x =>
          { x with cells := (x.cells.setWidth 63) ++ BitVec.ofBool tdi }).emit (.tdo s.draw.1)))) ∧
      exec .idcode s = .next (s.emit (.tdo (Config.idcode.setWidth 64))) ∧
      (∀ cells : Word, exec (.samplePreload cells) s =
        .next ((s.draw.2.onSide fun x => { x with cells := cells }).emit (.tdo s.draw.1))) ∧
      (∀ (p : PtnNo) (slice : SliceNo) (space : BitVec 4) (address : BitVec 24) (value : Word),
        let opened := s.flag Reg.ptnpSecDbgItem p.toNat = true ∧ s.sliceOwner slice.toNat = some p.toNat
        (¬ opened → exec (.jtagDebugAccess p slice space address false value) s = .next (s.emit (.tdo 0)) ∧
          exec (.jtagDebugAccess p slice space address true value) s = .next s) ∧
        (∀ v put, opened → s.debugWord slice.toNat space.toNat address.toNat = some (v, put) →
          exec (.jtagDebugAccess p slice space address false value) s = .next (s.emit (.tdo v)) ∧
          exec (.jtagDebugAccess p slice space address true value) s = .next (put value))) ∧
      (∀ page offset : BitVec 16,
        let opened := s.trayPages.contains page.toNat = true ∧ offset.toNat % 8 = 0 ∧ offset.toNat < 4096
        (opened → exec (.readReg page offset) s =
          .next (s.emit (.i3c (i3cDone :: natBytes 8 (s.pageWord page.toNat offset.toNat))))) ∧
        (¬ opened → exec (.readReg page offset) s = .next (s.emit (.i3c [i3cRefused])))) ∧
      (let x := s.plant.pins;
        exec .status s = .next (s.emit (.i3c ([i3cDone] ++ natBytes 1 x.slotId ++ natBytes 1 s.bootPhase ++
          natBytes 1 (s.get Reg.pwrStsDstate 0) ++
          natBytes 1 (packBits [x.fault, x.thermTrip, x.cycleReq, x.powerOff, x.alert, x.coolFail, x.pwrGood]))))) ∧
      (exec .wake s = .next (if s.get Reg.pwrStsDstate 0 = 3 then (s.emit (.i3c [i3cDone])).warmBoot
        else s.emit (.i3c [i3cRefused]))) ∧
      (∀ bank : Byte, let k := bank.toNat;
        (s.bootPhase ≠ 15 → exec (.flashErase bank) s = .next (s.emit (.i3c [i3cRefused])) ∧
          ∀ o d, exec (.flashWrite bank o d) s = .next (s.emit (.i3c [i3cRefused]))) ∧
        (s.bootPhase = 15 → k ≤ 1 →
          (let t := s.onSec fun x => { x with banks := x.banks.drop k };
            let t := t.onSide fun x => { x with flash := x.flash.keep fun a _ => decide (a / 2 ^ 19 ≠ k) };
            exec (.flashErase bank) s = .next (t.respond [i3cDone])) ∧
          (∀ (o : BitVec 32) d, o.toNat % 64 = 0 → o.toNat < bankSpan → s.erased k (o.toNat / 64) = true →
            exec (.flashWrite bank o d) s =
              .next ((s.onSide fun x => { x with flash := x.flash.put (flashKey k (o.toNat / 64)) d }).respond [i3cDone]))) ∧
        (∀ o : BitVec 32, k ≤ 1 → o.toNat + 64 ≤ bankSpan →
          let bytes := lineBytes (s.flashLine k (o.toNat / 64)) ++ lineBytes (s.flashLine k (o.toNat / 64 + 1))
          exec (.flashRead bank o) s = .next (s.emit (.i3c (i3cDone :: (bytes.drop (o.toNat % 64)).take 64))))) ∧
      (∀ ev : Byte, ev.getLsbD 0 = true →
        exec (.enec ev) s = .next (s.onSide fun x => { x with ibiEnabled := true }) ∧
        exec (.disec ev) s = .next (s.onSide fun x => { x with ibiEnabled := false })) ∧
      exec .rstdaa s = .next (s.onSide fun x => { x with dynamic := none }) ∧
      (s.plant.side.dynamic = none → ∀ a b : BitVec 7,
        exec (.entdaa b) s = .next (s.onSide fun x => { x with dynamic := some b.toNat }) ∧
        (a.toNat = s.staticAddress → exec (.setdasa a b) s = .next (s.onSide fun x => { x with dynamic := some b.toNat }))) ∧
      exec .getpid s = .next (s.emit (.i3c (natBytes 6 Config.provisionedId.toNat).reverse)) ∧
      exec .getbcr s = .next (s.emit (.i3c [0x06])) ∧ exec .getdcr s = .next (s.emit (.i3c [Config.deviceCharacter])) ∧
      exec .getstatus s = .next (s.emit (.i3c [0, BitVec.ofNat 8 (s.plant.side.ibis.headD 0)])) ∧
      (∀ (event : Byte), let n := event.toNat;
        let without := fun t : State => t.onSide fun x => { x with ibis := x.ibis.filter fun e => decide (e ≠ n) };
        s.plant.side.ibis.contains n = true →
        (s.ibiStands n = false → ∀ taken, exec (.inBandInterrupt event taken) s = .next (without s)) ∧
        (s.ibiStands n = true → s.plant.side.ibiEnabled = true →
          exec (.inBandInterrupt event true) s = .next (without (s.emit (.ibi n))) ∧
          exec (.inBandInterrupt event false) s = .next (s.emit (.ibi n))) ∧
        (s.ibiStands n = true → s.plant.side.ibiEnabled = false → ∀ taken,
          exec (.inBandInterrupt event taken) s = .next s))) ∧
    (s.plant.pins.pwrEn = false →
      (∀ tdi, exec (.bypass tdi) s = .next s ∧ exec (.extest tdi) s = .next s) ∧ exec .idcode s = .next s ∧
      exec .status s = .next s ∧ exec .wake s = .next s ∧ exec .getpid s = .next s ∧ exec .getstatus s = .next s ∧
      (∀ b, exec (.flashErase b) s = .next s) ∧ (∀ page offset, exec (.readReg page offset) s = .next s))

/-- For every state, command and list of waiting commands: the step of the state whose queue holds that command at its
front is the command's effect on the state whose queue holds the rest. The opcode table gives no row any bits, so no
word spells a command, and placing a word changes nothing. -/
def Obligations.StepRunsFrontCommand : Prop :=
  (∀ (s : State) (c : Instr) (rest : List Instr),
    step { s with pending := c :: rest } = exec c { s with pending := rest }) ∧
  (∀ (s : State) (nbits w : Nat), decodeTableWord nbits w = none ∧ s.withFetchWord nbits w = s)

/-- With an empty queue a step lets one nanosecond pass, at the start of a stroke a device in ROOT sends TIME on every
open port, then on each slice in order a launch that is due starts and the slice's sequencer takes one step; where no
sequencer runs and no launch waits, it is the nanosecond and the TIME alone. In the nanosecond itself fabric time
advances by one, nothing waits and nothing leaves the module, and no line, queue, record, tile, engine, event
controller or memory changes; of the plant only the clock changes. While the tick is stopped, or where no tick falls
in it, no register changes either; where a tick falls, only the die clocks count. Excepted is start-up while it
verifies firmware, where the self test may become due. That a nanosecond passes where nothing is commanded, and that
sequencers act then alone, one instruction in each, is the model's own choice (log entries 3 and 94). -/
def Obligations.EmptyQueueIdles : Prop :=
  ∀ (s : State), s.pending = [] → let t := s.idle;
    step s = .next ((List.range 64).foldl (fun s sl => (s.launchDue sl).seqStep sl) t.strokeTime) ∧
    ((∀ sl < 64, t.seqRuns sl = false ∧ (t.seqr sl).launchAt = none) → step s = .next t.strokeTime) ∧
    t.strokeTime = (if (s.now + 1) % 1000 = 0 ∧ s.get Reg.ftmStsLstate 0 = Ts.root then t.sendTime true 0 s.deviceId 6 else t) ∧
    t.now = s.now + 1 ∧ t.pending = [] ∧ t.out = s.out ∧
    t.freeCtr = s.freeCtr ∧ t.host = s.host ∧ t.mem = s.mem ∧ t.net = s.net ∧ t.tiles = s.tiles ∧
    t.clusters = s.clusters ∧ t.engines = s.engines ∧ t.evcs = s.evcs ∧ t.msgs = s.msgs ∧
    t.plant = { s.plant with clock := t.plant.clock } ∧
    (s.get Reg.rstBootPhase 0 ≠ 1 →
      (s.plant.clock.stopped = true ∨ s.plant.clock.frac < 19660800 → t.regs = s.regs) ∧
      ∀ f i, f.id ≠ Reg.dieTickTick.id → i < fieldStride → t.get f i = s.get f i)

/-- At State.reset: every register field of every instance reads its Reset value of the register tables; no command waits,
nothing has left the module, fabric time is 0; no page-table entry, line, instance, queue, object, fence, image, tile,
cluster store or handoff record is stored, an unlisted page-table entry reading 0; the device is not released, no
alert or quench stands, no port is open and every partition is FREE; and the state has its canonical form. Where a
register table gives no Reset value, the value is the model's own (log entry 1). -/
def Obligations.ResetState : Prop :=
  let s := State.reset;
  (∀ f i, s.get f i = f.reset) ∧ s.pending = [] ∧ s.out = [] ∧ s.now = 0 ∧ s.msgs = [] ∧ s.evcs = .empty ∧
    s.mem.lines = .empty ∧ (∀ slice q i, s.tableEntry slice q i = 0) ∧ s.host.insts = .empty ∧ s.host.queues = .empty ∧
    s.host.objs = .empty ∧ s.host.fences = .empty ∧ s.host.images = .empty ∧ s.tiles = .empty ∧ s.clusters = .empty ∧
    s.net.records = .empty ∧ s.released = false ∧ s.flag Reg.pwrStsAlert 0 = false ∧
    s.quenched = false ∧ (∀ n, s.portOpen n = false) ∧ (∀ p, s.ptnState p = ptnFree) ∧ s.wf = true

/-- For every command with every operand and every state, the command answers a next state: every fault that the spec
describes is an effect on the state, so nothing that software, a peer or a pin can do stops the block. -/
def Obligations.NoCommandStops : Prop :=
  ∀ (c : Instr) (s : State), ∃ t, exec c s = .next t

/-- For every command with every operand and every state: in the state that the command answers the waiting commands are
as they were, all that had left the module before has left it still, in the same order and with what is new after it,
and the count of free values drawn has not fallen, so no two draws take the same value. -/
def Obligations.CommandsFollow : Prop :=
  ∀ (c : Instr) (s t : State), exec c s = .next t → Follows s t

/-- A command other than a stream's access, the end of a planish descriptor or of an open-queue entry, a grant, an
aperture write, the data of a remote read or write, a handoff's trailer, the unsealing of a package, DEV_STATE to DS0,
the tray's WAKE and the fall of PWR_EN leaves every line of HBM, with the key that it was written under, as it was. -/
def Obligations.HbmWrittenOnlyByNamedRows : Prop :=
  ∀ (c : Instr) (s t : State), mayWriteHbm c = false → exec c s = .next t → t.mem.lines = s.mem.lines

/-- From every state in canonical form (HBM lines listed by rising key, page-table entries by rising key and none listed
that reads as an unlisted one does, register fields by rising key) every step answers a state in canonical form,
whichever command it runs, with an empty queue as well. -/
def Obligations.EveryStepKeepsForm : Prop :=
  ∀ (s t : State), s.wf = true → step s = .next t → t.wf = true

/-- In a state in canonical form, a field written reads back the value cut to its width; in every state a field with
another key reads as before, and time, memory, the host side and all that has left the module stay. Two instances of
one field, and fields of different numbers with instances in range, have different keys. -/
def Obligations.RegisterFieldsReadBack : Prop :=
  ∀ (s : State) (f : Field) (i v : Nat),
    (s.regs.wf = true → (s.set f i v).get f i = v % 2 ^ f.width) ∧
    (∀ g j, g.key j ≠ f.key i → (s.set f i v).get g j = s.get g j) ∧
    (∀ j, j ≠ i → f.key j ≠ f.key i) ∧
    (∀ g : Field, ∀ j, g.id ≠ f.id → i < fieldStride → j < fieldStride → g.key j ≠ f.key i) ∧
    (s.set f i v).now = s.now ∧ (s.set f i v).mem = s.mem ∧ (s.set f i v).host = s.host ∧ (s.set f i v).out = s.out

/-- A line of HBM that was written reads back the data while the key of its channel row and the contents' power epoch
stand; every other line reads as before; after the key epoch of the owning partition has changed, the line reads as
the free value that stands for undefined data, of which nothing is known. A page-table entry written reads back in a
state in canonical form, and every other entry reads as before. -/
def Obligations.LinesReadBackUnderTheirKey : Prop :=
  ∀ (s : State) (dpa : Nat) (v : Line),
    (s.writeLine dpa v).readLine dpa = v ∧
    (∀ d, d / 64 ≠ dpa / 64 → (s.writeLine dpa v).readLine d = s.readLine d) ∧
    (∀ t : State, t.mem = (s.writeLine dpa v).mem → t.keyOf dpa = s.keyOf dpa → t.readLine dpa = v) ∧
    (∀ t : State, t.mem = (s.writeLine dpa v).mem → t.keyOf dpa ≠ s.keyOf dpa → ∃ n, t.readLine dpa = Config.garbageLine n) ∧
    (∀ slice q i (w : Word), s.mem.tables.wf = true → (s.setTableEntry slice q i w).tableEntry slice q i = w) ∧
    (∀ slice q i (w : Word) slice' q' i', tableKey slice' q' 0 + i' ≠ tableKey slice q 0 + i →
      (s.setTableEntry slice q i w).tableEntry slice' q' i' = s.tableEntry slice' q' i')
end

