-- ==== Sys2Proof/Laws/Dispatch.lean ====
section
/-! SUPPORT. What exec runs for each command. -/

namespace Sys2Proof.Machine

variable (s : State)

theorem exec_qSqTail (inst : BitVec 9) (q : BitVec 3) (tail : BitVec 16) :
    exec (.qSqTail inst q tail) s = execQSqTail inst q tail s := rfl
theorem exec_qCqHead (inst : BitVec 9) (q : BitVec 3) (head : BitVec 16) :
    exec (.qCqHead inst q head) s = execQCqHead inst q head s := rfl
theorem exec_instLaunch (inst : BitVec 9) (segment : BitVec 16) (delay : BitVec 16) :
    exec (.instLaunch inst segment delay) s = execInstLaunch inst segment delay s := rfl
theorem exec_run (inst : BitVec 9) (q : BitVec 3) (desc : BitVec 2048) :
    exec (.run inst q desc) s = execRun inst q desc s := rfl
theorem exec_alloyRun (inst : BitVec 9) (q : BitVec 3) (desc : BitVec 2048) :
    exec (.alloyRun inst q desc) s = execAlloyRun inst q desc s := rfl
theorem exec_signal (inst : BitVec 9) (q : BitVec 3) (desc : BitVec 2048) :
    exec (.signal inst q desc) s = execSignal inst q desc s := rfl
theorem exec_commandLaunch (p : PtnNo) :
    exec (.commandLaunch p) s = execCommandLaunch p s := rfl
theorem exec_alloyLaunchInstant (p : PtnNo) :
    exec (.alloyLaunchInstant p) s = execAlloyLaunchInstant p s := rfl
theorem exec_walk (p : PtnNo) (chain : BitVec 4) (tableUe : Bool) :
    exec (.walk p chain tableUe) s = execWalk p chain tableUe s := rfl
theorem exec_translationPhaseEnd (p : PtnNo) :
    exec (.translationPhaseEnd p) s = execTranslationPhaseEnd p s := rfl
theorem exec_loadSegmentEnd (p : PtnNo) :
    exec (.loadSegmentEnd p) s = execLoadSegmentEnd p s := rfl
theorem exec_nop (t : TileRef) (wait : BitVec 12) (bits : List BitErrors) :
    exec (.nop t wait bits) s = execNop t wait bits s := rfl
theorem exec_setar (t : TileRef) (wait : BitVec 12) (ar : BitVec 4) (value stride : BitVec 20) (zero : BitVec 4) (bits : List BitErrors) :
    exec (.setar t wait ar value stride zero bits) s = execSetar t wait ar value stride zero bits s := rfl
theorem exec_loop (t : TileRef) (wait : BitVec 12) (count : BitVec 16) (halfLen : BitVec 4) (zero : BitVec 28) (bits : List BitErrors) :
    exec (.loop t wait count halfLen zero bits) s = execLoop t wait count halfLen zero bits s := rfl
theorem exec_tileEnd (t : TileRef) (wait : BitVec 12) (bits : List BitErrors) :
    exec (.tileEnd t wait bits) s = execTileEnd t wait bits s := rfl
theorem exec_mma (t : TileRef) (f : MmaSlot) :
    exec (.mma t f) s = execMma t f s := rfl
theorem exec_clear (t : TileRef) (f : AccSlot) :
    exec (.clear t f) s = execClear t f s := rfl
theorem exec_load (t : TileRef) (f : AccSlot) :
    exec (.load t f) s = execLoad t f s := rfl
theorem exec_store (t : TileRef) (f : AccSlot) :
    exec (.store t f) s = execStore t f s := rfl
theorem exec_toCs (t : TileRef) (f : XferSlot) :
    exec (.toCs t f) s = execToCs t f s := rfl
theorem exec_fromCs (t : TileRef) (f : XferSlot) :
    exec (.fromCs t f) s = execFromCs t f s := rfl
theorem exec_fadd (t : TileRef) (f : LaneSlot) :
    exec (.fadd t f) s = execFadd t f s := rfl
theorem exec_fsub (t : TileRef) (f : LaneSlot) :
    exec (.fsub t f) s = execFsub t f s := rfl
theorem exec_fmul (t : TileRef) (f : LaneSlot) :
    exec (.fmul t f) s = execFmul t f s := rfl
theorem exec_fma (t : TileRef) (f : LaneSlot) :
    exec (.fma t f) s = execFma t f s := rfl
theorem exec_fmin (t : TileRef) (f : LaneSlot) :
    exec (.fmin t f) s = execFmin t f s := rfl
theorem exec_fmax (t : TileRef) (f : LaneSlot) :
    exec (.fmax t f) s = execFmax t f s := rfl
theorem exec_fceq (t : TileRef) (f : LaneSlot) :
    exec (.fceq t f) s = execFceq t f s := rfl
theorem exec_fclt (t : TileRef) (f : LaneSlot) :
    exec (.fclt t f) s = execFclt t f s := rfl
theorem exec_fcle (t : TileRef) (f : LaneSlot) :
    exec (.fcle t f) s = execFcle t f s := rfl
theorem exec_sel (t : TileRef) (f : LaneSlot) :
    exec (.sel t f) s = execSel t f s := rfl
theorem exec_hadd (t : TileRef) (f : LaneSlot) :
    exec (.hadd t f) s = execHadd t f s := rfl
theorem exec_hsub (t : TileRef) (f : LaneSlot) :
    exec (.hsub t f) s = execHsub t f s := rfl
theorem exec_hmul (t : TileRef) (f : LaneSlot) :
    exec (.hmul t f) s = execHmul t f s := rfl
theorem exec_hfma (t : TileRef) (f : LaneSlot) :
    exec (.hfma t f) s = execHfma t f s := rfl
theorem exec_hmin (t : TileRef) (f : LaneSlot) :
    exec (.hmin t f) s = execHmin t f s := rfl
theorem exec_hmax (t : TileRef) (f : LaneSlot) :
    exec (.hmax t f) s = execHmax t f s := rfl
theorem exec_iadd (t : TileRef) (f : LaneSlot) :
    exec (.iadd t f) s = execIadd t f s := rfl
theorem exec_isub (t : TileRef) (f : LaneSlot) :
    exec (.isub t f) s = execIsub t f s := rfl
theorem exec_imul (t : TileRef) (f : LaneSlot) :
    exec (.imul t f) s = execImul t f s := rfl
theorem exec_and (t : TileRef) (f : LaneSlot) :
    exec (.and t f) s = execAnd t f s := rfl
theorem exec_or (t : TileRef) (f : LaneSlot) :
    exec (.or t f) s = execOr t f s := rfl
theorem exec_xor (t : TileRef) (f : LaneSlot) :
    exec (.xor t f) s = execXor t f s := rfl
theorem exec_shl (t : TileRef) (f : LaneSlot) :
    exec (.shl t f) s = execShl t f s := rfl
theorem exec_shr (t : TileRef) (f : LaneSlot) :
    exec (.shr t f) s = execShr t f s := rfl
theorem exec_sra (t : TileRef) (f : LaneSlot) :
    exec (.sra t f) s = execSra t f s := rfl
theorem exec_iceq (t : TileRef) (f : LaneSlot) :
    exec (.iceq t f) s = execIceq t f s := rfl
theorem exec_iclt (t : TileRef) (f : LaneSlot) :
    exec (.iclt t f) s = execIclt t f s := rfl
theorem exec_cvtFp32ToInt32 (t : TileRef) (f : LaneSlot) :
    exec (.cvtFp32ToInt32 t f) s = execCvtFp32ToInt32 t f s := rfl
theorem exec_cvtInt32ToFp32 (t : TileRef) (f : LaneSlot) :
    exec (.cvtInt32ToFp32 t f) s = execCvtInt32ToFp32 t f s := rfl
theorem exec_cvtFp32ToBf16 (t : TileRef) (f : LaneSlot) :
    exec (.cvtFp32ToBf16 t f) s = execCvtFp32ToBf16 t f s := rfl
theorem exec_cvtBf16ToFp32 (t : TileRef) (f : LaneSlot) :
    exec (.cvtBf16ToFp32 t f) s = execCvtBf16ToFp32 t f s := rfl
theorem exec_cvtFp32ToFp16 (t : TileRef) (f : LaneSlot) :
    exec (.cvtFp32ToFp16 t f) s = execCvtFp32ToFp16 t f s := rfl
theorem exec_cvtFp16ToFp32 (t : TileRef) (f : LaneSlot) :
    exec (.cvtFp16ToFp32 t f) s = execCvtFp16ToFp32 t f s := rfl
theorem exec_cvtFp32ToE4m3 (t : TileRef) (f : LaneSlot) :
    exec (.cvtFp32ToE4m3 t f) s = execCvtFp32ToE4m3 t f s := rfl
theorem exec_cvtE4m3ToFp32 (t : TileRef) (f : LaneSlot) :
    exec (.cvtE4m3ToFp32 t f) s = execCvtE4m3ToFp32 t f s := rfl
theorem exec_cvtFp32ToE5m2 (t : TileRef) (f : LaneSlot) :
    exec (.cvtFp32ToE5m2 t f) s = execCvtFp32ToE5m2 t f s := rfl
theorem exec_cvtE5m2ToFp32 (t : TileRef) (f : LaneSlot) :
    exec (.cvtE5m2ToFp32 t f) s = execCvtE5m2ToFp32 t f s := rfl
theorem exec_cvtFp32ToInt8 (t : TileRef) (f : LaneSlot) :
    exec (.cvtFp32ToInt8 t f) s = execCvtFp32ToInt8 t f s := rfl
theorem exec_cvtInt8ToFp32 (t : TileRef) (f : LaneSlot) :
    exec (.cvtInt8ToFp32 t f) s = execCvtInt8ToFp32 t f s := rfl
theorem exec_perm (t : TileRef) (f : LaneSlot) :
    exec (.perm t f) s = execPerm t f s := rfl
theorem exec_bcast (t : TileRef) (f : LaneSlot) :
    exec (.bcast t f) s = execBcast t f s := rfl
theorem exec_rsum (t : TileRef) (f : LaneSlot) :
    exec (.rsum t f) s = execRsum t f s := rfl
theorem exec_rmax (t : TileRef) (f : LaneSlot) :
    exec (.rmax t f) s = execRmax t f s := rfl
theorem exec_rmin (t : TileRef) (f : LaneSlot) :
    exec (.rmin t f) s = execRmin t f s := rfl
theorem exec_mxq (t : TileRef) (f : LaneSlot) :
    exec (.mxq t f) s = execMxq t f s := rfl
theorem exec_exp (t : TileRef) (f : TransSlot) :
    exec (.exp t f) s = execExp t f s := rfl
theorem exec_log (t : TileRef) (f : TransSlot) :
    exec (.log t f) s = execLog t f s := rfl
theorem exec_rcp (t : TileRef) (f : TransSlot) :
    exec (.rcp t f) s = execRcp t f s := rfl
theorem exec_rsqrt (t : TileRef) (f : TransSlot) :
    exec (.rsqrt t f) s = execRsqrt t f s := rfl
theorem exec_sigmoid (t : TileRef) (f : TransSlot) :
    exec (.sigmoid t f) s = execSigmoid t f s := rfl
theorem exec_tanh (t : TileRef) (f : TransSlot) :
    exec (.tanh t f) s = execTanh t f s := rfl
theorem exec_silu (t : TileRef) (f : TransSlot) :
    exec (.silu t f) s = execSilu t f s := rfl
theorem exec_ld (t : TileRef) (f : LdstSlot) :
    exec (.ld t f) s = execLd t f s := rfl
theorem exec_st (t : TileRef) (f : LdstSlot) :
    exec (.st t f) s = execSt t f s := rfl
theorem exec_flowTick (node : BitVec 7) (entry : BitVec 18) (rep : BitVec 12) (i : BitVec 12) (fails : FlowFails) :
    exec (.flowTick node entry rep i fails) s = execFlowTick node entry rep i fails s := rfl
theorem exec_streamAccess (slice : SliceNo) (stream : BitVec 6) (tick : BitVec 24) (errs : List LineError) :
    exec (.streamAccess slice stream tick errs) s = execStreamAccess slice stream tick errs s := rfl
theorem exec_microTlbRequest (slice : SliceNo) (stream : BitVec 6) (line : BitVec 40) :
    exec (.microTlbRequest slice stream line) s = execMicroTlbRequest slice stream line s := rfl
theorem exec_refreshWindow (channel : BitVec 10) (fails : LaneFails) (reads : WindowReads) :
    exec (.refreshWindow channel fails reads) s = execRefreshWindow channel fails reads s := rfl
theorem exec_holdRefresh (channel : BitVec 10) :
    exec (.holdRefresh channel) s = execHoldRefresh channel s := rfl
theorem exec_attn (engine : BitVec 5) (p : PtnNo) (desc : Line) (ecc : ReadOutcome) :
    exec (.attn engine p desc ecc) s = execAttn engine p desc ecc s := rfl
theorem exec_matvec (engine : BitVec 5) (p : PtnNo) (desc : Line) (ecc : ReadOutcome) :
    exec (.matvec engine p desc ecc) s = execMatvec engine p desc ecc s := rfl
theorem exec_gather (engine : BitVec 5) (p : PtnNo) (desc : Line) (ecc : ReadOutcome) :
    exec (.gather engine p desc ecc) s = execGather engine p desc ecc s := rfl
theorem exec_scatter (engine : BitVec 5) (p : PtnNo) (desc : Line) (ecc : ReadOutcome) :
    exec (.scatter engine p desc ecc) s = execScatter engine p desc ecc s := rfl
theorem exec_topk (engine : BitVec 5) (p : PtnNo) (desc : Line) (ecc : ReadOutcome) :
    exec (.topk engine p desc ecc) s = execTopk engine p desc ecc s := rfl
theorem exec_sum (engine : BitVec 5) (p : PtnNo) (desc : Line) (ecc : ReadOutcome) :
    exec (.sum engine p desc ecc) s = execSum engine p desc ecc s := rfl
theorem exec_max (engine : BitVec 5) (p : PtnNo) (desc : Line) (ecc : ReadOutcome) :
    exec (.max engine p desc ecc) s = execMax engine p desc ecc s := rfl
theorem exec_min (engine : BitVec 5) (p : PtnNo) (desc : Line) (ecc : ReadOutcome) :
    exec (.min engine p desc ecc) s = execMin engine p desc ecc s := rfl
theorem exec_merge (engine : BitVec 5) (p : PtnNo) (desc : Line) (ecc : ReadOutcome) :
    exec (.merge engine p desc ecc) s = execMerge engine p desc ecc s := rfl
theorem exec_copy (engine : BitVec 5) (p : PtnNo) (desc : Line) (ecc : ReadOutcome) :
    exec (.copy engine p desc ecc) s = execCopy engine p desc ecc s := rfl
theorem exec_fill (engine : BitVec 5) (p : PtnNo) (desc : Line) (ecc : ReadOutcome) :
    exec (.fill engine p desc ecc) s = execFill engine p desc ecc s := rfl
theorem exec_descriptorEnd (engine : BitVec 5) (p : PtnNo) :
    exec (.descriptorEnd engine p) s = execDescriptorEnd engine p s := rfl
theorem exec_openEntryStart (engine : BitVec 5) (start : EntryStart) :
    exec (.openEntryStart engine start) s = execOpenEntryStart engine start s := rfl
theorem exec_openEntryEnd (engine : BitVec 5) (entry : BitVec 6) (errs : List LineError) :
    exec (.openEntryEnd engine entry errs) s = execOpenEntryEnd engine entry errs s := rfl
theorem exec_alloc (slice : SliceNo) (cls : Byte) :
    exec (.alloc slice cls) s = execAlloc slice cls s := rfl
theorem exec_free (slice : SliceNo) (va : Word) :
    exec (.free slice va) s = execFree slice va s := rfl
theorem exec_openGroupStart (p : PtnNo) (group : BitVec 16) :
    exec (.openGroupStart p group) s = execOpenGroupStart p group s := rfl
theorem exec_openGroupNeed (p : PtnNo) (group : BitVec 16) :
    exec (.openGroupNeed p group) s = execOpenGroupNeed p group s := rfl
theorem exec_internalCommit (p : PtnNo) :
    exec (.internalCommit p) s = execInternalCommit p s := rfl
theorem exec_pacedRelease (p : PtnNo) :
    exec (.pacedRelease p) s = execPacedRelease p s := rfl
theorem exec_promiseOverrun (p : PtnNo) :
    exec (.promiseOverrun p) s = execPromiseOverrun p s := rfl
theorem exec_seam (drain : SeamDrain) :
    exec (.seam drain) s = execSeam drain s := rfl
theorem exec_lineItemEnd (p : PtnNo) :
    exec (.lineItemEnd p) s = execLineItemEnd p s := rfl
theorem exec_bindItem (p : PtnNo) :
    exec (.bindItem p) s = execBindItem p s := rfl
theorem exec_unbindItem (p : PtnNo) :
    exec (.unbindItem p) s = execUnbindItem p s := rfl
theorem exec_translationUpdate (p : PtnNo) :
    exec (.translationUpdate p) s = execTranslationUpdate p s := rfl
theorem exec_rebindingItem (p : PtnNo) (errs : List LineError) :
    exec (.rebindingItem p errs) s = execRebindingItem p errs s := rfl
theorem exec_parkItem (p : PtnNo) :
    exec (.parkItem p) s = execParkItem p s := rfl
theorem exec_wakeItem (p : PtnNo) :
    exec (.wakeItem p) s = execWakeItem p s := rfl
theorem exec_debugItem (p : PtnNo) :
    exec (.debugItem p) s = execDebugItem p s := rfl
theorem exec_directLaunch (p : PtnNo) :
    exec (.directLaunch p) s = execDirectLaunch p s := rfl
theorem exec_tickSwitchItem :
    exec (.tickSwitchItem) s = execTickSwitchItem s := rfl
theorem exec_tickRestart :
    exec (.tickRestart) s = execTickRestart s := rfl
theorem exec_standbyPllLock :
    exec (.standbyPllLock) s = execStandbyPllLock s := rfl
theorem exec_autoTickSwitch :
    exec (.autoTickSwitch) s = execAutoTickSwitch s := rfl
theorem exec_leaveItem (p : PtnNo) :
    exec (.leaveItem p) s = execLeaveItem p s := rfl
theorem exec_leaveInstant (p : PtnNo) :
    exec (.leaveInstant p) s = execLeaveInstant p s := rfl
theorem exec_heartbeatMissed (slice : SliceNo) :
    exec (.heartbeatMissed slice) s = execHeartbeatMissed slice s := rfl
theorem exec_seqTrap (slice : SliceNo) (mcause : Word) :
    exec (.seqTrap slice mcause) s = execSeqTrap slice mcause s := rfl
theorem exec_sxlaunch (slice : SliceNo) (value : Word) :
    exec (.sxlaunch slice value) s = execSxlaunch slice value s := rfl
theorem exec_sxkill (slice : SliceNo) (value : Word) :
    exec (.sxkill slice value) s = execSxkill slice value s := rfl
theorem exec_halt (slice : SliceNo) (value : Bool) :
    exec (.halt slice value) s = execHalt slice value s := rfl
theorem exec_evcDoorbell (evc : BitVec 7) (source : BitVec 10) :
    exec (.evcDoorbell evc source) s = execEvcDoorbell evc source s := rfl
theorem exec_evcMessage (evc : BitVec 7) (source : BitVec 10) :
    exec (.evcMessage evc source) s = execEvcMessage evc source s := rfl
theorem exec_evcTimeExpiry (evc : BitVec 7) (source : BitVec 10) :
    exec (.evcTimeExpiry evc source) s = execEvcTimeExpiry evc source s := rfl
theorem exec_evcClaim (evc : BitVec 7) (origin : Origin) :
    exec (.evcClaim evc origin) s = execEvcClaim evc origin s := rfl
theorem exec_evcComplete (evc : BitVec 7) (source : BitVec 10) :
    exec (.evcComplete evc source) s = execEvcComplete evc source s := rfl
theorem exec_stackClr (evc : BitVec 7) (origin : Origin) :
    exec (.stackClr evc origin) s = execStackClr evc origin s := rfl
theorem exec_evtEn (page : BitVec 14) (value : Word) :
    exec (.evtEn page value) s = execEvtEn page value s := rfl
theorem exec_blkEnable (page : BitVec 14) :
    exec (.blkEnable page) s = execBlkEnable page s := rfl
theorem exec_softRst (page : BitVec 14) (origin : Origin) :
    exec (.softRst page origin) s = execSoftRst page origin s := rfl
theorem exec_freeze (page : BitVec 14) (value : Bool) :
    exec (.freeze page value) s = execFreeze page value s := rfl
theorem exec_lock (page : BitVec 14) (value : Word) :
    exec (.lock page value) s = execLock page value s := rfl
theorem exec_badAccess (bar : BitVec 3) (offset : BitVec 26) (size : BitVec 8) (write : Bool) :
    exec (.badAccess bar offset size write) s = execBadAccess bar offset size write s := rfl
theorem exec_registerWrite (origin : Origin) (offset : BitVec 26) (size : BitVec 8) (value : Word) :
    exec (.registerWrite origin offset size value) s = execRegisterWrite origin offset size value s := rfl
theorem exec_ptnpXltRoot (p : PtnNo) (value : Word) :
    exec (.ptnpXltRoot p value) s = execPtnpXltRoot p value s := rfl
theorem exec_quota (p : PtnNo) (value : BitVec 20) :
    exec (.quota p value) s = execQuota p value s := rfl
theorem exec_rtrOwn (slice : SliceNo) (value : Word) :
    exec (.rtrOwn slice value) s = execRtrOwn slice value s := rfl
theorem exec_lnkOwn (port : PortNo) (value : Word) :
    exec (.lnkOwn port value) s = execLnkOwn port value s := rfl
theorem exec_openMask (channel : BitVec 10) (value : Word) :
    exec (.openMask channel value) s = execOpenMask channel value s := rfl
theorem exec_openMin (channel : BitVec 10) (value : BitVec 6) :
    exec (.openMin channel value) s = execOpenMin channel value s := rfl
theorem exec_poolState (value : BitVec 3) :
    exec (.poolState value) s = execPoolState value s := rfl
theorem exec_openReserve (port : PortNo) (value : BitVec 13) :
    exec (.openReserve port value) s = execOpenReserve port value s := rfl
theorem exec_clkGate (reg : BitVec 3) (value : Word) :
    exec (.clkGate reg value) s = execClkGate reg value s := rfl
theorem exec_retrain (port : PortNo) :
    exec (.retrain port) s = execRetrain port s := rfl
theorem exec_enable (port : PortNo) (value : Bool) :
    exec (.enable port value) s = execEnable port value s := rfl
theorem exec_mbxEnable (fm : Bool) :
    exec (.mbxEnable fm) s = execMbxEnable fm s := rfl
theorem exec_mbxSqBase (fm : Bool) (value : Word) :
    exec (.mbxSqBase fm value) s = execMbxSqBase fm value s := rfl
theorem exec_mbxCqBase (fm : Bool) (value : Word) :
    exec (.mbxCqBase fm value) s = execMbxCqBase fm value s := rfl
theorem exec_sqTail (fm : Bool) (value : BitVec 16) :
    exec (.sqTail fm value) s = execSqTail fm value s := rfl
theorem exec_cqHead (fm : Bool) (value : BitVec 16) :
    exec (.cqHead fm value) s = execCqHead fm value s := rfl
theorem exec_admOpcode (fm : Bool) (a : Adm) (opcode : BitVec 16) :
    exec (.admOpcode fm a opcode) s = execAdmOpcode fm a opcode s := rfl
theorem exec_admDenied (fm : Bool) (a : Adm) (opcode : BitVec 16) :
    exec (.admDenied fm a opcode) s = execAdmDenied fm a opcode s := rfl
theorem exec_noticePost :
    exec (.noticePost) s = execNoticePost s := rfl
theorem exec_instCreate (a : Adm) (inst : BitVec 16) (p fn : Byte) (image : Handle) :
    exec (.instCreate a inst p fn image) s = execInstCreate a inst p fn image s := rfl
theorem exec_instDestroyDrain (a : Adm) (inst : BitVec 16) :
    exec (.instDestroyDrain a inst) s = execInstDestroyDrain a inst s := rfl
theorem exec_instDestroySquash (a : Adm) (inst : BitVec 16) :
    exec (.instDestroySquash a inst) s = execInstDestroySquash a inst s := rfl
theorem exec_instReset (a : Adm) (inst : BitVec 16) :
    exec (.instReset a inst) s = execInstReset a inst s := rfl
theorem exec_instSuspend (a : Adm) (inst : BitVec 16) :
    exec (.instSuspend a inst) s = execInstSuspend a inst s := rfl
theorem exec_instResume (a : Adm) (inst : BitVec 16) :
    exec (.instResume a inst) s = execInstResume a inst s := rfl
theorem exec_instImage (a : Adm) (inst : BitVec 16) (image : Handle) :
    exec (.instImage a inst image) s = execInstImage a inst image s := rfl
theorem exec_instQuery (a : Adm) (inst : BitVec 16) :
    exec (.instQuery a inst) s = execInstQuery a inst s := rfl
theorem exec_qCreate (a : Adm) (inst : BitVec 16) (q sqLog2 cqLog2 : Byte) (sqBase cqBase : Word) :
    exec (.qCreate a inst q sqLog2 cqLog2 sqBase cqBase) s = execQCreate a inst q sqLog2 cqLog2 sqBase cqBase s := rfl
theorem exec_qDestroy (a : Adm) (inst : BitVec 16) (q : Byte) :
    exec (.qDestroy a inst q) s = execQDestroy a inst q s := rfl
theorem exec_moCreate (a : Adm) (p kind flags : Byte) (owner : BitVec 16) (va bytes : Word) :
    exec (.moCreate a p kind flags owner va bytes) s = execMoCreate a p kind flags owner va bytes s := rfl
theorem exec_moFree (a : Adm) (obj : Handle) :
    exec (.moFree a obj) s = execMoFree a obj s := rfl
theorem exec_objRef (a : Adm) (kind : Byte) (h : Handle) (delta : BitVec 32) :
    exec (.objRef a kind h delta) s = execObjRef a kind h delta s := rfl
theorem exec_appendSet (a : Adm) (obj : Handle) (extent : Word) :
    exec (.appendSet a obj extent) s = execAppendSet a obj extent s := rfl
theorem exec_fenceCreate (a : Adm) (p : Byte) (value : Word) :
    exec (.fenceCreate a p value) s = execFenceCreate a p value s := rfl
theorem exec_fenceFree (a : Adm) (fence : Handle) :
    exec (.fenceFree a fence) s = execFenceFree a fence s := rfl
theorem exec_fenceSignal (a : Adm) (fence : Handle) (value : Word) :
    exec (.fenceSignal a fence value) s = execFenceSignal a fence value s := rfl
theorem exec_fenceView (a : Adm) (inst : BitVec 16) (view : Byte) (fence : Handle) :
    exec (.fenceView a inst view fence) s = execFenceView a inst view fence s := rfl
theorem exec_argsetWrite (a : Adm) (p set : Byte) (data : BitVec 1536) :
    exec (.argsetWrite a p set data) s = execArgsetWrite a p set data s := rfl
theorem exec_ptWrite (a : Adm) (p : Byte) (rec : TableRec) :
    exec (.ptWrite a p rec) s = execPtWrite a p rec s := rfl
theorem exec_regionCreate (a : Adm) (engine flags : Byte) (region : BitVec 16) (obj : Handle) (base lines : BitVec 32) (kind : Byte) :
    exec (.regionCreate a engine flags region obj base lines kind) s = execRegionCreate a engine flags region obj base lines kind s := rfl
theorem exec_regionDestroy (a : Adm) (engine : Byte) (region : BitVec 16) :
    exec (.regionDestroy a engine region) s = execRegionDestroy a engine region s := rfl
theorem exec_openOrder (a : Adm) (engine p : Byte) (desc : Line) :
    exec (.openOrder a engine p desc) s = execOpenOrder a engine p desc s := rfl
theorem exec_imgBind (a : Adm) (p flags index : Byte) (obj : Handle) :
    exec (.imgBind a p flags index obj) s = execImgBind a p flags index obj s := rfl
theorem exec_imgUnbind (a : Adm) (image : Handle) :
    exec (.imgUnbind a image) s = execImgUnbind a image s := rfl
theorem exec_heapSet (a : Adm) (p : Byte) (obj : Handle) :
    exec (.heapSet a p obj) s = execHeapSet a p obj s := rfl
theorem exec_heapReset (a : Adm) (p : Byte) :
    exec (.heapReset a p) s = execHeapReset a p s := rfl
theorem exec_ptnCreate (a : Adm) (p profile : Byte) (quota : BitVec 32) (slices sets : Word) :
    exec (.ptnCreate a p profile quota slices sets) s = execPtnCreate a p profile quota slices sets s := rfl
theorem exec_ptnDestroy (a : Adm) (p : Byte) :
    exec (.ptnDestroy a p) s = execPtnDestroy a p s := rfl
theorem exec_ptnReset (a : Adm) (p : Byte) :
    exec (.ptnReset a p) s = execPtnReset a p s := rfl
theorem exec_annealOverwriteEnd (p : PtnNo) :
    exec (.annealOverwriteEnd p) s = execAnnealOverwriteEnd p s := rfl
theorem exec_ptnReshape (a : Adm) (p profile : Byte) (slices sets : Word) (plan : ReshapePlan) :
    exec (.ptnReshape a p profile slices sets plan) s = execPtnReshape a p profile slices sets plan s := rfl
theorem exec_preemptAbsorb (a : Adm) (p : Byte) (inst : BitVec 16) (q : Byte) (desc : BitVec 2048) :
    exec (.preemptAbsorb a p inst q desc) s = execPreemptAbsorb a p inst q desc s := rfl
theorem exec_preemptWithdraw (a : Adm) (p : Byte) (inst : BitVec 16) (q : Byte) (desc : BitVec 2048) :
    exec (.preemptWithdraw a p inst q desc) s = execPreemptWithdraw a p inst q desc s := rfl
theorem exec_preemptKill (a : Adm) (p : Byte) (inst : BitVec 16) (q : Byte) (desc : BitVec 2048) :
    exec (.preemptKill a p inst q desc) s = execPreemptKill a p inst q desc s := rfl
theorem exec_hoCreate (a : Adm) (p cls count : Byte) (extents : List Extent) (inline : Line) :
    exec (.hoCreate a p cls count extents inline) s = execHoCreate a p cls count extents inline s := rfl
theorem exec_hoArm (a : Adm) (p : Byte) (srcDevice : BitVec 16) (srcHandle obj : Handle) (capacity : Word) :
    exec (.hoArm a p srcDevice srcHandle obj capacity) s = execHoArm a p srcDevice srcHandle obj capacity s := rfl
theorem exec_hoOffer (a : Adm) (record : Handle) (dstDevice : BitVec 16) (dstHandle : Handle) :
    exec (.hoOffer a record dstDevice dstHandle) s = execHoOffer a record dstDevice dstHandle s := rfl
theorem exec_hoFree (a : Adm) (record : Handle) :
    exec (.hoFree a record) s = execHoFree a record s := rfl
theorem exec_hoRead (a : Adm) (record : Handle) (dst : Word) :
    exec (.hoRead a record dst) s = execHoRead a record dst s := rfl
theorem exec_hoRuleSource (a : Adm) (state : Byte) (record : Handle) (epoch : BitVec 32) :
    exec (.hoRuleSource a state record epoch) s = execHoRuleSource a state record epoch s := rfl
theorem exec_hoRuleDestination (a : Adm) (state : Byte) (record : Handle) (epoch : BitVec 32) :
    exec (.hoRuleDestination a state record epoch) s = execHoRuleDestination a state record epoch s := rfl
theorem exec_hoRuleLost (a : Adm) (state : Byte) (record : Handle) (epoch : BitVec 32) :
    exec (.hoRuleLost a state record epoch) s = execHoRuleLost a state record epoch s := rfl
theorem exec_hoRuleKeep (a : Adm) (state : Byte) (record : Handle) (epoch : BitVec 32) :
    exec (.hoRuleKeep a state record epoch) s = execHoRuleKeep a state record epoch s := rfl
theorem exec_hoRuleDrop (a : Adm) (state : Byte) (record : Handle) (epoch : BitVec 32) :
    exec (.hoRuleDrop a state record epoch) s = execHoRuleDrop a state record epoch s := rfl
theorem exec_logCtlEnable (a : Adm) (inst : BitVec 16) :
    exec (.logCtlEnable a inst) s = execLogCtlEnable a inst s := rfl
theorem exec_logCtlDisable (a : Adm) (inst : BitVec 16) :
    exec (.logCtlDisable a inst) s = execLogCtlDisable a inst s := rfl
theorem exec_logFetch (a : Adm) (inst : BitVec 16) (first count : BitVec 32) (dst : Word) :
    exec (.logFetch a inst first count dst) s = execLogFetch a inst first count dst s := rfl
theorem exec_apertureMap (a : Adm) (inst : BitVec 16) (base : Word) :
    exec (.apertureMap a inst base) s = execApertureMap a inst base s := rfl
theorem exec_pasidBind (a : Adm) (inst : BitVec 16) (pasid : BitVec 32) :
    exec (.pasidBind a inst pasid) s = execPasidBind a inst pasid s := rfl
theorem exec_alloyJoin (a : Adm) (p : Byte) (lead : BitVec 16) (alloy windowUs : BitVec 32) (tJoin : Word) (plan : JoinPlan) :
    exec (.alloyJoin a p lead alloy windowUs tJoin plan) s = execAlloyJoin a p lead alloy windowUs tJoin plan s := rfl
theorem exec_joinInstant (p : PtnNo) :
    exec (.joinInstant p) s = execJoinInstant p s := rfl
theorem exec_joinWindowEnd (p : PtnNo) :
    exec (.joinWindowEnd p) s = execJoinWindowEnd p s := rfl
theorem exec_alloyUndecided (p : PtnNo) :
    exec (.alloyUndecided p) s = execAlloyUndecided p s := rfl
theorem exec_alloyLeave (a : Adm) (p : Byte) (leaving : List (BitVec 16)) :
    exec (.alloyLeave a p leaving) s = execAlloyLeave a p leaving s := rfl
theorem exec_alloyDissolve (a : Adm) (p : Byte) :
    exec (.alloyDissolve a p) s = execAlloyDissolve a p s := rfl
theorem exec_alloyResume (a : Adm) (p : Byte) :
    exec (.alloyResume a p) s = execAlloyResume a p s := rfl
theorem exec_alloyRuleNone (a : Adm) (p : Byte) :
    exec (.alloyRuleNone a p) s = execAlloyRuleNone a p s := rfl
theorem exec_alloyRuleActive (a : Adm) (p : Byte) :
    exec (.alloyRuleActive a p) s = execAlloyRuleActive a p s := rfl
theorem exec_alloyTreeInstall (a : Adm) (up down member : Byte) (alloy : BitVec 32) :
    exec (.alloyTreeInstall a up down member alloy) s = execAlloyTreeInstall a up down member alloy s := rfl
theorem exec_alloyTreeRemove (a : Adm) (up down member : Byte) (alloy : BitVec 32) :
    exec (.alloyTreeRemove a up down member alloy) s = execAlloyTreeRemove a up down member alloy s := rfl
theorem exec_routeWrite (a : Adm) (first count : BitVec 16) (entries : List (BitVec 4)) :
    exec (.routeWrite a first count entries) s = execRouteWrite a first count entries s := rfl
theorem exec_vecAlloc (a : Adm) (inst : BitVec 16) (count : Byte) :
    exec (.vecAlloc a inst count) s = execVecAlloc a inst count s := rfl
theorem exec_vecFree (a : Adm) (inst : BitVec 16) :
    exec (.vecFree a inst) s = execVecFree a inst s := rfl
theorem exec_tickSourceLocal (a : Adm) :
    exec (.tickSourceLocal a) s = execTickSourceLocal a s := rfl
theorem exec_tickSourceFabric (a : Adm) :
    exec (.tickSourceFabric a) s = execTickSourceFabric a s := rfl
theorem exec_pwrPark (a : Adm) (p state : Byte) :
    exec (.pwrPark a p state) s = execPwrPark a p state s := rfl
theorem exec_pwrWake (a : Adm) (p : Byte) :
    exec (.pwrWake a p) s = execPwrWake a p s := rfl
theorem exec_devStateDs0 (a : Adm) :
    exec (.devStateDs0 a) s = execDevStateDs0 a s := rfl
theorem exec_devStateDs2 (a : Adm) :
    exec (.devStateDs2 a) s = execDevStateDs2 a s := rfl
theorem exec_devStateDs3 (a : Adm) :
    exec (.devStateDs3 a) s = execDevStateDs3 a s := rfl
theorem exec_alloyGap (a : Adm) (p gap : Byte) (epoch : Word) :
    exec (.alloyGap a p gap epoch) s = execAlloyGap a p gap epoch s := rfl
theorem exec_alloyGapEpoch (p : PtnNo) :
    exec (.alloyGapEpoch p) s = execAlloyGapEpoch p s := rfl
theorem exec_fwStage (a : Adm) (bytes : BitVec 32) (image : FwImage) :
    exec (.fwStage a bytes image) s = execFwStage a bytes image s := rfl
theorem exec_fwSvnCommit (a : Adm) (svn : Byte) :
    exec (.fwSvnCommit a svn) s = execFwSvnCommit a svn s := rfl
theorem exec_attest (a : Adm) (p : Byte) (capacity : BitVec 32) (dst : Word) (nonce : BitVec 256) :
    exec (.attest a p capacity dst nonce) s = execAttest a p capacity dst nonce s := rfl
theorem exec_attestFm (a : Adm) (p : Byte) (capacity : BitVec 32) (dst : Word) (nonce : BitVec 256) :
    exec (.attestFm a p capacity dst nonce) s = execAttestFm a p capacity dst nonce s := rfl
theorem exec_attestDoe (kind : Byte) (p : Byte) (capacity : BitVec 32) (nonce : BitVec 256) :
    exec (.attestDoe kind p capacity nonce) s = execAttestDoe kind p capacity nonce s := rfl
theorem exec_attestSnapshot :
    exec (.attestSnapshot) s = execAttestSnapshot s := rfl
theorem exec_consent (a : Adm) (p flags : Byte) :
    exec (.consent a p flags) s = execConsent a p flags s := rfl
theorem exec_dbgOpen (a : Adm) (p : Byte) :
    exec (.dbgOpen a p) s = execDbgOpen a p s := rfl
theorem exec_dbgClose (a : Adm) (p : Byte) :
    exec (.dbgClose a p) s = execDbgClose a p s := rfl
theorem exec_pkgUnseal (a : Adm) (p : Byte) (src dst : Handle) (first count : BitVec 32) :
    exec (.pkgUnseal a p src dst first count) s = execPkgUnseal a p src dst first count s := rfl
theorem exec_engineReset (a : Adm) (p slice tiles : Byte) :
    exec (.engineReset a p slice tiles) s = execEngineReset a p slice tiles s := rfl
theorem exec_devResetDevice (a : Adm) :
    exec (.devResetDevice a) s = execDevResetDevice a s := rfl
theorem exec_devResetPowerCycle (a : Adm) :
    exec (.devResetPowerCycle a) s = execDevResetPowerCycle a s := rfl
theorem exec_assayRun (a : Adm) (kind : Byte) (target : BitVec 16) :
    exec (.assayRun a kind target) s = execAssayRun a kind target s := rfl
theorem exec_assayEnd (repairs : BitVec 16) (hubOk : Bool) (routers : BitVec 68) (units : AssayUnits) :
    exec (.assayEnd repairs hubOk routers units) s = execAssayEnd repairs hubOk routers units s := rfl
theorem exec_assayRead (a : Adm) :
    exec (.assayRead a) s = execAssayRead a s := rfl
theorem exec_assayReadFm (a : Adm) :
    exec (.assayReadFm a) s = execAssayReadFm a s := rfl
theorem exec_assayFuse (a : Adm) :
    exec (.assayFuse a) s = execAssayFuse a s := rfl
theorem exec_resetOverrun (level : BitVec 3) (p : PtnNo) :
    exec (.resetOverrun level p) s = execResetOverrun level p s := rfl
theorem exec_apertureRead (inst : BitVec 9) (offset : BitVec 27) (size : BitVec 13) (errs : List LineError) :
    exec (.apertureRead inst offset size errs) s = execApertureRead inst offset size errs s := rfl
theorem exec_apertureWrite (inst : BitVec 9) (offset : BitVec 27) (data : List Byte) (errs : List LineError) :
    exec (.apertureWrite inst offset data errs) s = execApertureWrite inst offset data errs s := rfl
theorem exec_selfRefreshReturn (channel : BitVec 10) :
    exec (.selfRefreshReturn channel) s = execSelfRefreshReturn channel s := rfl
theorem exec_dmaError (what : BitVec 3) (inst : BitVec 9) (q : BitVec 3) :
    exec (.dmaError what inst q) s = execDmaError what inst q s := rfl
theorem exec_configRequest (fn : Bool) (offset : BitVec 12) (write : Bool) (value : BitVec 32) :
    exec (.configRequest fn offset write value) s = execConfigRequest fn offset write value s := rfl
theorem exec_pcieLinkReset (fn : Bool) :
    exec (.pcieLinkReset fn) s = execPcieLinkReset fn s := rfl
theorem exec_perstN :
    exec (.perstN) s = execPerstN s := rfl
theorem exec_pwrEnRise (railsOk : Bool) :
    exec (.pwrEnRise railsOk) s = execPwrEnRise railsOk s := rfl
theorem exec_pwrEnFall :
    exec (.pwrEnFall) s = execPwrEnFall s := rfl
theorem exec_railOutOfRegulation :
    exec (.railOutOfRegulation) s = execRailOutOfRegulation s := rfl
theorem exec_firmwareVerified (bank : Bool) (image : FwImage) (nvmOk : Bool) (mNvm : BitVec 256) :
    exec (.firmwareVerified bank image nvmOk mNvm) s = execFirmwareVerified bank image nvmOk mNvm s := rfl
theorem exec_bankVerifyFail (bank : Bool) :
    exec (.bankVerifyFail bank) s = execBankVerifyFail bank s := rfl
theorem exec_deviceRelease (trained : Bool) :
    exec (.deviceRelease trained) s = execDeviceRelease trained s := rfl
theorem exec_assayOutOfWindow :
    exec (.assayOutOfWindow) s = execAssayOutOfWindow s := rfl
theorem exec_hubHeartbeatCheck (incremented : BitVec 4) (recordsPosted : Bool) :
    exec (.hubHeartbeatCheck incremented recordsPosted) s = execHubHeartbeatCheck incremented recordsPosted s := rfl
theorem exec_pwrAlertNAssert (widthNs : BitVec 16) :
    exec (.pwrAlertNAssert widthNs) s = execPwrAlertNAssert widthNs s := rfl
theorem exec_pwrAlertNDeassert :
    exec (.pwrAlertNDeassert) s = execPwrAlertNDeassert s := rfl
theorem exec_alertHoldEnd :
    exec (.alertHoldEnd) s = execAlertHoldEnd s := rfl
theorem exec_coolFailNAssert (widthNs : BitVec 16) :
    exec (.coolFailNAssert widthNs) s = execCoolFailNAssert widthNs s := rfl
theorem exec_coolFailNDeassert :
    exec (.coolFailNDeassert) s = execCoolFailNDeassert s := rfl
theorem exec_quenchPowerOffRequest :
    exec (.quenchPowerOffRequest) s = execQuenchPowerOffRequest s := rfl
theorem exec_thermTrip :
    exec (.thermTrip) s = execThermTrip s := rfl
theorem exec_supplyWarning (rail : BitVec 3) :
    exec (.supplyWarning rail) s = execSupplyWarning rail s := rfl
theorem exec_clampEnd :
    exec (.clampEnd) s = execClampEnd s := rfl
theorem exec_brownout (rail : BitVec 3) :
    exec (.brownout rail) s = execBrownout rail s := rfl
theorem exec_droop (stretchedTicks : BitVec 16) (totalPs : BitVec 32) :
    exec (.droop stretchedTicks totalPs) s = execDroop stretchedTicks totalPs s := rfl
theorem exec_capLoop (lastMs fixed other : BitVec 32) (alloys : List (BitVec 32)) :
    exec (.capLoop lastMs fixed other alloys) s = execCapLoop lastMs fixed other alloys s := rfl
theorem exec_calibration (measured estimated : BitVec 48) :
    exec (.calibration measured estimated) s = execCalibration measured estimated s := rfl
theorem exec_thermalFloor (maxC : Byte) (hotDie : Byte) :
    exec (.thermalFloor maxC hotDie) s = execThermalFloor maxC hotDie s := rfl
theorem exec_trim (errPpm : BitVec 16) (refPresent : Bool) :
    exec (.trim errPpm refPresent) s = execTrim errPpm refPresent s := rfl
theorem exec_idleSp1 (slice : SliceNo) :
    exec (.idleSp1 slice) s = execIdleSp1 slice s := rfl
theorem exec_idleSp2 (slice : SliceNo) :
    exec (.idleSp2 slice) s = execIdleSp2 slice s := rfl
theorem exec_counterLatch :
    exec (.counterLatch) s = execCounterLatch s := rfl
theorem exec_pwrViewUpdate (powers : List (BitVec 16)) :
    exec (.pwrViewUpdate powers) s = execPwrViewUpdate powers s := rfl
theorem exec_trngFail :
    exec (.trngFail) s = execTrngFail s := rfl
theorem exec_trngTimeout (what : BitVec 2) (port : PortNo) :
    exec (.trngTimeout what port) s = execTrngTimeout what port s := rfl
theorem exec_timePps :
    exec (.timePps) s = execTimePps s := rfl
theorem exec_time (port : PortNo) (valid : Bool) (hops : BitVec 6) (root : DeviceId) (start : Word) (arrival : BitVec 80) :
    exec (.time port valid hops root start arrival) s = execTime port valid hops root start arrival s := rfl
theorem exec_parentLost :
    exec (.parentLost) s = execParentLost s := rfl
theorem exec_parentUsable :
    exec (.parentUsable) s = execParentUsable s := rfl
theorem exec_trainingFrame (port : PortNo) (lanes : BitVec 68) :
    exec (.trainingFrame port lanes) s = execTrainingFrame port lanes s := rfl
theorem exec_trainDone (port : PortNo) (ber : List (BitVec 32)) :
    exec (.trainDone port ber) s = execTrainDone port ber s := rfl
theorem exec_alignDone (port : PortNo) (lanes : BitVec 64) :
    exec (.alignDone port lanes) s = execAlignDone port lanes s := rfl
theorem exec_hello (port : PortNo) (certOk : Bool) (device : DeviceId) (peerPort : BitVec 3) (nonce : BitVec 256) :
    exec (.hello port certOk device peerPort nonce) s = execHello port certOk device peerPort nonce s := rfl
theorem exec_encap (port : PortNo) (ok : Bool) :
    exec (.encap port ok) s = execEncap port ok s := rfl
theorem exec_portStateTimeout (port : PortNo) :
    exec (.portStateTimeout port) s = execPortStateTimeout port s := rfl
theorem exec_interval (port : PortNo) (corrected : BitVec 16) (lanes : LaneReport) :
    exec (.interval port corrected lanes) s = execInterval port corrected lanes s := rfl
theorem exec_lostInterval (port : PortNo) :
    exec (.lostInterval port) s = execLostInterval port s := rfl
theorem exec_laneSwap (port : PortNo) (logical spare : Byte) (stroke : BitVec 20) :
    exec (.laneSwap port logical spare stroke) s = execLaneSwap port logical spare stroke s := rfl
theorem exec_laneSwapStroke (port : PortNo) :
    exec (.laneSwapStroke port) s = execLaneSwapStroke port s := rfl
theorem exec_keyRefresh (port : PortNo) :
    exec (.keyRefresh port) s = execKeyRefresh port s := rfl
theorem exec_echoReq (port : PortNo) (seq : Byte) (delta : BitVec 48) :
    exec (.echoReq port seq delta) s = execEchoReq port seq delta s := rfl
theorem exec_echoRsp (port : PortNo) (seq : Byte) (delta elapsed : BitVec 48) :
    exec (.echoRsp port seq delta elapsed) s = execEchoRsp port seq delta elapsed s := rfl
theorem exec_close (port : PortNo) (cause : Byte) :
    exec (.close port cause) s = execClose port cause s := rfl
theorem exec_pause (port : PortNo) (set : Word) :
    exec (.pause port set) s = execPause port set s := rfl
theorem exec_scheduledSlot (port : PortNo) (slot : BitVec 13) :
    exec (.scheduledSlot port slot) s = execScheduledSlot port slot s := rfl
theorem exec_openSlot (port : PortNo) (slot : BitVec 13) :
    exec (.openSlot port slot) s = execOpenSlot port slot s := rfl
theorem exec_scheduledFlit (port : PortNo) (slot : BitVec 13) (kind : BitVec 4) (point : BitVec 2) (cmd : BitVec 18) (srcPart : PtnNo) (alloy : BitVec 32) (units : List Line) :
    exec (.scheduledFlit port slot kind point cmd srcPart alloy units) s = execScheduledFlit port slot kind point cmd srcPart alloy units s := rfl
theorem exec_holdBegin (p : PtnNo) (port : PortNo) :
    exec (.holdBegin p port) s = execHoldBegin p port s := rfl
theorem exec_holdEnd (p : PtnNo) :
    exec (.holdEnd p) s = execHoldEnd p s := rfl
theorem exec_holdLimitUs (p : PtnNo) :
    exec (.holdLimitUs p) s = execHoldLimitUs p s := rfl
theorem exec_barrierTick (p : PtnNo) (index : BitVec 16) :
    exec (.barrierTick p index) s = execBarrierTick p index s := rfl
theorem exec_barrierArrive (m : AlloyMsg) :
    exec (.barrierArrive m) s = execBarrierArrive m s := rfl
theorem exec_barrierGo (m : AlloyMsg) :
    exec (.barrierGo m) s = execBarrierGo m s := rfl
theorem exec_launch (m : AlloyMsg) :
    exec (.launch m) s = execLaunch m s := rfl
theorem exec_commit (m : AlloyMsg) :
    exec (.commit m) s = execCommit m s := rfl
theorem exec_release (m : AlloyMsg) :
    exec (.release m) s = execRelease m s := rfl
theorem exec_void (m : AlloyMsg) :
    exec (.void m) s = execVoid m s := rfl
theorem exec_abort (m : AlloyMsg) :
    exec (.abort m) s = execAbort m s := rfl
theorem exec_joinSync (m : AlloyMsg) (device : DeviceId) :
    exec (.joinSync m device) s = execJoinSync m device s := rfl
theorem exec_active (m : AlloyMsg) :
    exec (.active m) s = execActive m s := rfl
theorem exec_abandon (m : AlloyMsg) :
    exec (.abandon m) s = execAbandon m s := rfl
theorem exec_leave (m : AlloyMsg) (leaving : List (BitVec 16)) :
    exec (.leave m leaving) s = execLeave m leaving s := rfl
theorem exec_hopReport (p : PtnNo) (device : DeviceId) (hops : List (BitVec 16 × BitVec 16)) :
    exec (.hopReport p device hops) s = execHopReport p device hops s := rfl
theorem exec_wcetDigest (p : PtnNo) (device : DeviceId) (index : BitVec 4) (digest : BitVec 256) :
    exec (.wcetDigest p device index digest) s = execWcetDigest p device index digest s := rfl
theorem exec_resumeReport (p : PtnNo) (device : DeviceId) :
    exec (.resumeReport p device) s = execResumeReport p device s := rfl
theorem exec_offer (m : HoMsg) :
    exec (.offer m) s = execOffer m s := rfl
theorem exec_stream (h : OpenHdr) (data : BitVec 2048) :
    exec (.stream h data) s = execStream h data s := rfl
theorem exec_streamEnd (record : BitVec 14) :
    exec (.streamEnd record) s = execStreamEnd record s := rfl
theorem exec_trailer (record : BitVec 14) (epoch : BitVec 32) (length : Word) (digest : BitVec 256) :
    exec (.trailer record epoch length digest) s = execTrailer record epoch length digest s := rfl
theorem exec_taken (m : HoMsg) :
    exec (.taken m) s = execTaken m s := rfl
theorem exec_released (m : HoMsg) :
    exec (.released m) s = execReleased m s := rfl
theorem exec_refuse (m : HoMsg) :
    exec (.refuse m) s = execRefuse m s := rfl
theorem exec_query (m : HoMsg) :
    exec (.query m) s = execQuery m s := rfl
theorem exec_answer (m : HoMsg) :
    exec (.answer m) s = execAnswer m s := rfl
theorem exec_stale (m : HoMsg) :
    exec (.stale m) s = execStale m s := rfl
theorem exec_holdQueryExpiry (record : BitVec 14) :
    exec (.holdQueryExpiry record) s = execHoldQueryExpiry record s := rfl
theorem exec_takenResend (record : BitVec 14) :
    exec (.takenResend record) s = execTakenResend record s := rfl
theorem exec_hoHoldLimit (record : BitVec 14) :
    exec (.hoHoldLimit record) s = execHoHoldLimit record s := rfl
theorem exec_readReq (h : OpenHdr) (va : Word) (lines : BitVec 32) (deadline : Word) (errs : List LineError) :
    exec (.readReq h va lines deadline errs) s = execReadReq h va lines deadline errs s := rfl
theorem exec_readData (h : OpenHdr) (lines : List Line) :
    exec (.readData h lines) s = execReadData h lines s := rfl
theorem exec_writeReq (h : OpenHdr) (va : Word) (lines : BitVec 32) (deadline : Word) :
    exec (.writeReq h va lines deadline) s = execWriteReq h va lines deadline s := rfl
theorem exec_writeData (h : OpenHdr) (lines : List Line) :
    exec (.writeData h lines) s = execWriteData h lines s := rfl
theorem exec_ack (h : OpenHdr) (status : BitVec 16) (lines : BitVec 32) :
    exec (.ack h status lines) s = execAck h status lines s := rfl
theorem exec_nack (h : OpenHdr) (status : BitVec 16) (va : Word) :
    exec (.nack h status va) s = execNack h status va s := rfl
theorem exec_openRequestTimeout (tag : BitVec 16) :
    exec (.openRequestTimeout tag) s = execOpenRequestTimeout tag s := rfl
theorem exec_grant (kind : BitVec 2) (index : BitVec 10) :
    exec (.grant kind index) s = execGrant kind index s := rfl
theorem exec_guaranteeCheck (kind : BitVec 2) (index : BitVec 10) :
    exec (.guaranteeCheck kind index) s = execGuaranteeCheck kind index s := rfl
theorem exec_bypass (tdi : Bool) :
    exec (.bypass tdi) s = execBypass tdi s := rfl
theorem exec_idcode :
    exec (.idcode) s = execIdcode s := rfl
theorem exec_samplePreload (cells : Word) :
    exec (.samplePreload cells) s = execSamplePreload cells s := rfl
theorem exec_extest (tdi : Bool) :
    exec (.extest tdi) s = execExtest tdi s := rfl
theorem exec_jtagDebugAccess (p : PtnNo) (slice : SliceNo) (space : BitVec 4) (address : BitVec 24) (write : Bool) (value : Word) :
    exec (.jtagDebugAccess p slice space address write value) s = execJtagDebugAccess p slice space address write value s := rfl
theorem exec_readReg (page offset : BitVec 16) :
    exec (.readReg page offset) s = execReadReg page offset s := rfl
theorem exec_status :
    exec (.status) s = execStatus s := rfl
theorem exec_wake :
    exec (.wake) s = execWake s := rfl
theorem exec_flashErase (bank : Byte) :
    exec (.flashErase bank) s = execFlashErase bank s := rfl
theorem exec_flashWrite (bank : Byte) (offset : BitVec 32) (data : Line) :
    exec (.flashWrite bank offset data) s = execFlashWrite bank offset data s := rfl
theorem exec_flashRead (bank : Byte) (offset : BitVec 32) :
    exec (.flashRead bank offset) s = execFlashRead bank offset s := rfl
theorem exec_enec (events : Byte) :
    exec (.enec events) s = execEnec events s := rfl
theorem exec_disec (events : Byte) :
    exec (.disec events) s = execDisec events s := rfl
theorem exec_rstdaa :
    exec (.rstdaa) s = execRstdaa s := rfl
theorem exec_setdasa (static dynamic : BitVec 7) :
    exec (.setdasa static dynamic) s = execSetdasa static dynamic s := rfl
theorem exec_entdaa (dynamic : BitVec 7) :
    exec (.entdaa dynamic) s = execEntdaa dynamic s := rfl
theorem exec_getpid :
    exec (.getpid) s = execGetpid s := rfl
theorem exec_getbcr :
    exec (.getbcr) s = execGetbcr s := rfl
theorem exec_getdcr :
    exec (.getdcr) s = execGetdcr s := rfl
theorem exec_getstatus :
    exec (.getstatus) s = execGetstatus s := rfl
theorem exec_inBandInterrupt (event : Byte) (taken : Bool) :
    exec (.inBandInterrupt event taken) s = execInBandInterrupt event taken s := rfl
theorem exec_markerDiscontinuity (port : PortNo) :
    exec (.markerDiscontinuity port) s = execMarkerDiscontinuity port s := rfl
theorem exec_resetLevelRecovery :
    exec (.resetLevelRecovery) s = execResetLevelRecovery s := rfl
theorem exec_perstNDeassert :
    exec (.perstNDeassert) s = execPerstNDeassert s := rfl
theorem exec_lineItemOverrun (p : PtnNo) :
    exec (.lineItemOverrun p) s = execLineItemOverrun p s := rfl
theorem exec_vectorUnmask (fn : Bool) (vector : BitVec 11) :
    exec (.vectorUnmask fn vector) s = execVectorUnmask fn vector s := rfl
theorem exec_ideKm (stream : BitVec 3) (subStream : BitVec 3) (rx : Bool) (keyOk : Bool) (setGo : Bool) :
    exec (.ideKm stream subStream rx keyOk setGo) s = execIdeKm stream subStream rx keyOk setGo s := rfl
theorem exec_doeDiscovery (index : Byte) :
    exec (.doeDiscovery index) s = execDoeDiscovery index s := rfl

end Sys2Proof.Machine
end

