-- ==== Sys2Proof/Laws/Fmap.lean ====
section
/-! SUPPORT. Sparse maps: reading after writing, and the canonical form that every write keeps. -/

namespace Sys2Proof.Machine

variable {α : Type}

/-- Keys above a bound. -/
def keysOver (k : Nat) (l : List (Nat × α)) : Prop := ∀ e ∈ l, k < e.1

theorem keysRise_cons (k : Nat) (v : α) (l : List (Nat × α)) :
    keysRise ((k, v) :: l) = true ↔ keysOver k l ∧ keysRise l = true := by
  induction l generalizing k v with
  | nil => simp [keysRise, keysOver]
  | cons e l ih =>
    obtain ⟨k', v'⟩ := e
    simp only [keysRise, Bool.and_eq_true, decide_eq_true_eq, keysOver, List.mem_cons, forall_eq_or_imp]
    constructor
    · rintro ⟨h, h'⟩
      have := ((ih k' v').mp h').1
      exact ⟨⟨h, fun e he => Nat.lt_trans h (this e he)⟩, h'⟩
    · rintro ⟨⟨h, _⟩, h'⟩
      exact ⟨h, h'⟩

theorem lookupKey_insertKey_self (l : List (Nat × α)) (k : Nat) (v : α) : lookupKey (insertKey l k v) k = some v := by
  induction l with
  | nil => simp [insertKey, lookupKey]
  | cons e l ih =>
    obtain ⟨k', w⟩ := e
    simp only [insertKey]
    split
    · simp [lookupKey]
    · split
      · simp [lookupKey]
      · rename_i h1 h2
        simp only [lookupKey, if_neg (fun h => h2 (Eq.symm h)), ih]

theorem lookupKey_insertKey_ne (l : List (Nat × α)) {k k' : Nat} (v : α) (h : k' ≠ k) :
    lookupKey (insertKey l k v) k' = lookupKey l k' := by
  induction l with
  | nil => simp [insertKey, lookupKey, Ne.symm h]
  | cons e l ih =>
    obtain ⟨k2, w⟩ := e
    simp only [insertKey]
    split
    · simp [lookupKey, Ne.symm h]
    · split
      · rename_i h1 h2
        subst h2
        simp [lookupKey, Ne.symm h]
      · simp only [lookupKey, ih]

theorem lookupKey_eraseKey_ne (l : List (Nat × α)) {k k' : Nat} (h : k' ≠ k) :
    lookupKey (eraseKey l k) k' = lookupKey l k' := by
  induction l with
  | nil => rfl
  | cons e l ih =>
    obtain ⟨k2, w⟩ := e
    simp only [eraseKey]
    split
    · rename_i h2
      subst h2
      simp [lookupKey, Ne.symm h]
    · simp only [lookupKey, ih]

theorem lookupKey_over {k : Nat} {l : List (Nat × α)} (h : keysOver k l) : lookupKey l k = none := by
  induction l with
  | nil => rfl
  | cons e l ih =>
    obtain ⟨k2, w⟩ := e
    have h1 := h (k2, w) (List.mem_cons_self ..)
    rw [lookupKey, if_neg (by simp only at h1; omega)]
    exact ih fun e he => h e (List.mem_cons_of_mem _ he)

theorem lookupKey_eraseKey_self {l : List (Nat × α)} (hl : keysRise l = true) (k : Nat) :
    lookupKey (eraseKey l k) k = none := by
  induction l with
  | nil => rfl
  | cons e l ih =>
    obtain ⟨k2, w⟩ := e
    have h := (keysRise_cons k2 w l).mp hl
    simp only [eraseKey]
    split
    · rename_i h2
      exact h2 ▸ lookupKey_over h.1
    · rename_i h2
      simp only [lookupKey, if_neg h2, ih h.2]

theorem mem_insertKey {l : List (Nat × α)} {k : Nat} {v : α} {e : Nat × α} (h : e ∈ insertKey l k v) :
    e = (k, v) ∨ e ∈ l := by
  induction l with
  | nil => exact Or.inl (by simpa [insertKey] using h)
  | cons e' l ih =>
    obtain ⟨k2, w⟩ := e'
    simp only [insertKey] at h
    split at h
    · simpa using h
    · split at h
      · rcases List.mem_cons.mp h with h | h
        · exact Or.inl h
        · exact Or.inr (List.mem_cons_of_mem _ h)
      · rcases List.mem_cons.mp h with h | h
        · exact Or.inr (h ▸ List.mem_cons_self ..)
        · exact (ih h).imp id (List.mem_cons_of_mem _)

theorem mem_eraseKey {l : List (Nat × α)} {k : Nat} {e : Nat × α} (h : e ∈ eraseKey l k) : e ∈ l := by
  induction l with
  | nil => exact h
  | cons e' l ih =>
    obtain ⟨k2, w⟩ := e'
    simp only [eraseKey] at h
    split at h
    · exact List.mem_cons_of_mem _ h
    · rcases List.mem_cons.mp h with h | h
      · exact h ▸ List.mem_cons_self ..
      · exact List.mem_cons_of_mem _ (ih h)

theorem keysRise_insertKey {l : List (Nat × α)} (hl : keysRise l = true) (k : Nat) (v : α) :
    keysRise (insertKey l k v) = true := by
  induction l with
  | nil => rfl
  | cons e l ih =>
    obtain ⟨k2, w⟩ := e
    have h := (keysRise_cons k2 w l).mp hl
    simp only [insertKey]
    split
    · rename_i h1
      refine (keysRise_cons k v _).mpr ⟨fun e he => ?_, hl⟩
      rcases List.mem_cons.mp he with he | he
      · exact he ▸ h1
      · exact Nat.lt_trans h1 (h.1 e he)
    · split
      · rename_i h1 h2
        exact (keysRise_cons k v _).mpr ⟨h2 ▸ h.1, h.2⟩
      · rename_i h1 h2
        refine (keysRise_cons k2 w _).mpr ⟨fun e he => ?_, ih h.2⟩
        rcases mem_insertKey he with he | he
        · exact he ▸ (by simp only; omega)
        · exact h.1 e he

theorem keysRise_eraseKey {l : List (Nat × α)} (hl : keysRise l = true) (k : Nat) : keysRise (eraseKey l k) = true := by
  induction l with
  | nil => rfl
  | cons e l ih =>
    obtain ⟨k2, w⟩ := e
    have h := (keysRise_cons k2 w l).mp hl
    simp only [eraseKey]
    split
    · exact h.2
    · exact (keysRise_cons k2 w _).mpr ⟨fun e he => h.1 e (mem_eraseKey he), ih h.2⟩

theorem keysRise_filter {l : List (Nat × α)} (hl : keysRise l = true) (f : Nat × α → Bool) :
    keysRise (l.filter f) = true := by
  induction l with
  | nil => rfl
  | cons e l ih =>
    obtain ⟨k2, w⟩ := e
    have h := (keysRise_cons k2 w l).mp hl
    rw [List.filter_cons]
    split
    · exact (keysRise_cons k2 w _).mpr ⟨fun e he => h.1 e (List.mem_of_mem_filter he), ih h.2⟩
    · exact ih h.2

/-- A key reads as what was put there. -/
@[simp] theorem FMap.find_put_self (m : FMap α) (k : Nat) (v : α) : (m.put k v).find k = some v :=
  lookupKey_insertKey_self m.entries k v
/-- Every other key reads as before. -/
theorem FMap.find_put_ne (m : FMap α) {k k' : Nat} (v : α) (h : k' ≠ k) : (m.put k v).find k' = m.find k' :=
  lookupKey_insertKey_ne m.entries v h
theorem FMap.find_drop_ne (m : FMap α) {k k' : Nat} (h : k' ≠ k) : (m.drop k).find k' = m.find k' :=
  lookupKey_eraseKey_ne m.entries h
theorem FMap.find_drop_self {m : FMap α} (hm : m.wf = true) (k : Nat) : (m.drop k).find k = none :=
  lookupKey_eraseKey_self hm k
theorem FMap.getD_putD_ne [DecidableEq α] (m : FMap α) {k k' : Nat} (d v d' : α) (h : k' ≠ k) :
    (m.putD k d v).getD k' d' = m.getD k' d' := by
  unfold FMap.putD FMap.getD
  split
  · rw [FMap.find_drop_ne m h]
  · rw [FMap.find_put_ne m v h]
theorem FMap.getD_putD_self [DecidableEq α] {m : FMap α} (hm : m.wf = true) (k : Nat) (d v : α) :
    (m.putD k d v).getD k d = v := by
  unfold FMap.putD FMap.getD
  split
  · rename_i h
    rw [FMap.find_drop_self hm, h]
    rfl
  · rw [FMap.find_put_self]
    rfl

theorem FMap.wf_put {m : FMap α} (h : m.wf = true) (k : Nat) (v : α) : (m.put k v).wf = true :=
  keysRise_insertKey h k v
theorem FMap.wf_drop {m : FMap α} (h : m.wf = true) (k : Nat) : (m.drop k).wf = true := keysRise_eraseKey h k
theorem FMap.wf_keep {m : FMap α} (h : m.wf = true) (f : Nat → α → Bool) : (m.keep f).wf = true :=
  keysRise_filter h _
theorem FMap.wf_putD [DecidableEq α] {m : FMap α} (h : m.wf = true) (k : Nat) (d v : α) : (m.putD k d v).wf = true := by
  unfold FMap.putD
  split
  · exact FMap.wf_drop h k
  · exact FMap.wf_put h k v
/-- Writing keeps the canonical form of a map whose unlisted keys read as `d`. -/
theorem FMap.wfD_putD [DecidableEq α] {m : FMap α} {d : α} (h : m.wfD d = true) (k : Nat) (v : α) :
    (m.putD k d v).wfD d = true := by
  unfold FMap.wfD at h ⊢
  rw [Bool.and_eq_true, List.all_eq_true] at h ⊢
  refine ⟨FMap.wf_putD (m := m) h.1 k d v, fun e he => ?_⟩
  unfold FMap.putD at he
  split at he
  · exact h.2 e (mem_eraseKey he)
  · rename_i hv
    rcases mem_insertKey he with he | he
    · simpa [he] using hv
    · exact h.2 e he

end Sys2Proof.Machine
end

