-- ==== Sys2Proof/Laws/Memory.lean ====
section
/-! SUPPORT. Memory's canonical form: State.reset has it and every operation that writes a line, a table entry or a
channel keeps it. -/

namespace Sys2Proof.Machine

theorem State.reset_memory_wf : Memory.wf State.reset.mem = true := by decide +kernel

theorem State.writeLine_wf {s : State} (h : Memory.wf s.mem = true) (dpa : Nat) (v : Line) :
    Memory.wf (s.writeLine dpa v).mem = true := by
  simp only [Memory.wf, Bool.and_eq_true] at h ⊢
  exact ⟨FMap.wf_put h.1 _ _, h.2⟩
theorem State.setTableEntry_wf {s : State} (h : Memory.wf s.mem = true) (slice q i : Nat) (w : Word) :
    Memory.wf (s.setTableEntry slice q i w).mem = true := by
  simp only [Memory.wf, Bool.and_eq_true] at h ⊢
  exact ⟨h.1, FMap.wfD_putD h.2 _ _⟩
theorem State.setChannel_wf {s : State} (h : Memory.wf s.mem = true) (ch : Nat) (c : Channel) :
    Memory.wf (s.setChannel ch c).mem = true := h
theorem State.writeTable_wf {s : State} (h : Memory.wf s.mem = true) (r : TableRec) : Memory.wf (s.writeTable r).mem = true := by
  unfold State.writeTable
  generalize (List.range r.entries.length).zip r.entries = l
  induction l generalizing s with
  | nil => exact h
  | cons e l ih => exact ih (State.setTableEntry_wf h ..)
theorem State.writeVa_wf {s : State} (h : Memory.wf s.mem = true) (p va : Nat) (v : Line) :
    Memory.wf (s.writeVa p va v).mem = true := by
  unfold State.writeVa
  repeat' split
  all_goals first | exact h | exact State.writeLine_wf h ..

end Sys2Proof.Machine
end

