-- ==== Sys2Proof/Laws/State.lean ====
section
/-! SUPPORT. What each update of State leaves and what it writes: one lemma for each part of State, true by computation, and
what an update's own reading gives afterwards. -/

namespace Sys2Proof.Machine

variable (s : State)

/-! ### Parts -/

@[simp] theorem State.set_pending (f : Field) (i v : Nat) : (s.set f i v).pending = s.pending := rfl
@[simp] theorem State.set_out (f : Field) (i v : Nat) : (s.set f i v).out = s.out := rfl
@[simp] theorem State.set_freeCtr (f : Field) (i v : Nat) : (s.set f i v).freeCtr = s.freeCtr := rfl
@[simp] theorem State.set_now (f : Field) (i v : Nat) : (s.set f i v).now = s.now := rfl
@[simp] theorem State.set_regs (f : Field) (i v : Nat) : (s.set f i v).regs = s.regs.putD (f.key i) f.reset (v % 2 ^ f.width) := rfl
@[simp] theorem State.set_host (f : Field) (i v : Nat) : (s.set f i v).host = s.host := rfl
@[simp] theorem State.set_evcs (f : Field) (i v : Nat) : (s.set f i v).evcs = s.evcs := rfl
@[simp] theorem State.set_msgs (f : Field) (i v : Nat) : (s.set f i v).msgs = s.msgs := rfl
@[simp] theorem State.set_mem (f : Field) (i v : Nat) : (s.set f i v).mem = s.mem := rfl
@[simp] theorem State.set_net (f : Field) (i v : Nat) : (s.set f i v).net = s.net := rfl
@[simp] theorem State.set_tiles (f : Field) (i v : Nat) : (s.set f i v).tiles = s.tiles := rfl
@[simp] theorem State.set_clusters (f : Field) (i v : Nat) : (s.set f i v).clusters = s.clusters := rfl
@[simp] theorem State.set_engines (f : Field) (i v : Nat) : (s.set f i v).engines = s.engines := rfl
@[simp] theorem State.set_plant (f : Field) (i v : Nat) : (s.set f i v).plant = s.plant := rfl
@[simp] theorem State.emit_pending (o : Out) : (s.emit o).pending = s.pending := rfl
@[simp] theorem State.emit_out (o : Out) : (s.emit o).out = s.out ++ [o] := rfl
@[simp] theorem State.emit_freeCtr (o : Out) : (s.emit o).freeCtr = s.freeCtr := rfl
@[simp] theorem State.emit_now (o : Out) : (s.emit o).now = s.now := rfl
@[simp] theorem State.emit_regs (o : Out) : (s.emit o).regs = s.regs := rfl
@[simp] theorem State.emit_host (o : Out) : (s.emit o).host = s.host := rfl
@[simp] theorem State.emit_evcs (o : Out) : (s.emit o).evcs = s.evcs := rfl
@[simp] theorem State.emit_msgs (o : Out) : (s.emit o).msgs = s.msgs := rfl
@[simp] theorem State.emit_mem (o : Out) : (s.emit o).mem = s.mem := rfl
@[simp] theorem State.emit_net (o : Out) : (s.emit o).net = s.net := rfl
@[simp] theorem State.emit_tiles (o : Out) : (s.emit o).tiles = s.tiles := rfl
@[simp] theorem State.emit_clusters (o : Out) : (s.emit o).clusters = s.clusters := rfl
@[simp] theorem State.emit_engines (o : Out) : (s.emit o).engines = s.engines := rfl
@[simp] theorem State.emit_plant (o : Out) : (s.emit o).plant = s.plant := rfl
@[simp] theorem State.emit_get (o : Out) (field : Field) (inst : Nat) : (s.emit o).get field inst = s.get field inst := rfl
@[simp] theorem State.draw_pending : s.draw.2.pending = s.pending := rfl
@[simp] theorem State.draw_out : s.draw.2.out = s.out := rfl
@[simp] theorem State.draw_freeCtr : s.draw.2.freeCtr = s.freeCtr + 1 := rfl
@[simp] theorem State.draw_now : s.draw.2.now = s.now := rfl
@[simp] theorem State.draw_regs : s.draw.2.regs = s.regs := rfl
@[simp] theorem State.draw_host : s.draw.2.host = s.host := rfl
@[simp] theorem State.draw_evcs : s.draw.2.evcs = s.evcs := rfl
@[simp] theorem State.draw_msgs : s.draw.2.msgs = s.msgs := rfl
@[simp] theorem State.draw_mem : s.draw.2.mem = s.mem := rfl
@[simp] theorem State.draw_net : s.draw.2.net = s.net := rfl
@[simp] theorem State.draw_tiles : s.draw.2.tiles = s.tiles := rfl
@[simp] theorem State.draw_clusters : s.draw.2.clusters = s.clusters := rfl
@[simp] theorem State.draw_engines : s.draw.2.engines = s.engines := rfl
@[simp] theorem State.draw_plant : s.draw.2.plant = s.plant := rfl
@[simp] theorem State.draw_get (field : Field) (inst : Nat) : s.draw.2.get field inst = s.get field inst := rfl
@[simp] theorem State.drawN_pending (n : Nat) : (s.drawN n).2.pending = s.pending := rfl
@[simp] theorem State.drawN_out (n : Nat) : (s.drawN n).2.out = s.out := rfl
@[simp] theorem State.drawN_freeCtr (n : Nat) : (s.drawN n).2.freeCtr = s.freeCtr + n := rfl
@[simp] theorem State.drawN_now (n : Nat) : (s.drawN n).2.now = s.now := rfl
@[simp] theorem State.drawN_regs (n : Nat) : (s.drawN n).2.regs = s.regs := rfl
@[simp] theorem State.drawN_host (n : Nat) : (s.drawN n).2.host = s.host := rfl
@[simp] theorem State.drawN_evcs (n : Nat) : (s.drawN n).2.evcs = s.evcs := rfl
@[simp] theorem State.drawN_msgs (n : Nat) : (s.drawN n).2.msgs = s.msgs := rfl
@[simp] theorem State.drawN_mem (n : Nat) : (s.drawN n).2.mem = s.mem := rfl
@[simp] theorem State.drawN_net (n : Nat) : (s.drawN n).2.net = s.net := rfl
@[simp] theorem State.drawN_tiles (n : Nat) : (s.drawN n).2.tiles = s.tiles := rfl
@[simp] theorem State.drawN_clusters (n : Nat) : (s.drawN n).2.clusters = s.clusters := rfl
@[simp] theorem State.drawN_engines (n : Nat) : (s.drawN n).2.engines = s.engines := rfl
@[simp] theorem State.drawN_plant (n : Nat) : (s.drawN n).2.plant = s.plant := rfl
@[simp] theorem State.drawN_get (n : Nat) (field : Field) (inst : Nat) : (s.drawN n).2.get field inst = s.get field inst := rfl
@[simp] theorem State.onHost_pending (f : HostSide → HostSide) : (s.onHost f).pending = s.pending := rfl
@[simp] theorem State.onHost_out (f : HostSide → HostSide) : (s.onHost f).out = s.out := rfl
@[simp] theorem State.onHost_freeCtr (f : HostSide → HostSide) : (s.onHost f).freeCtr = s.freeCtr := rfl
@[simp] theorem State.onHost_now (f : HostSide → HostSide) : (s.onHost f).now = s.now := rfl
@[simp] theorem State.onHost_regs (f : HostSide → HostSide) : (s.onHost f).regs = s.regs := rfl
@[simp] theorem State.onHost_host (f : HostSide → HostSide) : (s.onHost f).host = f s.host := rfl
@[simp] theorem State.onHost_evcs (f : HostSide → HostSide) : (s.onHost f).evcs = s.evcs := rfl
@[simp] theorem State.onHost_msgs (f : HostSide → HostSide) : (s.onHost f).msgs = s.msgs := rfl
@[simp] theorem State.onHost_mem (f : HostSide → HostSide) : (s.onHost f).mem = s.mem := rfl
@[simp] theorem State.onHost_net (f : HostSide → HostSide) : (s.onHost f).net = s.net := rfl
@[simp] theorem State.onHost_tiles (f : HostSide → HostSide) : (s.onHost f).tiles = s.tiles := rfl
@[simp] theorem State.onHost_clusters (f : HostSide → HostSide) : (s.onHost f).clusters = s.clusters := rfl
@[simp] theorem State.onHost_engines (f : HostSide → HostSide) : (s.onHost f).engines = s.engines := rfl
@[simp] theorem State.onHost_plant (f : HostSide → HostSide) : (s.onHost f).plant = s.plant := rfl
@[simp] theorem State.onHost_get (f : HostSide → HostSide) (field : Field) (inst : Nat) : (s.onHost f).get field inst = s.get field inst := rfl
@[simp] theorem State.onMem_pending (f : MemState → MemState) : (s.onMem f).pending = s.pending := rfl
@[simp] theorem State.onMem_out (f : MemState → MemState) : (s.onMem f).out = s.out := rfl
@[simp] theorem State.onMem_freeCtr (f : MemState → MemState) : (s.onMem f).freeCtr = s.freeCtr := rfl
@[simp] theorem State.onMem_now (f : MemState → MemState) : (s.onMem f).now = s.now := rfl
@[simp] theorem State.onMem_regs (f : MemState → MemState) : (s.onMem f).regs = s.regs := rfl
@[simp] theorem State.onMem_host (f : MemState → MemState) : (s.onMem f).host = s.host := rfl
@[simp] theorem State.onMem_evcs (f : MemState → MemState) : (s.onMem f).evcs = s.evcs := rfl
@[simp] theorem State.onMem_msgs (f : MemState → MemState) : (s.onMem f).msgs = s.msgs := rfl
@[simp] theorem State.onMem_mem (f : MemState → MemState) : (s.onMem f).mem = f s.mem := rfl
@[simp] theorem State.onMem_net (f : MemState → MemState) : (s.onMem f).net = s.net := rfl
@[simp] theorem State.onMem_tiles (f : MemState → MemState) : (s.onMem f).tiles = s.tiles := rfl
@[simp] theorem State.onMem_clusters (f : MemState → MemState) : (s.onMem f).clusters = s.clusters := rfl
@[simp] theorem State.onMem_engines (f : MemState → MemState) : (s.onMem f).engines = s.engines := rfl
@[simp] theorem State.onMem_plant (f : MemState → MemState) : (s.onMem f).plant = s.plant := rfl
@[simp] theorem State.onMem_get (f : MemState → MemState) (field : Field) (inst : Nat) : (s.onMem f).get field inst = s.get field inst := rfl
@[simp] theorem State.onNet_pending (f : NetState → NetState) : (s.onNet f).pending = s.pending := rfl
@[simp] theorem State.onNet_out (f : NetState → NetState) : (s.onNet f).out = s.out := rfl
@[simp] theorem State.onNet_freeCtr (f : NetState → NetState) : (s.onNet f).freeCtr = s.freeCtr := rfl
@[simp] theorem State.onNet_now (f : NetState → NetState) : (s.onNet f).now = s.now := rfl
@[simp] theorem State.onNet_regs (f : NetState → NetState) : (s.onNet f).regs = s.regs := rfl
@[simp] theorem State.onNet_host (f : NetState → NetState) : (s.onNet f).host = s.host := rfl
@[simp] theorem State.onNet_evcs (f : NetState → NetState) : (s.onNet f).evcs = s.evcs := rfl
@[simp] theorem State.onNet_msgs (f : NetState → NetState) : (s.onNet f).msgs = s.msgs := rfl
@[simp] theorem State.onNet_mem (f : NetState → NetState) : (s.onNet f).mem = s.mem := rfl
@[simp] theorem State.onNet_net (f : NetState → NetState) : (s.onNet f).net = f s.net := rfl
@[simp] theorem State.onNet_tiles (f : NetState → NetState) : (s.onNet f).tiles = s.tiles := rfl
@[simp] theorem State.onNet_clusters (f : NetState → NetState) : (s.onNet f).clusters = s.clusters := rfl
@[simp] theorem State.onNet_engines (f : NetState → NetState) : (s.onNet f).engines = s.engines := rfl
@[simp] theorem State.onNet_plant (f : NetState → NetState) : (s.onNet f).plant = s.plant := rfl
@[simp] theorem State.onNet_get (f : NetState → NetState) (field : Field) (inst : Nat) : (s.onNet f).get field inst = s.get field inst := rfl
@[simp] theorem State.onEngines_pending (f : EngineState → EngineState) : (s.onEngines f).pending = s.pending := rfl
@[simp] theorem State.onEngines_out (f : EngineState → EngineState) : (s.onEngines f).out = s.out := rfl
@[simp] theorem State.onEngines_freeCtr (f : EngineState → EngineState) : (s.onEngines f).freeCtr = s.freeCtr := rfl
@[simp] theorem State.onEngines_now (f : EngineState → EngineState) : (s.onEngines f).now = s.now := rfl
@[simp] theorem State.onEngines_regs (f : EngineState → EngineState) : (s.onEngines f).regs = s.regs := rfl
@[simp] theorem State.onEngines_host (f : EngineState → EngineState) : (s.onEngines f).host = s.host := rfl
@[simp] theorem State.onEngines_evcs (f : EngineState → EngineState) : (s.onEngines f).evcs = s.evcs := rfl
@[simp] theorem State.onEngines_msgs (f : EngineState → EngineState) : (s.onEngines f).msgs = s.msgs := rfl
@[simp] theorem State.onEngines_mem (f : EngineState → EngineState) : (s.onEngines f).mem = s.mem := rfl
@[simp] theorem State.onEngines_net (f : EngineState → EngineState) : (s.onEngines f).net = s.net := rfl
@[simp] theorem State.onEngines_tiles (f : EngineState → EngineState) : (s.onEngines f).tiles = s.tiles := rfl
@[simp] theorem State.onEngines_clusters (f : EngineState → EngineState) : (s.onEngines f).clusters = s.clusters := rfl
@[simp] theorem State.onEngines_engines (f : EngineState → EngineState) : (s.onEngines f).engines = f s.engines := rfl
@[simp] theorem State.onEngines_plant (f : EngineState → EngineState) : (s.onEngines f).plant = s.plant := rfl
@[simp] theorem State.onEngines_get (f : EngineState → EngineState) (field : Field) (inst : Nat) : (s.onEngines f).get field inst = s.get field inst := rfl
@[simp] theorem State.onPlant_pending (f : PlantState → PlantState) : (s.onPlant f).pending = s.pending := rfl
@[simp] theorem State.onPlant_out (f : PlantState → PlantState) : (s.onPlant f).out = s.out := rfl
@[simp] theorem State.onPlant_freeCtr (f : PlantState → PlantState) : (s.onPlant f).freeCtr = s.freeCtr := rfl
@[simp] theorem State.onPlant_now (f : PlantState → PlantState) : (s.onPlant f).now = s.now := rfl
@[simp] theorem State.onPlant_regs (f : PlantState → PlantState) : (s.onPlant f).regs = s.regs := rfl
@[simp] theorem State.onPlant_host (f : PlantState → PlantState) : (s.onPlant f).host = s.host := rfl
@[simp] theorem State.onPlant_evcs (f : PlantState → PlantState) : (s.onPlant f).evcs = s.evcs := rfl
@[simp] theorem State.onPlant_msgs (f : PlantState → PlantState) : (s.onPlant f).msgs = s.msgs := rfl
@[simp] theorem State.onPlant_mem (f : PlantState → PlantState) : (s.onPlant f).mem = s.mem := rfl
@[simp] theorem State.onPlant_net (f : PlantState → PlantState) : (s.onPlant f).net = s.net := rfl
@[simp] theorem State.onPlant_tiles (f : PlantState → PlantState) : (s.onPlant f).tiles = s.tiles := rfl
@[simp] theorem State.onPlant_clusters (f : PlantState → PlantState) : (s.onPlant f).clusters = s.clusters := rfl
@[simp] theorem State.onPlant_engines (f : PlantState → PlantState) : (s.onPlant f).engines = s.engines := rfl
@[simp] theorem State.onPlant_plant (f : PlantState → PlantState) : (s.onPlant f).plant = f s.plant := rfl
@[simp] theorem State.onPlant_get (f : PlantState → PlantState) (field : Field) (inst : Nat) : (s.onPlant f).get field inst = s.get field inst := rfl
@[simp] theorem State.setEvc_pending (n : Nat) (x : Evc) : (s.setEvc n x).pending = s.pending := rfl
@[simp] theorem State.setEvc_out (n : Nat) (x : Evc) : (s.setEvc n x).out = s.out := rfl
@[simp] theorem State.setEvc_freeCtr (n : Nat) (x : Evc) : (s.setEvc n x).freeCtr = s.freeCtr := rfl
@[simp] theorem State.setEvc_now (n : Nat) (x : Evc) : (s.setEvc n x).now = s.now := rfl
@[simp] theorem State.setEvc_regs (n : Nat) (x : Evc) : (s.setEvc n x).regs = s.regs := rfl
@[simp] theorem State.setEvc_host (n : Nat) (x : Evc) : (s.setEvc n x).host = s.host := rfl
@[simp] theorem State.setEvc_evcs (n : Nat) (x : Evc) : (s.setEvc n x).evcs = s.evcs.putD n Evc.reset x := rfl
@[simp] theorem State.setEvc_msgs (n : Nat) (x : Evc) : (s.setEvc n x).msgs = s.msgs := rfl
@[simp] theorem State.setEvc_mem (n : Nat) (x : Evc) : (s.setEvc n x).mem = s.mem := rfl
@[simp] theorem State.setEvc_net (n : Nat) (x : Evc) : (s.setEvc n x).net = s.net := rfl
@[simp] theorem State.setEvc_tiles (n : Nat) (x : Evc) : (s.setEvc n x).tiles = s.tiles := rfl
@[simp] theorem State.setEvc_clusters (n : Nat) (x : Evc) : (s.setEvc n x).clusters = s.clusters := rfl
@[simp] theorem State.setEvc_engines (n : Nat) (x : Evc) : (s.setEvc n x).engines = s.engines := rfl
@[simp] theorem State.setEvc_plant (n : Nat) (x : Evc) : (s.setEvc n x).plant = s.plant := rfl
@[simp] theorem State.setEvc_get (n : Nat) (x : Evc) (field : Field) (inst : Nat) : (s.setEvc n x).get field inst = s.get field inst := rfl
@[simp] theorem State.setTile_pending (sl ti : Nat) (t : Tile) : (s.setTile sl ti t).pending = s.pending := rfl
@[simp] theorem State.setTile_out (sl ti : Nat) (t : Tile) : (s.setTile sl ti t).out = s.out := rfl
@[simp] theorem State.setTile_freeCtr (sl ti : Nat) (t : Tile) : (s.setTile sl ti t).freeCtr = s.freeCtr := rfl
@[simp] theorem State.setTile_now (sl ti : Nat) (t : Tile) : (s.setTile sl ti t).now = s.now := rfl
@[simp] theorem State.setTile_regs (sl ti : Nat) (t : Tile) : (s.setTile sl ti t).regs = s.regs := rfl
@[simp] theorem State.setTile_host (sl ti : Nat) (t : Tile) : (s.setTile sl ti t).host = s.host := rfl
@[simp] theorem State.setTile_evcs (sl ti : Nat) (t : Tile) : (s.setTile sl ti t).evcs = s.evcs := rfl
@[simp] theorem State.setTile_msgs (sl ti : Nat) (t : Tile) : (s.setTile sl ti t).msgs = s.msgs := rfl
@[simp] theorem State.setTile_mem (sl ti : Nat) (t : Tile) : (s.setTile sl ti t).mem = s.mem := rfl
@[simp] theorem State.setTile_net (sl ti : Nat) (t : Tile) : (s.setTile sl ti t).net = s.net := rfl
@[simp] theorem State.setTile_tiles (sl ti : Nat) (t : Tile) : (s.setTile sl ti t).tiles = s.tiles.putD (8 * sl + ti) Tile.reset t := rfl
@[simp] theorem State.setTile_clusters (sl ti : Nat) (t : Tile) : (s.setTile sl ti t).clusters = s.clusters := rfl
@[simp] theorem State.setTile_engines (sl ti : Nat) (t : Tile) : (s.setTile sl ti t).engines = s.engines := rfl
@[simp] theorem State.setTile_plant (sl ti : Nat) (t : Tile) : (s.setTile sl ti t).plant = s.plant := rfl
@[simp] theorem State.setTile_get (sl ti : Nat) (t : Tile) (field : Field) (inst : Nat) : (s.setTile sl ti t).get field inst = s.get field inst := rfl
@[simp] theorem State.setCluster_pending (sl : Nat) (c : ClusterStore) : (s.setCluster sl c).pending = s.pending := rfl
@[simp] theorem State.setCluster_out (sl : Nat) (c : ClusterStore) : (s.setCluster sl c).out = s.out := rfl
@[simp] theorem State.setCluster_freeCtr (sl : Nat) (c : ClusterStore) : (s.setCluster sl c).freeCtr = s.freeCtr := rfl
@[simp] theorem State.setCluster_now (sl : Nat) (c : ClusterStore) : (s.setCluster sl c).now = s.now := rfl
@[simp] theorem State.setCluster_regs (sl : Nat) (c : ClusterStore) : (s.setCluster sl c).regs = s.regs := rfl
@[simp] theorem State.setCluster_host (sl : Nat) (c : ClusterStore) : (s.setCluster sl c).host = s.host := rfl
@[simp] theorem State.setCluster_evcs (sl : Nat) (c : ClusterStore) : (s.setCluster sl c).evcs = s.evcs := rfl
@[simp] theorem State.setCluster_msgs (sl : Nat) (c : ClusterStore) : (s.setCluster sl c).msgs = s.msgs := rfl
@[simp] theorem State.setCluster_mem (sl : Nat) (c : ClusterStore) : (s.setCluster sl c).mem = s.mem := rfl
@[simp] theorem State.setCluster_net (sl : Nat) (c : ClusterStore) : (s.setCluster sl c).net = s.net := rfl
@[simp] theorem State.setCluster_tiles (sl : Nat) (c : ClusterStore) : (s.setCluster sl c).tiles = s.tiles := rfl
@[simp] theorem State.setCluster_clusters (sl : Nat) (c : ClusterStore) : (s.setCluster sl c).clusters = s.clusters.putD sl ClusterStore.reset c := rfl
@[simp] theorem State.setCluster_engines (sl : Nat) (c : ClusterStore) : (s.setCluster sl c).engines = s.engines := rfl
@[simp] theorem State.setCluster_plant (sl : Nat) (c : ClusterStore) : (s.setCluster sl c).plant = s.plant := rfl
@[simp] theorem State.setCluster_get (sl : Nat) (c : ClusterStore) (field : Field) (inst : Nat) : (s.setCluster sl c).get field inst = s.get field inst := rfl
@[simp] theorem State.raise_pending (f : Field) (i : Nat) : (s.raise f i).pending = s.pending := rfl
@[simp] theorem State.raise_out (f : Field) (i : Nat) : (s.raise f i).out = s.out := rfl
@[simp] theorem State.raise_freeCtr (f : Field) (i : Nat) : (s.raise f i).freeCtr = s.freeCtr := rfl
@[simp] theorem State.raise_now (f : Field) (i : Nat) : (s.raise f i).now = s.now := rfl
@[simp] theorem State.raise_host (f : Field) (i : Nat) : (s.raise f i).host = s.host := rfl
@[simp] theorem State.raise_evcs (f : Field) (i : Nat) : (s.raise f i).evcs = s.evcs := rfl
@[simp] theorem State.raise_msgs (f : Field) (i : Nat) : (s.raise f i).msgs = s.msgs := rfl
@[simp] theorem State.raise_mem (f : Field) (i : Nat) : (s.raise f i).mem = s.mem := rfl
@[simp] theorem State.raise_net (f : Field) (i : Nat) : (s.raise f i).net = s.net := rfl
@[simp] theorem State.raise_tiles (f : Field) (i : Nat) : (s.raise f i).tiles = s.tiles := rfl
@[simp] theorem State.raise_clusters (f : Field) (i : Nat) : (s.raise f i).clusters = s.clusters := rfl
@[simp] theorem State.raise_engines (f : Field) (i : Nat) : (s.raise f i).engines = s.engines := rfl
@[simp] theorem State.raise_plant (f : Field) (i : Nat) : (s.raise f i).plant = s.plant := rfl
@[simp] theorem State.bump_pending (f : Field) (i : Nat) : (s.bump f i).pending = s.pending := rfl
@[simp] theorem State.bump_out (f : Field) (i : Nat) : (s.bump f i).out = s.out := rfl
@[simp] theorem State.bump_freeCtr (f : Field) (i : Nat) : (s.bump f i).freeCtr = s.freeCtr := rfl
@[simp] theorem State.bump_now (f : Field) (i : Nat) : (s.bump f i).now = s.now := rfl
@[simp] theorem State.bump_host (f : Field) (i : Nat) : (s.bump f i).host = s.host := rfl
@[simp] theorem State.bump_evcs (f : Field) (i : Nat) : (s.bump f i).evcs = s.evcs := rfl
@[simp] theorem State.bump_msgs (f : Field) (i : Nat) : (s.bump f i).msgs = s.msgs := rfl
@[simp] theorem State.bump_mem (f : Field) (i : Nat) : (s.bump f i).mem = s.mem := rfl
@[simp] theorem State.bump_net (f : Field) (i : Nat) : (s.bump f i).net = s.net := rfl
@[simp] theorem State.bump_tiles (f : Field) (i : Nat) : (s.bump f i).tiles = s.tiles := rfl
@[simp] theorem State.bump_clusters (f : Field) (i : Nat) : (s.bump f i).clusters = s.clusters := rfl
@[simp] theorem State.bump_engines (f : Field) (i : Nat) : (s.bump f i).engines = s.engines := rfl
@[simp] theorem State.bump_plant (f : Field) (i : Nat) : (s.bump f i).plant = s.plant := rfl
@[simp] theorem State.setBits_pending (f : Field) (i mask : Nat) : (s.setBits f i mask).pending = s.pending := rfl
@[simp] theorem State.setBits_out (f : Field) (i mask : Nat) : (s.setBits f i mask).out = s.out := rfl
@[simp] theorem State.setBits_freeCtr (f : Field) (i mask : Nat) : (s.setBits f i mask).freeCtr = s.freeCtr := rfl
@[simp] theorem State.setBits_now (f : Field) (i mask : Nat) : (s.setBits f i mask).now = s.now := rfl
@[simp] theorem State.setBits_host (f : Field) (i mask : Nat) : (s.setBits f i mask).host = s.host := rfl
@[simp] theorem State.setBits_evcs (f : Field) (i mask : Nat) : (s.setBits f i mask).evcs = s.evcs := rfl
@[simp] theorem State.setBits_msgs (f : Field) (i mask : Nat) : (s.setBits f i mask).msgs = s.msgs := rfl
@[simp] theorem State.setBits_mem (f : Field) (i mask : Nat) : (s.setBits f i mask).mem = s.mem := rfl
@[simp] theorem State.setBits_net (f : Field) (i mask : Nat) : (s.setBits f i mask).net = s.net := rfl
@[simp] theorem State.setBits_tiles (f : Field) (i mask : Nat) : (s.setBits f i mask).tiles = s.tiles := rfl
@[simp] theorem State.setBits_clusters (f : Field) (i mask : Nat) : (s.setBits f i mask).clusters = s.clusters := rfl
@[simp] theorem State.setBits_engines (f : Field) (i mask : Nat) : (s.setBits f i mask).engines = s.engines := rfl
@[simp] theorem State.setBits_plant (f : Field) (i mask : Nat) : (s.setBits f i mask).plant = s.plant := rfl
@[simp] theorem State.clearBits_pending (f : Field) (i mask : Nat) : (s.clearBits f i mask).pending = s.pending := rfl
@[simp] theorem State.clearBits_out (f : Field) (i mask : Nat) : (s.clearBits f i mask).out = s.out := rfl
@[simp] theorem State.clearBits_freeCtr (f : Field) (i mask : Nat) : (s.clearBits f i mask).freeCtr = s.freeCtr := rfl
@[simp] theorem State.clearBits_now (f : Field) (i mask : Nat) : (s.clearBits f i mask).now = s.now := rfl
@[simp] theorem State.clearBits_host (f : Field) (i mask : Nat) : (s.clearBits f i mask).host = s.host := rfl
@[simp] theorem State.clearBits_evcs (f : Field) (i mask : Nat) : (s.clearBits f i mask).evcs = s.evcs := rfl
@[simp] theorem State.clearBits_msgs (f : Field) (i mask : Nat) : (s.clearBits f i mask).msgs = s.msgs := rfl
@[simp] theorem State.clearBits_mem (f : Field) (i mask : Nat) : (s.clearBits f i mask).mem = s.mem := rfl
@[simp] theorem State.clearBits_net (f : Field) (i mask : Nat) : (s.clearBits f i mask).net = s.net := rfl
@[simp] theorem State.clearBits_tiles (f : Field) (i mask : Nat) : (s.clearBits f i mask).tiles = s.tiles := rfl
@[simp] theorem State.clearBits_clusters (f : Field) (i mask : Nat) : (s.clearBits f i mask).clusters = s.clusters := rfl
@[simp] theorem State.clearBits_engines (f : Field) (i mask : Nat) : (s.clearBits f i mask).engines = s.engines := rfl
@[simp] theorem State.clearBits_plant (f : Field) (i mask : Nat) : (s.clearBits f i mask).plant = s.plant := rfl
@[simp] theorem State.count_pending (page n k : Nat) : (s.count page n k).pending = s.pending := rfl
@[simp] theorem State.count_out (page n k : Nat) : (s.count page n k).out = s.out := rfl
@[simp] theorem State.count_freeCtr (page n k : Nat) : (s.count page n k).freeCtr = s.freeCtr := rfl
@[simp] theorem State.count_now (page n k : Nat) : (s.count page n k).now = s.now := rfl
@[simp] theorem State.count_host (page n k : Nat) : (s.count page n k).host = s.host := rfl
@[simp] theorem State.count_evcs (page n k : Nat) : (s.count page n k).evcs = s.evcs := rfl
@[simp] theorem State.count_msgs (page n k : Nat) : (s.count page n k).msgs = s.msgs := rfl
@[simp] theorem State.count_mem (page n k : Nat) : (s.count page n k).mem = s.mem := rfl
@[simp] theorem State.count_net (page n k : Nat) : (s.count page n k).net = s.net := rfl
@[simp] theorem State.count_tiles (page n k : Nat) : (s.count page n k).tiles = s.tiles := rfl
@[simp] theorem State.count_clusters (page n k : Nat) : (s.count page n k).clusters = s.clusters := rfl
@[simp] theorem State.count_engines (page n k : Nat) : (s.count page n k).engines = s.engines := rfl
@[simp] theorem State.count_plant (page n k : Nat) : (s.count page n k).plant = s.plant := rfl
@[simp] theorem State.setInst_pending (i : Nat) (x : Inst) : (s.setInst i x).pending = s.pending := rfl
@[simp] theorem State.setInst_out (i : Nat) (x : Inst) : (s.setInst i x).out = s.out := rfl
@[simp] theorem State.setInst_freeCtr (i : Nat) (x : Inst) : (s.setInst i x).freeCtr = s.freeCtr := rfl
@[simp] theorem State.setInst_now (i : Nat) (x : Inst) : (s.setInst i x).now = s.now := rfl
@[simp] theorem State.setInst_regs (i : Nat) (x : Inst) : (s.setInst i x).regs = s.regs := rfl
@[simp] theorem State.setInst_evcs (i : Nat) (x : Inst) : (s.setInst i x).evcs = s.evcs := rfl
@[simp] theorem State.setInst_msgs (i : Nat) (x : Inst) : (s.setInst i x).msgs = s.msgs := rfl
@[simp] theorem State.setInst_mem (i : Nat) (x : Inst) : (s.setInst i x).mem = s.mem := rfl
@[simp] theorem State.setInst_net (i : Nat) (x : Inst) : (s.setInst i x).net = s.net := rfl
@[simp] theorem State.setInst_tiles (i : Nat) (x : Inst) : (s.setInst i x).tiles = s.tiles := rfl
@[simp] theorem State.setInst_clusters (i : Nat) (x : Inst) : (s.setInst i x).clusters = s.clusters := rfl
@[simp] theorem State.setInst_engines (i : Nat) (x : Inst) : (s.setInst i x).engines = s.engines := rfl
@[simp] theorem State.setInst_plant (i : Nat) (x : Inst) : (s.setInst i x).plant = s.plant := rfl
@[simp] theorem State.setInst_get (i : Nat) (x : Inst) (field : Field) (inst : Nat) : (s.setInst i x).get field inst = s.get field inst := rfl
@[simp] theorem State.setQueue_pending (i q : Nat) (x : HostQueue) : (s.setQueue i q x).pending = s.pending := rfl
@[simp] theorem State.setQueue_out (i q : Nat) (x : HostQueue) : (s.setQueue i q x).out = s.out := rfl
@[simp] theorem State.setQueue_freeCtr (i q : Nat) (x : HostQueue) : (s.setQueue i q x).freeCtr = s.freeCtr := rfl
@[simp] theorem State.setQueue_now (i q : Nat) (x : HostQueue) : (s.setQueue i q x).now = s.now := rfl
@[simp] theorem State.setQueue_regs (i q : Nat) (x : HostQueue) : (s.setQueue i q x).regs = s.regs := rfl
@[simp] theorem State.setQueue_evcs (i q : Nat) (x : HostQueue) : (s.setQueue i q x).evcs = s.evcs := rfl
@[simp] theorem State.setQueue_msgs (i q : Nat) (x : HostQueue) : (s.setQueue i q x).msgs = s.msgs := rfl
@[simp] theorem State.setQueue_mem (i q : Nat) (x : HostQueue) : (s.setQueue i q x).mem = s.mem := rfl
@[simp] theorem State.setQueue_net (i q : Nat) (x : HostQueue) : (s.setQueue i q x).net = s.net := rfl
@[simp] theorem State.setQueue_tiles (i q : Nat) (x : HostQueue) : (s.setQueue i q x).tiles = s.tiles := rfl
@[simp] theorem State.setQueue_clusters (i q : Nat) (x : HostQueue) : (s.setQueue i q x).clusters = s.clusters := rfl
@[simp] theorem State.setQueue_engines (i q : Nat) (x : HostQueue) : (s.setQueue i q x).engines = s.engines := rfl
@[simp] theorem State.setQueue_plant (i q : Nat) (x : HostQueue) : (s.setQueue i q x).plant = s.plant := rfl
@[simp] theorem State.setQueue_get (i q : Nat) (x : HostQueue) (field : Field) (inst : Nat) : (s.setQueue i q x).get field inst = s.get field inst := rfl
@[simp] theorem State.setLine_pending (p : Nat) (l : ExecLine) : (s.setLine p l).pending = s.pending := rfl
@[simp] theorem State.setLine_out (p : Nat) (l : ExecLine) : (s.setLine p l).out = s.out := rfl
@[simp] theorem State.setLine_freeCtr (p : Nat) (l : ExecLine) : (s.setLine p l).freeCtr = s.freeCtr := rfl
@[simp] theorem State.setLine_now (p : Nat) (l : ExecLine) : (s.setLine p l).now = s.now := rfl
@[simp] theorem State.setLine_regs (p : Nat) (l : ExecLine) : (s.setLine p l).regs = s.regs := rfl
@[simp] theorem State.setLine_evcs (p : Nat) (l : ExecLine) : (s.setLine p l).evcs = s.evcs := rfl
@[simp] theorem State.setLine_msgs (p : Nat) (l : ExecLine) : (s.setLine p l).msgs = s.msgs := rfl
@[simp] theorem State.setLine_mem (p : Nat) (l : ExecLine) : (s.setLine p l).mem = s.mem := rfl
@[simp] theorem State.setLine_net (p : Nat) (l : ExecLine) : (s.setLine p l).net = s.net := rfl
@[simp] theorem State.setLine_tiles (p : Nat) (l : ExecLine) : (s.setLine p l).tiles = s.tiles := rfl
@[simp] theorem State.setLine_clusters (p : Nat) (l : ExecLine) : (s.setLine p l).clusters = s.clusters := rfl
@[simp] theorem State.setLine_engines (p : Nat) (l : ExecLine) : (s.setLine p l).engines = s.engines := rfl
@[simp] theorem State.setLine_plant (p : Nat) (l : ExecLine) : (s.setLine p l).plant = s.plant := rfl
@[simp] theorem State.setLine_get (p : Nat) (l : ExecLine) (field : Field) (inst : Nat) : (s.setLine p l).get field inst = s.get field inst := rfl
@[simp] theorem State.setObj_pending (k : Nat) (o : MemObj) : (s.setObj k o).pending = s.pending := rfl
@[simp] theorem State.setObj_out (k : Nat) (o : MemObj) : (s.setObj k o).out = s.out := rfl
@[simp] theorem State.setObj_freeCtr (k : Nat) (o : MemObj) : (s.setObj k o).freeCtr = s.freeCtr := rfl
@[simp] theorem State.setObj_now (k : Nat) (o : MemObj) : (s.setObj k o).now = s.now := rfl
@[simp] theorem State.setObj_regs (k : Nat) (o : MemObj) : (s.setObj k o).regs = s.regs := rfl
@[simp] theorem State.setObj_evcs (k : Nat) (o : MemObj) : (s.setObj k o).evcs = s.evcs := rfl
@[simp] theorem State.setObj_msgs (k : Nat) (o : MemObj) : (s.setObj k o).msgs = s.msgs := rfl
@[simp] theorem State.setObj_mem (k : Nat) (o : MemObj) : (s.setObj k o).mem = s.mem := rfl
@[simp] theorem State.setObj_net (k : Nat) (o : MemObj) : (s.setObj k o).net = s.net := rfl
@[simp] theorem State.setObj_tiles (k : Nat) (o : MemObj) : (s.setObj k o).tiles = s.tiles := rfl
@[simp] theorem State.setObj_clusters (k : Nat) (o : MemObj) : (s.setObj k o).clusters = s.clusters := rfl
@[simp] theorem State.setObj_engines (k : Nat) (o : MemObj) : (s.setObj k o).engines = s.engines := rfl
@[simp] theorem State.setObj_plant (k : Nat) (o : MemObj) : (s.setObj k o).plant = s.plant := rfl
@[simp] theorem State.setObj_get (k : Nat) (o : MemObj) (field : Field) (inst : Nat) : (s.setObj k o).get field inst = s.get field inst := rfl
@[simp] theorem State.setFence_pending (k : Nat) (f : Fence) : (s.setFence k f).pending = s.pending := rfl
@[simp] theorem State.setFence_out (k : Nat) (f : Fence) : (s.setFence k f).out = s.out := rfl
@[simp] theorem State.setFence_freeCtr (k : Nat) (f : Fence) : (s.setFence k f).freeCtr = s.freeCtr := rfl
@[simp] theorem State.setFence_now (k : Nat) (f : Fence) : (s.setFence k f).now = s.now := rfl
@[simp] theorem State.setFence_regs (k : Nat) (f : Fence) : (s.setFence k f).regs = s.regs := rfl
@[simp] theorem State.setFence_evcs (k : Nat) (f : Fence) : (s.setFence k f).evcs = s.evcs := rfl
@[simp] theorem State.setFence_msgs (k : Nat) (f : Fence) : (s.setFence k f).msgs = s.msgs := rfl
@[simp] theorem State.setFence_mem (k : Nat) (f : Fence) : (s.setFence k f).mem = s.mem := rfl
@[simp] theorem State.setFence_net (k : Nat) (f : Fence) : (s.setFence k f).net = s.net := rfl
@[simp] theorem State.setFence_tiles (k : Nat) (f : Fence) : (s.setFence k f).tiles = s.tiles := rfl
@[simp] theorem State.setFence_clusters (k : Nat) (f : Fence) : (s.setFence k f).clusters = s.clusters := rfl
@[simp] theorem State.setFence_engines (k : Nat) (f : Fence) : (s.setFence k f).engines = s.engines := rfl
@[simp] theorem State.setFence_plant (k : Nat) (f : Fence) : (s.setFence k f).plant = s.plant := rfl
@[simp] theorem State.setFence_get (k : Nat) (f : Fence) (field : Field) (inst : Nat) : (s.setFence k f).get field inst = s.get field inst := rfl
@[simp] theorem State.setImage_pending (k : Nat) (x : Image) : (s.setImage k x).pending = s.pending := rfl
@[simp] theorem State.setImage_out (k : Nat) (x : Image) : (s.setImage k x).out = s.out := rfl
@[simp] theorem State.setImage_freeCtr (k : Nat) (x : Image) : (s.setImage k x).freeCtr = s.freeCtr := rfl
@[simp] theorem State.setImage_now (k : Nat) (x : Image) : (s.setImage k x).now = s.now := rfl
@[simp] theorem State.setImage_regs (k : Nat) (x : Image) : (s.setImage k x).regs = s.regs := rfl
@[simp] theorem State.setImage_evcs (k : Nat) (x : Image) : (s.setImage k x).evcs = s.evcs := rfl
@[simp] theorem State.setImage_msgs (k : Nat) (x : Image) : (s.setImage k x).msgs = s.msgs := rfl
@[simp] theorem State.setImage_mem (k : Nat) (x : Image) : (s.setImage k x).mem = s.mem := rfl
@[simp] theorem State.setImage_net (k : Nat) (x : Image) : (s.setImage k x).net = s.net := rfl
@[simp] theorem State.setImage_tiles (k : Nat) (x : Image) : (s.setImage k x).tiles = s.tiles := rfl
@[simp] theorem State.setImage_clusters (k : Nat) (x : Image) : (s.setImage k x).clusters = s.clusters := rfl
@[simp] theorem State.setImage_engines (k : Nat) (x : Image) : (s.setImage k x).engines = s.engines := rfl
@[simp] theorem State.setImage_plant (k : Nat) (x : Image) : (s.setImage k x).plant = s.plant := rfl
@[simp] theorem State.setImage_get (k : Nat) (x : Image) (field : Field) (inst : Nat) : (s.setImage k x).get field inst = s.get field inst := rfl
@[simp] theorem State.setChannel_pending (ch : Nat) (c : Channel) : (s.setChannel ch c).pending = s.pending := rfl
@[simp] theorem State.setChannel_out (ch : Nat) (c : Channel) : (s.setChannel ch c).out = s.out := rfl
@[simp] theorem State.setChannel_freeCtr (ch : Nat) (c : Channel) : (s.setChannel ch c).freeCtr = s.freeCtr := rfl
@[simp] theorem State.setChannel_now (ch : Nat) (c : Channel) : (s.setChannel ch c).now = s.now := rfl
@[simp] theorem State.setChannel_regs (ch : Nat) (c : Channel) : (s.setChannel ch c).regs = s.regs := rfl
@[simp] theorem State.setChannel_host (ch : Nat) (c : Channel) : (s.setChannel ch c).host = s.host := rfl
@[simp] theorem State.setChannel_evcs (ch : Nat) (c : Channel) : (s.setChannel ch c).evcs = s.evcs := rfl
@[simp] theorem State.setChannel_msgs (ch : Nat) (c : Channel) : (s.setChannel ch c).msgs = s.msgs := rfl
@[simp] theorem State.setChannel_net (ch : Nat) (c : Channel) : (s.setChannel ch c).net = s.net := rfl
@[simp] theorem State.setChannel_tiles (ch : Nat) (c : Channel) : (s.setChannel ch c).tiles = s.tiles := rfl
@[simp] theorem State.setChannel_clusters (ch : Nat) (c : Channel) : (s.setChannel ch c).clusters = s.clusters := rfl
@[simp] theorem State.setChannel_engines (ch : Nat) (c : Channel) : (s.setChannel ch c).engines = s.engines := rfl
@[simp] theorem State.setChannel_plant (ch : Nat) (c : Channel) : (s.setChannel ch c).plant = s.plant := rfl
@[simp] theorem State.setChannel_get (ch : Nat) (c : Channel) (field : Field) (inst : Nat) : (s.setChannel ch c).get field inst = s.get field inst := rfl
@[simp] theorem State.setTableEntry_pending (slice q i : Nat) (w : Word) : (s.setTableEntry slice q i w).pending = s.pending := rfl
@[simp] theorem State.setTableEntry_out (slice q i : Nat) (w : Word) : (s.setTableEntry slice q i w).out = s.out := rfl
@[simp] theorem State.setTableEntry_freeCtr (slice q i : Nat) (w : Word) : (s.setTableEntry slice q i w).freeCtr = s.freeCtr := rfl
@[simp] theorem State.setTableEntry_now (slice q i : Nat) (w : Word) : (s.setTableEntry slice q i w).now = s.now := rfl
@[simp] theorem State.setTableEntry_regs (slice q i : Nat) (w : Word) : (s.setTableEntry slice q i w).regs = s.regs := rfl
@[simp] theorem State.setTableEntry_host (slice q i : Nat) (w : Word) : (s.setTableEntry slice q i w).host = s.host := rfl
@[simp] theorem State.setTableEntry_evcs (slice q i : Nat) (w : Word) : (s.setTableEntry slice q i w).evcs = s.evcs := rfl
@[simp] theorem State.setTableEntry_msgs (slice q i : Nat) (w : Word) : (s.setTableEntry slice q i w).msgs = s.msgs := rfl
@[simp] theorem State.setTableEntry_net (slice q i : Nat) (w : Word) : (s.setTableEntry slice q i w).net = s.net := rfl
@[simp] theorem State.setTableEntry_tiles (slice q i : Nat) (w : Word) : (s.setTableEntry slice q i w).tiles = s.tiles := rfl
@[simp] theorem State.setTableEntry_clusters (slice q i : Nat) (w : Word) : (s.setTableEntry slice q i w).clusters = s.clusters := rfl
@[simp] theorem State.setTableEntry_engines (slice q i : Nat) (w : Word) : (s.setTableEntry slice q i w).engines = s.engines := rfl
@[simp] theorem State.setTableEntry_plant (slice q i : Nat) (w : Word) : (s.setTableEntry slice q i w).plant = s.plant := rfl
@[simp] theorem State.setTableEntry_get (slice q i : Nat) (w : Word) (field : Field) (inst : Nat) : (s.setTableEntry slice q i w).get field inst = s.get field inst := rfl
@[simp] theorem State.writeLine_pending (dpa : Nat) (v : Line) : (s.writeLine dpa v).pending = s.pending := rfl
@[simp] theorem State.writeLine_out (dpa : Nat) (v : Line) : (s.writeLine dpa v).out = s.out := rfl
@[simp] theorem State.writeLine_freeCtr (dpa : Nat) (v : Line) : (s.writeLine dpa v).freeCtr = s.freeCtr := rfl
@[simp] theorem State.writeLine_now (dpa : Nat) (v : Line) : (s.writeLine dpa v).now = s.now := rfl
@[simp] theorem State.writeLine_regs (dpa : Nat) (v : Line) : (s.writeLine dpa v).regs = s.regs := rfl
@[simp] theorem State.writeLine_host (dpa : Nat) (v : Line) : (s.writeLine dpa v).host = s.host := rfl
@[simp] theorem State.writeLine_evcs (dpa : Nat) (v : Line) : (s.writeLine dpa v).evcs = s.evcs := rfl
@[simp] theorem State.writeLine_msgs (dpa : Nat) (v : Line) : (s.writeLine dpa v).msgs = s.msgs := rfl
@[simp] theorem State.writeLine_net (dpa : Nat) (v : Line) : (s.writeLine dpa v).net = s.net := rfl
@[simp] theorem State.writeLine_tiles (dpa : Nat) (v : Line) : (s.writeLine dpa v).tiles = s.tiles := rfl
@[simp] theorem State.writeLine_clusters (dpa : Nat) (v : Line) : (s.writeLine dpa v).clusters = s.clusters := rfl
@[simp] theorem State.writeLine_engines (dpa : Nat) (v : Line) : (s.writeLine dpa v).engines = s.engines := rfl
@[simp] theorem State.writeLine_plant (dpa : Nat) (v : Line) : (s.writeLine dpa v).plant = s.plant := rfl
@[simp] theorem State.writeLine_get (dpa : Nat) (v : Line) (field : Field) (inst : Nat) : (s.writeLine dpa v).get field inst = s.get field inst := rfl
@[simp] theorem State.setRecord_pending (k : Nat) (r : HoRecord) : (s.setRecord k r).pending = s.pending := rfl
@[simp] theorem State.setRecord_out (k : Nat) (r : HoRecord) : (s.setRecord k r).out = s.out := rfl
@[simp] theorem State.setRecord_freeCtr (k : Nat) (r : HoRecord) : (s.setRecord k r).freeCtr = s.freeCtr := rfl
@[simp] theorem State.setRecord_now (k : Nat) (r : HoRecord) : (s.setRecord k r).now = s.now := rfl
@[simp] theorem State.setRecord_regs (k : Nat) (r : HoRecord) : (s.setRecord k r).regs = s.regs := rfl
@[simp] theorem State.setRecord_host (k : Nat) (r : HoRecord) : (s.setRecord k r).host = s.host := rfl
@[simp] theorem State.setRecord_evcs (k : Nat) (r : HoRecord) : (s.setRecord k r).evcs = s.evcs := rfl
@[simp] theorem State.setRecord_msgs (k : Nat) (r : HoRecord) : (s.setRecord k r).msgs = s.msgs := rfl
@[simp] theorem State.setRecord_mem (k : Nat) (r : HoRecord) : (s.setRecord k r).mem = s.mem := rfl
@[simp] theorem State.setRecord_tiles (k : Nat) (r : HoRecord) : (s.setRecord k r).tiles = s.tiles := rfl
@[simp] theorem State.setRecord_clusters (k : Nat) (r : HoRecord) : (s.setRecord k r).clusters = s.clusters := rfl
@[simp] theorem State.setRecord_engines (k : Nat) (r : HoRecord) : (s.setRecord k r).engines = s.engines := rfl
@[simp] theorem State.setRecord_plant (k : Nat) (r : HoRecord) : (s.setRecord k r).plant = s.plant := rfl
@[simp] theorem State.setRecord_get (k : Nat) (r : HoRecord) (field : Field) (inst : Nat) : (s.setRecord k r).get field inst = s.get field inst := rfl
@[simp] theorem State.setPort_pending (n : Nat) (x : Port) : (s.setPort n x).pending = s.pending := rfl
@[simp] theorem State.setPort_out (n : Nat) (x : Port) : (s.setPort n x).out = s.out := rfl
@[simp] theorem State.setPort_freeCtr (n : Nat) (x : Port) : (s.setPort n x).freeCtr = s.freeCtr := rfl
@[simp] theorem State.setPort_now (n : Nat) (x : Port) : (s.setPort n x).now = s.now := rfl
@[simp] theorem State.setPort_regs (n : Nat) (x : Port) : (s.setPort n x).regs = s.regs := rfl
@[simp] theorem State.setPort_host (n : Nat) (x : Port) : (s.setPort n x).host = s.host := rfl
@[simp] theorem State.setPort_evcs (n : Nat) (x : Port) : (s.setPort n x).evcs = s.evcs := rfl
@[simp] theorem State.setPort_msgs (n : Nat) (x : Port) : (s.setPort n x).msgs = s.msgs := rfl
@[simp] theorem State.setPort_mem (n : Nat) (x : Port) : (s.setPort n x).mem = s.mem := rfl
@[simp] theorem State.setPort_tiles (n : Nat) (x : Port) : (s.setPort n x).tiles = s.tiles := rfl
@[simp] theorem State.setPort_clusters (n : Nat) (x : Port) : (s.setPort n x).clusters = s.clusters := rfl
@[simp] theorem State.setPort_engines (n : Nat) (x : Port) : (s.setPort n x).engines = s.engines := rfl
@[simp] theorem State.setPort_plant (n : Nat) (x : Port) : (s.setPort n x).plant = s.plant := rfl
@[simp] theorem State.setPort_get (n : Nat) (x : Port) (field : Field) (inst : Nat) : (s.setPort n x).get field inst = s.get field inst := rfl
@[simp] theorem State.setMember_pending (p : Nat) (m : Membership) : (s.setMember p m).pending = s.pending := rfl
@[simp] theorem State.setMember_out (p : Nat) (m : Membership) : (s.setMember p m).out = s.out := rfl
@[simp] theorem State.setMember_freeCtr (p : Nat) (m : Membership) : (s.setMember p m).freeCtr = s.freeCtr := rfl
@[simp] theorem State.setMember_now (p : Nat) (m : Membership) : (s.setMember p m).now = s.now := rfl
@[simp] theorem State.setMember_regs (p : Nat) (m : Membership) : (s.setMember p m).regs = s.regs := rfl
@[simp] theorem State.setMember_host (p : Nat) (m : Membership) : (s.setMember p m).host = s.host := rfl
@[simp] theorem State.setMember_evcs (p : Nat) (m : Membership) : (s.setMember p m).evcs = s.evcs := rfl
@[simp] theorem State.setMember_msgs (p : Nat) (m : Membership) : (s.setMember p m).msgs = s.msgs := rfl
@[simp] theorem State.setMember_mem (p : Nat) (m : Membership) : (s.setMember p m).mem = s.mem := rfl
@[simp] theorem State.setMember_tiles (p : Nat) (m : Membership) : (s.setMember p m).tiles = s.tiles := rfl
@[simp] theorem State.setMember_clusters (p : Nat) (m : Membership) : (s.setMember p m).clusters = s.clusters := rfl
@[simp] theorem State.setMember_engines (p : Nat) (m : Membership) : (s.setMember p m).engines = s.engines := rfl
@[simp] theorem State.setMember_plant (p : Nat) (m : Membership) : (s.setMember p m).plant = s.plant := rfl
@[simp] theorem State.setMember_get (p : Nat) (m : Membership) (field : Field) (inst : Nat) : (s.setMember p m).get field inst = s.get field inst := rfl
@[simp] theorem State.setEngine_pending (e : Nat) (x : Engine) : (s.setEngine e x).pending = s.pending := rfl
@[simp] theorem State.setEngine_out (e : Nat) (x : Engine) : (s.setEngine e x).out = s.out := rfl
@[simp] theorem State.setEngine_freeCtr (e : Nat) (x : Engine) : (s.setEngine e x).freeCtr = s.freeCtr := rfl
@[simp] theorem State.setEngine_now (e : Nat) (x : Engine) : (s.setEngine e x).now = s.now := rfl
@[simp] theorem State.setEngine_regs (e : Nat) (x : Engine) : (s.setEngine e x).regs = s.regs := rfl
@[simp] theorem State.setEngine_host (e : Nat) (x : Engine) : (s.setEngine e x).host = s.host := rfl
@[simp] theorem State.setEngine_evcs (e : Nat) (x : Engine) : (s.setEngine e x).evcs = s.evcs := rfl
@[simp] theorem State.setEngine_msgs (e : Nat) (x : Engine) : (s.setEngine e x).msgs = s.msgs := rfl
@[simp] theorem State.setEngine_mem (e : Nat) (x : Engine) : (s.setEngine e x).mem = s.mem := rfl
@[simp] theorem State.setEngine_net (e : Nat) (x : Engine) : (s.setEngine e x).net = s.net := rfl
@[simp] theorem State.setEngine_tiles (e : Nat) (x : Engine) : (s.setEngine e x).tiles = s.tiles := rfl
@[simp] theorem State.setEngine_clusters (e : Nat) (x : Engine) : (s.setEngine e x).clusters = s.clusters := rfl
@[simp] theorem State.setEngine_plant (e : Nat) (x : Engine) : (s.setEngine e x).plant = s.plant := rfl
@[simp] theorem State.setEngine_get (e : Nat) (x : Engine) (field : Field) (inst : Nat) : (s.setEngine e x).get field inst = s.get field inst := rfl
@[simp] theorem State.setNode_pending (n : Nat) (x : Node) : (s.setNode n x).pending = s.pending := rfl
@[simp] theorem State.setNode_out (n : Nat) (x : Node) : (s.setNode n x).out = s.out := rfl
@[simp] theorem State.setNode_freeCtr (n : Nat) (x : Node) : (s.setNode n x).freeCtr = s.freeCtr := rfl
@[simp] theorem State.setNode_now (n : Nat) (x : Node) : (s.setNode n x).now = s.now := rfl
@[simp] theorem State.setNode_regs (n : Nat) (x : Node) : (s.setNode n x).regs = s.regs := rfl
@[simp] theorem State.setNode_host (n : Nat) (x : Node) : (s.setNode n x).host = s.host := rfl
@[simp] theorem State.setNode_evcs (n : Nat) (x : Node) : (s.setNode n x).evcs = s.evcs := rfl
@[simp] theorem State.setNode_msgs (n : Nat) (x : Node) : (s.setNode n x).msgs = s.msgs := rfl
@[simp] theorem State.setNode_mem (n : Nat) (x : Node) : (s.setNode n x).mem = s.mem := rfl
@[simp] theorem State.setNode_net (n : Nat) (x : Node) : (s.setNode n x).net = s.net := rfl
@[simp] theorem State.setNode_tiles (n : Nat) (x : Node) : (s.setNode n x).tiles = s.tiles := rfl
@[simp] theorem State.setNode_clusters (n : Nat) (x : Node) : (s.setNode n x).clusters = s.clusters := rfl
@[simp] theorem State.setNode_plant (n : Nat) (x : Node) : (s.setNode n x).plant = s.plant := rfl
@[simp] theorem State.setNode_get (n : Nat) (x : Node) (field : Field) (inst : Nat) : (s.setNode n x).get field inst = s.get field inst := rfl
@[simp] theorem State.setSeqr_pending (sl : Nat) (x : Sequencer) : (s.setSeqr sl x).pending = s.pending := rfl
@[simp] theorem State.setSeqr_out (sl : Nat) (x : Sequencer) : (s.setSeqr sl x).out = s.out := rfl
@[simp] theorem State.setSeqr_freeCtr (sl : Nat) (x : Sequencer) : (s.setSeqr sl x).freeCtr = s.freeCtr := rfl
@[simp] theorem State.setSeqr_now (sl : Nat) (x : Sequencer) : (s.setSeqr sl x).now = s.now := rfl
@[simp] theorem State.setSeqr_regs (sl : Nat) (x : Sequencer) : (s.setSeqr sl x).regs = s.regs := rfl
@[simp] theorem State.setSeqr_host (sl : Nat) (x : Sequencer) : (s.setSeqr sl x).host = s.host := rfl
@[simp] theorem State.setSeqr_evcs (sl : Nat) (x : Sequencer) : (s.setSeqr sl x).evcs = s.evcs := rfl
@[simp] theorem State.setSeqr_msgs (sl : Nat) (x : Sequencer) : (s.setSeqr sl x).msgs = s.msgs := rfl
@[simp] theorem State.setSeqr_mem (sl : Nat) (x : Sequencer) : (s.setSeqr sl x).mem = s.mem := rfl
@[simp] theorem State.setSeqr_net (sl : Nat) (x : Sequencer) : (s.setSeqr sl x).net = s.net := rfl
@[simp] theorem State.setSeqr_tiles (sl : Nat) (x : Sequencer) : (s.setSeqr sl x).tiles = s.tiles := rfl
@[simp] theorem State.setSeqr_clusters (sl : Nat) (x : Sequencer) : (s.setSeqr sl x).clusters = s.clusters := rfl
@[simp] theorem State.setSeqr_plant (sl : Nat) (x : Sequencer) : (s.setSeqr sl x).plant = s.plant := rfl
@[simp] theorem State.setSeqr_get (sl : Nat) (x : Sequencer) (field : Field) (inst : Nat) : (s.setSeqr sl x).get field inst = s.get field inst := rfl
@[simp] theorem State.setPoint_pending (kind index : Nat) (x : Point) : (s.setPoint kind index x).pending = s.pending := rfl
@[simp] theorem State.setPoint_out (kind index : Nat) (x : Point) : (s.setPoint kind index x).out = s.out := rfl
@[simp] theorem State.setPoint_freeCtr (kind index : Nat) (x : Point) : (s.setPoint kind index x).freeCtr = s.freeCtr := rfl
@[simp] theorem State.setPoint_now (kind index : Nat) (x : Point) : (s.setPoint kind index x).now = s.now := rfl
@[simp] theorem State.setPoint_regs (kind index : Nat) (x : Point) : (s.setPoint kind index x).regs = s.regs := rfl
@[simp] theorem State.setPoint_host (kind index : Nat) (x : Point) : (s.setPoint kind index x).host = s.host := rfl
@[simp] theorem State.setPoint_evcs (kind index : Nat) (x : Point) : (s.setPoint kind index x).evcs = s.evcs := rfl
@[simp] theorem State.setPoint_msgs (kind index : Nat) (x : Point) : (s.setPoint kind index x).msgs = s.msgs := rfl
@[simp] theorem State.setPoint_mem (kind index : Nat) (x : Point) : (s.setPoint kind index x).mem = s.mem := rfl
@[simp] theorem State.setPoint_net (kind index : Nat) (x : Point) : (s.setPoint kind index x).net = s.net := rfl
@[simp] theorem State.setPoint_tiles (kind index : Nat) (x : Point) : (s.setPoint kind index x).tiles = s.tiles := rfl
@[simp] theorem State.setPoint_clusters (kind index : Nat) (x : Point) : (s.setPoint kind index x).clusters = s.clusters := rfl
@[simp] theorem State.setPoint_plant (kind index : Nat) (x : Point) : (s.setPoint kind index x).plant = s.plant := rfl
@[simp] theorem State.setPoint_get (kind index : Nat) (x : Point) (field : Field) (inst : Nat) : (s.setPoint kind index x).get field inst = s.get field inst := rfl
@[simp] theorem State.onPins_pending (f : Pins → Pins) : (s.onPins f).pending = s.pending := rfl
@[simp] theorem State.onPins_out (f : Pins → Pins) : (s.onPins f).out = s.out := rfl
@[simp] theorem State.onPins_freeCtr (f : Pins → Pins) : (s.onPins f).freeCtr = s.freeCtr := rfl
@[simp] theorem State.onPins_now (f : Pins → Pins) : (s.onPins f).now = s.now := rfl
@[simp] theorem State.onPins_regs (f : Pins → Pins) : (s.onPins f).regs = s.regs := rfl
@[simp] theorem State.onPins_host (f : Pins → Pins) : (s.onPins f).host = s.host := rfl
@[simp] theorem State.onPins_evcs (f : Pins → Pins) : (s.onPins f).evcs = s.evcs := rfl
@[simp] theorem State.onPins_msgs (f : Pins → Pins) : (s.onPins f).msgs = s.msgs := rfl
@[simp] theorem State.onPins_mem (f : Pins → Pins) : (s.onPins f).mem = s.mem := rfl
@[simp] theorem State.onPins_net (f : Pins → Pins) : (s.onPins f).net = s.net := rfl
@[simp] theorem State.onPins_tiles (f : Pins → Pins) : (s.onPins f).tiles = s.tiles := rfl
@[simp] theorem State.onPins_clusters (f : Pins → Pins) : (s.onPins f).clusters = s.clusters := rfl
@[simp] theorem State.onPins_engines (f : Pins → Pins) : (s.onPins f).engines = s.engines := rfl
@[simp] theorem State.onPins_get (f : Pins → Pins) (field : Field) (inst : Nat) : (s.onPins f).get field inst = s.get field inst := rfl
@[simp] theorem State.onPower_pending (f : PowerState → PowerState) : (s.onPower f).pending = s.pending := rfl
@[simp] theorem State.onPower_out (f : PowerState → PowerState) : (s.onPower f).out = s.out := rfl
@[simp] theorem State.onPower_freeCtr (f : PowerState → PowerState) : (s.onPower f).freeCtr = s.freeCtr := rfl
@[simp] theorem State.onPower_now (f : PowerState → PowerState) : (s.onPower f).now = s.now := rfl
@[simp] theorem State.onPower_regs (f : PowerState → PowerState) : (s.onPower f).regs = s.regs := rfl
@[simp] theorem State.onPower_host (f : PowerState → PowerState) : (s.onPower f).host = s.host := rfl
@[simp] theorem State.onPower_evcs (f : PowerState → PowerState) : (s.onPower f).evcs = s.evcs := rfl
@[simp] theorem State.onPower_msgs (f : PowerState → PowerState) : (s.onPower f).msgs = s.msgs := rfl
@[simp] theorem State.onPower_mem (f : PowerState → PowerState) : (s.onPower f).mem = s.mem := rfl
@[simp] theorem State.onPower_net (f : PowerState → PowerState) : (s.onPower f).net = s.net := rfl
@[simp] theorem State.onPower_tiles (f : PowerState → PowerState) : (s.onPower f).tiles = s.tiles := rfl
@[simp] theorem State.onPower_clusters (f : PowerState → PowerState) : (s.onPower f).clusters = s.clusters := rfl
@[simp] theorem State.onPower_engines (f : PowerState → PowerState) : (s.onPower f).engines = s.engines := rfl
@[simp] theorem State.onPower_get (f : PowerState → PowerState) (field : Field) (inst : Nat) : (s.onPower f).get field inst = s.get field inst := rfl
@[simp] theorem State.onClock_pending (f : ClockState → ClockState) : (s.onClock f).pending = s.pending := rfl
@[simp] theorem State.onClock_out (f : ClockState → ClockState) : (s.onClock f).out = s.out := rfl
@[simp] theorem State.onClock_freeCtr (f : ClockState → ClockState) : (s.onClock f).freeCtr = s.freeCtr := rfl
@[simp] theorem State.onClock_now (f : ClockState → ClockState) : (s.onClock f).now = s.now := rfl
@[simp] theorem State.onClock_regs (f : ClockState → ClockState) : (s.onClock f).regs = s.regs := rfl
@[simp] theorem State.onClock_host (f : ClockState → ClockState) : (s.onClock f).host = s.host := rfl
@[simp] theorem State.onClock_evcs (f : ClockState → ClockState) : (s.onClock f).evcs = s.evcs := rfl
@[simp] theorem State.onClock_msgs (f : ClockState → ClockState) : (s.onClock f).msgs = s.msgs := rfl
@[simp] theorem State.onClock_mem (f : ClockState → ClockState) : (s.onClock f).mem = s.mem := rfl
@[simp] theorem State.onClock_net (f : ClockState → ClockState) : (s.onClock f).net = s.net := rfl
@[simp] theorem State.onClock_tiles (f : ClockState → ClockState) : (s.onClock f).tiles = s.tiles := rfl
@[simp] theorem State.onClock_clusters (f : ClockState → ClockState) : (s.onClock f).clusters = s.clusters := rfl
@[simp] theorem State.onClock_engines (f : ClockState → ClockState) : (s.onClock f).engines = s.engines := rfl
@[simp] theorem State.onClock_get (f : ClockState → ClockState) (field : Field) (inst : Nat) : (s.onClock f).get field inst = s.get field inst := rfl
@[simp] theorem State.onSec_pending (f : SecState → SecState) : (s.onSec f).pending = s.pending := rfl
@[simp] theorem State.onSec_out (f : SecState → SecState) : (s.onSec f).out = s.out := rfl
@[simp] theorem State.onSec_freeCtr (f : SecState → SecState) : (s.onSec f).freeCtr = s.freeCtr := rfl
@[simp] theorem State.onSec_now (f : SecState → SecState) : (s.onSec f).now = s.now := rfl
@[simp] theorem State.onSec_regs (f : SecState → SecState) : (s.onSec f).regs = s.regs := rfl
@[simp] theorem State.onSec_host (f : SecState → SecState) : (s.onSec f).host = s.host := rfl
@[simp] theorem State.onSec_evcs (f : SecState → SecState) : (s.onSec f).evcs = s.evcs := rfl
@[simp] theorem State.onSec_msgs (f : SecState → SecState) : (s.onSec f).msgs = s.msgs := rfl
@[simp] theorem State.onSec_mem (f : SecState → SecState) : (s.onSec f).mem = s.mem := rfl
@[simp] theorem State.onSec_net (f : SecState → SecState) : (s.onSec f).net = s.net := rfl
@[simp] theorem State.onSec_tiles (f : SecState → SecState) : (s.onSec f).tiles = s.tiles := rfl
@[simp] theorem State.onSec_clusters (f : SecState → SecState) : (s.onSec f).clusters = s.clusters := rfl
@[simp] theorem State.onSec_engines (f : SecState → SecState) : (s.onSec f).engines = s.engines := rfl
@[simp] theorem State.onSec_get (f : SecState → SecState) (field : Field) (inst : Nat) : (s.onSec f).get field inst = s.get field inst := rfl
@[simp] theorem State.onBoot_pending (f : BootState → BootState) : (s.onBoot f).pending = s.pending := rfl
@[simp] theorem State.onBoot_out (f : BootState → BootState) : (s.onBoot f).out = s.out := rfl
@[simp] theorem State.onBoot_freeCtr (f : BootState → BootState) : (s.onBoot f).freeCtr = s.freeCtr := rfl
@[simp] theorem State.onBoot_now (f : BootState → BootState) : (s.onBoot f).now = s.now := rfl
@[simp] theorem State.onBoot_regs (f : BootState → BootState) : (s.onBoot f).regs = s.regs := rfl
@[simp] theorem State.onBoot_host (f : BootState → BootState) : (s.onBoot f).host = s.host := rfl
@[simp] theorem State.onBoot_evcs (f : BootState → BootState) : (s.onBoot f).evcs = s.evcs := rfl
@[simp] theorem State.onBoot_msgs (f : BootState → BootState) : (s.onBoot f).msgs = s.msgs := rfl
@[simp] theorem State.onBoot_mem (f : BootState → BootState) : (s.onBoot f).mem = s.mem := rfl
@[simp] theorem State.onBoot_net (f : BootState → BootState) : (s.onBoot f).net = s.net := rfl
@[simp] theorem State.onBoot_tiles (f : BootState → BootState) : (s.onBoot f).tiles = s.tiles := rfl
@[simp] theorem State.onBoot_clusters (f : BootState → BootState) : (s.onBoot f).clusters = s.clusters := rfl
@[simp] theorem State.onBoot_engines (f : BootState → BootState) : (s.onBoot f).engines = s.engines := rfl
@[simp] theorem State.onBoot_get (f : BootState → BootState) (field : Field) (inst : Nat) : (s.onBoot f).get field inst = s.get field inst := rfl
@[simp] theorem State.onSide_pending (f : SideState → SideState) : (s.onSide f).pending = s.pending := rfl
@[simp] theorem State.onSide_out (f : SideState → SideState) : (s.onSide f).out = s.out := rfl
@[simp] theorem State.onSide_freeCtr (f : SideState → SideState) : (s.onSide f).freeCtr = s.freeCtr := rfl
@[simp] theorem State.onSide_now (f : SideState → SideState) : (s.onSide f).now = s.now := rfl
@[simp] theorem State.onSide_regs (f : SideState → SideState) : (s.onSide f).regs = s.regs := rfl
@[simp] theorem State.onSide_host (f : SideState → SideState) : (s.onSide f).host = s.host := rfl
@[simp] theorem State.onSide_evcs (f : SideState → SideState) : (s.onSide f).evcs = s.evcs := rfl
@[simp] theorem State.onSide_msgs (f : SideState → SideState) : (s.onSide f).msgs = s.msgs := rfl
@[simp] theorem State.onSide_mem (f : SideState → SideState) : (s.onSide f).mem = s.mem := rfl
@[simp] theorem State.onSide_net (f : SideState → SideState) : (s.onSide f).net = s.net := rfl
@[simp] theorem State.onSide_tiles (f : SideState → SideState) : (s.onSide f).tiles = s.tiles := rfl
@[simp] theorem State.onSide_clusters (f : SideState → SideState) : (s.onSide f).clusters = s.clusters := rfl
@[simp] theorem State.onSide_engines (f : SideState → SideState) : (s.onSide f).engines = s.engines := rfl
@[simp] theorem State.onSide_get (f : SideState → SideState) (field : Field) (inst : Nat) : (s.onSide f).get field inst = s.get field inst := rfl
@[simp] theorem State.onBus_pending (f : BusState → BusState) : (s.onBus f).pending = s.pending := rfl
@[simp] theorem State.onBus_out (f : BusState → BusState) : (s.onBus f).out = s.out := rfl
@[simp] theorem State.onBus_freeCtr (f : BusState → BusState) : (s.onBus f).freeCtr = s.freeCtr := rfl
@[simp] theorem State.onBus_now (f : BusState → BusState) : (s.onBus f).now = s.now := rfl
@[simp] theorem State.onBus_regs (f : BusState → BusState) : (s.onBus f).regs = s.regs := rfl
@[simp] theorem State.onBus_host (f : BusState → BusState) : (s.onBus f).host = s.host := rfl
@[simp] theorem State.onBus_evcs (f : BusState → BusState) : (s.onBus f).evcs = s.evcs := rfl
@[simp] theorem State.onBus_msgs (f : BusState → BusState) : (s.onBus f).msgs = s.msgs := rfl
@[simp] theorem State.onBus_mem (f : BusState → BusState) : (s.onBus f).mem = s.mem := rfl
@[simp] theorem State.onBus_net (f : BusState → BusState) : (s.onBus f).net = s.net := rfl
@[simp] theorem State.onBus_tiles (f : BusState → BusState) : (s.onBus f).tiles = s.tiles := rfl
@[simp] theorem State.onBus_clusters (f : BusState → BusState) : (s.onBus f).clusters = s.clusters := rfl
@[simp] theorem State.onBus_engines (f : BusState → BusState) : (s.onBus f).engines = s.engines := rfl
@[simp] theorem State.onBus_get (f : BusState → BusState) (field : Field) (inst : Nat) : (s.onBus f).get field inst = s.get field inst := rfl

/-! ### Fabric time -/

/-- What the tick counts of the dies leave alone: every part that `P` sees, where a register field written changes no `P`. -/
theorem State.passTicks_keeps {α : Type} (P : State → α) (hs : ∀ s f i v, P (State.set s f i v) = P s)
    (hp : ∀ s (x : PlantState), P { s with plant := x } = P s) (d : Int) : P (s.passTicks d) = P s := by
  have hf : ∀ (n : Nat) (l : List Nat) (t : State),
      P (l.foldl (fun s d => s.set Reg.dieTickTick d (s.get Reg.dieTickTick d + n)) t) = P t := by
    intro n l
    induction l with
    | nil => intro t; rfl
    | cons d l ih => intro t; rw [List.foldl_cons, ih, hs]
  unfold State.passTicks
  split
  · rfl
  · dsimp only
    split
    · exact hp ..
    · rw [hf]; exact hp ..

@[simp] theorem State.pass_now (ns : Nat) : (s.pass ns).now = s.now + ns := by
  refine (State.passTicks_keeps _ State.now (fun _ _ _ _ => rfl) (fun _ _ => rfl) _).trans ?_
  unfold State.startAssay
  split <;> rfl
@[simp] theorem State.atLeast_now (t : Nat) : (s.atLeast t).now = max s.now t := by
  unfold State.atLeast
  rw [State.pass_now]
  omega
@[simp] theorem State.pass_pending (ns : Nat) : (s.pass ns).pending = s.pending := by
  refine (State.passTicks_keeps _ State.pending (fun _ _ _ _ => rfl) (fun _ _ => rfl) _).trans ?_
  unfold State.startAssay
  split <;> rfl
@[simp] theorem State.atLeast_pending (t : Nat) : (s.atLeast t).pending = s.pending := s.pass_pending _
@[simp] theorem State.atMultiple_pending (period : Nat) : (s.atMultiple period).pending = s.pending := s.pass_pending _
@[simp] theorem State.pass_out (ns : Nat) : (s.pass ns).out = s.out := by
  refine (State.passTicks_keeps _ State.out (fun _ _ _ _ => rfl) (fun _ _ => rfl) _).trans ?_
  unfold State.startAssay
  split <;> rfl
@[simp] theorem State.atLeast_out (t : Nat) : (s.atLeast t).out = s.out := s.pass_out _
@[simp] theorem State.atMultiple_out (period : Nat) : (s.atMultiple period).out = s.out := s.pass_out _
@[simp] theorem State.pass_freeCtr (ns : Nat) : (s.pass ns).freeCtr = s.freeCtr := by
  refine (State.passTicks_keeps _ State.freeCtr (fun _ _ _ _ => rfl) (fun _ _ => rfl) _).trans ?_
  unfold State.startAssay
  split <;> rfl
@[simp] theorem State.atLeast_freeCtr (t : Nat) : (s.atLeast t).freeCtr = s.freeCtr := s.pass_freeCtr _
@[simp] theorem State.atMultiple_freeCtr (period : Nat) : (s.atMultiple period).freeCtr = s.freeCtr := s.pass_freeCtr _
@[simp] theorem State.pass_host (ns : Nat) : (s.pass ns).host = s.host := by
  refine (State.passTicks_keeps _ State.host (fun _ _ _ _ => rfl) (fun _ _ => rfl) _).trans ?_
  unfold State.startAssay
  split <;> rfl
@[simp] theorem State.atLeast_host (t : Nat) : (s.atLeast t).host = s.host := s.pass_host _
@[simp] theorem State.atMultiple_host (period : Nat) : (s.atMultiple period).host = s.host := s.pass_host _
@[simp] theorem State.pass_evcs (ns : Nat) : (s.pass ns).evcs = s.evcs := by
  refine (State.passTicks_keeps _ State.evcs (fun _ _ _ _ => rfl) (fun _ _ => rfl) _).trans ?_
  unfold State.startAssay
  split <;> rfl
@[simp] theorem State.atLeast_evcs (t : Nat) : (s.atLeast t).evcs = s.evcs := s.pass_evcs _
@[simp] theorem State.atMultiple_evcs (period : Nat) : (s.atMultiple period).evcs = s.evcs := s.pass_evcs _
@[simp] theorem State.pass_msgs (ns : Nat) : (s.pass ns).msgs = s.msgs := by
  refine (State.passTicks_keeps _ State.msgs (fun _ _ _ _ => rfl) (fun _ _ => rfl) _).trans ?_
  unfold State.startAssay
  split <;> rfl
@[simp] theorem State.atLeast_msgs (t : Nat) : (s.atLeast t).msgs = s.msgs := s.pass_msgs _
@[simp] theorem State.atMultiple_msgs (period : Nat) : (s.atMultiple period).msgs = s.msgs := s.pass_msgs _
@[simp] theorem State.pass_mem (ns : Nat) : (s.pass ns).mem = s.mem := by
  refine (State.passTicks_keeps _ State.mem (fun _ _ _ _ => rfl) (fun _ _ => rfl) _).trans ?_
  unfold State.startAssay
  split <;> rfl
@[simp] theorem State.atLeast_mem (t : Nat) : (s.atLeast t).mem = s.mem := s.pass_mem _
@[simp] theorem State.atMultiple_mem (period : Nat) : (s.atMultiple period).mem = s.mem := s.pass_mem _
@[simp] theorem State.pass_net (ns : Nat) : (s.pass ns).net = s.net := by
  refine (State.passTicks_keeps _ State.net (fun _ _ _ _ => rfl) (fun _ _ => rfl) _).trans ?_
  unfold State.startAssay
  split <;> rfl
@[simp] theorem State.atLeast_net (t : Nat) : (s.atLeast t).net = s.net := s.pass_net _
@[simp] theorem State.atMultiple_net (period : Nat) : (s.atMultiple period).net = s.net := s.pass_net _
@[simp] theorem State.pass_tiles (ns : Nat) : (s.pass ns).tiles = s.tiles := by
  refine (State.passTicks_keeps _ State.tiles (fun _ _ _ _ => rfl) (fun _ _ => rfl) _).trans ?_
  unfold State.startAssay
  split <;> rfl
@[simp] theorem State.atLeast_tiles (t : Nat) : (s.atLeast t).tiles = s.tiles := s.pass_tiles _
@[simp] theorem State.atMultiple_tiles (period : Nat) : (s.atMultiple period).tiles = s.tiles := s.pass_tiles _
@[simp] theorem State.pass_clusters (ns : Nat) : (s.pass ns).clusters = s.clusters := by
  refine (State.passTicks_keeps _ State.clusters (fun _ _ _ _ => rfl) (fun _ _ => rfl) _).trans ?_
  unfold State.startAssay
  split <;> rfl
@[simp] theorem State.atLeast_clusters (t : Nat) : (s.atLeast t).clusters = s.clusters := s.pass_clusters _
@[simp] theorem State.atMultiple_clusters (period : Nat) : (s.atMultiple period).clusters = s.clusters := s.pass_clusters _
@[simp] theorem State.pass_engines (ns : Nat) : (s.pass ns).engines = s.engines := by
  refine (State.passTicks_keeps _ State.engines (fun _ _ _ _ => rfl) (fun _ _ => rfl) _).trans ?_
  unfold State.startAssay
  split <;> rfl
@[simp] theorem State.atLeast_engines (t : Nat) : (s.atLeast t).engines = s.engines := s.pass_engines _
@[simp] theorem State.atMultiple_engines (period : Nat) : (s.atMultiple period).engines = s.engines := s.pass_engines _

/-! ### Reading back -/

@[simp] theorem State.inst_setInst (i : Nat) (x : Inst) : (s.setInst i x).inst i = some x := FMap.find_put_self ..
@[simp] theorem State.queue_setQueue (i q : Nat) (x : HostQueue) : (s.setQueue i q x).queue i q = some x := FMap.find_put_self ..
@[simp] theorem State.record_setRecord (k : Nat) (r : HoRecord) : (s.setRecord k r).record k = some r := FMap.find_put_self ..

end Sys2Proof.Machine
end

