-- ==== Sys2Proof/Laws/Walk.lean ====
section
/-! SUPPORT. What a step can do, said once: every operation of the model changes State through a few primitive changes, and a
relation that each of them respects holds between the state before any operation and the state after it. -/

namespace Sys2Proof.Machine

/-- A relation that every primitive change but those of HBM lines respects: any change of the parts beside the registers,
memory, the queue, what has left the module and the free values; a register field written or fields reset; something that
leaves the module; free values drawn; and a change of memory that keeps the lines and the tables' canonical form. -/
structure Respects (R : State → State → Prop) : Prop where
  refl : ∀ s, R s s
  trans : ∀ {a b c}, R a b → R b c → R a c
  side : ∀ s now host evcs msgs net tiles clusters engines plant, R s { s with
    now := now, host := host, evcs := evcs, msgs := msgs, net := net, tiles := tiles, clusters := clusters
    engines := engines, plant := plant }
  set : ∀ s f i v, R s (s.set f i v)
  keep : ∀ s test, R s (s.dropFields test)
  emit : ∀ s o, R s (s.emit o)
  drawn : ∀ s n, R s { s with freeCtr := s.freeCtr + n }
  mem : ∀ s m, m.lines = s.mem.lines → (s.mem.tables.wfD 0 = true → m.tables.wfD 0 = true) → R s { s with mem := m }

/-- A relation that a change of HBM lines in canonical form respects as well. -/
structure RespectsLines (R : State → State → Prop) : Prop extends Respects R where
  lines : ∀ s m, (Memory.wf s.mem = true → Memory.wf m = true) → R s { s with mem := m }

variable {R : State → State → Prop} {s0 s : State}

theorem Respects.ite (_ : Respects R) {c : Prop} [Decidable c] {a b : State} (ha : R s0 a) (hb : R s0 b) :
    R s0 (if c then a else b) := by
  split <;> assumption
theorem Respects.foldl (_ : Respects R) {α : Type} {f : State → α → State} (l : List α) {a : State}
    (hf : ∀ t x, R s0 t → R s0 (f t x)) (ha : R s0 a) : R s0 (l.foldl f a) := by
  induction l generalizing a with
  | nil => exact ha
  | cons x l ih => exact ih (hf a x ha)
/-- A fold that carries a state beside other data. -/
theorem Respects.foldl_snd (_ : Respects R) {α β : Type} {f : β × State → α → β × State} (l : List α) {a : β × State}
    (hf : ∀ t x, R s0 t.2 → R s0 (f t x).2) (ha : R s0 a.2) : R s0 (l.foldl f a).2 := by
  induction l generalizing a with
  | nil => exact ha
  | cons x l ih => exact ih (hf a x ha)
theorem Respects.foldl_snd_snd (_ : Respects R) {α β γ : Type} {f : β × γ × State → α → β × γ × State} (l : List α)
    {a : β × γ × State} (hf : ∀ t x, R s0 t.2.2 → R s0 (f t x).2.2) (ha : R s0 a.2.2) : R s0 (l.foldl f a).2.2 := by
  induction l generalizing a with
  | nil => exact ha
  | cons x l ih => exact ih (hf a x ha)
theorem Respects.sides (h : Respects R) {now host evcs msgs net tiles clusters engines plant} (h0 : R s0 s) :
    R s0 (State.mk s.pending s.out s.freeCtr now s.regs host evcs msgs s.mem net tiles clusters engines plant) :=
  h.trans h0 (h.side s now host evcs msgs net tiles clusters engines plant)
theorem Respects.onMem (h : Respects R) {f : MemState → MemState} (h0 : R s0 s) (hl : (f s.mem).lines = s.mem.lines)
    (ht : s.mem.tables.wfD 0 = true → (f s.mem).tables.wfD 0 = true) : R s0 (s.onMem f) :=
  h.trans h0 (h.mem s _ hl ht)
theorem RespectsLines.onMem (h : RespectsLines R) {f : MemState → MemState} (h0 : R s0 s)
    (hf : Memory.wf s.mem = true → Memory.wf (f s.mem) = true) : R s0 (s.onMem f) :=
  h.trans h0 (h.lines s _ hf)

theorem State.set_walk (h : Respects R) (f : Field) (i v : Nat) (h0 : R s0 s) : R s0 (s.set f i v) := h.trans h0 (h.set s f i v)
theorem State.emit_walk (h : Respects R) (o : Out) (h0 : R s0 s) : R s0 (s.emit o) := h.trans h0 (h.emit s o)
theorem State.dropFields_walk (h : Respects R) (test : Page → Nat → Field → Bool) (h0 : R s0 s) : R s0 (s.dropFields test) :=
  h.trans h0 (h.keep s test)
theorem State.draw_walk (h : Respects R) (h0 : R s0 s) : R s0 s.draw.2 := h.trans h0 (h.drawn s 1)
theorem State.drawN_walk (h : Respects R) (n : Nat) (h0 : R s0 s) : R s0 (s.drawN n).2 := h.trans h0 (h.drawn s n)
theorem State.onHost_walk (h : Respects R) (f : HostSide → HostSide) (h0 : R s0 s) : R s0 (s.onHost f) := h.sides h0
theorem State.onNet_walk (h : Respects R) (f : NetState → NetState) (h0 : R s0 s) : R s0 (s.onNet f) := h.sides h0
theorem State.onEngines_walk (h : Respects R) (f : EngineState → EngineState) (h0 : R s0 s) : R s0 (s.onEngines f) := h.sides h0
theorem State.onPlant_walk (h : Respects R) (f : PlantState → PlantState) (h0 : R s0 s) : R s0 (s.onPlant f) := h.sides h0
theorem State.setEvc_walk (h : Respects R) (n : Nat) (x : Evc) (h0 : R s0 s) : R s0 (s.setEvc n x) := h.sides h0

/-- A command that completes in a state with a property. -/
def Yields (P : State → Prop) (o : StepOut) : Prop := ∃ t, o = .next t ∧ P t

theorem Yields.next {P : State → Prop} {t : State} (h : P t) : Yields P (.next t) := ⟨t, rfl, h⟩
theorem Yields.ite {P : State → Prop} {c : Prop} [Decidable c] {a b : StepOut} (ha : Yields P a) (hb : Yields P b) :
    Yields P (if c then a else b) := by
  split <;> assumption

end Sys2Proof.Machine
end

