-- ==== Sys2Proof/Laws/WalkOps.lean ====
section
/-! SUPPORT. What each operation of Machine/Ops.lean can do: it walks through the primitive changes of `Respects`. -/

set_option linter.unusedTactic false
set_option linter.unreachableTactic false

namespace Sys2Proof.Machine

variable {R : State → State → Prop} {s0 s : State}

theorem State.raise_walk (h : Respects R) (f : Field) (i : Nat) (h0 : R s0 s) :
   R s0 (s.raise f i) := by
  unfold State.raise
  repeat' first
    | with_reducible assumption
    | with_reducible apply State.set_walk h

theorem State.bump_walk (h : Respects R) (f : Field) (i : Nat) (h0 : R s0 s) :
   R s0 (s.bump f i) := by
  unfold State.bump
  repeat' first
    | with_reducible assumption
    | with_reducible apply State.set_walk h

theorem State.setBits_walk (h : Respects R) (f : Field) (i : Nat) (mask : Nat) (h0 : R s0 s) :
   R s0 (s.setBits f i mask) := by
  unfold State.setBits
  repeat' first
    | with_reducible assumption
    | with_reducible apply State.set_walk h

theorem State.clearBits_walk (h : Respects R) (f : Field) (i : Nat) (mask : Nat) (h0 : R s0 s) :
   R s0 (s.clearBits f i mask) := by
  unfold State.clearBits
  repeat' first
    | with_reducible assumption
    | with_reducible apply State.set_walk h

theorem State.count_walk (h : Respects R) (page : Nat) (n : Nat) (k : Nat) (h0 : R s0 s) :
   R s0 (s.count page n k) := by
  unfold State.count
  repeat' first
    | with_reducible assumption
    | with_reducible apply State.set_walk h

theorem State.sendEvent_walk (h : Respects R) (page : Nat) (h0 : R s0 s) :
   R s0 (s.sendEvent page) := by
  unfold State.sendEvent
  repeat' first
    | with_reducible assumption
    | with_reducible apply h.ite
    | with_reducible refine h.sides ?_
    | dsimp only
    | split

theorem State.event_walk (h : Respects R) (page : Nat) (bit : Nat) (h0 : R s0 s) :
   R s0 (s.event page bit) := by
  unfold State.event
  repeat' first
    | with_reducible assumption
    | with_reducible apply h.ite
    | with_reducible apply State.setBits_walk h
    | with_reducible apply State.sendEvent_walk h
    | dsimp only
    | split

theorem State.level_walk (h : Respects R) (page : Nat) (bit : Nat) (on : Bool) (h0 : R s0 s) :
   R s0 (s.level page bit on) := by
  unfold State.level
  repeat' first
    | with_reducible assumption
    | with_reducible apply h.ite
    | with_reducible apply State.setBits_walk h
    | with_reducible apply State.event_walk h
    | with_reducible apply State.clearBits_walk h
    | dsimp only
    | split

theorem State.raiseVector_walk (h : Respects R) (fn : Nat) (v : Nat) (h0 : R s0 s) :
   R s0 (s.raiseVector fn v) := by
  unfold State.raiseVector
  repeat' first
    | with_reducible assumption
    | with_reducible apply h.ite
    | with_reducible apply State.emit_walk h
    | with_reducible refine h.sides ?_
    | dsimp only
    | split

theorem State.setInst_walk (h : Respects R) (i : Nat) (x : Inst) (h0 : R s0 s) :
   R s0 (s.setInst i x) := by
  unfold State.setInst
  repeat' first
    | with_reducible assumption
    | with_reducible intro t
    | with_reducible apply State.onHost_walk h

theorem State.setQueue_walk (h : Respects R) (i : Nat) (q : Nat) (x : HostQueue) (h0 : R s0 s) :
   R s0 (s.setQueue i q x) := by
  unfold State.setQueue
  repeat' first
    | with_reducible assumption
    | with_reducible intro t
    | with_reducible apply State.onHost_walk h

theorem State.setLine_walk (h : Respects R) (p : Nat) (l : ExecLine) (h0 : R s0 s) :
   R s0 (s.setLine p l) := by
  unfold State.setLine
  repeat' first
    | with_reducible assumption
    | with_reducible intro t
    | with_reducible apply State.onHost_walk h

theorem State.postCq_walk (h : Respects R) (i : Nat) (q : Nat) (e : CplEntry) (vector : Bool) (h0 : R s0 s) :
   R s0 (s.postCq i q e vector) := by
  unfold State.postCq
  repeat' first
    | with_reducible assumption
    | with_reducible apply h.ite
    | with_reducible apply State.setQueue_walk h
    | with_reducible apply State.emit_walk h
    | with_reducible apply State.raiseVector_walk h
    | dsimp only
    | split

theorem State.setPair_walk (h : Respects R) (fm : Bool) (x : AdmPair) (h0 : R s0 s) :
   R s0 (s.setPair fm x) := by
  unfold State.setPair
  repeat' first
    | with_reducible assumption
    | with_reducible intro t
    | with_reducible apply h.ite
    | with_reducible apply State.onHost_walk h
    | dsimp only
    | split

theorem State.takeEntry_walk (h : Respects R) (fm : Bool) (h0 : R s0 s) :
   R s0 (s.takeEntry fm).2.2 := by
  unfold State.takeEntry
  repeat' first
    | with_reducible assumption
    | with_reducible apply h.ite
    | with_reducible apply State.setPair_walk h
    | dsimp only
    | split

theorem State.writeCpl_walk (h : Respects R) (fm : Bool) (c : AdmCpl) (h0 : R s0 s) :
   R s0 (s.writeCpl fm c) := by
  unfold State.writeCpl
  repeat' first
    | with_reducible assumption
    | with_reducible apply h.ite
    | with_reducible apply State.takeEntry_walk h
    | with_reducible apply State.emit_walk h
    | with_reducible apply State.raiseVector_walk h
    | dsimp only
    | split

theorem State.writeNotice_walk (h : Respects R) (n : Notice) (h0 : R s0 s) :
   R s0 (s.writeNotice n) := by
  unfold State.writeNotice
  repeat' first
    | with_reducible assumption
    | with_reducible apply State.takeEntry_walk h
    | with_reducible apply State.emit_walk h
    | with_reducible apply State.raiseVector_walk h
    | dsimp only
    | split

theorem State.notice_walk (h : Respects R) (status : Nat) (p : Nat) (handle : Nat) (detail : Nat) (h0 : R s0 s) :
   R s0 (s.notice status p handle detail) := by
  unfold State.notice
  repeat' first
    | with_reducible assumption
    | with_reducible apply h.ite
    | with_reducible apply State.writeNotice_walk h
    | with_reducible apply State.setPair_walk h
    | with_reducible apply State.bump_walk h
    | dsimp only
    | split

theorem State.drainNotice_walk (h : Respects R) (h0 : R s0 s) :
    R s0 (s.drainNotice) := by
  unfold State.drainNotice
  repeat' first
    | with_reducible assumption
    | with_reducible apply h.ite
    | with_reducible apply State.setPair_walk h
    | with_reducible apply State.writeNotice_walk h
    | dsimp only
    | split

theorem State.drainNotices_walk (h : Respects R) (k : Nat) (h0 : R s0 s) : R s0 (State.drainNotices k s) := by
  induction k generalizing s with
  | zero => exact h0
  | succ k ih => exact ih (State.drainNotice_walk h h0)

theorem State.complete_walk (h : Respects R) (fm : Bool) (a : Adm) (status : Nat) (detail : Nat) (lo : Nat) (hi : Nat) (h0 : R s0 s) :
   R s0 (s.complete fm a status detail lo hi) := by
  unfold State.complete
  repeat' first
    | with_reducible assumption
    | with_reducible apply h.ite
    | with_reducible apply State.setPair_walk h
    | with_reducible apply State.writeCpl_walk h
    | dsimp only
    | split

theorem State.takeAdm_walk (h : Respects R) (fm : Bool) (h0 : R s0 s) :
   R s0 (s.takeAdm fm) := by
  unfold State.takeAdm
  repeat' first
    | with_reducible assumption
    | with_reducible apply State.set_walk h
    | with_reducible apply State.setPair_walk h

end Sys2Proof.Machine
end

