-- ==== Sys2Proof/Laws/WalkClock.lean ====
section
/-! SUPPORT. What each operation of Machine/Clock.lean can do: it walks through the primitive changes of `Respects`. -/

set_option linter.unusedTactic false
set_option linter.unreachableTactic false

namespace Sys2Proof.Machine

variable {R : State → State → Prop} {s0 s : State}

theorem State.startAssay_walk (h : Respects R) (h0 : R s0 s) :
    R s0 (s.startAssay) := by
  unfold State.startAssay
  repeat' first
    | with_reducible assumption
    | with_reducible apply h.ite
    | with_reducible apply State.set_walk h
    | dsimp only
    | split

theorem State.passTicks_walk (h : Respects R) (d : Int) (h0 : R s0 s) :
   R s0 (s.passTicks d) := by
  unfold State.passTicks
  repeat' first
    | with_reducible assumption
    | with_reducible intro t
    | with_reducible apply h.ite
    | with_reducible apply State.set_walk h
    | with_reducible refine h.foldl _ ?_ ?_
    | with_reducible refine h.foldl_snd _ ?_ ?_
    | with_reducible refine h.foldl_snd_snd _ ?_ ?_
    | with_reducible refine h.sides ?_
    | dsimp only
    | split

theorem State.pass_walk (h : Respects R) (ns : Nat) (h0 : R s0 s) :
   R s0 (s.pass ns) := by
  unfold State.pass
  repeat' first
    | with_reducible assumption
    | with_reducible apply State.startAssay_walk h
    | with_reducible apply State.passTicks_walk h
    | with_reducible refine h.sides ?_

theorem State.atLeast_walk (h : Respects R) (t : Nat) (h0 : R s0 s) :
   R s0 (s.atLeast t) := by
  unfold State.atLeast
  repeat' first
    | with_reducible assumption
    | with_reducible apply State.pass_walk h

theorem State.atMultiple_walk (h : Respects R) (period : Nat) (h0 : R s0 s) :
   R s0 (s.atMultiple period) := by
  unfold State.atMultiple
  repeat' first
    | with_reducible assumption
    | with_reducible apply State.atLeast_walk h

theorem State.idle_walk (h : Respects R) (h0 : R s0 s) :
    R s0 (s.idle) := by
  unfold State.idle
  repeat' first
    | with_reducible assumption
    | with_reducible apply State.pass_walk h

end Sys2Proof.Machine
end

