-- ==== Sys2Proof/Laws/WalkAdmin.lean ====
section
/-! SUPPORT. What each operation of Machine/Admin.lean can do: it walks through the primitive changes of `Respects`. -/

set_option linter.unusedTactic false
set_option linter.unreachableTactic false

namespace Sys2Proof.Machine

variable {R : State → State → Prop} {s0 s : State}

theorem State.takeAnd_walk (h : Respects R) (fm : Bool) (a : Adm) (ok : Bool) {go : State → State}
    (hg : ∀ t, R s0 t → R s0 (go t)) (h0 : R s0 s) : R s0 (s.takeAnd fm a ok go) := by
  unfold State.takeAnd
  have ht := State.takeAdm_walk h fm h0
  exact h.ite (h.ite (State.complete_walk h _ _ _ _ _ _ ht) (hg _ ht)) h0

theorem State.admin_walk (h : Respects R) (fm : Bool) (a : Adm) (ok : Bool) {go : State → State}
    (hg : ∀ t, R s0 t → R s0 (go t)) (h0 : R s0 s) : R s0 (s.admin fm a ok go) := by
  unfold State.admin
  have ht := State.takeAdm_walk h fm h0
  refine h.ite (h.ite (State.complete_walk h _ _ _ _ _ _ ht) (h.ite ?_ (hg _ ht))) h0
  exact State.complete_walk h _ _ _ _ _ _ (State.raise_walk h _ _ ht)

end Sys2Proof.Machine
end

