-- ==== Sys2Proof/Laws/WalkMemory.lean ====
section
/-! SUPPORT. What each operation of Machine/Memory.lean can do: it walks through the primitive changes of `Respects`. -/

set_option linter.unusedTactic false
set_option linter.unreachableTactic false

namespace Sys2Proof.Machine

variable {R : State → State → Prop} {s0 s : State}

theorem State.setChannel_walk (h : Respects R) (ch : Nat) (c : Channel) (h0 : R s0 s) :
   R s0 (s.setChannel ch c) := by
  unfold State.setChannel
  repeat' first
    | with_reducible assumption
    | with_reducible intro t
    | with_reducible refine h.onMem ?_ rfl id

theorem State.writeLine_walk (h : RespectsLines R) (dpa : Nat) (v : Line) (h0 : R s0 s) : R s0 (s.writeLine dpa v) := by
  unfold State.writeLine
  refine h.onMem h0 fun w => ?_
  unfold Memory.wf at w ⊢
  rw [Bool.and_eq_true] at w ⊢
  exact ⟨FMap.wf_put w.1 _ _, w.2⟩

theorem State.logUe_walk (h : Respects R) (dpa : Nat) (scrub : Bool) (h0 : R s0 s) :
   R s0 (s.logUe dpa scrub) := by
  unfold State.logUe
  repeat' first
    | with_reducible assumption
    | with_reducible apply h.ite
    | with_reducible apply State.raise_walk h
    | with_reducible apply State.bump_walk h
    | with_reducible apply State.set_walk h
    | dsimp only
    | split

theorem State.meetErrors_walk (h : Respects R) (errs : List LineError) (h0 : R s0 s) :
   R s0 (s.meetErrors errs) := by
  unfold State.meetErrors
  repeat' first
    | with_reducible assumption
    | with_reducible intro t
    | with_reducible refine h.foldl _ ?_ ?_
    | with_reducible refine h.foldl_snd _ ?_ ?_
    | with_reducible refine h.foldl_snd_snd _ ?_ ?_
    | with_reducible refine h.onMem ?_ rfl id

theorem State.noteLine_walk (h : Respects R) (errs : List LineError) (scrub : Bool) (dpa : Nat) (h0 : R s0 s) :
   R s0 (s.noteLine errs scrub dpa) := by
  unfold State.noteLine
  repeat' first
    | with_reducible assumption
    | with_reducible intro t
    | with_reducible apply h.ite
    | with_reducible apply State.bump_walk h
    | with_reducible apply State.logUe_walk h
    | with_reducible refine h.foldl _ ?_ ?_
    | with_reducible refine h.foldl_snd _ ?_ ?_
    | with_reducible refine h.foldl_snd_snd _ ?_ ?_
    | dsimp only
    | split

theorem State.noteLines_walk (h : Respects R) (errs : List LineError) (dpas : List Nat) (h0 : R s0 s) :
   R s0 (s.noteLines errs dpas) := by
  unfold State.noteLines
  repeat' first
    | with_reducible assumption
    | with_reducible intro t
    | with_reducible apply State.noteLine_walk h
    | with_reducible refine h.foldl _ ?_ ?_
    | with_reducible refine h.foldl_snd _ ?_ ?_
    | with_reducible refine h.foldl_snd_snd _ ?_ ?_

theorem State.asRead_walk (h : RespectsLines R) (errs : List LineError) (dpas : List Nat) (h0 : R s0 s) :
   R s0 (s.asRead errs dpas) := by
  unfold State.asRead
  repeat' first
    | with_reducible assumption
    | with_reducible intro t
    | with_reducible apply State.writeLine_walk h
    | with_reducible refine h.toRespects.foldl _ ?_ ?_
    | with_reducible refine h.toRespects.foldl_snd _ ?_ ?_
    | with_reducible refine h.toRespects.foldl_snd_snd _ ?_ ?_
    | dsimp only
    | split

theorem State.putLine_walk (h : RespectsLines R) (errs : List LineError) (dpa : Nat) (v : Line) (h0 : R s0 s) :
   R s0 (s.putLine errs dpa v).2 := by
  unfold State.putLine
  repeat' first
    | with_reducible assumption
    | with_reducible apply h.toRespects.ite
    | with_reducible apply State.logUe_walk h.toRespects
    | with_reducible apply State.writeLine_walk h
    | dsimp only
    | split

theorem State.putBytes_walk (h : RespectsLines R) (errs : List LineError) (dpa : Nat) (v : Line) (mask : Nat) (h0 : R s0 s) :
   R s0 (s.putBytes errs dpa v mask).2 := by
  unfold State.putBytes
  repeat' first
    | with_reducible assumption
    | with_reducible apply h.toRespects.ite
    | with_reducible apply State.putLine_walk h
    | with_reducible apply State.noteLine_walk h.toRespects
    | dsimp only
    | split

theorem State.setTableEntry_walk (h : Respects R) (slice q i : Nat) (v : Word) (h0 : R s0 s) :
    R s0 (s.setTableEntry slice q i v) :=
  h.onMem h0 rfl fun w => FMap.wfD_putD w _ _

theorem State.writeTable_walk (h : Respects R) (r : TableRec) (h0 : R s0 s) :
   R s0 (s.writeTable r) := by
  unfold State.writeTable
  repeat' first
    | with_reducible assumption
    | with_reducible intro t
    | with_reducible apply State.setTableEntry_walk h
    | with_reducible refine h.foldl _ ?_ ?_
    | with_reducible refine h.foldl_snd _ ?_ ?_
    | with_reducible refine h.foldl_snd_snd _ ?_ ?_

theorem State.writeVa_walk (h : RespectsLines R) (p : Nat) (va : Nat) (v : Line) (h0 : R s0 s) :
   R s0 (s.writeVa p va v) := by
  unfold State.writeVa
  repeat' first
    | with_reducible assumption
    | with_reducible apply h.toRespects.ite
    | with_reducible apply State.writeLine_walk h
    | dsimp only
    | split

theorem State.logWrite_walk (h : Respects R) (i : Nat) (dpa : Nat) (h0 : R s0 s) :
   R s0 (s.logWrite i dpa) := by
  unfold State.logWrite
  repeat' first
    | with_reducible assumption
    | with_reducible intro t
    | with_reducible apply h.ite
    | with_reducible apply State.onHost_walk h
    | dsimp only
    | split

theorem State.logPage_walk (h : Respects R) (i : Nat) (frame : Nat) (size : Nat) (h0 : R s0 s) :
   R s0 (s.logPage i frame size) := by
  unfold State.logPage
  repeat' first
    | with_reducible assumption
    | with_reducible intro t
    | with_reducible apply State.logWrite_walk h
    | with_reducible refine h.foldl _ ?_ ?_
    | with_reducible refine h.foldl_snd _ ?_ ?_
    | with_reducible refine h.foldl_snd_snd _ ?_ ?_

theorem State.logObject_walk (h : Respects R) (o : MemObj) (dpa : Nat) (h0 : R s0 s) :
   R s0 (s.logObject o dpa) := by
  unfold State.logObject
  repeat' first
    | with_reducible assumption
    | with_reducible intro t
    | with_reducible apply h.ite
    | with_reducible apply State.logWrite_walk h
    | with_reducible refine h.foldl _ ?_ ?_
    | with_reducible refine h.foldl_snd _ ?_ ?_
    | with_reducible refine h.foldl_snd_snd _ ?_ ?_
    | dsimp only
    | split

end Sys2Proof.Machine
end

