-- ==== Sys2Proof/Laws/WalkObjects.lean ====
section
/-! SUPPORT. What each operation of Machine/Objects.lean can do: it walks through the primitive changes of `Respects`. -/

set_option linter.unusedTactic false
set_option linter.unreachableTactic false

namespace Sys2Proof.Machine

variable {R : State → State → Prop} {s0 s : State}

theorem State.setObj_walk (h : Respects R) (slot : Nat) (o : MemObj) (h0 : R s0 s) :
   R s0 (s.setObj slot o) := by
  unfold State.setObj
  repeat' first
    | with_reducible assumption
    | with_reducible intro t
    | with_reducible apply State.onHost_walk h

theorem State.setFence_walk (h : Respects R) (slot : Nat) (f : Fence) (h0 : R s0 s) :
   R s0 (s.setFence slot f) := by
  unfold State.setFence
  repeat' first
    | with_reducible assumption
    | with_reducible intro t
    | with_reducible apply State.onHost_walk h

theorem State.setImage_walk (h : Respects R) (slot : Nat) (i : Image) (h0 : R s0 s) :
   R s0 (s.setImage slot i) := by
  unfold State.setImage
  repeat' first
    | with_reducible assumption
    | with_reducible intro t
    | with_reducible apply State.onHost_walk h

theorem State.destroyObj_walk (h : Respects R) (slot : Nat) (h0 : R s0 s) :
   R s0 (s.destroyObj slot) := by
  unfold State.destroyObj
  repeat' first
    | with_reducible assumption
    | with_reducible intro t
    | with_reducible apply State.onHost_walk h

theorem State.destroyFence_walk (h : Respects R) (slot : Nat) (h0 : R s0 s) :
   R s0 (s.destroyFence slot) := by
  unfold State.destroyFence
  repeat' first
    | with_reducible assumption
    | with_reducible intro t
    | with_reducible apply State.onHost_walk h

theorem State.destroyImage_walk (h : Respects R) (slot : Nat) (h0 : R s0 s) :
   R s0 (s.destroyImage slot) := by
  unfold State.destroyImage
  repeat' first
    | with_reducible assumption
    | with_reducible intro t
    | with_reducible apply State.onHost_walk h

theorem State.sweepObj_walk (h : Respects R) (slot : Nat) (h0 : R s0 s) :
   R s0 (s.sweepObj slot) := by
  unfold State.sweepObj
  repeat' first
    | with_reducible assumption
    | with_reducible apply h.ite
    | with_reducible apply State.destroyObj_walk h
    | dsimp only
    | split

theorem State.refObj_walk (h : Respects R) (slot : Nat) (soft : Nat) (hard : Nat) (h0 : R s0 s) :
   R s0 (s.refObj slot soft hard) := by
  unfold State.refObj
  repeat' first
    | with_reducible assumption
    | with_reducible apply State.setObj_walk h
    | dsimp only
    | split

theorem State.unrefObj_walk (h : Respects R) (slot : Nat) (soft : Nat) (hard : Nat) (h0 : R s0 s) :
   R s0 (s.unrefObj slot soft hard) := by
  unfold State.unrefObj
  repeat' first
    | with_reducible assumption
    | with_reducible apply State.setObj_walk h
    | with_reducible apply State.sweepObj_walk h
    | dsimp only
    | split

theorem State.unrefFence_walk (h : Respects R) (slot : Nat) (h0 : R s0 s) :
   R s0 (s.unrefFence slot) := by
  unfold State.unrefFence
  repeat' first
    | with_reducible assumption
    | with_reducible apply h.ite
    | with_reducible apply State.destroyFence_walk h
    | with_reducible apply State.setFence_walk h
    | dsimp only
    | split

theorem State.endSession_walk (h : Respects R) (p : Nat) (valid : Bool) (h0 : R s0 s) : R s0 (s.endSession p valid) := by
  unfold State.endSession
  split
  · exact h0
  · dsimp only
    have ht := State.onPlant_walk h (fun x => { x with sec := { x.sec with unseals := x.sec.unseals.drop p } }) h0
    split
    · exact State.setObj_walk h _ _ ht
    · exact ht

theorem State.dropSession_walk (h : Respects R) (p : Nat) (h0 : R s0 s) :
   R s0 (s.dropSession p) := by
  unfold State.dropSession
  repeat' first
    | with_reducible assumption
    | with_reducible apply State.endSession_walk h

theorem State.freeObj_walk (h : Respects R) (slot : Nat) (h0 : R s0 s) :
   R s0 (s.freeObj slot).2 := by
  unfold State.freeObj
  repeat' first
    | with_reducible assumption
    | with_reducible apply h.ite
    | with_reducible apply State.destroyObj_walk h
    | with_reducible apply State.setObj_walk h
    | dsimp only
    | split

theorem State.freeFence_walk (h : Respects R) (slot : Nat) (h0 : R s0 s) :
   R s0 (s.freeFence slot).2 := by
  unfold State.freeFence
  repeat' first
    | with_reducible assumption
    | with_reducible apply h.ite
    | with_reducible apply State.destroyFence_walk h
    | with_reducible apply State.setFence_walk h
    | dsimp only
    | split

theorem State.signal_walk (h : Respects R) (h_ : Handle) (value : Nat) (h0 : R s0 s) :
   R s0 (s.signal h_ value).2 := by
  unfold State.signal
  repeat' first
    | with_reducible assumption
    | with_reducible apply h.ite
    | with_reducible apply State.setFence_walk h
    | with_reducible apply State.event_walk h
    | dsimp only
    | split

theorem State.dropBlocks_walk (h : Respects R) (p : Nat) (seq : Nat) (h0 : R s0 s) :
   R s0 (s.dropBlocks p seq) := by
  unfold State.dropBlocks
  repeat' first
    | with_reducible assumption
    | with_reducible intro t
    | with_reducible apply State.onHost_walk h
    | dsimp only
    | split

theorem State.settleBlocks_walk (h : Respects R) (p : Nat) (seq : Nat) (frees : List Nat) (h0 : R s0 s) :
   R s0 (s.settleBlocks p seq frees) := by
  unfold State.settleBlocks
  repeat' first
    | with_reducible assumption
    | with_reducible intro t
    | with_reducible apply h.ite
    | with_reducible apply State.onHost_walk h
    | dsimp only
    | split

end Sys2Proof.Machine
end

