-- ==== Sys2Proof/Laws/WalkTileEngine.lean ====
section
/-! SUPPORT. What each operation of Machine/TileEngine.lean can do: it walks through the primitive changes of `Respects`. -/

set_option linter.unusedTactic false
set_option linter.unreachableTactic false

namespace Sys2Proof.Machine

variable {R : State → State → Prop} {s0 s : State}

theorem State.setTile_walk (h : Respects R) (sl : Nat) (ti : Nat) (t : Tile) (h0 : R s0 s) :
   R s0 (s.setTile sl ti t) := by
  unfold State.setTile
  repeat' first
    | with_reducible assumption
    | with_reducible refine h.sides ?_

theorem State.setCluster_walk (h : Respects R) (sl : Nat) (c : ClusterStore) (h0 : R s0 s) :
   R s0 (s.setCluster sl c) := by
  unfold State.setCluster
  repeat' first
    | with_reducible assumption
    | with_reducible refine h.sides ?_

theorem State.bundleFault_walk (h : Respects R) (sl : Nat) (ti : Nat) (slot : Nat) (bundle : Nat) (cause : Nat) (h0 : R s0 s) :
   R s0 (s.bundleFault sl ti slot bundle cause) := by
  unfold State.bundleFault
  repeat' first
    | with_reducible assumption
    | with_reducible apply h.ite
    | with_reducible apply State.raise_walk h
    | with_reducible apply State.set_walk h
    | dsimp only
    | split

theorem State.vecFlags_walk (h : Respects R) (sl : Nat) (ti : Nat) (flags : Nat) (h0 : R s0 s) :
   R s0 (s.vecFlags sl ti flags) := by
  unfold State.vecFlags
  repeat' first
    | with_reducible assumption
    | with_reducible apply h.ite
    | with_reducible apply State.raise_walk h
    | dsimp only
    | split

theorem State.tileTick_walk (h : Respects R) (sl : Nat) (ti : Nat) (tick : Nat) (fetches : List (Nat × Nat)) (clash : TileAccess → Bool) (lost : Nat) (h0 : R s0 s) :
   R s0 (s.tileTick sl ti tick fetches clash lost).2 := by
  unfold State.tileTick
  repeat' first
    | with_reducible assumption
    | with_reducible intro t
    | with_reducible apply h.ite
    | with_reducible apply State.count_walk h
    | with_reducible apply State.raise_walk h
    | with_reducible apply State.vecFlags_walk h
    | with_reducible apply State.bundleFault_walk h
    | with_reducible apply State.setCluster_walk h
    | with_reducible apply State.setTile_walk h
    | with_reducible refine h.foldl _ ?_ ?_
    | with_reducible refine h.foldl_snd _ ?_ ?_
    | with_reducible refine h.foldl_snd_snd _ ?_ ?_
    | dsimp only
    | split

theorem State.setTileBusy_walk (h : Respects R) (sl : Nat) (ti : Nat) (b : Bool) (h0 : R s0 s) :
   R s0 (s.setTileBusy sl ti b) := by
  unfold State.setTileBusy
  repeat' first
    | with_reducible assumption
    | with_reducible apply h.ite
    | with_reducible apply State.set_walk h
    | with_reducible apply State.setTile_walk h
    | dsimp only
    | split

theorem State.startTile_walk (h : Respects R) (sl : Nat) (ti : Nat) (first : Nat) (h0 : R s0 s) :
   R s0 (s.startTile sl ti first) := by
  unfold State.startTile
  repeat' first
    | with_reducible assumption
    | with_reducible intro t
    | with_reducible apply State.setTile_walk h
    | with_reducible apply State.setTileBusy_walk h

end Sys2Proof.Machine
end

