-- ==== Sys2Proof/Laws/WalkTicks.lean ====
section
/-! SUPPORT. What each operation of Machine/Ticks.lean can do: it walks through the primitive changes of `Respects`. -/

set_option linter.unusedTactic false
set_option linter.unreachableTactic false

namespace Sys2Proof.Machine

variable {R : State → State → Prop} {s0 s : State}

theorem State.setSeg_walk (h : Respects R) (p : Nat) (r : SegRun) (h0 : R s0 s) :
   R s0 (s.setSeg p r) := by
  unfold State.setSeg
  repeat' first
    | with_reducible assumption
    | with_reducible intro t
    | with_reducible apply State.onEngines_walk h

theorem State.countTick_walk (h : Respects R) (sl : Nat) (tick : Nat) (g : Nat) (h0 : R s0 s) :
   R s0 (s.countTick sl tick g) := by
  unfold State.countTick
  repeat' first
    | with_reducible assumption
    | with_reducible apply State.count_walk h

theorem State.portWrite_walk (h : Respects R) (us : List BankUse) (w : PortWrite) (h0 : R s0 s) :
   R s0 (s.portWrite us w) := by
  unfold State.portWrite
  repeat' first
    | with_reducible assumption
    | with_reducible intro t
    | with_reducible apply h.ite
    | with_reducible apply State.setTile_walk h
    | with_reducible apply State.setCluster_walk h
    | with_reducible refine h.foldl _ ?_ ?_
    | with_reducible refine h.foldl_snd _ ?_ ?_
    | with_reducible refine h.foldl_snd_snd _ ?_ ?_
    | with_reducible refine h.onMem ?_ rfl id
    | dsimp only
    | split

theorem State.runTile_walk (h : Respects R) (sl : Nat) (ti : Nat) (tick : Nat) (lost : Nat) (us : List BankUse) (h0 : R s0 s) :
   R s0 (s.runTile sl ti tick lost us).2 := by
  unfold State.runTile
  repeat' first
    | with_reducible assumption
    | with_reducible intro t
    | with_reducible apply h.ite
    | with_reducible apply State.bundleFault_walk h
    | with_reducible apply State.count_walk h
    | with_reducible apply State.tileTick_walk h
    | with_reducible apply State.setTile_walk h
    | with_reducible apply State.setTileBusy_walk h
    | dsimp only
    | split

theorem State.sliceTick_walk (h : Respects R) (sl : Nat) (tick : Nat) (reads : List BankUse) (writes : List PortWrite) (h0 : R s0 s) :
   R s0 (s.sliceTick sl tick reads writes).2.2 := by
  unfold State.sliceTick
  repeat' first
    | with_reducible assumption
    | with_reducible intro t
    | with_reducible apply h.ite
    | with_reducible apply State.runTile_walk h
    | with_reducible apply State.portWrite_walk h
    | with_reducible refine h.foldl _ ?_ ?_
    | with_reducible refine h.foldl_snd _ ?_ ?_
    | with_reducible refine h.foldl_snd_snd _ ?_ ?_
    | with_reducible refine h.trans ?_ (h.drawn _ 1)
    | with_reducible refine h.sides ?_
    | dsimp only
    | split

theorem State.tickSlices_walk (h : Respects R) (slices : List Nat) (tick : Nat) (reads : List (Nat × BankUse)) (writes : List PortWrite) (h0 : R s0 s) :
   R s0 (s.tickSlices slices tick reads writes).2.2 := by
  unfold State.tickSlices
  repeat' first
    | with_reducible assumption
    | with_reducible intro t
    | with_reducible apply State.sliceTick_walk h
    | with_reducible refine h.foldl _ ?_ ?_
    | with_reducible refine h.foldl_snd _ ?_ ?_
    | with_reducible refine h.foldl_snd_snd _ ?_ ?_

theorem State.drainSeg_walk (h : Respects R) (p : Nat) (slices : List Nat) (k : Nat) (h0 : R s0 s) :
    R s0 (State.drainSeg p slices k s) := by
  induction k generalizing s with
  | zero => exact h0
  | succ k ih =>
    unfold State.drainSeg
    split
    · exact h0
    · split
      · exact h0
      · exact ih (State.setSeg_walk h _ _ (State.tickSlices_walk h _ _ _ _ h0))

theorem State.haltTile_walk (h : Respects R) (sl : Nat) (ti : Nat) (h0 : R s0 s) :
   R s0 (s.haltTile sl ti) := by
  unfold State.haltTile
  repeat' first
    | with_reducible assumption
    | with_reducible intro t
    | with_reducible apply h.ite
    | with_reducible apply State.setTile_walk h
    | with_reducible apply State.setTileBusy_walk h
    | dsimp only
    | split

theorem State.haltTiles_walk (h : Respects R) (slices : List Nat) (h0 : R s0 s) :
   R s0 (s.haltTiles slices) := by
  unfold State.haltTiles
  repeat' first
    | with_reducible assumption
    | with_reducible intro t
    | with_reducible apply State.haltTile_walk h
    | with_reducible refine h.foldl _ ?_ ?_
    | with_reducible refine h.foldl_snd _ ?_ ?_
    | with_reducible refine h.foldl_snd_snd _ ?_ ?_

theorem State.stopTiles_walk (h : Respects R) (p : Nat) (slices : List Nat) (h0 : R s0 s) :
   R s0 (s.stopTiles p slices) := by
  unfold State.stopTiles
  repeat' first
    | with_reducible assumption
    | with_reducible apply State.haltTiles_walk h
    | with_reducible apply State.setSeg_walk h
    | with_reducible apply State.drainSeg_walk h
    | dsimp only
    | split

end Sys2Proof.Machine
end

