-- ==== Sys2Proof/Laws/WalkPlace.lean ====
section
/-! SUPPORT. What each operation of Machine/Place.lean can do: it walks through the primitive changes of `Respects`. -/

set_option linter.unusedTactic false
set_option linter.unreachableTactic false

namespace Sys2Proof.Machine

variable {R : State → State → Prop} {s0 s : State}

theorem State.onPins_walk (h : Respects R) (f : Pins → Pins) (h0 : R s0 s) :
   R s0 (s.onPins f) := by
  unfold State.onPins
  repeat' first
    | with_reducible assumption
    | with_reducible intro t
    | with_reducible apply State.onPlant_walk h

theorem State.onPower_walk (h : Respects R) (f : PowerState → PowerState) (h0 : R s0 s) :
   R s0 (s.onPower f) := by
  unfold State.onPower
  repeat' first
    | with_reducible assumption
    | with_reducible intro t
    | with_reducible apply State.onPlant_walk h

theorem State.onClock_walk (h : Respects R) (f : ClockState → ClockState) (h0 : R s0 s) :
   R s0 (s.onClock f) := by
  unfold State.onClock
  repeat' first
    | with_reducible assumption
    | with_reducible intro t
    | with_reducible apply State.onPlant_walk h

theorem State.onSec_walk (h : Respects R) (f : SecState → SecState) (h0 : R s0 s) :
   R s0 (s.onSec f) := by
  unfold State.onSec
  repeat' first
    | with_reducible assumption
    | with_reducible intro t
    | with_reducible apply State.onPlant_walk h

theorem State.onBoot_walk (h : Respects R) (f : BootState → BootState) (h0 : R s0 s) :
   R s0 (s.onBoot f) := by
  unfold State.onBoot
  repeat' first
    | with_reducible assumption
    | with_reducible intro t
    | with_reducible apply State.onPlant_walk h

theorem State.onSide_walk (h : Respects R) (f : SideState → SideState) (h0 : R s0 s) :
   R s0 (s.onSide f) := by
  unfold State.onSide
  repeat' first
    | with_reducible assumption
    | with_reducible intro t
    | with_reducible apply State.onPlant_walk h

theorem State.onBus_walk (h : Respects R) (f : BusState → BusState) (h0 : R s0 s) :
   R s0 (s.onBus f) := by
  unfold State.onBus
  repeat' first
    | with_reducible assumption
    | with_reducible intro t
    | with_reducible apply State.onPlant_walk h

theorem State.setEngine_walk (h : Respects R) (e : Nat) (x : Engine) (h0 : R s0 s) :
   R s0 (s.setEngine e x) := by
  unfold State.setEngine
  repeat' first
    | with_reducible assumption
    | with_reducible intro t
    | with_reducible apply State.onEngines_walk h

theorem State.setNode_walk (h : Respects R) (n : Nat) (x : Node) (h0 : R s0 s) :
   R s0 (s.setNode n x) := by
  unfold State.setNode
  repeat' first
    | with_reducible assumption
    | with_reducible intro t
    | with_reducible apply State.onEngines_walk h

theorem State.setSeqr_walk (h : Respects R) (sl : Nat) (x : Sequencer) (h0 : R s0 s) :
   R s0 (s.setSeqr sl x) := by
  unfold State.setSeqr
  repeat' first
    | with_reducible assumption
    | with_reducible intro t
    | with_reducible apply State.onEngines_walk h

theorem State.setLocalLine_walk (h : Respects R) (sl : Nat) (l : Nat) (v : Line) (h0 : R s0 s) :
   R s0 (s.setLocalLine sl l v) := by
  unfold State.setLocalLine
  repeat' first
    | with_reducible assumption
    | with_reducible apply State.setSeqr_walk h

theorem State.settleDs_walk (h : Respects R) (h0 : R s0 s) :
    R s0 (s.settleDs) := by
  unfold State.settleDs
  repeat' first
    | with_reducible assumption
    | with_reducible intro t
    | with_reducible apply h.ite
    | with_reducible apply State.set_walk h
    | dsimp only
    | split

theorem State.exitSp4_walk (h : Respects R) (sl : Nat) (h0 : R s0 s) :
   R s0 (s.exitSp4 sl) := by
  unfold State.exitSp4
  repeat' first
    | with_reducible assumption
    | with_reducible intro t
    | with_reducible apply State.dropFields_walk h
    | with_reducible apply State.set_walk h
    | with_reducible apply State.setTile_walk h
    | with_reducible apply State.setCluster_walk h
    | with_reducible apply State.setSeqr_walk h
    | with_reducible apply State.setEvc_walk h
    | with_reducible refine h.foldl _ ?_ ?_
    | with_reducible refine h.foldl_snd _ ?_ ?_
    | with_reducible refine h.foldl_snd_snd _ ?_ ?_

theorem State.setSlicePower_walk (h : Respects R) (sl : Nat) (st : Nat) (h0 : R s0 s) :
   R s0 (s.setSlicePower sl st) := by
  unfold State.setSlicePower
  repeat' first
    | with_reducible assumption
    | with_reducible intro t
    | with_reducible apply h.ite
    | with_reducible apply State.set_walk h
    | with_reducible apply State.exitSp4_walk h
    | with_reducible apply State.setChannel_walk h
    | with_reducible apply State.settleDs_walk h
    | with_reducible refine h.foldl _ ?_ ?_
    | with_reducible refine h.foldl_snd _ ?_ ?_
    | with_reducible refine h.foldl_snd_snd _ ?_ ?_
    | dsimp only
    | split

theorem State.notePages_walk (h : Respects R) (pages : List Nat) (owner : Option Nat) (h0 : R s0 s) : R s0 (s.notePages pages owner) :=
  h.ite h0 (State.onBus_walk h _ h0)

theorem State.setOwner_walk (h : Respects R) (slices : List Nat) (chans : List Nat) (owner : Option Nat) (h0 : R s0 s) :
   R s0 (s.setOwner slices chans owner) := by
  unfold State.setOwner
  repeat' first
    | with_reducible assumption
    | with_reducible intro t
    | with_reducible apply h.ite
    | with_reducible apply State.notePages_walk h
    | with_reducible apply State.set_walk h
    | with_reducible refine h.foldl _ ?_ ?_
    | with_reducible refine h.foldl_snd _ ?_ ?_
    | with_reducible refine h.foldl_snd_snd _ ?_ ?_
    | dsimp only
    | split

theorem State.toPool_walk (h : Respects R) (slices : Nat) (sets : Nat) (h0 : R s0 s) :
   R s0 (s.toPool slices sets) := by
  unfold State.toPool
  repeat' first
    | with_reducible assumption
    | with_reducible intro t
    | with_reducible apply State.setBits_walk h
    | with_reducible apply State.setOwner_walk h
    | with_reducible apply State.setSlicePower_walk h
    | with_reducible apply State.setChannel_walk h
    | with_reducible refine h.foldl _ ?_ ?_
    | with_reducible refine h.foldl_snd _ ?_ ?_
    | with_reducible refine h.foldl_snd_snd _ ?_ ?_

end Sys2Proof.Machine
end

