-- ==== Sys2Proof/Laws/WalkTerms.lean ====
section
/-! SUPPORT. What each operation of Machine/Terms.lean can do: it walks through the primitive changes of `Respects`. -/

set_option linter.unusedTactic false
set_option linter.unreachableTactic false

namespace Sys2Proof.Machine

variable {R : State → State → Prop} {s0 s : State}

theorem State.setMember_walk (h : Respects R) (p : Nat) (m : Membership) (h0 : R s0 s) :
   R s0 (s.setMember p m) := by
  unfold State.setMember
  repeat' first
    | with_reducible assumption
    | with_reducible intro t
    | with_reducible apply State.onNet_walk h

theorem State.hubWalks_walk (h : Respects R) (p : Nat) (va : Nat) (n : Nat) (h0 : R s0 s) :
   R s0 (s.hubWalks p va n) := by
  unfold State.hubWalks
  repeat' first
    | with_reducible assumption
    | with_reducible intro t
    | with_reducible apply State.bump_walk h
    | with_reducible refine h.foldl _ ?_ ?_
    | with_reducible refine h.foldl_snd _ ?_ ?_
    | with_reducible refine h.foldl_snd_snd _ ?_ ?_
    | dsimp only
    | split

end Sys2Proof.Machine
end

