-- ==== Sys2Proof/Laws/WalkLine.lean ====
section
/-! SUPPORT. What each operation of Machine/Line.lean can do: it walks through the primitive changes of `Respects`. -/

set_option linter.unusedTactic false
set_option linter.unreachableTactic false

namespace Sys2Proof.Machine

variable {R : State → State → Prop} {s0 s : State}

theorem State.placeItem_walk (h : Respects R) (p : Nat) (k : ItemKind) (duration : Nat) (h0 : R s0 s) :
   R s0 (s.placeItem p k duration) := by
  unfold State.placeItem
  repeat' first
    | with_reducible assumption
    | with_reducible apply State.setLine_walk h

theorem State.setSlices_walk (h : Respects R) (f : Field) (slices : List Nat) (v : Nat) (h0 : R s0 s) :
   R s0 (s.setSlices f slices v) := by
  unfold State.setSlices
  repeat' first
    | with_reducible assumption
    | with_reducible intro t
    | with_reducible apply State.set_walk h
    | with_reducible refine h.foldl _ ?_ ?_
    | with_reducible refine h.foldl_snd _ ?_ ?_
    | with_reducible refine h.foldl_snd_snd _ ?_ ?_

theorem State.useRegions_walk (h : Respects R) (d : Line) (h0 : R s0 s) :
   R s0 (s.useRegions d) := by
  unfold State.useRegions
  repeat' first
    | with_reducible assumption
    | with_reducible intro t
    | with_reducible apply State.setEngine_walk h
    | with_reducible refine h.foldl _ ?_ ?_
    | with_reducible refine h.foldl_snd _ ?_ ?_
    | with_reducible refine h.foldl_snd_snd _ ?_ ?_

theorem State.sweepRegion_walk (h : Respects R) (e : Nat) (n : Nat) (h0 : R s0 s) :
   R s0 (s.sweepRegion e n) := by
  unfold State.sweepRegion
  repeat' first
    | with_reducible assumption
    | with_reducible apply h.ite
    | with_reducible apply State.setEngine_walk h
    | with_reducible apply State.unrefObj_walk h
    | dsimp only
    | split

theorem State.unuseRegions_walk (h : Respects R) (d : Line) (h0 : R s0 s) :
   R s0 (s.unuseRegions d) := by
  unfold State.unuseRegions
  repeat' first
    | with_reducible assumption
    | with_reducible intro t
    | with_reducible apply State.setEngine_walk h
    | with_reducible apply State.sweepRegion_walk h
    | with_reducible refine h.foldl _ ?_ ?_
    | with_reducible refine h.foldl_snd _ ?_ ?_
    | with_reducible refine h.foldl_snd_snd _ ?_ ?_

theorem State.dropEntries_walk (h : Respects R) (gone : OpenEntry → Bool) (h0 : R s0 s) :
   R s0 (s.dropEntries gone) := by
  unfold State.dropEntries
  repeat' first
    | with_reducible assumption
    | with_reducible intro t
    | with_reducible apply State.unuseRegions_walk h
    | with_reducible refine h.foldl _ ?_ ?_
    | with_reducible refine h.foldl_snd _ ?_ ?_
    | with_reducible refine h.foldl_snd_snd _ ?_ ?_
    | with_reducible refine h.sides ?_

theorem State.stopPlanish_walk (h : Respects R) (p : Nat) (h0 : R s0 s) :
   R s0 (s.stopPlanish p) := by
  unfold State.stopPlanish
  repeat' first
    | with_reducible assumption
    | with_reducible intro t
    | with_reducible apply h.ite
    | with_reducible apply State.dropEntries_walk h
    | with_reducible apply State.set_walk h
    | with_reducible refine h.foldl _ ?_ ?_
    | with_reducible refine h.foldl_snd _ ?_ ?_
    | with_reducible refine h.foldl_snd_snd _ ?_ ?_
    | with_reducible refine h.sides ?_
    | dsimp only
    | split

theorem State.noteDiscard_walk (h : Respects R) (sl : Nat) (k : Nat) (h0 : R s0 s) :
   R s0 (s.noteDiscard sl k) := by
  unfold State.noteDiscard
  repeat' first
    | with_reducible assumption
    | with_reducible apply State.set_walk h

theorem State.discardUnits_walk (h : Respects R) (p : Nat) (h0 : R s0 s) :
   R s0 (s.discardUnits p) := by
  unfold State.discardUnits
  repeat' first
    | with_reducible assumption
    | with_reducible intro t
    | with_reducible apply h.ite
    | with_reducible apply State.noteDiscard_walk h
    | with_reducible refine h.foldl _ ?_ ?_
    | with_reducible refine h.foldl_snd _ ?_ ?_
    | with_reducible refine h.foldl_snd_snd _ ?_ ?_
    | dsimp only
    | split

theorem State.dropFlows_walk (h : Respects R) (p : Nat) (h0 : R s0 s) :
   R s0 (s.dropFlows p) := by
  unfold State.dropFlows
  repeat' first
    | with_reducible assumption
    | with_reducible intro t
    | with_reducible apply State.onEngines_walk h
    | with_reducible refine h.onMem ?_ rfl id

theorem State.stopUnits_walk (h : Respects R) (p : Nat) (h0 : R s0 s) :
   R s0 (s.stopUnits p) := by
  unfold State.stopUnits
  repeat' first
    | with_reducible assumption
    | with_reducible intro t
    | with_reducible apply State.stopPlanish_walk h
    | with_reducible apply State.setSlices_walk h
    | with_reducible apply State.stopTiles_walk h
    | with_reducible apply State.discardUnits_walk h
    | with_reducible apply State.dropFlows_walk h
    | with_reducible apply State.onNet_walk h

theorem State.endSeg_walk (h : Respects R) (p : Nat) (h0 : R s0 s) :
   R s0 (s.endSeg p) := by
  unfold State.endSeg
  repeat' first
    | with_reducible assumption
    | with_reducible intro t
    | with_reducible apply State.onEngines_walk h
    | with_reducible refine h.foldl _ ?_ ?_
    | with_reducible refine h.foldl_snd _ ?_ ?_
    | with_reducible refine h.foldl_snd_snd _ ?_ ?_
    | dsimp only
    | split

theorem State.emptyQueues_walk (h : Respects R) (p : Nat) (h0 : R s0 s) :
   R s0 (s.emptyQueues p) := by
  unfold State.emptyQueues
  repeat' first
    | with_reducible assumption
    | with_reducible intro t
    | with_reducible apply h.ite
    | with_reducible apply State.set_walk h
    | with_reducible apply State.onNet_walk h
    | with_reducible apply State.emit_walk h
    | with_reducible refine h.foldl _ ?_ ?_
    | with_reducible refine h.foldl_snd _ ?_ ?_
    | with_reducible refine h.foldl_snd_snd _ ?_ ?_
    | dsimp only
    | split

theorem State.idleUnits_walk (h : Respects R) (p : Nat) (h0 : R s0 s) :
   R s0 (s.idleUnits p) := by
  unfold State.idleUnits
  repeat' first
    | with_reducible assumption
    | with_reducible intro t
    | with_reducible apply h.ite
    | with_reducible apply State.endSeg_walk h
    | with_reducible apply State.dropFlows_walk h
    | with_reducible apply State.setSlices_walk h
    | with_reducible apply State.onNet_walk h
    | with_reducible apply State.setLine_walk h
    | with_reducible refine h.onMem ?_ rfl id
    | dsimp only
    | split

theorem State.holdRefs_walk (h : Respects R) (c : Cmd) (h0 : R s0 s) :
   R s0 (s.holdRefs c) := by
  unfold State.holdRefs
  repeat' first
    | with_reducible assumption
    | with_reducible intro t
    | with_reducible apply h.ite
    | with_reducible apply State.setObj_walk h
    | with_reducible apply State.setFence_walk h
    | with_reducible apply State.setImage_walk h
    | with_reducible refine h.foldl _ ?_ ?_
    | with_reducible refine h.foldl_snd _ ?_ ?_
    | with_reducible refine h.foldl_snd_snd _ ?_ ?_
    | dsimp only
    | split

theorem State.unrefImage_walk (h : Respects R) (k : Nat) (h0 : R s0 s) :
   R s0 (s.unrefImage k) := by
  unfold State.unrefImage
  repeat' first
    | with_reducible assumption
    | with_reducible apply h.ite
    | with_reducible apply State.setImage_walk h
    | with_reducible apply State.placeItem_walk h
    | dsimp only
    | split

theorem State.dropRefs_walk (h : Respects R) (c : Cmd) (released : Bool) (h0 : R s0 s) :
   R s0 (s.dropRefs c released) := by
  unfold State.dropRefs
  repeat' first
    | with_reducible assumption
    | with_reducible intro t
    | with_reducible apply h.ite
    | with_reducible apply State.setObj_walk h
    | with_reducible apply State.sweepObj_walk h
    | with_reducible apply State.unrefFence_walk h
    | with_reducible apply State.unrefImage_walk h
    | with_reducible refine h.foldl _ ?_ ?_
    | with_reducible refine h.foldl_snd _ ?_ ?_
    | with_reducible refine h.foldl_snd_snd _ ?_ ?_
    | dsimp only
    | split

theorem State.trimStore_walk (h : Respects R) (p : Nat) (q : Nat) (limit : Nat) (h0 : R s0 s) :
   R s0 (s.trimStore p q limit) := by
  unfold State.trimStore
  repeat' first
    | with_reducible assumption
    | with_reducible intro t
    | with_reducible apply h.ite
    | with_reducible refine h.onMem ?_ rfl id
    | dsimp only
    | split

theorem State.releaseStore_walk (h : Respects R) (p : Nat) (c : Cmd) (h0 : R s0 s) :
   R s0 (s.releaseStore p c) := by
  unfold State.releaseStore
  repeat' first
    | with_reducible assumption
    | with_reducible intro t
    | with_reducible apply h.ite
    | with_reducible apply State.trimStore_walk h
    | with_reducible refine h.foldl _ ?_ ?_
    | with_reducible refine h.foldl_snd _ ?_ ?_
    | with_reducible refine h.foldl_snd_snd _ ?_ ?_
    | with_reducible refine h.onMem ?_ rfl id
    | dsimp only
    | split

theorem State.emptyRings_walk (h : Respects R) (i : Nat) (h0 : R s0 s) :
   R s0 (s.emptyRings i) := by
  unfold State.emptyRings
  repeat' first
    | with_reducible assumption
    | with_reducible intro t
    | with_reducible apply h.ite
    | with_reducible apply State.onHost_walk h
    | dsimp only
    | split

theorem State.settleInst_walk (h : Respects R) (i : Nat) (h0 : R s0 s) :
   R s0 (s.settleInst i) := by
  unfold State.settleInst
  repeat' first
    | with_reducible assumption
    | with_reducible intro t
    | with_reducible apply h.ite
    | with_reducible apply State.emptyRings_walk h
    | with_reducible apply State.setInst_walk h
    | with_reducible apply State.complete_walk h
    | with_reducible apply State.onHost_walk h
    | with_reducible apply State.set_walk h
    | with_reducible apply State.freeObj_walk h
    | with_reducible refine h.foldl _ ?_ ?_
    | with_reducible refine h.foldl_snd _ ?_ ?_
    | with_reducible refine h.foldl_snd_snd _ ?_ ?_
    | dsimp only
    | split

theorem State.endTaken_walk (h : Respects R) (c : Cmd) (h0 : R s0 s) :
   R s0 (s.endTaken c) := by
  unfold State.endTaken
  repeat' first
    | with_reducible assumption
    | with_reducible apply h.ite
    | with_reducible apply State.setQueue_walk h
    | dsimp only
    | split

theorem State.postFinal_walk (h : Respects R) (p : Nat) (c : Cmd) (e : CplEntry) (h0 : R s0 s) :
   R s0 (s.postFinal p c e) := by
  unfold State.postFinal
  repeat' first
    | with_reducible assumption
    | with_reducible apply h.ite
    | with_reducible apply State.emit_walk h
    | with_reducible apply State.postCq_walk h
    | with_reducible apply State.endTaken_walk h
    | with_reducible apply State.settleInst_walk h
    | dsimp only
    | split

theorem State.release_walk (h : Respects R) (p : Nat) (c : Cmd) (h0 : R s0 s) :
   R s0 (s.release p c) := by
  unfold State.release
  repeat' first
    | with_reducible assumption
    | with_reducible apply h.ite
    | with_reducible apply State.signal_walk h
    | with_reducible apply State.dropRefs_walk h
    | with_reducible apply State.count_walk h
    | with_reducible apply State.postFinal_walk h
    | dsimp only
    | split

theorem State.voidPromise_walk (h : Respects R) (p : Nat) (cause : Cause) (h0 : R s0 s) :
   R s0 (s.voidPromise p cause) := by
  unfold State.voidPromise
  repeat' first
    | with_reducible assumption
    | with_reducible apply State.bump_walk h
    | with_reducible apply State.set_walk h
    | with_reducible apply State.event_walk h

theorem State.withdraw_walk (h : Respects R) (p : Nat) (c : Cmd) (cause : Cause) (h0 : R s0 s) :
   R s0 (s.withdraw p c cause) := by
  unfold State.withdraw
  repeat' first
    | with_reducible assumption
    | with_reducible apply h.ite
    | with_reducible apply State.postCq_walk h
    | with_reducible apply State.bump_walk h
    | with_reducible apply State.set_walk h
    | with_reducible apply State.event_walk h
    | dsimp only
    | split

theorem State.finishKill_walk (h : Respects R) (p : Nat) (k : Cmd × Ending) (h0 : R s0 s) :
   R s0 (s.finishKill p k) := by
  unfold State.finishKill
  repeat' first
    | with_reducible assumption
    | with_reducible apply State.dropBlocks_walk h
    | with_reducible apply State.releaseStore_walk h
    | with_reducible apply State.dropRefs_walk h
    | with_reducible apply State.count_walk h
    | with_reducible apply State.postFinal_walk h
    | dsimp only
    | split

theorem State.killCmds_walk (h : Respects R) (p : Nat) (ks : List (Cmd × Ending)) (h0 : R s0 s) :
   R s0 (s.killCmds p ks) := by
  unfold State.killCmds
  repeat' first
    | with_reducible assumption
    | with_reducible intro t
    | with_reducible apply h.ite
    | with_reducible apply State.setLine_walk h
    | with_reducible apply State.stopUnits_walk h
    | with_reducible apply State.finishKill_walk h
    | with_reducible refine h.foldl _ ?_ ?_
    | with_reducible refine h.foldl_snd _ ?_ ?_
    | with_reducible refine h.foldl_snd_snd _ ?_ ?_
    | dsimp only
    | split

theorem State.killWith_walk (h : Respects R) (p : Nat) (ks : List (Cmd × Ending)) (h0 : R s0 s) :
   R s0 (s.killWith p ks) := by
  unfold State.killWith
  repeat' first
    | with_reducible assumption
    | with_reducible apply State.killCmds_walk h

theorem State.killOne_walk (h : Respects R) (p : Nat) (c : Cmd) (e : Ending) (h0 : R s0 s) :
   R s0 (s.killOne p c e) := by
  unfold State.killOne
  repeat' first
    | with_reducible assumption
    | with_reducible apply State.killWith_walk h

theorem State.voidAll_walk (h : Respects R) (p : Nat) (cause : Cause) (ks : List (Cmd × Ending)) (h0 : R s0 s) :
   R s0 (s.voidAll p cause ks) := by
  unfold State.voidAll
  repeat' first
    | with_reducible assumption
    | with_reducible intro t
    | with_reducible apply h.ite
    | with_reducible apply State.voidPromise_walk h
    | with_reducible apply State.killCmds_walk h
    | with_reducible refine h.foldl _ ?_ ?_
    | with_reducible refine h.foldl_snd _ ?_ ?_
    | with_reducible refine h.foldl_snd_snd _ ?_ ?_
    | dsimp only
    | split

theorem State.freeImageBlocks_walk (h : Respects R) (im : Image) (h0 : R s0 s) :
   R s0 (s.freeImageBlocks im) := by
  unfold State.freeImageBlocks
  repeat' first
    | with_reducible assumption
    | with_reducible intro t
    | with_reducible apply State.setNode_walk h
    | with_reducible refine h.foldl _ ?_ ?_
    | with_reducible refine h.foldl_snd _ ?_ ?_
    | with_reducible refine h.foldl_snd_snd _ ?_ ?_

theorem State.cancelItem_walk (h : Respects R) (p : Nat) (cause : Cause) (it : Item) (h0 : R s0 s) :
   R s0 (s.cancelItem p cause it) := by
  unfold State.cancelItem
  repeat' first
    | with_reducible assumption
    | with_reducible intro t
    | with_reducible apply h.ite
    | with_reducible apply State.freeImageBlocks_walk h
    | with_reducible apply State.destroyImage_walk h
    | with_reducible apply State.unrefObj_walk h
    | with_reducible apply State.complete_walk h
    | with_reducible apply State.setImage_walk h
    | with_reducible apply State.dropEntries_walk h
    | with_reducible apply State.toPool_walk h
    | with_reducible apply State.set_walk h
    | with_reducible refine h.foldl _ ?_ ?_
    | with_reducible refine h.foldl_snd _ ?_ ?_
    | with_reducible refine h.foldl_snd_snd _ ?_ ?_
    | dsimp only
    | split

theorem State.rankKilled_walk (h : Respects R) (p : Nat) (cause : Cause) (code : Nat) (h0 : R s0 s) :
   R s0 (s.rankKilled p cause code) := by
  unfold State.rankKilled
  repeat' first
    | with_reducible assumption
    | with_reducible intro t
    | with_reducible apply h.ite
    | with_reducible apply State.setLine_walk h
    | dsimp only
    | split

theorem State.killLine_walk (h : Respects R) (p : Nat) (e : Ending) (h0 : R s0 s) :
   R s0 (s.killLine p e) := by
  unfold State.killLine
  repeat' first
    | with_reducible assumption
    | with_reducible intro t
    | with_reducible apply h.ite
    | with_reducible apply State.setLine_walk h
    | with_reducible apply State.cancelItem_walk h
    | with_reducible apply State.set_walk h
    | with_reducible apply State.stopUnits_walk h
    | with_reducible apply State.rankKilled_walk h
    | with_reducible apply State.killCmds_walk h
    | with_reducible refine h.foldl _ ?_ ?_
    | with_reducible refine h.foldl_snd _ ?_ ?_
    | with_reducible refine h.foldl_snd_snd _ ?_ ?_
    | dsimp only
    | split

theorem State.voidLine_walk (h : Respects R) (p : Nat) (cause : Cause) (h0 : R s0 s) :
   R s0 (s.voidLine p cause) := by
  unfold State.voidLine
  repeat' first
    | with_reducible assumption
    | with_reducible intro t
    | with_reducible apply h.ite
    | with_reducible apply State.voidPromise_walk h
    | with_reducible apply State.set_walk h
    | with_reducible refine h.foldl _ ?_ ?_
    | with_reducible refine h.foldl_snd _ ?_ ?_
    | with_reducible refine h.foldl_snd_snd _ ?_ ?_
    | dsimp only
    | split

theorem State.releaseHeld_walk (h : Respects R) (p : Nat) (cause : Cause) (h0 : R s0 s) :
   R s0 (s.releaseHeld p cause) := by
  unfold State.releaseHeld
  repeat' first
    | with_reducible assumption
    | with_reducible intro t
    | with_reducible apply h.ite
    | with_reducible apply State.setLine_walk h
    | with_reducible apply State.voidPromise_walk h
    | with_reducible apply State.release_walk h
    | with_reducible refine h.foldl _ ?_ ?_
    | with_reducible refine h.foldl_snd _ ?_ ?_
    | with_reducible refine h.foldl_snd_snd _ ?_ ?_
    | dsimp only
    | split

theorem State.sendMask_walk (h : Respects R) (mask : Nat) (opcode : Nat) (seq : Nat) (alloy : Nat) (arg : BitVec 64) (h0 : R s0 s) :
   R s0 (s.sendMask mask opcode seq alloy arg) := by
  unfold State.sendMask
  repeat' first
    | with_reducible assumption
    | with_reducible intro t
    | with_reducible apply State.emit_walk h
    | with_reducible refine h.foldl _ ?_ ?_
    | with_reducible refine h.foldl_snd _ ?_ ?_
    | with_reducible refine h.foldl_snd_snd _ ?_ ?_

theorem State.sendVoid_walk (h : Respects R) (alloy : Nat) (seq : Nat) (cause : Cause) (code : Nat) (from_ : Option Nat) (h0 : R s0 s) :
   R s0 (s.sendVoid alloy seq cause code from_) := by
  unfold State.sendVoid
  repeat' first
    | with_reducible assumption
    | with_reducible intro t
    | with_reducible apply h.ite
    | with_reducible apply State.onNet_walk h
    | with_reducible apply State.sendMask_walk h
    | dsimp only
    | split

theorem State.voidAlloy_walk (h : Respects R) (p : Nat) (cause : Cause) (code : Nat) (h0 : R s0 s) :
   R s0 (s.voidAlloy p cause code) := by
  unfold State.voidAlloy
  repeat' first
    | with_reducible assumption
    | with_reducible intro t
    | with_reducible apply State.sendVoid_walk h
    | with_reducible refine h.foldl _ ?_ ?_
    | with_reducible refine h.foldl_snd _ ?_ ?_
    | with_reducible refine h.foldl_snd_snd _ ?_ ?_

theorem State.stopStream_walk (h : Respects R) (k : Nat) (h0 : R s0 s) :
   R s0 (s.stopStream k) := by
  unfold State.stopStream
  repeat' first
    | with_reducible assumption
    | with_reducible intro t
    | with_reducible apply h.ite
    | with_reducible apply State.onNet_walk h
    | dsimp only
    | split

theorem State.stopStreamsOn_walk (h : Respects R) (n : Nat) (h0 : R s0 s) :
   R s0 (s.stopStreamsOn n) := by
  unfold State.stopStreamsOn
  repeat' first
    | with_reducible assumption
    | with_reducible intro t
    | with_reducible apply State.stopStream_walk h
    | with_reducible refine h.foldl _ ?_ ?_
    | with_reducible refine h.foldl_snd _ ?_ ?_
    | with_reducible refine h.foldl_snd_snd _ ?_ ?_

theorem State.stopStreams_walk (h : Respects R) (p : Nat) (h0 : R s0 s) :
   R s0 (s.stopStreams p) := by
  unfold State.stopStreams
  repeat' first
    | with_reducible assumption
    | with_reducible intro t
    | with_reducible apply State.stopStream_walk h
    | with_reducible refine h.foldl _ ?_ ?_
    | with_reducible refine h.foldl_snd _ ?_ ?_
    | with_reducible refine h.foldl_snd_snd _ ?_ ?_

theorem State.onInsts_walk (h : Respects R) (p : Nat) (f : Nat → Inst → Inst) (h0 : R s0 s) :
   R s0 (s.onInsts p f) := by
  unfold State.onInsts
  repeat' first
    | with_reducible assumption
    | with_reducible intro t
    | with_reducible apply h.ite
    | with_reducible apply State.onHost_walk h
    | dsimp only
    | split

theorem State.setMstate_walk (h : Respects R) (p : Nat) (m : Nat) (h0 : R s0 s) :
   R s0 (s.setMstate p m) := by
  unfold State.setMstate
  repeat' first
    | with_reducible assumption
    | with_reducible apply h.ite
    | with_reducible apply State.set_walk h
    | dsimp only
    | split

theorem State.sendLong_walk (h : Respects R) (dst : Nat) (kind : Nat) (body : List Nat) (h0 : R s0 s) :
   R s0 (s.sendLong dst kind body) := by
  unfold State.sendLong
  repeat' first
    | with_reducible assumption
    | with_reducible apply h.ite
    | with_reducible apply State.emit_walk h
    | with_reducible apply State.bump_walk h
    | dsimp only
    | split

theorem State.noteResumed_walk (h : Respects R) (p : Nat) (device : Nat) (h0 : R s0 s) :
   R s0 (s.noteResumed p device) := by
  unfold State.noteResumed
  repeat' first
    | with_reducible assumption
    | with_reducible apply h.ite
    | with_reducible apply State.setMember_walk h
    | dsimp only
    | split

theorem State.tellResume_walk (h : Respects R) (p : Nat) (h0 : R s0 s) :
   R s0 (s.tellResume p) := by
  unfold State.tellResume
  repeat' first
    | with_reducible assumption
    | with_reducible apply h.ite
    | with_reducible apply State.noteResumed_walk h
    | with_reducible apply State.sendLong_walk h
    | dsimp only
    | split

theorem State.failMember_walk (h : Respects R) (p : Nat) (h0 : R s0 s) :
   R s0 (s.failMember p) := by
  unfold State.failMember
  repeat' first
    | with_reducible assumption
    | with_reducible apply State.setMstate_walk h
    | with_reducible apply State.setMember_walk h

theorem State.faultPtn_walk (h : Respects R) (p : Nat) (code : Nat) (at_ : FaultAt) (h0 : R s0 s) :
   R s0 (s.faultPtn p code at_) := by
  unfold State.faultPtn
  repeat' first
    | with_reducible assumption
    | with_reducible intro t
    | with_reducible apply h.ite
    | with_reducible apply State.bump_walk h
    | with_reducible apply State.setLine_walk h
    | with_reducible apply State.set_walk h
    | with_reducible apply State.onInsts_walk h
    | with_reducible apply State.voidAlloy_walk h
    | with_reducible apply State.failMember_walk h
    | with_reducible apply State.voidLine_walk h
    | with_reducible apply State.killLine_walk h
    | with_reducible apply State.stopStreams_walk h
    | with_reducible apply State.raise_walk h
    | with_reducible apply State.level_walk h
    | with_reducible apply State.notice_walk h
    | dsimp only
    | split

theorem State.reading_walk (h : Respects R) (p : Nat) (dpas : List Nat) {bad good : State → State}
    (hb : ∀ t, R s0 t → R s0 (bad t)) (hg : ∀ t, R s0 t → R s0 (good t)) (h0 : R s0 s) : R s0 (s.reading p dpas bad good) := by
  unfold State.reading
  have ht := State.noteLines_walk h [] dpas h0
  split
  · exact hb _ (State.faultPtn_walk h _ _ _ ht)
  · exact hg _ ht

theorem State.faultSlice_walk (h : Respects R) (slice : Nat) (code : Nat) (unit : Nat) (h0 : R s0 s) :
   R s0 (s.faultSlice slice code unit) := by
  unfold State.faultSlice
  repeat' first
    | with_reducible assumption
    | with_reducible apply State.faultPtn_walk h
    | dsimp only
    | split

theorem State.bitErrors_walk (h : Respects R) (sl ti : Nat) (b : BitErrors) (h0 : R s0 s) : R s0 (s.bitErrors sl ti b) := by
  cases b with
  | clean => exact h0
  | corrected store => exact h.ite (State.bump_walk h _ _ h0) (h.ite (State.bump_walk h _ _ h0) (State.bump_walk h _ _ h0))
  | uncorrectable store =>
    exact State.faultSlice_walk h _ _ _ (h.ite (State.raise_walk h _ _ h0)
      (h.ite (State.raise_walk h _ _ h0) (State.raise_walk h _ _ h0)))

theorem State.allBitErrors_walk (h : Respects R) (sl : Nat) (ti : Nat) (bits : List BitErrors) (h0 : R s0 s) :
   R s0 (s.allBitErrors sl ti bits) := by
  unfold State.allBitErrors
  repeat' first
    | with_reducible assumption
    | with_reducible intro t
    | with_reducible apply State.bitErrors_walk h
    | with_reducible refine h.foldl _ ?_ ?_
    | with_reducible refine h.foldl_snd _ ?_ ?_
    | with_reducible refine h.foldl_snd_snd _ ?_ ?_

theorem State.faultAll_walk (h : Respects R) (ps : List Nat) (code : Nat) (at_ : FaultAt) (h0 : R s0 s) :
   R s0 (s.faultAll ps code at_) := by
  unfold State.faultAll
  repeat' first
    | with_reducible assumption
    | with_reducible intro t
    | with_reducible apply State.faultPtn_walk h
    | with_reducible refine h.foldl _ ?_ ?_
    | with_reducible refine h.foldl_snd _ ?_ ?_
    | with_reducible refine h.foldl_snd_snd _ ?_ ?_

theorem State.seamEffects_walk (h : Respects R) (p : Nat) (h0 : R s0 s) :
   R s0 (s.seamEffects p) := by
  unfold State.seamEffects
  repeat' first
    | with_reducible assumption
    | with_reducible intro t
    | with_reducible apply h.ite
    | with_reducible apply State.idleUnits_walk h
    | with_reducible apply State.set_walk h
    | with_reducible apply State.setChannel_walk h
    | with_reducible apply State.onInsts_walk h
    | with_reducible apply State.setLine_walk h
    | with_reducible apply State.tellResume_walk h
    | with_reducible apply State.faultPtn_walk h
    | with_reducible refine h.foldl _ ?_ ?_
    | with_reducible refine h.foldl_snd _ ?_ ?_
    | with_reducible refine h.foldl_snd_snd _ ?_ ?_
    | dsimp only
    | split

theorem State.finishKills_walk (h : Respects R) (p : Nat) (h0 : R s0 s) :
   R s0 (s.finishKills p) := by
  unfold State.finishKills
  repeat' first
    | with_reducible assumption
    | with_reducible intro t
    | with_reducible apply State.setLine_walk h
    | with_reducible apply State.finishKill_walk h
    | with_reducible refine h.foldl _ ?_ ?_
    | with_reducible refine h.foldl_snd _ ?_ ?_
    | with_reducible refine h.foldl_snd_snd _ ?_ ?_

theorem State.commitHead_walk (h : Respects R) (p : Nat) (h0 : R s0 s) :
   R s0 (s.commitHead p) := by
  unfold State.commitHead
  repeat' first
    | with_reducible assumption
    | with_reducible apply h.ite
    | with_reducible apply State.settleBlocks_walk h
    | with_reducible apply State.releaseStore_walk h
    | with_reducible apply State.setLine_walk h
    | with_reducible apply State.release_walk h
    | with_reducible apply State.seamEffects_walk h
    | dsimp only
    | split

end Sys2Proof.Machine
end

