-- ==== Sys2Proof/Laws/WalkPorts.lean ====
section
/-! SUPPORT. What each operation of Machine/Ports.lean can do: it walks through the primitive changes of `Respects`. -/

set_option linter.unusedTactic false
set_option linter.unreachableTactic false

namespace Sys2Proof.Machine

variable {R : State → State → Prop} {s0 s : State}

theorem State.setPort_walk (h : Respects R) (n : Nat) (x : Port) (h0 : R s0 s) :
   R s0 (s.setPort n x) := by
  unfold State.setPort
  repeat' first
    | with_reducible assumption
    | with_reducible intro t
    | with_reducible apply State.onNet_walk h

theorem State.enterPort_walk (h : Respects R) (n : Nat) (st : Nat) (h0 : R s0 s) :
   R s0 (s.enterPort n st) := by
  unfold State.enterPort
  repeat' first
    | with_reducible assumption
    | with_reducible apply State.set_walk h
    | with_reducible apply State.setPort_walk h

theorem State.loseLockPtn_walk (h : Respects R) (p : Nat) (h0 : R s0 s) :
   R s0 (s.loseLockPtn p) := by
  unfold State.loseLockPtn
  repeat' first
    | with_reducible assumption
    | with_reducible intro t
    | with_reducible apply State.releaseHeld_walk h
    | with_reducible apply State.voidPromise_walk h
    | with_reducible apply State.setLine_walk h
    | with_reducible apply State.voidAlloy_walk h
    | with_reducible apply State.rankKilled_walk h
    | with_reducible apply State.killCmds_walk h
    | with_reducible refine h.foldl _ ?_ ?_
    | with_reducible refine h.foldl_snd _ ?_ ?_
    | with_reducible refine h.foldl_snd_snd _ ?_ ?_
    | dsimp only
    | split

theorem State.loseLock_walk (h : Respects R) (h0 : R s0 s) :
    R s0 (s.loseLock) := by
  unfold State.loseLock
  repeat' first
    | with_reducible assumption
    | with_reducible intro t
    | with_reducible apply h.ite
    | with_reducible apply State.loseLockPtn_walk h
    | with_reducible apply State.event_walk h
    | with_reducible refine h.foldl _ ?_ ?_
    | with_reducible refine h.foldl_snd _ ?_ ?_
    | with_reducible refine h.foldl_snd_snd _ ?_ ?_
    | dsimp only
    | split

theorem State.settleParent_walk (h : Respects R) (h0 : R s0 s) :
    R s0 (s.settleParent) := by
  unfold State.settleParent
  repeat' first
    | with_reducible assumption
    | with_reducible intro t
    | with_reducible apply h.ite
    | with_reducible apply State.set_walk h
    | with_reducible refine h.foldl _ ?_ ?_
    | with_reducible refine h.foldl_snd _ ?_ ?_
    | with_reducible refine h.foldl_snd_snd _ ?_ ?_
    | dsimp only
    | split

theorem State.sendTime_walk (h : Respects R) (valid : Bool) (hops : Nat) (root : Nat) (except : Nat) (h0 : R s0 s) :
   R s0 (s.sendTime valid hops root except) := by
  unfold State.sendTime
  repeat' first
    | with_reducible assumption
    | with_reducible intro t
    | with_reducible apply h.ite
    | with_reducible apply State.emit_walk h
    | with_reducible refine h.foldl _ ?_ ?_
    | with_reducible refine h.foldl_snd _ ?_ ?_
    | with_reducible refine h.foldl_snd_snd _ ?_ ?_
    | dsimp only
    | split

theorem State.strokeTime_walk (h : Respects R) (h0 : R s0 s) : R s0 s.strokeTime :=
  h.ite (State.sendTime_walk h _ _ _ _ h0) h0

theorem State.loseParent_walk (h : Respects R) (h0 : R s0 s) :
    R s0 (s.loseParent) := by
  unfold State.loseParent
  repeat' first
    | with_reducible assumption
    | with_reducible intro t
    | with_reducible apply h.ite
    | with_reducible apply State.raise_walk h
    | with_reducible apply State.onNet_walk h
    | with_reducible apply State.settleParent_walk h
    | with_reducible apply State.set_walk h
    | with_reducible apply State.loseLock_walk h
    | with_reducible apply State.notice_walk h
    | with_reducible apply State.sendTime_walk h
    | dsimp only
    | split

theorem execParentLost_walk (h : Respects R) (h0 : R s0 s) :
    Yields (R s0) (execParentLost s) := by
  unfold execParentLost
  repeat' first
    | with_reducible assumption
    | with_reducible apply Yields.next
    | with_reducible apply Yields.ite
    | with_reducible apply State.loseParent_walk h

theorem execParentUsable_walk (h : Respects R) (h0 : R s0 s) :
    Yields (R s0) (execParentUsable s) := by
  unfold execParentUsable
  repeat' first
    | with_reducible assumption
    | with_reducible intro t
    | with_reducible apply Yields.next
    | with_reducible apply Yields.ite
    | with_reducible apply h.ite
    | with_reducible apply State.set_walk h
    | with_reducible apply State.onNet_walk h
    | dsimp only
    | split

theorem State.closePort_walk (h : Respects R) (n : Nat) (cause : Nat) (h0 : R s0 s) :
   R s0 (s.closePort n cause) := by
  unfold State.closePort
  repeat' first
    | with_reducible assumption
    | with_reducible apply h.ite
    | with_reducible apply State.emit_walk h
    | with_reducible apply State.setPort_walk h
    | with_reducible apply State.set_walk h
    | with_reducible apply State.enterPort_walk h
    | with_reducible apply State.notice_walk h
    | with_reducible apply State.stopStreamsOn_walk h
    | with_reducible apply State.faultAll_walk h
    | with_reducible apply State.loseParent_walk h
    | dsimp only
    | split

theorem execClose_walk (h : Respects R) (port : PortNo) (cause : Byte) (h0 : R s0 s) :
   Yields (R s0) (execClose port cause s) := by
  unfold execClose
  repeat' first
    | with_reducible assumption
    | with_reducible apply Yields.next
    | with_reducible apply Yields.ite
    | with_reducible apply h.ite
    | with_reducible apply State.closePort_walk h
    | dsimp only
    | split

theorem execPortStateTimeout_walk (h : Respects R) (port : PortNo) (h0 : R s0 s) :
    Yields (R s0) (execPortStateTimeout port s) := by
  unfold execPortStateTimeout
  refine Yields.next ?_
  split
  · exact h.ite (State.closePort_walk h _ _ (State.atLeast_walk h _ h0)) h0
  · exact h0

theorem State.received_walk (h : Respects R) (n : Nat) {act : State → State} (ha : ∀ t, R s0 t → R s0 (act t)) (h0 : R s0 s) :
    R s0 (s.received n act) :=
  h.ite (State.bump_walk h _ _ h0) (ha _ (State.setPort_walk h _ _ h0))

theorem State.strayed_walk (h : Respects R) (n : Nat) (h0 : R s0 s) :
   R s0 (s.strayed n) := by
  unfold State.strayed
  repeat' first
    | with_reducible assumption
    | with_reducible apply h.ite
    | with_reducible apply State.bump_walk h
    | dsimp only
    | split

theorem State.lateBringUp_walk (h : Respects R) (n : Nat) (h0 : R s0 s) :
   R s0 (s.lateBringUp n) := by
  unfold State.lateBringUp
  repeat' first
    | with_reducible assumption
    | with_reducible apply h.ite
    | with_reducible apply State.bump_walk h
    | dsimp only
    | split

theorem execTrainingFrame_walk (h : Respects R) (port : PortNo) (lanes : BitVec 68) (h0 : R s0 s) :
   Yields (R s0) (execTrainingFrame port lanes s) := by
  unfold execTrainingFrame
  repeat' first
    | with_reducible assumption
    | with_reducible intro t
    | with_reducible apply Yields.next
    | with_reducible apply Yields.ite
    | with_reducible apply h.ite
    | with_reducible apply State.received_walk h
    | with_reducible apply State.enterPort_walk h
    | dsimp only
    | split

theorem execTrainDone_walk (h : Respects R) (port : PortNo) (ber : List (BitVec 32)) (h0 : R s0 s) :
   Yields (R s0) (execTrainDone port ber s) := by
  unfold execTrainDone
  repeat' first
    | with_reducible assumption
    | with_reducible intro t
    | with_reducible apply Yields.next
    | with_reducible apply Yields.ite
    | with_reducible apply h.ite
    | with_reducible apply State.setPort_walk h
    | with_reducible apply State.set_walk h
    | with_reducible apply State.enterPort_walk h
    | with_reducible apply State.closePort_walk h
    | dsimp only
    | split

theorem execAlignDone_walk (h : Respects R) (port : PortNo) (lanes : BitVec 64) (h0 : R s0 s) :
   Yields (R s0) (execAlignDone port lanes s) := by
  unfold execAlignDone
  repeat' first
    | with_reducible assumption
    | with_reducible apply Yields.next
    | with_reducible apply Yields.ite
    | with_reducible apply h.ite
    | with_reducible apply State.setPort_walk h
    | with_reducible apply State.enterPort_walk h
    | with_reducible apply State.draw_walk h
    | with_reducible apply State.emit_walk h
    | dsimp only
    | split

theorem execHello_walk (h : Respects R) (port : PortNo) (certOk : Bool) (device : DeviceId) (peerPort : BitVec 3) (nonce : BitVec 256) (h0 : R s0 s) :
   Yields (R s0) (execHello port certOk device peerPort nonce s) := by
  unfold execHello
  repeat' first
    | with_reducible assumption
    | with_reducible intro t
    | with_reducible apply Yields.next
    | with_reducible apply Yields.ite
    | with_reducible apply h.ite
    | with_reducible apply State.received_walk h
    | with_reducible apply State.raise_walk h
    | with_reducible apply State.closePort_walk h
    | with_reducible apply State.setPort_walk h
    | with_reducible apply State.set_walk h
    | with_reducible apply State.emit_walk h
    | with_reducible apply State.lateBringUp_walk h
    | dsimp only
    | split

theorem State.askEcho_walk (h : Respects R) (n : Nat) (h0 : R s0 s) : R s0 (s.askEcho n) := State.emit_walk h _ h0

theorem execEncap_walk (h : Respects R) (port : PortNo) (ok : Bool) (h0 : R s0 s) :
   Yields (R s0) (execEncap port ok s) := by
  unfold execEncap
  repeat' first
    | with_reducible assumption
    | with_reducible intro t
    | with_reducible apply Yields.next
    | with_reducible apply Yields.ite
    | with_reducible apply h.ite
    | with_reducible apply State.received_walk h
    | with_reducible apply State.askEcho_walk h
    | with_reducible apply State.setPort_walk h
    | with_reducible apply State.enterPort_walk h
    | with_reducible apply State.closePort_walk h
    | with_reducible apply State.lateBringUp_walk h
    | dsimp only
    | split

theorem execEchoReq_walk (h : Respects R) (port : PortNo) (seq : Byte) (delta : BitVec 48) (h0 : R s0 s) :
   Yields (R s0) (execEchoReq port seq delta s) := by
  unfold execEchoReq
  repeat' first
    | with_reducible assumption
    | with_reducible apply Yields.next
    | with_reducible apply Yields.ite
    | with_reducible apply h.ite
    | with_reducible apply State.emit_walk h
    | dsimp only
    | split

theorem execEchoRsp_walk (h : Respects R) (port : PortNo) (seq : Byte) (delta : BitVec 48) (elapsed : BitVec 48) (h0 : R s0 s) :
   Yields (R s0) (execEchoRsp port seq delta elapsed s) := by
  unfold execEchoRsp
  repeat' first
    | with_reducible assumption
    | with_reducible apply Yields.next
    | with_reducible apply Yields.ite
    | with_reducible apply h.ite
    | with_reducible apply State.setPort_walk h
    | with_reducible apply State.askEcho_walk h
    | with_reducible apply State.set_walk h
    | with_reducible apply State.enterPort_walk h
    | with_reducible apply State.settleParent_walk h
    | dsimp only
    | split

theorem execMarkerDiscontinuity_walk (h : Respects R) (port : PortNo) (h0 : R s0 s) :
   Yields (R s0) (execMarkerDiscontinuity port s) := by
  unfold execMarkerDiscontinuity
  repeat' first
    | with_reducible assumption
    | with_reducible apply Yields.next
    | with_reducible apply Yields.ite
    | with_reducible apply h.ite
    | with_reducible apply State.enterPort_walk h
    | with_reducible apply State.loseParent_walk h
    | dsimp only
    | split

theorem execRetrain_walk (h : Respects R) (port : PortNo) (h0 : R s0 s) :
   Yields (R s0) (execRetrain port s) := by
  unfold execRetrain
  repeat' first
    | with_reducible assumption
    | with_reducible apply Yields.next
    | with_reducible apply Yields.ite
    | with_reducible apply State.closePort_walk h

theorem State.enablePort_walk (h : Respects R) (n : Nat) (on : Bool) (h0 : R s0 s) :
   R s0 (s.enablePort n on) := by
  unfold State.enablePort
  repeat' first
    | with_reducible assumption
    | with_reducible apply h.ite
    | with_reducible apply State.set_walk h
    | with_reducible apply State.enterPort_walk h
    | with_reducible apply State.closePort_walk h
    | dsimp only
    | split

theorem execEnable_walk (h : Respects R) (port : PortNo) (value : Bool) (h0 : R s0 s) :
   Yields (R s0) (execEnable port value s) := by
  unfold execEnable
  repeat' first
    | with_reducible assumption
    | with_reducible apply Yields.next
    | with_reducible apply Yields.ite
    | with_reducible apply h.ite
    | with_reducible apply State.enablePort_walk h
    | dsimp only
    | split

theorem State.laneErrors_walk (h : Respects R) (n : Nat) (e : BitVec 6 × BitVec 16) (h0 : R s0 s) :
   R s0 (s.laneErrors n e) := by
  unfold State.laneErrors
  repeat' first
    | with_reducible assumption
    | with_reducible apply h.ite
    | with_reducible apply State.raise_walk h
    | with_reducible apply State.setPort_walk h
    | with_reducible apply State.emit_walk h
    | dsimp only
    | split

theorem execInterval_walk (h : Respects R) (port : PortNo) (corrected : BitVec 16) (lanes : LaneReport) (h0 : R s0 s) :
   Yields (R s0) (execInterval port corrected lanes s) := by
  unfold execInterval
  repeat' first
    | with_reducible assumption
    | with_reducible intro t
    | with_reducible apply Yields.next
    | with_reducible apply Yields.ite
    | with_reducible apply h.ite
    | with_reducible apply State.set_walk h
    | with_reducible apply State.setPort_walk h
    | with_reducible apply State.laneErrors_walk h
    | with_reducible refine h.foldl _ ?_ ?_
    | with_reducible refine h.foldl_snd _ ?_ ?_
    | with_reducible refine h.foldl_snd_snd _ ?_ ?_
    | dsimp only
    | split

theorem execLostInterval_walk (h : Respects R) (port : PortNo) (h0 : R s0 s) :
   Yields (R s0) (execLostInterval port s) := by
  unfold execLostInterval
  repeat' first
    | with_reducible assumption
    | with_reducible apply Yields.next
    | with_reducible apply Yields.ite
    | with_reducible apply h.ite
    | with_reducible apply State.bump_walk h
    | with_reducible apply State.setPort_walk h
    | with_reducible apply State.faultAll_walk h
    | with_reducible apply State.closePort_walk h
    | dsimp only
    | split

theorem execLaneSwap_walk (h : Respects R) (port : PortNo) (logical : Byte) (spare : Byte) (stroke : BitVec 20) (h0 : R s0 s) :
   Yields (R s0) (execLaneSwap port logical spare stroke s) := by
  unfold execLaneSwap
  repeat' first
    | with_reducible assumption
    | with_reducible apply Yields.next
    | with_reducible apply Yields.ite
    | with_reducible apply h.ite
    | with_reducible apply State.setPort_walk h
    | with_reducible apply State.strayed_walk h
    | dsimp only
    | split

theorem State.swapLane_walk (h : Respects R) (n lane sp : Nat) (h0 : R s0 s) : R s0 (s.swapLane n lane sp) :=
  State.set_walk h _ _ _ (State.setPort_walk h _ _ h0)

theorem execLaneSwapStroke_walk (h : Respects R) (port : PortNo) (h0 : R s0 s) :
   Yields (R s0) (execLaneSwapStroke port s) := by
  unfold execLaneSwapStroke
  repeat' first
    | with_reducible assumption
    | with_reducible intro t
    | with_reducible apply Yields.next
    | with_reducible apply Yields.ite
    | with_reducible apply h.ite
    | with_reducible apply State.setPort_walk h
    | with_reducible apply State.swapLane_walk h
    | with_reducible apply State.atLeast_walk h
    | dsimp only
    | split

theorem execKeyRefresh_walk (h : Respects R) (port : PortNo) (h0 : R s0 s) :
   Yields (R s0) (execKeyRefresh port s) := by
  unfold execKeyRefresh
  repeat' first
    | with_reducible assumption
    | with_reducible apply Yields.next
    | with_reducible apply Yields.ite
    | with_reducible apply h.ite
    | with_reducible apply State.setPort_walk h
    | dsimp only
    | split

theorem State.setFine_walk (h : Respects R) (t : Nat) (h0 : R s0 s) :
   R s0 (s.setFine t) := by
  unfold State.setFine
  repeat' first
    | with_reducible assumption
    | with_reducible intro t
    | with_reducible apply State.onNet_walk h
    | with_reducible refine h.sides ?_

theorem State.slew_walk (h : Respects R) (d : Int) (h0 : R s0 s) :
   R s0 (s.slew d) := by
  unfold State.slew
  repeat' first
    | with_reducible assumption
    | with_reducible apply h.ite
    | with_reducible apply State.passTicks_walk h
    | with_reducible apply State.setFine_walk h
    | dsimp only
    | split

theorem State.correctTime_walk (h : Respects R) (e : Int) (h0 : R s0 s) :
   R s0 (s.correctTime e) := by
  unfold State.correctTime
  repeat' first
    | with_reducible assumption
    | with_reducible intro t
    | with_reducible apply h.ite
    | with_reducible apply State.onNet_walk h
    | with_reducible apply State.setFine_walk h
    | with_reducible apply State.slew_walk h
    | dsimp only
    | split

theorem State.followTime_walk (h : Respects R) (n : Nat) (hops : Nat) (root : Nat) (e : Int) (h0 : R s0 s) :
   R s0 (s.followTime n hops root e) := by
  unfold State.followTime
  repeat' first
    | with_reducible assumption
    | with_reducible intro t
    | with_reducible apply h.ite
    | with_reducible apply State.set_walk h
    | with_reducible apply State.onNet_walk h
    | with_reducible apply State.loseParent_walk h
    | with_reducible apply State.correctTime_walk h
    | with_reducible apply State.sendTime_walk h
    | dsimp only
    | split

theorem State.settlePhase_walk (h : Respects R) (h0 : R s0 s) :
    R s0 (s.settlePhase) := by
  unfold State.settlePhase
  repeat' first
    | with_reducible assumption
    | with_reducible intro t
    | with_reducible apply h.ite
    | with_reducible apply State.set_walk h
    | dsimp only
    | split

theorem execTime_walk (h : Respects R) (port : PortNo) (valid : Bool) (hops : BitVec 6) (root : DeviceId) (start : Word) (arrival : BitVec 80) (h0 : R s0 s) :
   Yields (R s0) (execTime port valid hops root start arrival s) := by
  unfold execTime
  repeat' first
    | with_reducible assumption
    | with_reducible intro t
    | with_reducible apply Yields.next
    | with_reducible apply Yields.ite
    | with_reducible apply h.ite
    | with_reducible apply State.strayed_walk h
    | with_reducible apply State.raise_walk h
    | with_reducible apply State.onNet_walk h
    | with_reducible apply State.loseParent_walk h
    | with_reducible apply State.followTime_walk h
    | with_reducible apply State.settlePhase_walk h
    | dsimp only
    | split

theorem execTimePps_walk (h : Respects R) (h0 : R s0 s) :
    Yields (R s0) (execTimePps s) := by
  unfold execTimePps
  repeat' first
    | with_reducible assumption
    | with_reducible apply Yields.next
    | with_reducible apply Yields.ite
    | with_reducible apply h.ite
    | with_reducible apply State.set_walk h
    | dsimp only
    | split

theorem State.settlePause_walk (h : Respects R) (n : Nat) (p : Nat) (h0 : R s0 s) :
   R s0 (s.settlePause n p) := by
  unfold State.settlePause
  repeat' first
    | with_reducible assumption
    | with_reducible apply h.ite
    | with_reducible apply State.set_walk h
    | with_reducible apply State.setPort_walk h
    | with_reducible apply State.emit_walk h
    | dsimp only
    | split

theorem execPause_walk (h : Respects R) (port : PortNo) (set : Word) (h0 : R s0 s) :
   Yields (R s0) (execPause port set s) := by
  unfold execPause
  repeat' first
    | with_reducible assumption
    | with_reducible apply Yields.next
    | with_reducible apply Yields.ite
    | with_reducible apply h.ite
    | with_reducible apply State.setPort_walk h
    | with_reducible apply State.set_walk h
    | with_reducible apply State.strayed_walk h
    | dsimp only
    | split

theorem State.touchChannel_walk (h : Respects R) (ch : Nat) (h0 : R s0 s) :
   R s0 (s.touchChannel ch) := by
  unfold State.touchChannel
  repeat' first
    | with_reducible assumption
    | with_reducible apply h.ite
    | with_reducible apply State.setChannel_walk h
    | dsimp only
    | split

theorem execScheduledSlot_walk (h : Respects R) (port : PortNo) (slot : BitVec 13) (h0 : R s0 s) :
   Yields (R s0) (execScheduledSlot port slot s) := by
  unfold execScheduledSlot
  repeat' first
    | with_reducible assumption
    | with_reducible apply Yields.next
    | with_reducible apply Yields.ite
    | with_reducible apply h.ite
    | with_reducible apply State.emit_walk h
    | with_reducible apply State.setPort_walk h
    | with_reducible apply State.count_walk h
    | dsimp only
    | split

theorem State.endHold_walk (h : Respects R) (p : Nat) (h0 : R s0 s) :
   R s0 (s.endHold p) := by
  unfold State.endHold
  repeat' first
    | with_reducible assumption
    | with_reducible intro t
    | with_reducible apply State.setLine_walk h
    | with_reducible apply State.count_walk h
    | with_reducible refine h.foldl _ ?_ ?_
    | with_reducible refine h.foldl_snd _ ?_ ?_
    | with_reducible refine h.foldl_snd_snd _ ?_ ?_
    | dsimp only
    | split

theorem execHoldLimitUs_walk (h : Respects R) (p : PtnNo) (h0 : R s0 s) :
   Yields (R s0) (execHoldLimitUs p s) := by
  unfold execHoldLimitUs
  repeat' first
    | with_reducible assumption
    | with_reducible intro t
    | with_reducible apply Yields.next
    | with_reducible apply Yields.ite
    | with_reducible apply State.atLeast_walk h
    | with_reducible apply State.endHold_walk h
    | with_reducible apply State.faultPtn_walk h
    | dsimp only
    | split

end Sys2Proof.Machine
end

