-- ==== Sys2Proof/Laws/WalkRegulate.lean ====
section
/-! SUPPORT. What each operation of Machine/Regulate.lean can do: it walks through the primitive changes of `Respects`. -/

set_option linter.unusedTactic false
set_option linter.unreachableTactic false

namespace Sys2Proof.Machine

variable {R : State → State → Prop} {s0 s : State}

theorem State.setPoint_walk (h : Respects R) (kind : Nat) (index : Nat) (x : Point) (h0 : R s0 s) :
   R s0 (s.setPoint kind index x) := by
  unfold State.setPoint
  repeat' first
    | with_reducible assumption
    | with_reducible intro t
    | with_reducible apply State.onEngines_walk h

theorem State.serveAt_walk (h : Respects R) (kind : Nat) (index : Nat) (key : Nat) (h0 : R s0 s) :
   R s0 (s.serveAt kind index key) := by
  unfold State.serveAt
  repeat' first
    | with_reducible assumption
    | with_reducible apply State.setPoint_walk h
    | dsimp only
    | split

theorem State.noteWaiting_walk (h : Respects R) (kind : Nat) (index : Nat) (key : Nat) (h0 : R s0 s) :
   R s0 (s.noteWaiting kind index key) := by
  unfold State.noteWaiting
  repeat' first
    | with_reducible assumption
    | with_reducible apply h.ite
    | with_reducible apply State.setPoint_walk h
    | dsimp only
    | split

theorem State.sendOpen_walk (h : Respects R) (f : OpenFlit) (via : Nat) (h0 : R s0 s) :
   R s0 (s.sendOpen f via) := by
  unfold State.sendOpen
  repeat' first
    | with_reducible assumption
    | with_reducible apply h.ite
    | with_reducible apply State.setPort_walk h
    | with_reducible apply State.noteWaiting_walk h
    | with_reducible apply State.bump_walk h
    | dsimp only
    | split

theorem State.sendOpenSlot_walk (h : Respects R) (port : Nat) (slot : Nat) (h0 : R s0 s) :
   R s0 (s.sendOpenSlot port slot) := by
  unfold State.sendOpenSlot
  repeat' first
    | with_reducible assumption
    | with_reducible intro t
    | with_reducible apply State.setPoint_walk h
    | with_reducible apply State.setPort_walk h
    | with_reducible apply State.emit_walk h
    | with_reducible apply State.count_walk h
    | dsimp only
    | split

theorem execOpenSlot_walk (h : Respects R) (port : PortNo) (slot : BitVec 13) (h0 : R s0 s) :
   Yields (R s0) (execOpenSlot port slot s) := by
  unfold execOpenSlot
  repeat' first
    | with_reducible assumption
    | with_reducible apply Yields.next
    | with_reducible apply Yields.ite
    | with_reducible apply h.ite
    | with_reducible apply State.sendOpenSlot_walk h
    | dsimp only
    | split

theorem State.guaranteeMiss_walk (h : Respects R) (kind : Nat) (key : Nat) (h0 : R s0 s) :
   R s0 (s.guaranteeMiss kind key) := by
  unfold State.guaranteeMiss
  repeat' first
    | with_reducible assumption
    | with_reducible apply h.ite
    | with_reducible apply State.bump_walk h
    | with_reducible apply State.set_walk h
    | with_reducible apply State.raise_walk h
    | with_reducible apply State.event_walk h
    | dsimp only
    | split

theorem execGuaranteeCheck_walk (h : Respects R) (kind : BitVec 2) (index : BitVec 10) (h0 : R s0 s) :
   Yields (R s0) (execGuaranteeCheck kind index s) := by
  unfold execGuaranteeCheck
  repeat' first
    | with_reducible assumption
    | with_reducible intro t
    | with_reducible apply Yields.next
    | with_reducible apply Yields.ite
    | with_reducible apply State.atLeast_walk h
    | with_reducible apply State.guaranteeMiss_walk h
    | with_reducible apply State.setPoint_walk h
    | with_reducible refine h.foldl _ ?_ ?_
    | with_reducible refine h.foldl_snd _ ?_ ?_
    | with_reducible refine h.foldl_snd_snd _ ?_ ?_

end Sys2Proof.Machine
end

