-- ==== Sys2Proof/Laws/WalkHandoff.lean ====
section
/-! SUPPORT. What each operation of Machine/Handoff.lean can do: it walks through the primitive changes of `Respects`. -/

set_option linter.unusedTactic false
set_option linter.unreachableTactic false

namespace Sys2Proof.Machine

variable {R : State → State → Prop} {s0 s : State}

theorem State.setRecord_walk (h : Respects R) (k : Nat) (r : HoRecord) (h0 : R s0 s) :
   R s0 (s.setRecord k r) := by
  unfold State.setRecord
  repeat' first
    | with_reducible assumption
    | with_reducible intro t
    | with_reducible apply State.onNet_walk h

theorem State.holdRecord_walk (h : Respects R) (r : HoRecord) (h0 : R s0 s) :
   R s0 (s.holdRecord r) := by
  unfold State.holdRecord
  repeat' first
    | with_reducible assumption
    | with_reducible intro t
    | with_reducible apply State.refObj_walk h
    | with_reducible refine h.foldl _ ?_ ?_
    | with_reducible refine h.foldl_snd _ ?_ ?_
    | with_reducible refine h.foldl_snd_snd _ ?_ ?_

theorem State.dropRecord_walk (h : Respects R) (r : HoRecord) (h0 : R s0 s) :
   R s0 (s.dropRecord r) := by
  unfold State.dropRecord
  repeat' first
    | with_reducible assumption
    | with_reducible intro t
    | with_reducible apply State.unrefObj_walk h
    | with_reducible refine h.foldl _ ?_ ?_
    | with_reducible refine h.foldl_snd _ ?_ ?_
    | with_reducible refine h.foldl_snd_snd _ ?_ ?_

theorem State.enterRecord_walk (h : Respects R) (k : Nat) (st : Nat) (epoch : Nat) (f : HoRecord → HoRecord) (h0 : R s0 s) :
   R s0 (s.enterRecord k st epoch f) := by
  unfold State.enterRecord
  repeat' first
    | with_reducible assumption
    | with_reducible apply h.ite
    | with_reducible apply State.stopStream_walk h
    | with_reducible apply State.received_walk h
    | with_reducible apply State.setRecord_walk h
    | with_reducible apply State.holdRecord_walk h
    | with_reducible apply State.dropRecord_walk h
    | dsimp only
    | split

theorem State.freeRecord_walk (h : Respects R) (k : Nat) (h0 : R s0 s) :
   R s0 (s.freeRecord k) := by
  unfold State.freeRecord
  repeat' first
    | with_reducible assumption
    | with_reducible intro t
    | with_reducible apply State.stopStream_walk h
    | with_reducible apply State.onNet_walk h
    | with_reducible apply State.dropRecord_walk h
    | with_reducible apply State.onHost_walk h
    | dsimp only
    | split

theorem State.hoEvent_walk (h : Respects R) (k : Nat) (r : HoRecord) (bit : Nat) (h0 : R s0 s) :
   R s0 (s.hoEvent k r bit) := by
  unfold State.hoEvent
  repeat' first
    | with_reducible assumption
    | with_reducible apply h.ite
    | with_reducible apply State.raise_walk h
    | with_reducible apply State.event_walk h
    | with_reducible apply State.notice_walk h
    | dsimp only
    | split

theorem State.hoDiscard_walk (h : Respects R) (handle : Nat) (h0 : R s0 s) :
   R s0 (s.hoDiscard handle) := by
  unfold State.hoDiscard
  repeat' first
    | with_reducible assumption
    | with_reducible apply State.bump_walk h
    | dsimp only
    | split

theorem State.sendHo_walk (h : Respects R) (dst : Nat) (type : Nat) (code : Nat) (epoch : Nat) (srcDev : Nat) (dstDev : Nat) (srcHandle : Nat) (dstHandle : Nat) (length : Nat) (h0 : R s0 s) :
   R s0 (s.sendHo dst type code epoch srcDev dstDev srcHandle dstHandle length) := by
  unfold State.sendHo
  repeat' first
    | with_reducible assumption
    | with_reducible apply State.sendLong_walk h

theorem State.hoToDest_walk (h : Respects R) (k : Nat) (r : HoRecord) (type : Nat) (epoch : Nat) (length : Nat) (h0 : R s0 s) :
   R s0 (s.hoToDest k r type epoch length) := by
  unfold State.hoToDest
  repeat' first
    | with_reducible assumption
    | with_reducible apply State.sendHo_walk h

theorem State.hoToSource_walk (h : Respects R) (k : Nat) (r : HoRecord) (type : Nat) (code : Nat) (epoch : Nat) (h0 : R s0 s) :
   R s0 (s.hoToSource k r type code epoch) := by
  unfold State.hoToSource
  repeat' first
    | with_reducible assumption
    | with_reducible apply State.sendHo_walk h

theorem State.beginStream_walk (h : Respects R) (k : Nat) (h0 : R s0 s) :
   R s0 (s.beginStream k) := by
  unfold State.beginStream
  repeat' first
    | with_reducible assumption
    | exact (fun _ ht => ht : ∀ t, R s0 t → R s0 t)
    | with_reducible intro t
    | with_reducible apply h.ite
    | with_reducible apply State.hubWalks_walk h
    | with_reducible apply State.reading_walk h
    | with_reducible apply State.setRecord_walk h
    | with_reducible apply State.received_walk h
    | with_reducible apply State.emit_walk h
    | with_reducible apply State.sendOpen_walk h
    | with_reducible refine h.foldl _ ?_ ?_
    | with_reducible refine h.foldl_snd _ ?_ ?_
    | with_reducible refine h.foldl_snd_snd _ ?_ ?_
    | dsimp only
    | split

theorem State.beginStreams_walk (h : Respects R) (h0 : R s0 s) :
    R s0 (s.beginStreams) := by
  unfold State.beginStreams
  repeat' first
    | with_reducible assumption
    | with_reducible intro t
    | with_reducible apply h.ite
    | with_reducible apply State.beginStream_walk h
    | with_reducible refine h.foldl _ ?_ ?_
    | with_reducible refine h.foldl_snd _ ?_ ?_
    | with_reducible refine h.foldl_snd_snd _ ?_ ?_
    | dsimp only
    | split

theorem execStreamEnd_walk (h : Respects R) (record : BitVec 14) (h0 : R s0 s) :
   Yields (R s0) (execStreamEnd record s) := by
  unfold execStreamEnd
  repeat' first
    | with_reducible assumption
    | with_reducible intro t
    | with_reducible apply Yields.next
    | with_reducible apply Yields.ite
    | with_reducible apply h.ite
    | with_reducible apply State.stopStream_walk h
    | with_reducible apply State.onNet_walk h
    | with_reducible apply State.received_walk h
    | with_reducible apply State.beginStreams_walk h
    | dsimp only
    | split

theorem State.hoAdmin_walk (h : Respects R) (fm : Bool) (a : Adm) (ok : Bool) {go : State → State}
    (hg : ∀ t, R s0 t → R s0 (go t)) (h0 : R s0 s) : R s0 (s.hoAdmin fm a ok go) :=
  State.admin_walk h fm a ok (fun t ht => h.ite (State.complete_walk h _ _ _ _ _ _ ht) (hg t ht)) h0

theorem execHoCreate_walk (h : Respects R) (a : Adm) (p : Byte) (cls : Byte) (count : Byte) (extents : List Extent) (inline : Line) (h0 : R s0 s) :
   Yields (R s0) (execHoCreate a p cls count extents inline s) := by
  unfold execHoCreate
  repeat' first
    | with_reducible assumption
    | with_reducible intro t
    | with_reducible apply Yields.next
    | with_reducible apply Yields.ite
    | with_reducible apply h.ite
    | with_reducible apply State.hoAdmin_walk h
    | with_reducible apply State.count_walk h
    | with_reducible apply State.complete_walk h
    | with_reducible apply State.setRecord_walk h
    | with_reducible apply State.holdRecord_walk h
    | dsimp only
    | split

theorem execHoArm_walk (h : Respects R) (a : Adm) (p : Byte) (srcDevice : BitVec 16) (srcHandle : Handle) (obj : Handle) (capacity : Word) (h0 : R s0 s) :
   Yields (R s0) (execHoArm a p srcDevice srcHandle obj capacity s) := by
  unfold execHoArm
  repeat' first
    | with_reducible assumption
    | with_reducible intro t
    | with_reducible apply Yields.next
    | with_reducible apply Yields.ite
    | with_reducible apply h.ite
    | with_reducible apply State.hoAdmin_walk h
    | with_reducible apply State.complete_walk h
    | with_reducible apply State.hubWalks_walk h
    | with_reducible apply State.setRecord_walk h
    | with_reducible apply State.holdRecord_walk h
    | dsimp only
    | split

theorem execHoOffer_walk (h : Respects R) (a : Adm) (record : Handle) (dstDevice : BitVec 16) (dstHandle : Handle) (h0 : R s0 s) :
   Yields (R s0) (execHoOffer a record dstDevice dstHandle s) := by
  unfold execHoOffer
  repeat' first
    | with_reducible assumption
    | with_reducible intro t
    | with_reducible apply Yields.next
    | with_reducible apply Yields.ite
    | with_reducible apply h.ite
    | with_reducible apply State.hoAdmin_walk h
    | with_reducible apply State.complete_walk h
    | with_reducible apply State.enterRecord_walk h
    | with_reducible apply State.hoToDest_walk h
    | with_reducible apply State.onNet_walk h
    | with_reducible apply State.beginStreams_walk h
    | dsimp only
    | split

theorem execHoFree_walk (h : Respects R) (a : Adm) (record : Handle) (h0 : R s0 s) :
   Yields (R s0) (execHoFree a record s) := by
  unfold execHoFree
  repeat' first
    | with_reducible assumption
    | with_reducible intro t
    | with_reducible apply Yields.next
    | with_reducible apply Yields.ite
    | with_reducible apply h.ite
    | with_reducible apply State.hoAdmin_walk h
    | with_reducible apply State.complete_walk h
    | with_reducible apply State.freeRecord_walk h
    | dsimp only
    | split

theorem execHoRead_walk (h : Respects R) (a : Adm) (record : Handle) (dst : Word) (h0 : R s0 s) :
   Yields (R s0) (execHoRead a record dst s) := by
  unfold execHoRead
  repeat' first
    | with_reducible assumption
    | with_reducible intro t
    | with_reducible apply Yields.next
    | with_reducible apply Yields.ite
    | with_reducible apply h.ite
    | with_reducible apply State.hoAdmin_walk h
    | with_reducible apply State.emit_walk h
    | with_reducible apply State.complete_walk h
    | dsimp only
    | split

theorem State.hoRule_walk (h : Respects R) (a : Adm) (state : Byte) (record : Handle) (epoch : BitVec 32)
    (admits : HoRecord → Bool) {go : State → Nat → HoRecord → State} (hg : ∀ t k r, R s0 t → R s0 (go t k r)) (h0 : R s0 s) :
    R s0 (s.hoRule a state record epoch admits go) := by
  refine State.hoAdmin_walk h true a _ (fun t ht => ?_) h0
  split
  · exact State.complete_walk h _ _ _ _ _ _ ht
  · refine h.ite (State.complete_walk h _ _ _ _ _ _ ht) (h.ite (State.complete_walk h _ _ _ _ _ _ ht) ?_)
    exact State.complete_walk h _ _ _ _ _ _ (State.beginStreams_walk h (hg _ _ _ ht))

theorem execHoRuleSource_walk (h : Respects R) (a : Adm) (state : Byte) (record : Handle) (epoch : BitVec 32) (h0 : R s0 s) :
   Yields (R s0) (execHoRuleSource a state record epoch s) := by
  unfold execHoRuleSource
  repeat' first
    | with_reducible assumption
    | with_reducible intro t
    | with_reducible apply Yields.next
    | with_reducible apply Yields.ite
    | with_reducible apply State.hoRule_walk h
    | with_reducible apply State.enterRecord_walk h

theorem execHoRuleDestination_walk (h : Respects R) (a : Adm) (state : Byte) (record : Handle) (epoch : BitVec 32) (h0 : R s0 s) :
   Yields (R s0) (execHoRuleDestination a state record epoch s) := by
  unfold execHoRuleDestination
  repeat' first
    | with_reducible assumption
    | with_reducible intro t
    | with_reducible apply Yields.next
    | with_reducible apply Yields.ite
    | with_reducible apply h.ite
    | with_reducible apply State.hoRule_walk h
    | with_reducible apply State.enterRecord_walk h
    | with_reducible apply State.hoToDest_walk h
    | dsimp only
    | split

theorem execHoRuleLost_walk (h : Respects R) (a : Adm) (state : Byte) (record : Handle) (epoch : BitVec 32) (h0 : R s0 s) :
   Yields (R s0) (execHoRuleLost a state record epoch s) := by
  unfold execHoRuleLost
  repeat' first
    | with_reducible assumption
    | with_reducible intro t
    | with_reducible apply Yields.next
    | with_reducible apply Yields.ite
    | with_reducible apply State.hoRule_walk h
    | with_reducible apply State.hoEvent_walk h
    | with_reducible apply State.freeRecord_walk h

theorem execHoRuleKeep_walk (h : Respects R) (a : Adm) (state : Byte) (record : Handle) (epoch : BitVec 32) (h0 : R s0 s) :
   Yields (R s0) (execHoRuleKeep a state record epoch s) := by
  unfold execHoRuleKeep
  repeat' first
    | with_reducible assumption
    | with_reducible intro t
    | with_reducible apply Yields.next
    | with_reducible apply Yields.ite
    | with_reducible apply State.hoRule_walk h
    | with_reducible apply State.setRecord_walk h

theorem execHoRuleDrop_walk (h : Respects R) (a : Adm) (state : Byte) (record : Handle) (epoch : BitVec 32) (h0 : R s0 s) :
   Yields (R s0) (execHoRuleDrop a state record epoch s) := by
  unfold execHoRuleDrop
  repeat' first
    | with_reducible assumption
    | with_reducible intro t
    | with_reducible apply Yields.next
    | with_reducible apply Yields.ite
    | with_reducible apply State.hoRule_walk h
    | with_reducible apply State.freeRecord_walk h

theorem State.hoMessage_walk (h : Respects R) (m : HoMsg) (type : Nat) (toSource : Bool) {go : State → State}
    (hg : ∀ t, R s0 t → R s0 (go t)) (h0 : R s0 s) : R s0 (s.hoMessage m type toSource go) := by
  unfold State.hoMessage
  exact h.ite (hg _ h0) (State.sendHo_walk h _ _ _ _ _ _ _ _ _ h0)

theorem State.hoReply_walk (h : Respects R) (m : HoMsg) (toSource : Bool) (type : Nat) (code : Nat) (epoch : Nat) (h0 : R s0 s) :
   R s0 (s.hoReply m toSource type code epoch) := by
  unfold State.hoReply
  repeat' first
    | with_reducible assumption
    | with_reducible apply h.ite
    | with_reducible apply State.sendHo_walk h
    | dsimp only
    | split

theorem execOffer_walk (h : Respects R) (m : HoMsg) (h0 : R s0 s) :
   Yields (R s0) (execOffer m s) := by
  unfold execOffer
  repeat' first
    | with_reducible assumption
    | with_reducible intro t
    | with_reducible apply Yields.next
    | with_reducible apply Yields.ite
    | with_reducible apply h.ite
    | with_reducible apply State.hoMessage_walk h
    | with_reducible apply State.hoReply_walk h
    | with_reducible apply State.enterRecord_walk h
    | dsimp only
    | split

theorem State.openFlit_walk (h : Respects R) (x : OpenHdr) (otype : Nat) (deadline : Option Nat) (payload : List Line)
    {go : State → State} (hg : ∀ t, R s0 t → R s0 (go t)) (h0 : R s0 s) : R s0 (s.openFlit x otype deadline payload go) := by
  unfold State.openFlit
  exact h.ite (hg _ h0) (State.sendOpen_walk h _ _ h0)

theorem execStream_walk (h : Respects R) (h_ : OpenHdr) (data : BitVec 2048) (h0 : R s0 s) :
   Yields (R s0) (execStream h_ data s) := by
  unfold execStream
  repeat' first
    | with_reducible assumption
    | with_reducible intro t
    | with_reducible apply Yields.next
    | with_reducible apply Yields.ite
    | with_reducible apply State.openFlit_walk h
    | with_reducible apply State.setRecord_walk h
    | with_reducible apply State.received_walk h
    | dsimp only
    | split

theorem State.commitTail_walk (h : RespectsLines R) (p : Nat) (o : MemObj) (tail : Nat) (data : List Byte) (h0 : R s0 s) :
   R s0 (s.commitTail p o tail data) := by
  unfold State.commitTail
  repeat' first
    | with_reducible assumption
    | with_reducible intro t
    | with_reducible apply State.writeLine_walk h
    | with_reducible apply State.logObject_walk h.toRespects
    | with_reducible refine h.toRespects.foldl _ ?_ ?_
    | with_reducible refine h.toRespects.foldl_snd _ ?_ ?_
    | with_reducible refine h.toRespects.foldl_snd_snd _ ?_ ?_
    | dsimp only
    | split

theorem execTrailer_walk (h : RespectsLines R) (record : BitVec 14) (epoch : BitVec 32) (length : Word) (digest : BitVec 256) (h0 : R s0 s) :
   Yields (R s0) (execTrailer record epoch length digest s) := by
  unfold execTrailer
  repeat' first
    | with_reducible assumption
    | with_reducible intro t
    | with_reducible apply Yields.next
    | with_reducible apply Yields.ite
    | with_reducible apply h.toRespects.ite
    | with_reducible apply State.received_walk h.toRespects
    | with_reducible apply State.enterRecord_walk h.toRespects
    | with_reducible apply State.hoToSource_walk h.toRespects
    | with_reducible apply State.commitTail_walk h
    | with_reducible apply State.setObj_walk h.toRespects
    | dsimp only
    | split

theorem State.hoTaken_walk (h : Respects R) (k : Nat) (r : HoRecord) (h0 : R s0 s) :
   R s0 (s.hoTaken k r) := by
  unfold State.hoTaken
  repeat' first
    | with_reducible assumption
    | with_reducible apply State.enterRecord_walk h
    | with_reducible apply State.hoToDest_walk h
    | with_reducible apply State.beginStreams_walk h

theorem execTaken_walk (h : Respects R) (m : HoMsg) (h0 : R s0 s) :
   Yields (R s0) (execTaken m s) := by
  unfold execTaken
  repeat' first
    | with_reducible assumption
    | with_reducible intro t
    | with_reducible apply Yields.next
    | with_reducible apply Yields.ite
    | with_reducible apply h.ite
    | with_reducible apply State.hoMessage_walk h
    | with_reducible apply State.hoTaken_walk h
    | with_reducible apply State.hoToDest_walk h
    | with_reducible apply State.hoReply_walk h
    | with_reducible apply State.hoEvent_walk h
    | dsimp only
    | split

theorem execReleased_walk (h : Respects R) (m : HoMsg) (h0 : R s0 s) :
   Yields (R s0) (execReleased m s) := by
  unfold execReleased
  repeat' first
    | with_reducible assumption
    | with_reducible intro t
    | with_reducible apply Yields.next
    | with_reducible apply Yields.ite
    | with_reducible apply h.ite
    | with_reducible apply State.hoMessage_walk h
    | with_reducible apply State.setRecord_walk h
    | with_reducible apply State.hoDiscard_walk h
    | dsimp only
    | split

theorem execRefuse_walk (h : Respects R) (m : HoMsg) (h0 : R s0 s) :
   Yields (R s0) (execRefuse m s) := by
  unfold execRefuse
  repeat' first
    | with_reducible assumption
    | with_reducible intro t
    | with_reducible apply Yields.next
    | with_reducible apply Yields.ite
    | with_reducible apply h.ite
    | with_reducible apply State.hoMessage_walk h
    | with_reducible apply State.enterRecord_walk h
    | with_reducible apply State.beginStreams_walk h
    | with_reducible apply State.hoDiscard_walk h
    | dsimp only
    | split

theorem execQuery_walk (h : Respects R) (m : HoMsg) (h0 : R s0 s) :
   Yields (R s0) (execQuery m s) := by
  unfold execQuery
  repeat' first
    | with_reducible assumption
    | with_reducible intro t
    | with_reducible apply Yields.next
    | with_reducible apply Yields.ite
    | with_reducible apply h.ite
    | with_reducible apply State.hoMessage_walk h
    | with_reducible apply State.hoReply_walk h
    | with_reducible apply State.enterRecord_walk h
    | dsimp only
    | split

theorem execAnswer_walk (h : Respects R) (m : HoMsg) (h0 : R s0 s) :
   Yields (R s0) (execAnswer m s) := by
  unfold execAnswer
  repeat' first
    | with_reducible assumption
    | with_reducible intro t
    | with_reducible apply Yields.next
    | with_reducible apply Yields.ite
    | with_reducible apply h.ite
    | with_reducible apply State.hoMessage_walk h
    | with_reducible apply State.hoDiscard_walk h
    | with_reducible apply State.hoTaken_walk h
    | with_reducible apply State.hoEvent_walk h
    | with_reducible apply State.freeRecord_walk h
    | with_reducible apply State.beginStreams_walk h
    | with_reducible apply State.enterRecord_walk h
    | dsimp only
    | split

theorem execStale_walk (h : Respects R) (m : HoMsg) (h0 : R s0 s) :
   Yields (R s0) (execStale m s) := by
  unfold execStale
  repeat' first
    | with_reducible assumption
    | with_reducible intro t
    | with_reducible apply Yields.next
    | with_reducible apply Yields.ite
    | with_reducible apply h.ite
    | with_reducible apply State.hoMessage_walk h
    | with_reducible apply State.hoEvent_walk h
    | with_reducible apply State.freeRecord_walk h
    | with_reducible apply State.hoDiscard_walk h
    | dsimp only
    | split

theorem execHoldQueryExpiry_walk (h : Respects R) (record : BitVec 14) (h0 : R s0 s) :
   Yields (R s0) (execHoldQueryExpiry record s) := by
  unfold execHoldQueryExpiry
  repeat' first
    | with_reducible assumption
    | with_reducible apply Yields.next
    | with_reducible apply Yields.ite
    | with_reducible apply h.ite
    | with_reducible apply State.atLeast_walk h
    | with_reducible apply State.setRecord_walk h
    | with_reducible apply State.hoEvent_walk h
    | with_reducible apply State.hoToDest_walk h
    | dsimp only
    | split

theorem execTakenResend_walk (h : Respects R) (record : BitVec 14) (h0 : R s0 s) :
   Yields (R s0) (execTakenResend record s) := by
  unfold execTakenResend
  repeat' first
    | with_reducible assumption
    | with_reducible apply Yields.next
    | with_reducible apply Yields.ite
    | with_reducible apply h.ite
    | with_reducible apply State.atLeast_walk h
    | with_reducible apply State.setRecord_walk h
    | with_reducible apply State.hoEvent_walk h
    | with_reducible apply State.hoToSource_walk h
    | dsimp only
    | split

theorem execHoHoldLimit_walk (h : Respects R) (record : BitVec 14) (h0 : R s0 s) :
   Yields (R s0) (execHoHoldLimit record s) := by
  unfold execHoHoldLimit
  repeat' first
    | with_reducible assumption
    | with_reducible apply Yields.next
    | with_reducible apply Yields.ite
    | with_reducible apply h.ite
    | with_reducible apply State.atLeast_walk h
    | with_reducible apply State.setRecord_walk h
    | with_reducible apply State.hoEvent_walk h
    | dsimp only
    | split

end Sys2Proof.Machine
end

