-- ==== Sys2Proof/Laws/WalkScope.lean ====
section
/-! SUPPORT. What each operation of Machine/Scope.lean can do: it walks through the primitive changes of `Respects`. -/

set_option linter.unusedTactic false
set_option linter.unreachableTactic false

namespace Sys2Proof.Machine

variable {R : State → State → Prop} {s0 s : State}

theorem State.zeroiseSlice_walk (h : Respects R) (sl : Nat) (h0 : R s0 s) :
   R s0 (s.zeroiseSlice sl) := by
  unfold State.zeroiseSlice
  repeat' first
    | with_reducible assumption
    | with_reducible intro t
    | with_reducible apply State.setTile_walk h
    | with_reducible apply State.setTileBusy_walk h
    | with_reducible apply State.setCluster_walk h
    | with_reducible apply State.setSeqr_walk h
    | with_reducible refine h.foldl _ ?_ ?_
    | with_reducible refine h.foldl_snd _ ?_ ?_
    | with_reducible refine h.foldl_snd_snd _ ?_ ?_

theorem State.resetRecords_walk (h : Respects R) (p : Nat) (h0 : R s0 s) :
   R s0 (s.resetRecords p) := by
  unfold State.resetRecords
  repeat' first
    | with_reducible assumption
    | with_reducible intro t
    | with_reducible apply h.ite
    | with_reducible apply State.stopStreams_walk h
    | with_reducible apply State.onHost_walk h
    | with_reducible apply State.onNet_walk h
    | with_reducible refine h.foldl _ ?_ ?_
    | with_reducible refine h.foldl_snd _ ?_ ?_
    | with_reducible refine h.foldl_snd_snd _ ?_ ?_
    | dsimp only
    | split

theorem State.anneal_walk (h : Respects R) (p : Nat) (h0 : R s0 s) :
   R s0 (s.anneal p) := by
  unfold State.anneal
  repeat' first
    | with_reducible assumption
    | with_reducible intro t
    | with_reducible apply h.ite
    | with_reducible apply State.set_walk h
    | with_reducible apply State.dropSession_walk h
    | with_reducible apply State.onSec_walk h
    | with_reducible apply State.zeroiseSlice_walk h
    | with_reducible apply State.setSeqr_walk h
    | with_reducible apply State.setEvc_walk h
    | with_reducible apply State.resetRecords_walk h
    | with_reducible apply State.emptyQueues_walk h
    | with_reducible apply State.onEngines_walk h
    | with_reducible apply State.complete_walk h
    | with_reducible apply State.destroyImage_walk h
    | with_reducible apply State.onHost_walk h
    | with_reducible apply State.sweepObj_walk h
    | with_reducible apply State.destroyFence_walk h
    | with_reducible apply State.dropFields_walk h
    | with_reducible refine h.foldl _ ?_ ?_
    | with_reducible refine h.foldl_snd _ ?_ ?_
    | with_reducible refine h.foldl_snd_snd _ ?_ ?_
    | with_reducible refine h.onMem ?_ rfl id
    | dsimp only
    | split

theorem State.endAnneal_walk (h : Respects R) (r : ResetRun) (overwritten : Bool) (h0 : R s0 s) :
   R s0 (s.endAnneal r overwritten) := by
  unfold State.endAnneal
  repeat' first
    | with_reducible assumption
    | exact (fun _ ht => ht : ∀ t, R s0 t → R s0 t)
    | with_reducible intro t
    | with_reducible apply h.ite
    | with_reducible apply State.dropFields_walk h
    | with_reducible apply State.onBus_walk h
    | with_reducible apply State.set_walk h
    | with_reducible apply State.level_walk h
    | with_reducible apply State.onBoot_walk h
    | with_reducible apply State.setLine_walk h
    | with_reducible apply State.toPool_walk h
    | with_reducible apply State.onNet_walk h
    | with_reducible apply State.onSec_walk h
    | with_reducible apply State.onHost_walk h
    | with_reducible apply State.unrefObj_walk h
    | with_reducible apply State.emptyRings_walk h
    | with_reducible apply State.onInsts_walk h
    | with_reducible apply State.complete_walk h
    | with_reducible refine h.foldl _ ?_ ?_
    | with_reducible refine h.foldl_snd _ ?_ ?_
    | with_reducible refine h.foldl_snd_snd _ ?_ ?_
    | dsimp only
    | split

theorem State.startAnneal_walk (h : Respects R) (p : Nat) (destroy : Bool) (adm : Option Adm) (h0 : R s0 s) :
   R s0 (s.startAnneal p destroy adm) := by
  unfold State.startAnneal
  repeat' first
    | with_reducible assumption
    | with_reducible intro t
    | with_reducible apply h.ite
    | with_reducible apply State.finishKills_walk h
    | with_reducible apply State.idleUnits_walk h
    | with_reducible apply State.cancelItem_walk h
    | with_reducible apply State.setLine_walk h
    | with_reducible apply State.setSlicePower_walk h
    | with_reducible apply State.anneal_walk h
    | with_reducible apply State.onBoot_walk h
    | with_reducible apply State.endAnneal_walk h
    | with_reducible refine h.foldl _ ?_ ?_
    | with_reducible refine h.foldl_snd _ ?_ ?_
    | with_reducible refine h.foldl_snd_snd _ ?_ ?_
    | dsimp only
    | split

theorem State.withdrawAbort_walk (h : Respects R) (p : Nat) (c : Cmd) (cause : Cause) (h0 : R s0 s) :
   R s0 (s.withdrawAbort p c cause) := by
  unfold State.withdrawAbort
  repeat' first
    | with_reducible assumption
    | with_reducible apply h.ite
    | with_reducible apply State.withdraw_walk h
    | with_reducible apply State.sendMask_walk h
    | dsimp only
    | split

theorem State.withdrawAll_walk (h : Respects R) (p : Nat) (cause : Cause) (ks : List (Cmd × Ending)) (h0 : R s0 s) :
   R s0 (s.withdrawAll p cause ks) := by
  unfold State.withdrawAll
  repeat' first
    | with_reducible assumption
    | with_reducible intro t
    | with_reducible apply State.withdrawAbort_walk h
    | with_reducible apply State.killCmds_walk h
    | with_reducible refine h.foldl _ ?_ ?_
    | with_reducible refine h.foldl_snd _ ?_ ?_
    | with_reducible refine h.foldl_snd_snd _ ?_ ?_

theorem State.squash_walk (h : Respects R) (i : Nat) (h0 : R s0 s) :
   R s0 (s.squash i) := by
  unfold State.squash
  repeat' first
    | with_reducible assumption
    | with_reducible intro t
    | with_reducible apply State.withdrawAll_walk h
    | dsimp only
    | split

theorem State.contextReset_walk (h : Respects R) (i : Nat) (adm : Option Adm) (h0 : R s0 s) :
   R s0 (s.contextReset i adm) := by
  unfold State.contextReset
  repeat' first
    | with_reducible assumption
    | with_reducible apply State.squash_walk h
    | with_reducible apply State.setInst_walk h
    | with_reducible apply State.settleInst_walk h
    | dsimp only
    | split

theorem State.startSeq_walk (h : Respects R) (sl : Nat) (h0 : R s0 s) :
   R s0 (s.startSeq sl) := by
  unfold State.startSeq
  repeat' first
    | with_reducible assumption
    | with_reducible apply State.set_walk h
    | with_reducible apply State.setSeqr_walk h

theorem State.engineReset_walk (h : Respects R) (sl : Nat) (mask : Nat) (h0 : R s0 s) :
   R s0 (s.engineReset sl mask) := by
  unfold State.engineReset
  repeat' first
    | with_reducible assumption
    | with_reducible intro t
    | with_reducible apply h.ite
    | with_reducible apply State.setTile_walk h
    | with_reducible apply State.setTileBusy_walk h
    | with_reducible apply State.setSeqr_walk h
    | with_reducible apply State.setEvc_walk h
    | with_reducible apply State.set_walk h
    | with_reducible apply State.dropFields_walk h
    | with_reducible apply State.startSeq_walk h
    | with_reducible refine h.foldl _ ?_ ?_
    | with_reducible refine h.foldl_snd _ ?_ ?_
    | with_reducible refine h.foldl_snd_snd _ ?_ ?_
    | dsimp only
    | split

theorem State.recordsOfAll_walk (h : Respects R) (code : Nat) (h0 : R s0 s) :
   R s0 (s.recordsOfAll code) := by
  unfold State.recordsOfAll
  repeat' first
    | with_reducible assumption
    | with_reducible intro t
    | with_reducible apply h.ite
    | with_reducible apply State.voidAlloy_walk h
    | with_reducible apply State.setLine_walk h
    | with_reducible apply State.postFinal_walk h
    | with_reducible refine h.foldl _ ?_ ?_
    | with_reducible refine h.foldl_snd _ ?_ ?_
    | with_reducible refine h.foldl_snd_snd _ ?_ ?_
    | dsimp only
    | split

theorem State.closeAll_walk (h : Respects R) (cause : Nat) (h0 : R s0 s) :
   R s0 (s.closeAll cause) := by
  unfold State.closeAll
  repeat' first
    | with_reducible assumption
    | with_reducible intro t
    | with_reducible apply State.emit_walk h
    | with_reducible refine h.foldl _ ?_ ?_
    | with_reducible refine h.foldl_snd _ ?_ ?_
    | with_reducible refine h.foldl_snd_snd _ ?_ ?_

theorem State.reload_walk (h : Respects R) (h0 : R s0 s) :
    R s0 (s.reload) := by
  unfold State.reload
  repeat' first
    | with_reducible assumption
    | with_reducible apply State.set_walk h

theorem State.restart_walk (h : Respects R) (cause fault : Nat) (h0 : R s0 s) : R s0 (s.restart cause fault) := by
  unfold State.restart
  have h1 := State.dropFields_walk h (fun _ _ f => decide (f.kept ≠ .device)) h0
  have h2 := h.trans (h.trans h1 (h.side _ s.now HostSide.reset .empty [] { NetState.reset with frac := s.net.frac } .empty .empty
    EngineState.reset s.plant)) (h.mem _ { MemState.reset with lines := s.mem.lines, salt := s.mem.salt + 1 } rfl fun _ => rfl)
  refine State.reload_walk h (State.set_walk h _ _ _ (State.set_walk h _ _ _ (State.set_walk h _ _ _
    (h.ite (State.raise_walk h _ _ ?_) ?_))))
  all_goals exact State.onPlant_walk h _ h2

theorem State.assertFault_walk (h : Respects R) (h0 : R s0 s) :
    R s0 (s.assertFault) := by
  unfold State.assertFault
  repeat' first
    | with_reducible assumption
    | with_reducible intro t
    | with_reducible apply h.ite
    | with_reducible apply State.onPins_walk h
    | with_reducible apply State.onSide_walk h
    | dsimp only
    | split

theorem State.deviceReset_walk (h : Respects R) (records : Bool) (cause : Nat) (fault : Nat) (h0 : R s0 s) :
   R s0 (s.deviceReset records cause fault) := by
  unfold State.deviceReset
  repeat' first
    | with_reducible assumption
    | with_reducible apply h.ite
    | with_reducible apply State.recordsOfAll_walk h
    | with_reducible apply State.closeAll_walk h
    | with_reducible apply State.assertFault_walk h
    | with_reducible apply State.restart_walk h
    | dsimp only
    | split

theorem State.powerCycle_walk (h : Respects R) (h0 : R s0 s) :
    R s0 (s.powerCycle) := by
  unfold State.powerCycle
  repeat' first
    | with_reducible assumption
    | with_reducible intro t
    | with_reducible apply h.ite
    | with_reducible apply State.stopUnits_walk h
    | with_reducible apply State.recordsOfAll_walk h
    | with_reducible apply State.closeAll_walk h
    | with_reducible apply State.assertFault_walk h
    | with_reducible apply State.raise_walk h
    | with_reducible apply State.onPins_walk h
    | with_reducible apply State.onSide_walk h
    | with_reducible refine h.foldl _ ?_ ?_
    | with_reducible refine h.foldl_snd _ ?_ ?_
    | with_reducible refine h.foldl_snd_snd _ ?_ ?_
    | dsimp only
    | split

theorem State.hubFault_walk (h : Respects R) (posted : Bool) (h0 : R s0 s) :
   R s0 (s.hubFault posted) := by
  unfold State.hubFault
  repeat' first
    | with_reducible assumption
    | with_reducible apply h.ite
    | with_reducible apply State.assertFault_walk h
    | with_reducible apply State.recordsOfAll_walk h
    | with_reducible apply State.raise_walk h
    | with_reducible apply State.deviceReset_walk h
    | dsimp only
    | split

theorem State.escalated_walk (h : Respects R) (h0 : R s0 s) :
    R s0 (s.escalated) := by
  unfold State.escalated
  repeat' first
    | with_reducible assumption
    | with_reducible apply State.raise_walk h

end Sys2Proof.Machine
end

