-- ==== Sys2Proof/Laws/WalkNetwork.lean ====
section
/-! SUPPORT. What each operation of Machine/Network.lean can do: it walks through the primitive changes of `Respects`. -/

set_option linter.unusedTactic false
set_option linter.unreachableTactic false

namespace Sys2Proof.Machine

variable {R : State → State → Prop} {s0 s : State}

theorem State.routerFault_walk (h : Respects R) (n : Nat) (h0 : R s0 s) :
   R s0 (s.routerFault n) := by
  unfold State.routerFault
  repeat' first
    | with_reducible assumption
    | with_reducible apply h.ite
    | with_reducible apply State.bump_walk h
    | with_reducible apply State.raise_walk h
    | with_reducible apply State.setBits_walk h
    | with_reducible apply State.faultAll_walk h
    | dsimp only
    | split

theorem State.takeStream_walk (h : Respects R) (key : Nat) (w : Nat) (tick : Nat) (h0 : R s0 s) :
   R s0 (s.takeStream key w tick).2 := by
  unfold State.takeStream
  repeat' first
    | with_reducible assumption
    | with_reducible intro t
    | with_reducible refine h.onMem ?_ rfl id
    | dsimp only
    | split

theorem State.present_walk (h : Respects R) (p : Nat) (n : Nat) (out : Nat) (tick : Nat) (units : List Line) (h0 : R s0 s) :
   R s0 (s.present p n out tick units).2 := by
  unfold State.present
  repeat' first
    | with_reducible assumption
    | with_reducible intro t
    | with_reducible apply h.ite
    | with_reducible apply State.setPort_walk h
    | with_reducible apply State.setNode_walk h
    | with_reducible refine h.foldl _ ?_ ?_
    | with_reducible refine h.foldl_snd _ ?_ ?_
    | with_reducible refine h.foldl_snd_snd _ ?_ ?_
    | dsimp only
    | split

theorem State.takeUnits_walk (h : Respects R) (p : Nat) (n : Nat) (port : Nat) (tick : Nat) (w : Nat) (h0 : R s0 s) :
   R s0 (s.takeUnits p n port tick w).2 := by
  unfold State.takeUnits
  repeat' first
    | with_reducible assumption
    | with_reducible intro t
    | with_reducible apply State.setPort_walk h
    | with_reducible apply State.settlePause_walk h
    | with_reducible apply State.setNode_walk h
    | with_reducible refine h.foldl _ ?_ ?_
    | with_reducible refine h.foldl_snd _ ?_ ?_
    | with_reducible refine h.foldl_snd_snd _ ?_ ?_
    | dsimp only
    | split

theorem State.writeRtrOwn_walk (h : Respects R) (n : Nat) (value : Nat) (h0 : R s0 s) :
   R s0 (s.writeRtrOwn n value) := by
  unfold State.writeRtrOwn
  repeat' first
    | with_reducible assumption
    | with_reducible intro t
    | with_reducible apply h.ite
    | with_reducible apply State.raise_walk h
    | with_reducible apply State.set_walk h
    | with_reducible refine h.foldl _ ?_ ?_
    | with_reducible refine h.foldl_snd _ ?_ ?_
    | with_reducible refine h.foldl_snd_snd _ ?_ ?_
    | dsimp only
    | split

theorem State.writeLnkOwn_walk (h : Respects R) (lp : Nat) (value : Nat) (h0 : R s0 s) :
   R s0 (s.writeLnkOwn lp value) := by
  unfold State.writeLnkOwn
  repeat' first
    | with_reducible assumption
    | with_reducible intro t
    | with_reducible apply h.ite
    | with_reducible apply State.raise_walk h
    | with_reducible apply State.set_walk h
    | with_reducible refine h.foldl _ ?_ ?_
    | with_reducible refine h.foldl_snd _ ?_ ?_
    | with_reducible refine h.foldl_snd_snd _ ?_ ?_
    | dsimp only
    | split

theorem State.noteUse_walk (h : Respects R) (sl : Nat) (p : Nat) (va : Nat) (h0 : R s0 s) :
   R s0 (s.noteUse sl p va) := by
  unfold State.noteUse
  repeat' first
    | with_reducible assumption
    | with_reducible intro t
    | with_reducible refine h.onMem ?_ rfl id
    | dsimp only
    | split

theorem execMicroTlbRequest_walk (h : Respects R) (slice : SliceNo) (stream : BitVec 6) (line : BitVec 40) (h0 : R s0 s) :
   Yields (R s0) (execMicroTlbRequest slice stream line s) := by
  unfold execMicroTlbRequest
  repeat' first
    | with_reducible assumption
    | with_reducible intro t
    | with_reducible apply Yields.next
    | with_reducible apply Yields.ite
    | with_reducible apply h.ite
    | with_reducible apply State.noteUse_walk h
    | with_reducible refine h.onMem ?_ rfl id
    | dsimp only
    | split

theorem State.refreshRound_walk (h : Respects R) (ch : Nat) (kind : Nat) (h0 : R s0 s) :
   R s0 (s.refreshRound ch kind) := by
  unfold State.refreshRound
  repeat' first
    | with_reducible assumption
    | with_reducible apply State.setChannel_walk h
    | with_reducible apply State.count_walk h

theorem State.refreshAll_walk (h : Respects R) (h0 : R s0 s) :
    R s0 (s.refreshAll) := by
  unfold State.refreshAll
  repeat' first
    | with_reducible assumption
    | with_reducible intro t
    | with_reducible apply h.ite
    | with_reducible apply State.refreshRound_walk h
    | with_reducible refine h.foldl _ ?_ ?_
    | with_reducible refine h.foldl_snd _ ?_ ?_
    | with_reducible refine h.foldl_snd_snd _ ?_ ?_
    | dsimp only
    | split

theorem State.restartFrames_walk (h : Respects R) (h0 : R s0 s) :
    R s0 (s.restartFrames) := by
  unfold State.restartFrames
  repeat' first
    | with_reducible assumption
    | with_reducible intro t
    | with_reducible apply State.onEngines_walk h
    | with_reducible refine h.foldl _ ?_ ?_
    | with_reducible refine h.foldl_snd _ ?_ ?_
    | with_reducible refine h.foldl_snd_snd _ ?_ ?_
    | with_reducible refine h.onMem ?_ rfl id

theorem State.overwrite_walk (h : RespectsLines R) (chans : List Nat) (h0 : R s0 s) : R s0 (s.overwrite chans) := by
  unfold State.overwrite
  refine h.onMem h0 fun w => ?_
  unfold Memory.wf at w ⊢
  rw [Bool.and_eq_true] at w ⊢
  exact ⟨FMap.wf_keep w.1 _, w.2⟩

theorem State.exhaust_walk (h : Respects R) (ch : Nat) (h0 : R s0 s) :
   R s0 (s.exhaust ch) := by
  unfold State.exhaust
  repeat' first
    | with_reducible assumption
    | with_reducible apply h.ite
    | with_reducible apply State.raise_walk h
    | with_reducible apply State.faultPtn_walk h
    | dsimp only
    | split

theorem State.takeSpares_walk (h : Respects R) (ch : Nat) (lanes : List Nat) (h0 : R s0 s) :
   R s0 (s.takeSpares ch lanes) := by
  unfold State.takeSpares
  repeat' first
    | with_reducible assumption
    | with_reducible intro t
    | with_reducible apply State.set_walk h
    | with_reducible apply State.setChannel_walk h

theorem State.steerMarked_walk (h : Respects R) (ch : Nat) (h0 : R s0 s) :
   R s0 (s.steerMarked ch) := by
  unfold State.steerMarked
  repeat' first
    | with_reducible assumption
    | with_reducible intro t
    | with_reducible apply h.ite
    | with_reducible apply State.takeSpares_walk h
    | with_reducible apply State.set_walk h
    | with_reducible apply State.setChannel_walk h
    | with_reducible apply State.onBoot_walk h
    | with_reducible apply State.exhaust_walk h
    | dsimp only
    | split

theorem State.laneCheck_walk (h : Respects R) (ch : Nat) (marked : Option Nat) (fails : LaneFails) (h0 : R s0 s) :
   R s0 (s.laneCheck ch marked fails) := by
  unfold State.laneCheck
  repeat' first
    | with_reducible assumption
    | with_reducible intro t
    | with_reducible apply h.ite
    | with_reducible apply State.bump_walk h
    | with_reducible apply State.takeSpares_walk h
    | with_reducible apply State.exhaust_walk h
    | with_reducible apply State.raise_walk h
    | with_reducible apply State.set_walk h
    | with_reducible apply State.setChannel_walk h
    | dsimp only
    | split

theorem State.scrub_walk (h : Respects R) (ch : Nat) (errs : List LineError) (h0 : R s0 s) :
   R s0 (s.scrub ch errs) := by
  unfold State.scrub
  repeat' first
    | with_reducible assumption
    | with_reducible intro t
    | with_reducible apply State.setChannel_walk h
    | with_reducible apply State.noteLine_walk h
    | with_reducible refine h.onMem ?_ rfl id
    | dsimp only
    | split

theorem State.reserveReads_walk (h : Respects R) (ch : Nat) (errs : List LineError) (lines : List (BitVec 21)) (h0 : R s0 s) :
   R s0 (s.reserveReads ch errs lines) := by
  unfold State.reserveReads
  repeat' first
    | with_reducible assumption
    | with_reducible intro t
    | with_reducible apply h.ite
    | with_reducible apply State.noteLines_walk h
    | with_reducible apply State.hubFault_walk h
    | dsimp only
    | split

theorem execRefreshWindow_walk (h : Respects R) (channel : BitVec 10) (fails : LaneFails) (reads : WindowReads) (h0 : R s0 s) :
   Yields (R s0) (execRefreshWindow channel fails reads s) := by
  unfold execRefreshWindow
  repeat' first
    | with_reducible assumption
    | with_reducible apply Yields.next
    | with_reducible apply Yields.ite
    | with_reducible apply h.ite
    | with_reducible apply State.touchChannel_walk h
    | with_reducible apply State.meetErrors_walk h
    | with_reducible apply State.refreshRound_walk h
    | with_reducible apply State.setChannel_walk h
    | with_reducible apply State.steerMarked_walk h
    | with_reducible apply State.laneCheck_walk h
    | with_reducible apply State.scrub_walk h
    | with_reducible apply State.reserveReads_walk h
    | dsimp only
    | split

theorem execHoldRefresh_walk (h : Respects R) (channel : BitVec 10) (h0 : R s0 s) :
   Yields (R s0) (execHoldRefresh channel s) := by
  unfold execHoldRefresh
  repeat' first
    | with_reducible assumption
    | with_reducible apply Yields.next
    | with_reducible apply Yields.ite
    | with_reducible apply h.ite
    | with_reducible apply State.refreshRound_walk h
    | dsimp only
    | split

end Sys2Proof.Machine
end

