-- ==== Sys2Proof/Laws/WalkSegment.lean ====
section
/-! SUPPORT. What each operation of Machine/Segment.lean can do: it walks through the primitive changes of `Respects`. -/

set_option linter.unusedTactic false
set_option linter.unreachableTactic false

namespace Sys2Proof.Machine

variable {R : State → State → Prop} {s0 s : State}

theorem State.flowErrors_walk (h : Respects R) (e : RunEntry) (bits : List (Bool × Bool)) (h0 : R s0 s) :
   R s0 (s.flowErrors e bits) := by
  unfold State.flowErrors
  repeat' first
    | with_reducible assumption
    | with_reducible intro t
    | with_reducible apply h.ite
    | with_reducible apply State.bitErrors_walk h
    | with_reducible refine h.foldl _ ?_ ?_
    | with_reducible refine h.foldl_snd _ ?_ ?_
    | with_reducible refine h.foldl_snd_snd _ ?_ ?_
    | dsimp only
    | split

theorem State.flowUnits_walk (h : Respects R) (old : State) (us : List BankUse) (p : Nat) (tick : Nat) (e : RunEntry) (f : FlowTick) (h0 : R s0 s) :
   R s0 (s.flowUnits old us p tick e f).2 := by
  unfold State.flowUnits
  repeat' first
    | with_reducible assumption
    | with_reducible intro t
    | with_reducible apply h.ite
    | with_reducible apply State.bundleFault_walk h
    | with_reducible apply State.takeStream_walk h
    | with_reducible apply State.count_walk h
    | with_reducible apply State.takeUnits_walk h
    | dsimp only
    | split

theorem State.runFlow_walk (h : Respects R) (old : State) (us : List BankUse) (p tick : Nat) (e : RunEntry) (f : FlowTick)
    (h0 : R s0 s) : R s0 (s.runFlow old us p tick e f).2 := by
  unfold State.runFlow
  have hf := State.flowUnits_walk h old us p tick e f h0
  dsimp only
  split
  · rename_i hq
    rw [hq] at hf
    exact hf
  · rename_i units bad t hq
    rw [hq] at hf
    have hr : ∀ (l : List Nat) (d : Nat), R s0 ((l.foldl (fun (r : List Nat × State) x =>
        (r.1 ++ (r.2.present p e.node x (tick + d) units).1, (r.2.present p e.node x (tick + d) units).2)) ([], t)).2.flowErrors
          e f.bits) := fun l d => State.flowErrors_walk h e f.bits
      (h.foldl_snd l (fun t x ht => State.present_walk h p e.node x (tick + d) units ht) hf)
    refine h.ite ?_ (hr _ _)
    split
    · exact State.setSeg_walk h _ _ (hr _ _)
    · exact hr _ _

theorem State.segTick_walk (h : Respects R) (p : Nat) (r : SegRun) (slices : List Nat) (tick : Nat) (h0 : R s0 s) :
   R s0 (s.segTick p r slices tick) := by
  unfold State.segTick
  repeat' first
    | with_reducible assumption
    | with_reducible intro t
    | with_reducible apply h.ite
    | with_reducible apply State.setSlices_walk h
    | with_reducible apply State.countTick_walk h
    | with_reducible apply State.tickSlices_walk h
    | with_reducible apply State.setSeg_walk h
    | with_reducible apply State.runFlow_walk h
    | with_reducible apply State.allBitErrors_walk h
    | with_reducible apply State.faultSlice_walk h
    | with_reducible apply State.routerFault_walk h
    | with_reducible refine h.foldl _ ?_ ?_
    | with_reducible refine h.foldl_snd _ ?_ ?_
    | with_reducible refine h.foldl_snd_snd _ ?_ ?_
    | dsimp only
    | split

theorem State.segStep_walk (h : Respects R) (p : Nat) (h0 : R s0 s) : ∀ t, s.segStep p = some t → R s0 t := by
  intro t ht
  unfold State.segStep at ht
  split at ht
  · contradiction
  · dsimp only at ht
    split at ht
    · contradiction
    · split at ht
      · contradiction
      · split at ht
        · obtain rfl := Option.some.inj ht
          exact State.segTick_walk h _ _ _ _ h0
        · split at ht
          · obtain rfl := Option.some.inj ht
            exact State.setSeg_walk h _ _ h0
          · contradiction

theorem State.runSegFor_walk (h : Respects R) (p k : Nat) (h0 : R s0 s) : R s0 (State.runSegFor p k s) := by
  induction k generalizing s with
  | zero => exact h0
  | succ k ih =>
    unfold State.runSegFor
    split
    · rename_i t ht
      exact ih (State.segStep_walk h p h0 t ht)
    · exact h0

theorem State.runSeg_walk (h : Respects R) (p : Nat) (h0 : R s0 s) :
   R s0 (s.runSeg p) := by
  unfold State.runSeg
  repeat' first
    | with_reducible assumption
    | with_reducible apply State.runSegFor_walk h

theorem State.runSlice_walk (h : Respects R) (sl : Nat) (h0 : R s0 s) :
   R s0 (s.runSlice sl) := by
  unfold State.runSlice
  repeat' first
    | with_reducible assumption
    | with_reducible apply State.runSeg_walk h
    | dsimp only
    | split

theorem execFlowTick_walk (h : Respects R) (node : BitVec 7) (entry : BitVec 18) (rep : BitVec 12) (i : BitVec 12) (fails : FlowFails) (h0 : R s0 s) :
   Yields (R s0) (execFlowTick node entry rep i fails s) := by
  unfold execFlowTick
  repeat' first
    | with_reducible assumption
    | with_reducible intro t
    | with_reducible apply Yields.next
    | with_reducible apply Yields.ite
    | with_reducible apply h.ite
    | with_reducible apply State.count_walk h
    | with_reducible apply State.setSeg_walk h
    | with_reducible apply State.runSeg_walk h
    | dsimp only
    | split

theorem execScheduledFlit_walk (h : Respects R) (port : PortNo) (slot : BitVec 13) (kind : BitVec 4) (point : BitVec 2) (cmd : BitVec 18) (srcPart : PtnNo) (alloy : BitVec 32) (units : List Line) (h0 : R s0 s) :
   Yields (R s0) (execScheduledFlit port slot kind point cmd srcPart alloy units s) := by
  unfold execScheduledFlit
  repeat' first
    | with_reducible assumption
    | with_reducible intro t
    | with_reducible apply Yields.next
    | with_reducible apply Yields.ite
    | with_reducible apply h.ite
    | with_reducible apply State.bump_walk h
    | with_reducible apply State.count_walk h
    | with_reducible apply State.setPort_walk h
    | with_reducible apply State.settlePause_walk h
    | with_reducible apply State.runSeg_walk h
    | dsimp only
    | split

theorem execHoldBegin_walk (h : Respects R) (p : PtnNo) (port : PortNo) (h0 : R s0 s) :
   Yields (R s0) (execHoldBegin p port s) := by
  unfold execHoldBegin
  repeat' first
    | with_reducible assumption
    | with_reducible apply Yields.next
    | with_reducible apply Yields.ite
    | with_reducible apply h.ite
    | with_reducible apply State.setLine_walk h
    | dsimp only
    | split

theorem execHoldEnd_walk (h : Respects R) (p : PtnNo) (h0 : R s0 s) :
   Yields (R s0) (execHoldEnd p s) := by
  unfold execHoldEnd
  repeat' first
    | with_reducible assumption
    | with_reducible apply Yields.next
    | with_reducible apply Yields.ite
    | with_reducible apply h.ite
    | with_reducible apply State.endHold_walk h
    | with_reducible apply State.runSeg_walk h
    | dsimp only
    | split

theorem State.setStream_walk (h : Respects R) (key : Nat) (st : Stream) (h0 : R s0 s) :
   R s0 (s.setStream key st) := by
  unfold State.setStream
  repeat' first
    | with_reducible assumption
    | with_reducible intro t
    | with_reducible refine h.onMem ?_ rfl id

theorem State.accessLine_walk (h : RespectsLines R) (key : Nat) (st : Stream) (dpa : Nat) (start : Nat) (errs : List LineError) (h0 : R s0 s) :
   R s0 (s.accessLine key st dpa start errs) := by
  unfold State.accessLine
  repeat' first
    | with_reducible assumption
    | with_reducible apply h.toRespects.ite
    | with_reducible apply State.count_walk h.toRespects
    | with_reducible apply State.putLine_walk h
    | with_reducible apply State.setStream_walk h.toRespects
    | with_reducible apply State.faultPtn_walk h.toRespects
    | with_reducible apply State.meetErrors_walk h.toRespects
    | with_reducible apply State.noteLine_walk h.toRespects
    | dsimp only
    | split

theorem execStreamAccess_walk (h : RespectsLines R) (slice : SliceNo) (stream : BitVec 6) (tick : BitVec 24) (errs : List LineError) (h0 : R s0 s) :
   Yields (R s0) (execStreamAccess slice stream tick errs s) := by
  unfold execStreamAccess
  repeat' first
    | with_reducible assumption
    | with_reducible apply Yields.next
    | with_reducible apply Yields.ite
    | with_reducible apply h.toRespects.ite
    | with_reducible apply State.runSlice_walk h.toRespects
    | with_reducible apply State.faultPtn_walk h.toRespects
    | with_reducible apply State.killOne_walk h.toRespects
    | with_reducible apply State.accessLine_walk h
    | with_reducible apply State.runSeg_walk h.toRespects
    | dsimp only
    | split

end Sys2Proof.Machine
end

