-- ==== Sys2Proof/Laws/WalkSubmit.lean ====
section
/-! SUPPORT. What each operation of Machine/Submit.lean can do: it walks through the primitive changes of `Respects`. -/

set_option linter.unusedTactic false
set_option linter.unreachableTactic false

namespace Sys2Proof.Machine

variable {R : State → State → Prop} {s0 s : State}

theorem State.afterItems_walk (h : Respects R) (p : Nat) (ahead : List Item) (h0 : R s0 s) :
   R s0 (s.afterItems p ahead) := by
  unfold State.afterItems
  repeat' first
    | with_reducible assumption
    | with_reducible intro t
    | with_reducible apply State.writeTable_walk h
    | with_reducible apply State.set_walk h
    | with_reducible refine h.foldl _ ?_ ?_
    | with_reducible refine h.foldl_snd _ ?_ ?_
    | with_reducible refine h.foldl_snd_snd _ ?_ ?_
    | dsimp only
    | split

theorem State.useStored_walk (h : Respects R) (k seq : Nat) (h0 : R s0 s) : R s0 (s.useStored k seq) := by
  unfold State.useStored
  refine h.onMem h0 ?_ ?_
  · dsimp only
    split <;> rfl
  · dsimp only
    split <;> exact id

theorem State.holdStored_walk (h : Respects R) (c : Cmd) (h0 : R s0 s) :
   R s0 (s.holdStored c) := by
  unfold State.holdStored
  repeat' first
    | with_reducible assumption
    | with_reducible intro t
    | with_reducible apply State.useStored_walk h
    | with_reducible refine h.foldl _ ?_ ?_
    | with_reducible refine h.foldl_snd _ ?_ ?_
    | with_reducible refine h.foldl_snd_snd _ ?_ ?_

theorem State.placeCmd_walk (h : Respects R) (p : Nat) (pos : Nat) (c : Cmd) (h0 : R s0 s) :
   R s0 (s.placeCmd p pos c) := by
  unfold State.placeCmd
  repeat' first
    | with_reducible assumption
    | with_reducible apply h.ite
    | with_reducible apply State.setLine_walk h
    | with_reducible apply State.holdRefs_walk h
    | with_reducible apply State.holdStored_walk h
    | dsimp only
    | split

theorem State.exitIdle_walk (h : Respects R) (p : Nat) (h0 : R s0 s) :
   R s0 (s.exitIdle p) := by
  unfold State.exitIdle
  repeat' first
    | with_reducible assumption
    | with_reducible intro t
    | with_reducible apply h.ite
    | with_reducible apply State.setSlicePower_walk h
    | with_reducible refine h.foldl _ ?_ ?_
    | with_reducible refine h.foldl_snd _ ?_ ?_
    | with_reducible refine h.foldl_snd_snd _ ?_ ?_
    | dsimp only
    | split

theorem State.drawOthers_walk (h : Respects R) (p : Nat) (h0 : R s0 s) :
   R s0 (s.drawOthers p).2 := by
  unfold State.drawOthers
  repeat' first
    | with_reducible assumption
    | with_reducible apply h.ite
    | with_reducible apply State.draw_walk h
    | dsimp only
    | split

theorem State.otherMembers_walk (h : Respects R) (p : Nat) (d : Desc) (h0 : R s0 s) :
   R s0 (s.otherMembers p d).2 := by
  unfold State.otherMembers
  repeat' first
    | with_reducible assumption
    | with_reducible apply h.ite
    | with_reducible apply State.drawOthers_walk h
    | dsimp only
    | split

theorem State.postAdmission_walk (h : Respects R) (p : Nat) (i : Nat) (q : Nat) (sqHead : Nat) (d : Desc) (j : Judged) (h0 : R s0 s) :
   R s0 (s.postAdmission p i q sqHead d j) := by
  unfold State.postAdmission
  repeat' first
    | with_reducible assumption
    | with_reducible apply h.ite
    | with_reducible apply State.count_walk h
    | with_reducible apply State.postCq_walk h
    | with_reducible apply State.event_walk h
    | dsimp only
    | split

theorem State.sendLaunch_walk (h : Respects R) (p : Nat) (c : Cmd) (index : Nat) (h0 : R s0 s) :
   R s0 (s.sendLaunch p c index) := by
  unfold State.sendLaunch
  repeat' first
    | with_reducible assumption
    | with_reducible apply State.sendMask_walk h
    | dsimp only
    | split

theorem State.takeDesc_walk (h : Respects R) (i : Nat) (q : Nat) (d : Desc) (h0 : R s0 s) :
   R s0 (s.takeDesc i q d) := by
  unfold State.takeDesc
  repeat' first
    | with_reducible assumption
    | with_reducible apply h.ite
    | with_reducible apply State.setQueue_walk h
    | with_reducible apply State.count_walk h
    | with_reducible apply State.exitIdle_walk h
    | with_reducible apply State.otherMembers_walk h
    | with_reducible apply State.placeItem_walk h
    | with_reducible apply State.placeCmd_walk h
    | with_reducible apply State.postAdmission_walk h
    | with_reducible apply State.sendLaunch_walk h
    | dsimp only
    | split

theorem execRun_walk (h : Respects R) (inst : BitVec 9) (q : BitVec 3) (desc : BitVec 2048) (h0 : R s0 s) :
   Yields (R s0) (execRun inst q desc s) := by
  unfold execRun
  repeat' first
    | with_reducible assumption
    | with_reducible apply Yields.next
    | with_reducible apply Yields.ite
    | with_reducible apply h.ite
    | with_reducible apply State.takeDesc_walk h
    | dsimp only
    | split

theorem execAlloyRun_walk (h : Respects R) (inst : BitVec 9) (q : BitVec 3) (desc : BitVec 2048) (h0 : R s0 s) :
   Yields (R s0) (execAlloyRun inst q desc s) := by
  unfold execAlloyRun
  repeat' first
    | with_reducible assumption
    | with_reducible apply Yields.next
    | with_reducible apply Yields.ite
    | with_reducible apply h.ite
    | with_reducible apply State.takeDesc_walk h
    | dsimp only
    | split

theorem execSignal_walk (h : Respects R) (inst : BitVec 9) (q : BitVec 3) (desc : BitVec 2048) (h0 : R s0 s) :
   Yields (R s0) (execSignal inst q desc s) := by
  unfold execSignal
  repeat' first
    | with_reducible assumption
    | with_reducible apply Yields.next
    | with_reducible apply Yields.ite
    | with_reducible apply h.ite
    | with_reducible apply State.takeDesc_walk h
    | dsimp only
    | split

end Sys2Proof.Machine
end

