-- ==== Sys2Proof/Laws/WalkLaunch.lean ====
section
/-! SUPPORT. What each operation of Machine/Launch.lean can do: it walks through the primitive changes of `Respects`. -/

set_option linter.unusedTactic false
set_option linter.unreachableTactic false

namespace Sys2Proof.Machine

variable {R : State → State → Prop} {s0 s : State}

theorem State.setHead_walk (h : Respects R) (p : Nat) (c : Cmd) (h0 : R s0 s) :
   R s0 (s.setHead p c) := by
  unfold State.setHead
  repeat' first
    | with_reducible assumption
    | with_reducible apply State.setLine_walk h
    | dsimp only
    | split

theorem State.startHead_walk (h : Respects R) (p : Nat) (h0 : R s0 s) :
   R s0 (s.startHead p) := by
  unfold State.startHead
  repeat' first
    | with_reducible assumption
    | with_reducible apply State.setLine_walk h
    | dsimp only
    | split

theorem State.wipeWorking_walk (h : Respects R) (p : Nat) (im : Option Image) (h0 : R s0 s) : R s0 (s.wipeWorking p im) := by
  unfold State.wipeWorking
  refine h.trans (h.foldl _ (fun t sl ht => ?_) h0) (h.drawn _ 1)
  exact State.setCluster_walk h _ _ (h.foldl _ (fun u ti hu => State.setTile_walk h _ _ _ hu) ht)

theorem State.clearSegment_walk (h : Respects R) (p : Nat) (sls : List Nat) (h0 : R s0 s) :
   R s0 (s.clearSegment p sls) := by
  unfold State.clearSegment
  repeat' first
    | with_reducible assumption
    | with_reducible intro t
    | with_reducible apply h.ite
    | with_reducible apply State.endSeg_walk h
    | with_reducible apply State.dropFlows_walk h
    | with_reducible apply State.setSlices_walk h
    | with_reducible refine h.onMem ?_ rfl id
    | dsimp only
    | split

theorem State.launchSegment_walk (h : Respects R) (p : Nat) (slot : Nat) (im : Image) (k : Nat) (args : List Word) (h0 : R s0 s) :
   R s0 (s.launchSegment p slot im k args) := by
  unfold State.launchSegment
  repeat' first
    | with_reducible assumption
    | with_reducible intro t
    | with_reducible apply h.ite
    | with_reducible apply State.clearSegment_walk h
    | with_reducible apply State.set_walk h
    | with_reducible apply State.count_walk h
    | with_reducible apply State.setSeg_walk h
    | with_reducible apply State.setNode_walk h
    | with_reducible apply State.startTile_walk h
    | with_reducible refine h.foldl _ ?_ ?_
    | with_reducible refine h.foldl_snd _ ?_ ?_
    | with_reducible refine h.foldl_snd_snd _ ?_ ?_
    | with_reducible refine h.onMem ?_ rfl id
    | dsimp only
    | split

theorem State.noteWritten_walk (h : Respects R) (p i va : Nat) (h0 : R s0 s) : R s0 (s.noteWritten p i va) := by
  unfold State.noteWritten
  split
  · exact h.ite (State.logPage_walk h _ _ _ (h.onMem h0 rfl fun w => FMap.wfD_putD w _ _)) h0
  · exact h0

theorem State.putCache_walk (h : Respects R) (slice : Nat) (p : Nat) (page : Nat) (t : Trans) (h0 : R s0 s) :
   R s0 (s.putCache slice p page t) := by
  unfold State.putCache
  repeat' first
    | with_reducible assumption
    | with_reducible intro t
    | with_reducible refine h.onMem ?_ rfl id
    | dsimp only
    | split

theorem State.storeTrans_walk (h : Respects R) (p : Nat) (q : Nat) (page : Nat) (seq : Nat) (t : Trans) (h0 : R s0 s) :
   R s0 (s.storeTrans p q page seq t) := by
  unfold State.storeTrans
  repeat' first
    | with_reducible assumption
    | with_reducible intro t
    | with_reducible apply h.ite
    | with_reducible apply State.trimStore_walk h
    | with_reducible refine h.onMem ?_ rfl id
    | dsimp only
    | split

theorem State.phaseBreach_walk (h : Respects R) (p : Nat) (c : Cmd) (status : Nat) (va : Nat) (h0 : R s0 s) :
   R s0 (s.phaseBreach p c status va) := by
  unfold State.phaseBreach
  repeat' first
    | with_reducible assumption
    | with_reducible apply h.ite
    | with_reducible apply State.faultPtn_walk h
    | with_reducible apply State.killOne_walk h
    | dsimp only
    | split

theorem State.walkPiece_walk (h : Respects R) (p : Nat) (c : Cmd) (die : Nat) (tableUe : Bool) (pc : Piece) (va : Nat) (h0 : R s0 s) :
   R s0 (s.walkPiece p c die tableUe pc va) := by
  unfold State.walkPiece
  repeat' first
    | with_reducible assumption
    | with_reducible apply h.ite
    | with_reducible apply State.noteLine_walk h
    | with_reducible apply State.raise_walk h
    | with_reducible apply State.faultPtn_walk h
    | with_reducible apply State.bump_walk h
    | with_reducible apply State.phaseBreach_walk h
    | with_reducible apply State.level_walk h
    | with_reducible apply State.noteWritten_walk h
    | with_reducible apply State.storeTrans_walk h
    | with_reducible apply State.setHead_walk h
    | with_reducible apply State.putCache_walk h
    | dsimp only
    | split

theorem State.pinHits_walk (h : Respects R) (p : Nat) (c : Cmd) (h0 : R s0 s) :
   R s0 (s.pinHits p c) := by
  unfold State.pinHits
  repeat' first
    | with_reducible assumption
    | with_reducible intro t
    | with_reducible apply h.ite
    | with_reducible apply State.noteWritten_walk h
    | with_reducible apply State.useStored_walk h
    | with_reducible apply State.putCache_walk h
    | with_reducible refine h.foldl _ ?_ ?_
    | with_reducible refine h.foldl_snd _ ?_ ?_
    | with_reducible refine h.foldl_snd_snd _ ?_ ?_
    | dsimp only
    | split

theorem State.stepChain_walk (h : Respects R) (p : Nat) (c : Cmd) (chain : Nat) (tableUe : Bool) (h0 : R s0 s) :
   R s0 (s.stepChain p c chain tableUe) := by
  unfold State.stepChain
  repeat' first
    | with_reducible assumption
    | with_reducible apply State.pinHits_walk h
    | with_reducible apply State.phaseBreach_walk h
    | with_reducible apply State.walkPiece_walk h
    | dsimp only
    | split

theorem execWalk_walk (h : Respects R) (p : PtnNo) (chain : BitVec 4) (tableUe : Bool) (h0 : R s0 s) :
   Yields (R s0) (execWalk p chain tableUe s) := by
  unfold execWalk
  repeat' first
    | with_reducible assumption
    | with_reducible apply Yields.next
    | with_reducible apply Yields.ite
    | with_reducible apply State.stepChain_walk h
    | dsimp only
    | split

theorem State.runChain_walk (h : Respects R) (p chain k : Nat) (h0 : R s0 s) : R s0 (State.runChain p chain k s) := by
  induction k generalizing s with
  | zero => exact h0
  | succ k ih =>
    unfold State.runChain
    split
    · exact h0
    · split
      · exact h0
      · exact ih (State.stepChain_walk h _ _ _ _ h0)

theorem State.runChains_walk (h : Respects R) (p : Nat) (h0 : R s0 s) :
   R s0 (s.runChains p) := by
  unfold State.runChains
  repeat' first
    | with_reducible assumption
    | with_reducible intro t
    | with_reducible apply State.runChain_walk h
    | with_reducible refine h.foldl _ ?_ ?_
    | with_reducible refine h.foldl_snd _ ?_ ?_
    | with_reducible refine h.foldl_snd_snd _ ?_ ?_
    | dsimp only
    | split

theorem State.finishPhase_walk (h : Respects R) (p : Nat) (h0 : R s0 s) :
   R s0 (s.finishPhase p) := by
  unfold State.finishPhase
  repeat' first
    | with_reducible assumption
    | with_reducible apply State.runChains_walk h
    | with_reducible apply State.pinHits_walk h
    | with_reducible apply State.setHead_walk h
    | dsimp only
    | split

theorem State.launchTranslated_walk (h : Respects R) (p : Nat) (h0 : R s0 s) :
   R s0 (s.launchTranslated p) := by
  unfold State.launchTranslated
  repeat' first
    | with_reducible assumption
    | with_reducible apply h.ite
    | with_reducible apply State.setLine_walk h
    | with_reducible apply State.wipeWorking_walk h
    | with_reducible apply State.setHead_walk h
    | with_reducible apply State.launchSegment_walk h
    | dsimp only
    | split

theorem execCommandLaunch_walk (h : Respects R) (p : PtnNo) (h0 : R s0 s) :
   Yields (R s0) (execCommandLaunch p s) := by
  unfold execCommandLaunch
  repeat' first
    | with_reducible assumption
    | with_reducible apply Yields.next
    | with_reducible apply Yields.ite
    | with_reducible apply h.ite
    | with_reducible apply State.startHead_walk h
    | with_reducible apply State.holdStored_walk h
    | with_reducible apply State.setHead_walk h
    | dsimp only
    | split

theorem execTranslationPhaseEnd_walk (h : Respects R) (p : PtnNo) (h0 : R s0 s) :
   Yields (R s0) (execTranslationPhaseEnd p s) := by
  unfold execTranslationPhaseEnd
  repeat' first
    | with_reducible assumption
    | with_reducible apply Yields.next
    | with_reducible apply Yields.ite
    | with_reducible apply h.ite
    | with_reducible apply State.finishPhase_walk h
    | with_reducible apply State.launchTranslated_walk h
    | dsimp only
    | split

theorem execAlloyLaunchInstant_walk (h : Respects R) (p : PtnNo) (h0 : R s0 s) :
   Yields (R s0) (execAlloyLaunchInstant p s) := by
  unfold execAlloyLaunchInstant
  repeat' first
    | with_reducible assumption
    | with_reducible apply Yields.next
    | with_reducible apply Yields.ite
    | with_reducible apply h.ite
    | with_reducible apply State.atLeast_walk h
    | with_reducible apply State.startHead_walk h
    | with_reducible apply State.holdStored_walk h
    | with_reducible apply State.setHead_walk h
    | with_reducible apply State.finishPhase_walk h
    | with_reducible apply State.launchTranslated_walk h
    | dsimp only
    | split

theorem execLoadSegmentEnd_walk (h : Respects R) (p : PtnNo) (h0 : R s0 s) :
   Yields (R s0) (execLoadSegmentEnd p s) := by
  unfold execLoadSegmentEnd
  repeat' first
    | with_reducible assumption
    | with_reducible apply Yields.next
    | with_reducible apply Yields.ite
    | with_reducible apply h.ite
    | with_reducible apply State.runSeg_walk h
    | with_reducible apply State.setLine_walk h
    | with_reducible apply State.setHead_walk h
    | with_reducible apply State.launchSegment_walk h
    | dsimp only
    | split

theorem State.arrive_walk (h : Respects R) (alloy : Nat) (opcode : Nat) (seq : Nat) (idx : Nat) (src : Nat) (h0 : R s0 s) :
   R s0 (s.arrive alloy opcode seq idx src).2 := by
  unfold State.arrive
  repeat' first
    | with_reducible assumption
    | with_reducible intro t
    | with_reducible apply h.ite
    | with_reducible apply State.onNet_walk h
    | with_reducible apply State.sendMask_walk h
    | dsimp only
    | split

theorem State.sendRelease_walk (h : Respects R) (p : Nat) (c : Cmd) (h0 : R s0 s) :
   R s0 (s.sendRelease p c) := by
  unfold State.sendRelease
  repeat' first
    | with_reducible assumption
    | with_reducible apply h.ite
    | with_reducible apply State.sendMask_walk h
    | dsimp only
    | split

theorem State.alloyCommit_walk (h : Respects R) (p : Nat) (seq : Nat) (h0 : R s0 s) :
   R s0 (s.alloyCommit p seq) := by
  unfold State.alloyCommit
  repeat' first
    | with_reducible assumption
    | with_reducible apply h.ite
    | with_reducible apply State.sendRelease_walk h
    | with_reducible apply State.commitHead_walk h
    | dsimp only
    | split

theorem execInternalCommit_walk (h : Respects R) (p : PtnNo) (h0 : R s0 s) :
   Yields (R s0) (execInternalCommit p s) := by
  unfold execInternalCommit
  repeat' first
    | with_reducible assumption
    | with_reducible apply Yields.next
    | with_reducible apply Yields.ite
    | with_reducible apply h.ite
    | with_reducible apply State.runSeg_walk h
    | with_reducible apply State.setHead_walk h
    | with_reducible apply State.idleUnits_walk h
    | with_reducible apply State.arrive_walk h
    | with_reducible apply State.alloyCommit_walk h
    | with_reducible apply State.commitHead_walk h
    | dsimp only
    | split

theorem execPacedRelease_walk (h : Respects R) (p : PtnNo) (h0 : R s0 s) :
   Yields (R s0) (execPacedRelease p s) := by
  unfold execPacedRelease
  repeat' first
    | with_reducible assumption
    | with_reducible intro t
    | with_reducible apply Yields.next
    | with_reducible apply Yields.ite
    | with_reducible apply State.atLeast_walk h
    | with_reducible apply State.setLine_walk h
    | with_reducible apply State.release_walk h
    | with_reducible refine h.foldl _ ?_ ?_
    | with_reducible refine h.foldl_snd _ ?_ ?_
    | with_reducible refine h.foldl_snd_snd _ ?_ ?_
    | dsimp only
    | split

theorem execPromiseOverrun_walk (h : Respects R) (p : PtnNo) (h0 : R s0 s) :
   Yields (R s0) (execPromiseOverrun p s) := by
  unfold execPromiseOverrun
  repeat' first
    | with_reducible assumption
    | with_reducible intro t
    | with_reducible apply Yields.next
    | with_reducible apply Yields.ite
    | with_reducible apply State.atLeast_walk h
    | with_reducible apply State.event_walk h
    | with_reducible apply State.faultPtn_walk h
    | with_reducible refine h.foldl _ ?_ ?_
    | with_reducible refine h.foldl_snd _ ?_ ?_
    | with_reducible refine h.foldl_snd_snd _ ?_ ?_
    | dsimp only
    | split

theorem execSeam_walk (h : Respects R) (drain : SeamDrain) (h0 : R s0 s) :
   Yields (R s0) (execSeam drain s) := by
  unfold execSeam
  repeat' first
    | with_reducible assumption
    | with_reducible intro t
    | with_reducible apply Yields.next
    | with_reducible apply Yields.ite
    | with_reducible apply h.ite
    | with_reducible apply State.bitErrors_walk h
    | with_reducible apply State.finishKills_walk h
    | with_reducible apply State.endHold_walk h
    | with_reducible apply State.emptyQueues_walk h
    | with_reducible apply State.seamEffects_walk h
    | with_reducible refine h.foldl _ ?_ ?_
    | with_reducible refine h.foldl_snd _ ?_ ?_
    | with_reducible refine h.foldl_snd_snd _ ?_ ?_
    | dsimp only
    | split

theorem execInstLaunch_walk (h : Respects R) (inst : BitVec 9) (segment : BitVec 16) (delay : BitVec 16) (h0 : R s0 s) :
   Yields (R s0) (execInstLaunch inst segment delay s) := by
  unfold execInstLaunch
  repeat' first
    | with_reducible assumption
    | with_reducible apply Yields.next
    | with_reducible apply Yields.ite
    | with_reducible apply h.ite
    | with_reducible apply State.placeItem_walk h
    | with_reducible apply State.setSlices_walk h
    | dsimp only
    | split

theorem execDirectLaunch_walk (h : Respects R) (p : PtnNo) (h0 : R s0 s) :
   Yields (R s0) (execDirectLaunch p s) := by
  unfold execDirectLaunch
  repeat' first
    | with_reducible assumption
    | with_reducible apply Yields.next
    | with_reducible apply Yields.ite
    | with_reducible apply h.ite
    | with_reducible apply State.startHead_walk h
    | dsimp only
    | split

theorem State.sxlaunch_walk (h : Respects R) (sl : Nat) (v : Word) (h0 : R s0 s) :
   R s0 (s.sxlaunch sl v) := by
  unfold State.sxlaunch
  repeat' first
    | with_reducible assumption
    | with_reducible apply h.ite
    | with_reducible apply State.setSeqr_walk h
    | with_reducible apply State.raise_walk h
    | dsimp only
    | split

theorem execSxlaunch_walk (h : Respects R) (slice : SliceNo) (value : Word) (h0 : R s0 s) :
   Yields (R s0) (execSxlaunch slice value s) := by
  unfold execSxlaunch
  repeat' first
    | with_reducible assumption
    | with_reducible apply Yields.next
    | with_reducible apply Yields.ite
    | with_reducible apply State.sxlaunch_walk h

theorem State.launchDue_walk (h : Respects R) (sl : Nat) (h0 : R s0 s) :
   R s0 (s.launchDue sl) := by
  unfold State.launchDue
  repeat' first
    | with_reducible assumption
    | with_reducible apply h.ite
    | with_reducible apply State.setSeqr_walk h
    | with_reducible apply State.wipeWorking_walk h
    | with_reducible apply State.launchSegment_walk h
    | dsimp only
    | split

theorem State.sxkill_walk (h : Respects R) (sl : Nat) (v : Word) (h0 : R s0 s) :
   R s0 (s.sxkill sl v) := by
  unfold State.sxkill
  repeat' first
    | with_reducible assumption
    | with_reducible apply h.ite
    | with_reducible apply State.set_walk h
    | with_reducible apply State.haltTiles_walk h
    | with_reducible apply State.runSlice_walk h
    | dsimp only
    | split

theorem execSxkill_walk (h : Respects R) (slice : SliceNo) (value : Word) (h0 : R s0 s) :
   Yields (R s0) (execSxkill slice value s) := by
  unfold execSxkill
  repeat' first
    | with_reducible assumption
    | with_reducible apply Yields.next
    | with_reducible apply Yields.ite
    | with_reducible apply State.sxkill_walk h

end Sys2Proof.Machine
end

