-- ==== Sys2Proof/Laws/WalkPlanish.lean ====
section
/-! SUPPORT. What each operation of Machine/Planish.lean can do: it walks through the primitive changes of `Respects`. -/

set_option linter.unusedTactic false
set_option linter.unreachableTactic false

namespace Sys2Proof.Machine

variable {R : State → State → Prop} {s0 s : State}

theorem State.addMasked_walk (h : Respects R) (e : Nat) (n : Nat) (h0 : R s0 s) :
   R s0 (s.addMasked e n) := by
  unfold State.addMasked
  repeat' first
    | with_reducible assumption
    | with_reducible apply State.set_walk h

theorem State.engineEcc_walk (h : Respects R) (e : Nat) (p : Nat) (o : ReadOutcome) (h0 : R s0 s) :
   R s0 (s.engineEcc e p o) := by
  unfold State.engineEcc
  repeat' first
    | with_reducible assumption
    | with_reducible apply State.bump_walk h
    | with_reducible apply State.raise_walk h
    | with_reducible apply State.faultPtn_walk h
    | dsimp only
    | split

theorem State.startDesc_walk (h : Respects R) (engine : BitVec 5) (p : PtnNo) (d : Line) (ecc : ReadOutcome) (is : Line → Bool) (h0 : R s0 s) :
   R s0 (s.startDesc engine p d ecc is) := by
  unfold State.startDesc
  repeat' first
    | with_reducible assumption
    | with_reducible apply h.ite
    | with_reducible apply State.runSeg_walk h
    | with_reducible apply State.noteLines_walk h
    | with_reducible apply State.setSeg_walk h
    | with_reducible apply State.addMasked_walk h
    | with_reducible apply State.set_walk h
    | with_reducible apply State.count_walk h
    | with_reducible apply State.setEngine_walk h
    | with_reducible apply State.engineEcc_walk h
    | with_reducible apply State.faultPtn_walk h
    | dsimp only
    | split

theorem execAttn_walk (h : Respects R) (engine : BitVec 5) (p : PtnNo) (desc : Line) (ecc : ReadOutcome) (h0 : R s0 s) :
   Yields (R s0) (execAttn engine p desc ecc s) := by
  unfold execAttn
  repeat' first
    | with_reducible assumption
    | with_reducible intro t
    | with_reducible apply Yields.next
    | with_reducible apply Yields.ite
    | with_reducible apply State.startDesc_walk h

theorem execMatvec_walk (h : Respects R) (engine : BitVec 5) (p : PtnNo) (desc : Line) (ecc : ReadOutcome) (h0 : R s0 s) :
   Yields (R s0) (execMatvec engine p desc ecc s) := by
  unfold execMatvec
  repeat' first
    | with_reducible assumption
    | with_reducible intro t
    | with_reducible apply Yields.next
    | with_reducible apply Yields.ite
    | with_reducible apply State.startDesc_walk h

theorem execGather_walk (h : Respects R) (engine : BitVec 5) (p : PtnNo) (desc : Line) (ecc : ReadOutcome) (h0 : R s0 s) :
   Yields (R s0) (execGather engine p desc ecc s) := by
  unfold execGather
  repeat' first
    | with_reducible assumption
    | with_reducible intro t
    | with_reducible apply Yields.next
    | with_reducible apply Yields.ite
    | with_reducible apply State.startDesc_walk h

theorem execScatter_walk (h : Respects R) (engine : BitVec 5) (p : PtnNo) (desc : Line) (ecc : ReadOutcome) (h0 : R s0 s) :
   Yields (R s0) (execScatter engine p desc ecc s) := by
  unfold execScatter
  repeat' first
    | with_reducible assumption
    | with_reducible intro t
    | with_reducible apply Yields.next
    | with_reducible apply Yields.ite
    | with_reducible apply State.startDesc_walk h

theorem execTopk_walk (h : Respects R) (engine : BitVec 5) (p : PtnNo) (desc : Line) (ecc : ReadOutcome) (h0 : R s0 s) :
   Yields (R s0) (execTopk engine p desc ecc s) := by
  unfold execTopk
  repeat' first
    | with_reducible assumption
    | with_reducible intro t
    | with_reducible apply Yields.next
    | with_reducible apply Yields.ite
    | with_reducible apply State.startDesc_walk h

theorem execSum_walk (h : Respects R) (engine : BitVec 5) (p : PtnNo) (desc : Line) (ecc : ReadOutcome) (h0 : R s0 s) :
   Yields (R s0) (execSum engine p desc ecc s) := by
  unfold execSum
  repeat' first
    | with_reducible assumption
    | with_reducible intro t
    | with_reducible apply Yields.next
    | with_reducible apply Yields.ite
    | with_reducible apply State.startDesc_walk h

theorem execMax_walk (h : Respects R) (engine : BitVec 5) (p : PtnNo) (desc : Line) (ecc : ReadOutcome) (h0 : R s0 s) :
   Yields (R s0) (execMax engine p desc ecc s) := by
  unfold execMax
  repeat' first
    | with_reducible assumption
    | with_reducible intro t
    | with_reducible apply Yields.next
    | with_reducible apply Yields.ite
    | with_reducible apply State.startDesc_walk h

theorem execMin_walk (h : Respects R) (engine : BitVec 5) (p : PtnNo) (desc : Line) (ecc : ReadOutcome) (h0 : R s0 s) :
   Yields (R s0) (execMin engine p desc ecc s) := by
  unfold execMin
  repeat' first
    | with_reducible assumption
    | with_reducible intro t
    | with_reducible apply Yields.next
    | with_reducible apply Yields.ite
    | with_reducible apply State.startDesc_walk h

theorem execMerge_walk (h : Respects R) (engine : BitVec 5) (p : PtnNo) (desc : Line) (ecc : ReadOutcome) (h0 : R s0 s) :
   Yields (R s0) (execMerge engine p desc ecc s) := by
  unfold execMerge
  repeat' first
    | with_reducible assumption
    | with_reducible intro t
    | with_reducible apply Yields.next
    | with_reducible apply Yields.ite
    | with_reducible apply State.startDesc_walk h

theorem execCopy_walk (h : Respects R) (engine : BitVec 5) (p : PtnNo) (desc : Line) (ecc : ReadOutcome) (h0 : R s0 s) :
   Yields (R s0) (execCopy engine p desc ecc s) := by
  unfold execCopy
  repeat' first
    | with_reducible assumption
    | with_reducible intro t
    | with_reducible apply Yields.next
    | with_reducible apply Yields.ite
    | with_reducible apply State.startDesc_walk h

theorem execFill_walk (h : Respects R) (engine : BitVec 5) (p : PtnNo) (desc : Line) (ecc : ReadOutcome) (h0 : R s0 s) :
   Yields (R s0) (execFill engine p desc ecc s) := by
  unfold execFill
  repeat' first
    | with_reducible assumption
    | with_reducible intro t
    | with_reducible apply Yields.next
    | with_reducible apply Yields.ite
    | with_reducible apply State.startDesc_walk h

theorem State.writeLines_walk (h : RespectsLines R) (l : List (Nat × Line)) (h0 : R s0 s) :
   R s0 (s.writeLines l) := by
  unfold State.writeLines
  repeat' first
    | with_reducible assumption
    | with_reducible intro t
    | with_reducible apply State.writeLine_walk h
    | with_reducible refine h.toRespects.foldl _ ?_ ?_
    | with_reducible refine h.toRespects.foldl_snd _ ?_ ?_
    | with_reducible refine h.toRespects.foldl_snd_snd _ ?_ ?_

theorem execDescriptorEnd_walk (h : RespectsLines R) (engine : BitVec 5) (p : PtnNo) (h0 : R s0 s) :
   Yields (R s0) (execDescriptorEnd engine p s) := by
  unfold execDescriptorEnd
  repeat' first
    | with_reducible assumption
    | with_reducible apply Yields.next
    | with_reducible apply Yields.ite
    | with_reducible apply h.toRespects.ite
    | with_reducible apply State.runSeg_walk h.toRespects
    | with_reducible apply State.writeLines_walk h
    | with_reducible apply State.setEngine_walk h.toRespects
    | with_reducible apply State.set_walk h.toRespects
    | with_reducible apply State.count_walk h.toRespects
    | dsimp only
    | split

end Sys2Proof.Machine
end

