-- ==== Sys2Proof/Laws/WalkOpenQueue.lean ====
section
/-! SUPPORT. What each operation of Machine/OpenQueue.lean can do: it walks through the primitive changes of `Respects`. -/

set_option linter.unusedTactic false
set_option linter.unreachableTactic false

namespace Sys2Proof.Machine

variable {R : State → State → Prop} {s0 s : State}

theorem State.enqueue_walk (h : Respects R) (e : Nat) (o : OpenEntry) (h0 : R s0 s) :
   R s0 (s.enqueue e o) := by
  unfold State.enqueue
  repeat' first
    | with_reducible assumption
    | with_reducible apply State.setEngine_walk h
    | dsimp only
    | split

theorem State.grantQueue_walk (h : Respects R) (e : Nat) (h0 : R s0 s) :
   R s0 (s.grantQueue e) := by
  unfold State.grantQueue
  repeat' first
    | with_reducible assumption
    | with_reducible intro t
    | with_reducible apply h.ite
    | with_reducible apply State.setEngine_walk h
    | with_reducible apply State.setPoint_walk h
    | with_reducible apply State.enqueue_walk h
    | with_reducible refine h.foldl _ ?_ ?_
    | with_reducible refine h.foldl_snd _ ?_ ?_
    | with_reducible refine h.foldl_snd_snd _ ?_ ?_
    | dsimp only
    | split

theorem State.placeOrder_walk (h : Respects R) (e : Nat) (p : Nat) (cls : Nat) (d : Line) (origin : EntryOrigin) (h0 : R s0 s) :
   R s0 (s.placeOrder e p cls d origin) := by
  unfold State.placeOrder
  repeat' first
    | with_reducible assumption
    | with_reducible intro t
    | with_reducible apply State.setEngine_walk h
    | with_reducible apply State.noteWaiting_walk h
    | with_reducible apply State.grantQueue_walk h
    | with_reducible refine h.foldl _ ?_ ?_
    | with_reducible refine h.foldl_snd _ ?_ ?_
    | with_reducible refine h.foldl_snd_snd _ ?_ ?_

theorem execOpenEntryStart_walk (h : Respects R) (engine : BitVec 5) (start : EntryStart) (h0 : R s0 s) :
   Yields (R s0) (execOpenEntryStart engine start s) := by
  unfold execOpenEntryStart
  repeat' first
    | with_reducible assumption
    | with_reducible intro t
    | with_reducible apply Yields.next
    | with_reducible apply Yields.ite
    | with_reducible apply h.ite
    | with_reducible apply State.setEngine_walk h
    | with_reducible apply State.set_walk h
    | with_reducible apply State.engineEcc_walk h
    | dsimp only
    | split

theorem State.endGroup_walk (h : Respects R) (p : Nat) (seq : Nat) (g : Nat) (h0 : R s0 s) :
   R s0 (s.endGroup p seq g) := by
  unfold State.endGroup
  repeat' first
    | with_reducible assumption
    | with_reducible apply h.ite
    | with_reducible apply State.setHead_walk h
    | with_reducible apply State.endHold_walk h
    | with_reducible apply State.runSeg_walk h
    | dsimp only
    | split

theorem State.sealFrom_walk (h : Respects R) (read : List Nat) (written : List Nat) (h0 : R s0 s) :
   R s0 (s.sealFrom read written) := by
  unfold State.sealFrom
  repeat' first
    | with_reducible assumption
    | with_reducible intro t
    | with_reducible apply h.ite
    | with_reducible apply State.onSec_walk h
    | with_reducible refine h.foldl _ ?_ ?_
    | with_reducible refine h.foldl_snd _ ?_ ?_
    | with_reducible refine h.foldl_snd_snd _ ?_ ?_
    | dsimp only
    | split

theorem State.askChannel_walk (h : Respects R) (ch : Nat) (p : Nat) (cls : Nat) (deadline : Option Nat) (units : Nat) (group : Option (Nat × Nat)) (h0 : R s0 s) :
   R s0 (s.askChannel ch p cls deadline units group) := by
  unfold State.askChannel
  repeat' first
    | with_reducible assumption
    | with_reducible intro t
    | with_reducible apply State.setPoint_walk h
    | with_reducible apply State.noteWaiting_walk h
    | with_reducible refine h.foldl _ ?_ ?_
    | with_reducible refine h.foldl_snd _ ?_ ?_
    | with_reducible refine h.foldl_snd_snd _ ?_ ?_

theorem State.moveLines_walk (h : RespectsLines R) (p : Nat) (src : Nat) (dst : Nat) (n : Nat) (h0 : R s0 s) :
   R s0 (s.moveLines p src dst n) := by
  unfold State.moveLines
  repeat' first
    | with_reducible assumption
    | with_reducible intro t
    | with_reducible apply State.writeVa_walk h
    | with_reducible refine h.toRespects.foldl _ ?_ ?_
    | with_reducible refine h.toRespects.foldl_snd _ ?_ ?_
    | with_reducible refine h.toRespects.foldl_snd_snd _ ?_ ?_
    | dsimp only
    | split

theorem State.sendData_walk (h : Respects R) (cls p dst tag otype : Nat) (deadline : Option Nat) (data : List Line)
    (h0 : R s0 s) : R s0 (s.sendData cls p dst tag otype deadline data) := by
  fun_induction State.sendData s cls p dst tag otype deadline data with
  | case1 s a b c d rest ih => exact ih (State.sendOpen_walk h _ _ h0)
  | case2 s => exact h0
  | case3 s l _ _ => exact State.sendOpen_walk h _ _ h0

theorem State.openRemote_walk (h : Respects R) (p : Nat) (c : Cmd) (g : Nat) (tag : Nat) (write : Bool) (a : Nat) (dst : Nat) (lines : Nat) (cls : Nat) (h0 : R s0 s) :
   R s0 (s.openRemote p c g tag write a dst lines cls) := by
  unfold State.openRemote
  repeat' first
    | with_reducible assumption
    | with_reducible intro t
    | with_reducible apply h.ite
    | with_reducible apply State.onNet_walk h
    | with_reducible apply State.sendOpen_walk h
    | dsimp only
    | split

theorem State.issueCopy_walk (h : Respects R) (p : Nat) (c : Cmd) (g : Nat) (r : BitVec 512) (h0 : R s0 s) :
   R s0 (s.issueCopy p c g r) := by
  unfold State.issueCopy
  repeat' first
    | with_reducible assumption
    | exact (fun _ ht => ht : ∀ t, R s0 t → R s0 t)
    | with_reducible intro t
    | with_reducible apply h.ite
    | with_reducible apply State.endGroup_walk h
    | with_reducible apply State.askChannel_walk h
    | with_reducible apply State.openRemote_walk h
    | with_reducible apply State.reading_walk h
    | with_reducible apply State.sendData_walk h
    | with_reducible refine h.foldl _ ?_ ?_
    | with_reducible refine h.foldl_snd _ ?_ ?_
    | with_reducible refine h.foldl_snd_snd _ ?_ ?_
    | dsimp only
    | split

theorem execOpenGroupStart_walk (h : Respects R) (p : PtnNo) (group : BitVec 16) (h0 : R s0 s) :
   Yields (R s0) (execOpenGroupStart p group s) := by
  unfold execOpenGroupStart
  repeat' first
    | with_reducible assumption
    | with_reducible apply Yields.next
    | with_reducible apply Yields.ite
    | with_reducible apply h.ite
    | with_reducible apply State.runSeg_walk h
    | with_reducible apply State.setHead_walk h
    | with_reducible apply State.issueCopy_walk h
    | with_reducible apply State.useRegions_walk h
    | with_reducible apply State.placeOrder_walk h
    | dsimp only
    | split

theorem execOpenGroupNeed_walk (h : Respects R) (p : PtnNo) (group : BitVec 16) (h0 : R s0 s) :
   Yields (R s0) (execOpenGroupNeed p group s) := by
  unfold execOpenGroupNeed
  repeat' first
    | with_reducible assumption
    | with_reducible intro t
    | with_reducible apply Yields.next
    | with_reducible apply Yields.ite
    | with_reducible apply h.ite
    | with_reducible apply State.runSeg_walk h
    | with_reducible apply State.setLine_walk h
    | dsimp only
    | split

theorem State.grantChannel_walk (h : RespectsLines R) (ch : Nat) (h0 : R s0 s) :
   R s0 (s.grantChannel ch) := by
  unfold State.grantChannel
  repeat' first
    | with_reducible assumption
    | exact (fun _ ht => ht : ∀ t, R s0 t → R s0 t)
    | with_reducible intro t
    | with_reducible apply h.toRespects.ite
    | with_reducible apply State.set_walk h.toRespects
    | with_reducible apply State.setPoint_walk h.toRespects
    | with_reducible apply State.count_walk h.toRespects
    | with_reducible apply State.reading_walk h.toRespects
    | with_reducible apply State.moveLines_walk h
    | with_reducible apply State.endGroup_walk h.toRespects
    | dsimp only
    | split

theorem execGrant_walk (h : RespectsLines R) (kind : BitVec 2) (index : BitVec 10) (h0 : R s0 s) :
   Yields (R s0) (execGrant kind index s) := by
  unfold execGrant
  repeat' first
    | with_reducible assumption
    | with_reducible intro t
    | with_reducible apply Yields.next
    | with_reducible apply Yields.ite
    | with_reducible apply h.toRespects.ite
    | with_reducible apply State.grantChannel_walk h
    | with_reducible apply State.sendOpenSlot_walk h.toRespects
    | with_reducible apply State.grantQueue_walk h.toRespects
    | dsimp only
    | split

theorem execAlloc_walk (h : Respects R) (slice : SliceNo) (cls : Byte) (h0 : R s0 s) :
   Yields (R s0) (execAlloc slice cls s) := by
  unfold execAlloc
  repeat' first
    | with_reducible assumption
    | with_reducible intro t
    | with_reducible apply Yields.next
    | with_reducible apply Yields.ite
    | with_reducible apply h.ite
    | with_reducible apply State.emit_walk h
    | with_reducible apply State.onHost_walk h
    | with_reducible apply State.setHead_walk h
    | dsimp only
    | split

theorem execFree_walk (h : Respects R) (slice : SliceNo) (va : Word) (h0 : R s0 s) :
   Yields (R s0) (execFree slice va s) := by
  unfold execFree
  repeat' first
    | with_reducible assumption
    | with_reducible intro t
    | with_reducible apply Yields.next
    | with_reducible apply Yields.ite
    | with_reducible apply h.ite
    | with_reducible apply State.setHead_walk h
    | dsimp only
    | split

end Sys2Proof.Machine
end

