-- ==== Sys2Proof/Laws/WalkAccess.lean ====
section
/-! SUPPORT. What each operation of Machine/Access.lean can do: it walks through the primitive changes of `Respects`. -/

set_option linter.unusedTactic false
set_option linter.unreachableTactic false

namespace Sys2Proof.Machine

variable {R : State → State → Prop} {s0 s : State}

theorem State.walkOutside_walk (h : Respects R) (errs : List LineError) (p : Nat) (va : Nat) (h0 : R s0 s) :
   R s0 (s.walkOutside errs p va).2 := by
  unfold State.walkOutside
  repeat' first
    | with_reducible assumption
    | with_reducible apply h.ite
    | with_reducible apply State.noteLine_walk h
    | with_reducible apply State.raise_walk h
    | with_reducible apply State.faultPtn_walk h
    | with_reducible apply State.level_walk h
    | with_reducible apply State.bump_walk h
    | dsimp only
    | split

theorem State.apTrans_walk (h : Respects R) (errs : List LineError) (p : Nat) (va : Nat) (h0 : R s0 s) :
   R s0 (s.apTrans errs p va).2 := by
  unfold State.apTrans
  repeat' first
    | with_reducible assumption
    | with_reducible intro t
    | with_reducible apply h.ite
    | with_reducible apply State.walkOutside_walk h
    | with_reducible refine h.onMem ?_ rfl id
    | dsimp only
    | split

theorem State.apLine_walk (h : Respects R) (errs : List LineError) (i : Nat) (x : Inst) (write : Bool) (va : Nat) (h0 : R s0 s) :
   R s0 (s.apLine errs i x write va).2 := by
  unfold State.apLine
  repeat' first
    | with_reducible assumption
    | with_reducible apply h.ite
    | with_reducible apply State.apTrans_walk h
    | dsimp only
    | split

theorem State.apLines_walk (h : Respects R) (errs : List LineError) (i : Nat) (x : Inst) (write : Bool) (vas : List Nat)
    (h0 : R s0 s) : R s0 (s.apLines errs i x write vas).2 := by
  induction vas generalizing s with
  | nil => exact h0
  | cons va rest ih =>
    unfold State.apLines
    have ht := State.apLine_walk h errs i x write va h0
    dsimp only
    split
    · exact ht
    · exact ih ht

theorem State.apServe_walk (h : Respects R) (p : Nat) (dpa : Nat) (h0 : R s0 s) :
   R s0 (s.apServe p dpa) := by
  unfold State.apServe
  repeat' first
    | with_reducible assumption
    | with_reducible apply State.touchChannel_walk h
    | with_reducible apply State.serveAt_walk h

theorem State.apRefuse_walk (h : Respects R) (h0 : R s0 s) :
    R s0 (s.apRefuse) := by
  unfold State.apRefuse
  repeat' first
    | with_reducible assumption
    | with_reducible apply State.bump_walk h
    | with_reducible apply State.emit_walk h

theorem execApertureRead_walk (h : Respects R) (inst : BitVec 9) (offset : BitVec 27) (size : BitVec 13) (errs : List LineError) (h0 : R s0 s) :
   Yields (R s0) (execApertureRead inst offset size errs s) := by
  unfold execApertureRead
  repeat' first
    | with_reducible assumption
    | with_reducible intro t
    | with_reducible apply Yields.next
    | with_reducible apply Yields.ite
    | with_reducible apply h.ite
    | with_reducible apply State.emit_walk h
    | with_reducible apply State.apRefuse_walk h
    | with_reducible apply State.meetErrors_walk h
    | with_reducible apply State.apLines_walk h
    | with_reducible apply State.apServe_walk h
    | with_reducible apply State.noteLines_walk h
    | with_reducible apply State.faultPtn_walk h
    | with_reducible refine h.foldl _ ?_ ?_
    | with_reducible refine h.foldl_snd _ ?_ ?_
    | with_reducible refine h.foldl_snd_snd _ ?_ ?_
    | dsimp only
    | split

theorem State.apWriteLine_walk (h : RespectsLines R) (i : Nat) (p : Nat) (va : Nat) (data : List Byte) (errs : List LineError) (l : Nat × Nat × Nat × MemObj × Bool) (h0 : R s0 s) :
   R s0 (s.apWriteLine i p va data errs l) := by
  unfold State.apWriteLine
  repeat' first
    | with_reducible assumption
    | with_reducible apply h.toRespects.ite
    | with_reducible apply State.apServe_walk h.toRespects
    | with_reducible apply State.putBytes_walk h
    | with_reducible apply State.faultPtn_walk h.toRespects
    | with_reducible apply State.logWrite_walk h.toRespects
    | dsimp only
    | split

theorem execApertureWrite_walk (h : RespectsLines R) (inst : BitVec 9) (offset : BitVec 27) (data : List Byte) (errs : List LineError) (h0 : R s0 s) :
   Yields (R s0) (execApertureWrite inst offset data errs s) := by
  unfold execApertureWrite
  repeat' first
    | with_reducible assumption
    | with_reducible intro t
    | with_reducible apply Yields.next
    | with_reducible apply Yields.ite
    | with_reducible apply h.toRespects.ite
    | with_reducible apply State.bump_walk h.toRespects
    | with_reducible apply State.meetErrors_walk h.toRespects
    | with_reducible apply State.apLines_walk h.toRespects
    | with_reducible apply State.apWriteLine_walk h
    | with_reducible refine h.toRespects.foldl _ ?_ ?_
    | with_reducible refine h.toRespects.foldl_snd _ ?_ ?_
    | with_reducible refine h.toRespects.foldl_snd_snd _ ?_ ?_
    | dsimp only
    | split

theorem State.remoteTrans_walk (h : Respects R) (errs : List LineError) (p : Nat) (va : Nat) (h0 : R s0 s) :
   R s0 (s.remoteTrans errs p va).2 := by
  unfold State.remoteTrans
  repeat' first
    | with_reducible assumption
    | with_reducible intro t
    | with_reducible apply State.walkOutside_walk h
    | dsimp only
    | split

theorem State.remoteLine_walk (h : Respects R) (errs : List LineError) (p : Nat) (write : Bool) (va : Nat) (h0 : R s0 s) :
   R s0 (s.remoteLine errs p write va).2 := by
  unfold State.remoteLine
  repeat' first
    | with_reducible assumption
    | with_reducible intro t
    | with_reducible apply h.ite
    | with_reducible apply State.remoteTrans_walk h
    | dsimp only
    | split

theorem State.remoteLines_walk (h : Respects R) (errs : List LineError) (p : Nat) (write : Bool) (vas : List Nat) (h0 : R s0 s) :
    R s0 (s.remoteLines errs p write vas).2.2 := by
  induction vas generalizing s with
  | nil => exact h0
  | cons va rest ih =>
    unfold State.remoteLines
    have ht := State.remoteLine_walk h errs p write va h0
    dsimp only
    split
    · exact ht
    · exact ih ht

theorem State.answer_walk (h : Respects R) (h_ : OpenHdr) (otype : Nat) (deadline : Nat) (v : Nat) (h0 : R s0 s) :
   R s0 (s.answer h_ otype deadline v) := by
  unfold State.answer
  repeat' first
    | with_reducible assumption
    | with_reducible apply State.sendOpen_walk h

theorem State.refuseRemote_walk (h : Respects R) (h_ : OpenHdr) (deadline : Nat) (status : Nat) (va : Nat) (h0 : R s0 s) :
   R s0 (s.refuseRemote h_ deadline status va) := by
  unfold State.refuseRemote
  repeat' first
    | with_reducible assumption
    | with_reducible apply State.answer_walk h

theorem State.remoteServe_walk (h : Respects R) (p : Nat) (cls : Nat) (dpa : Nat) (h0 : R s0 s) :
   R s0 (s.remoteServe p cls dpa) := by
  unfold State.remoteServe
  repeat' first
    | with_reducible assumption
    | with_reducible apply State.touchChannel_walk h
    | with_reducible apply State.serveAt_walk h

theorem execReadReq_walk (h : Respects R) (h_ : OpenHdr) (va : Word) (lines : BitVec 32) (deadline : Word) (errs : List LineError) (h0 : R s0 s) :
   Yields (R s0) (execReadReq h_ va lines deadline errs s) := by
  unfold execReadReq
  repeat' first
    | with_reducible assumption
    | with_reducible intro t
    | with_reducible apply Yields.next
    | with_reducible apply Yields.ite
    | with_reducible apply h.ite
    | with_reducible apply State.openFlit_walk h
    | with_reducible apply State.refuseRemote_walk h
    | with_reducible apply State.meetErrors_walk h
    | with_reducible apply State.remoteLines_walk h
    | with_reducible apply State.remoteServe_walk h
    | with_reducible apply State.noteLines_walk h
    | with_reducible apply State.faultPtn_walk h
    | with_reducible apply State.sendData_walk h
    | with_reducible apply State.answer_walk h
    | with_reducible refine h.foldl _ ?_ ?_
    | with_reducible refine h.foldl_snd _ ?_ ?_
    | with_reducible refine h.foldl_snd_snd _ ?_ ?_
    | dsimp only
    | split

theorem execWriteReq_walk (h : Respects R) (h_ : OpenHdr) (va : Word) (lines : BitVec 32) (deadline : Word) (h0 : R s0 s) :
   Yields (R s0) (execWriteReq h_ va lines deadline s) := by
  unfold execWriteReq
  repeat' first
    | with_reducible assumption
    | with_reducible intro t
    | with_reducible apply Yields.next
    | with_reducible apply Yields.ite
    | with_reducible apply h.ite
    | with_reducible apply State.openFlit_walk h
    | with_reducible apply State.refuseRemote_walk h
    | with_reducible apply State.remoteLines_walk h
    | with_reducible apply State.answer_walk h
    | with_reducible apply State.onNet_walk h
    | dsimp only
    | split

theorem execWriteData_walk (h : RespectsLines R) (h_ : OpenHdr) (lines : List Line) (h0 : R s0 s) :
   Yields (R s0) (execWriteData h_ lines s) := by
  unfold execWriteData
  repeat' first
    | with_reducible assumption
    | with_reducible intro t
    | with_reducible apply Yields.next
    | with_reducible apply Yields.ite
    | with_reducible apply h.toRespects.ite
    | with_reducible apply State.openFlit_walk h.toRespects
    | with_reducible apply State.remoteLines_walk h.toRespects
    | with_reducible apply State.onNet_walk h.toRespects
    | with_reducible apply State.refuseRemote_walk h.toRespects
    | with_reducible apply State.remoteServe_walk h.toRespects
    | with_reducible apply State.putLine_walk h
    | with_reducible apply State.faultPtn_walk h.toRespects
    | with_reducible apply State.logObject_walk h.toRespects
    | with_reducible apply State.answer_walk h.toRespects
    | with_reducible refine h.toRespects.foldl _ ?_ ?_
    | with_reducible refine h.toRespects.foldl_snd _ ?_ ?_
    | with_reducible refine h.toRespects.foldl_snd_snd _ ?_ ?_
    | dsimp only
    | split

theorem State.discardAnswer_walk (h : Respects R) (p : Nat) (h0 : R s0 s) :
   R s0 (s.discardAnswer p) := by
  unfold State.discardAnswer
  repeat' first
    | with_reducible assumption
    | with_reducible apply State.bump_walk h

theorem State.endRequest_walk (h : Respects R) (tag : Nat) (r : RemoteReq) (h0 : R s0 s) :
   R s0 (s.endRequest tag r) := by
  unfold State.endRequest
  repeat' first
    | with_reducible assumption
    | with_reducible intro t
    | with_reducible apply h.ite
    | with_reducible apply State.onNet_walk h
    | with_reducible apply State.endGroup_walk h
    | dsimp only
    | split

theorem execReadData_walk (h : RespectsLines R) (h_ : OpenHdr) (lines : List Line) (h0 : R s0 s) :
   Yields (R s0) (execReadData h_ lines s) := by
  unfold execReadData
  repeat' first
    | with_reducible assumption
    | with_reducible intro t
    | with_reducible apply Yields.next
    | with_reducible apply Yields.ite
    | with_reducible apply h.toRespects.ite
    | with_reducible apply State.openFlit_walk h.toRespects
    | with_reducible apply State.discardAnswer_walk h.toRespects
    | with_reducible apply State.onNet_walk h.toRespects
    | with_reducible apply State.writeVa_walk h
    | with_reducible apply State.sendData_walk h.toRespects
    | with_reducible refine h.toRespects.foldl _ ?_ ?_
    | with_reducible refine h.toRespects.foldl_snd _ ?_ ?_
    | with_reducible refine h.toRespects.foldl_snd_snd _ ?_ ?_
    | dsimp only
    | split

theorem execAck_walk (h : Respects R) (h_ : OpenHdr) (status : BitVec 16) (lines : BitVec 32) (h0 : R s0 s) :
   Yields (R s0) (execAck h_ status lines s) := by
  unfold execAck
  repeat' first
    | with_reducible assumption
    | with_reducible intro t
    | with_reducible apply Yields.next
    | with_reducible apply Yields.ite
    | with_reducible apply h.ite
    | with_reducible apply State.openFlit_walk h
    | with_reducible apply State.onNet_walk h
    | with_reducible apply State.discardAnswer_walk h
    | with_reducible apply State.endRequest_walk h
    | dsimp only
    | split

theorem State.failRequest_walk (h : Respects R) (tag : Nat) (r : RemoteReq) (status : Nat) (h0 : R s0 s) :
   R s0 (s.failRequest tag r status) := by
  unfold State.failRequest
  repeat' first
    | with_reducible assumption
    | with_reducible intro t
    | with_reducible apply h.ite
    | with_reducible apply State.endRequest_walk h
    | with_reducible apply State.onNet_walk h
    | with_reducible apply State.faultPtn_walk h
    | dsimp only
    | split

theorem execNack_walk (h : Respects R) (h_ : OpenHdr) (status : BitVec 16) (va : Word) (h0 : R s0 s) :
   Yields (R s0) (execNack h_ status va s) := by
  unfold execNack
  repeat' first
    | with_reducible assumption
    | with_reducible intro t
    | with_reducible apply Yields.next
    | with_reducible apply Yields.ite
    | with_reducible apply h.ite
    | with_reducible apply State.openFlit_walk h
    | with_reducible apply State.onNet_walk h
    | with_reducible apply State.discardAnswer_walk h
    | with_reducible apply State.failRequest_walk h
    | dsimp only
    | split

theorem execOpenRequestTimeout_walk (h : Respects R) (tag : BitVec 16) (h0 : R s0 s) :
   Yields (R s0) (execOpenRequestTimeout tag s) := by
  unfold execOpenRequestTimeout
  repeat' first
    | with_reducible assumption
    | with_reducible intro t
    | with_reducible apply Yields.next
    | with_reducible apply Yields.ite
    | with_reducible apply h.ite
    | with_reducible apply State.atLeast_walk h
    | with_reducible apply State.failRequest_walk h
    | with_reducible apply State.onNet_walk h
    | dsimp only
    | split

end Sys2Proof.Machine
end

