-- ==== Sys2Proof/Laws/WalkLoader.lean ====
section
/-! SUPPORT. What each operation of Machine/Loader.lean can do: it walks through the primitive changes of `Respects`. -/

set_option linter.unusedTactic false
set_option linter.unreachableTactic false

namespace Sys2Proof.Machine

variable {R : State → State → Prop} {s0 s : State}

theorem State.asStaged_walk (h : Respects R) (p : Nat) (slices : Nat) (sets : Nat) (h0 : R s0 s) :
   R s0 (s.asStaged p slices sets) := by
  unfold State.asStaged
  repeat' first
    | with_reducible assumption
    | with_reducible intro t
    | with_reducible apply h.ite
    | with_reducible apply State.set_walk h
    | with_reducible apply State.onEngines_walk h
    | dsimp only
    | split

end Sys2Proof.Machine
end

