-- ==== Sys2Proof/Laws/WalkTables.lean ====
section
/-! SUPPORT. What each operation of Machine/Tables.lean can do: it walks through the primitive changes of `Respects`. -/

set_option linter.unusedTactic false
set_option linter.unreachableTactic false

namespace Sys2Proof.Machine

variable {R : State → State → Prop} {s0 s : State}

theorem State.staleRanges_walk (h : Respects R) (p : Nat) (rs : List (Nat × Nat)) (h0 : R s0 s) :
   R s0 (s.staleRanges p rs) := by
  unfold State.staleRanges
  repeat' first
    | with_reducible assumption
    | with_reducible intro t
    | with_reducible refine h.onMem ?_ rfl id

theorem State.invalidate_walk (h : Respects R) (p : Nat) (rs : List (Nat × Nat)) (h0 : R s0 s) :
   R s0 (s.invalidate p rs) := by
  unfold State.invalidate
  repeat' first
    | with_reducible assumption
    | with_reducible intro t
    | with_reducible apply h.ite
    | with_reducible refine h.onMem ?_ rfl id
    | dsimp only
    | split

theorem State.applyUpdate_walk (h : Respects R) (p : Nat) (recs : List TableRec) (h0 : R s0 s) :
   R s0 (s.applyUpdate p recs) := by
  unfold State.applyUpdate
  repeat' first
    | with_reducible assumption
    | with_reducible intro t
    | with_reducible apply State.writeTable_walk h
    | with_reducible apply State.invalidate_walk h
    | with_reducible refine h.foldl _ ?_ ?_
    | with_reducible refine h.foldl_snd _ ?_ ?_
    | with_reducible refine h.foldl_snd_snd _ ?_ ?_

end Sys2Proof.Machine
end

