-- ==== Sys2Proof/Laws/WalkItems.lean ====
section
/-! SUPPORT. What each operation of Machine/Items.lean can do: it walks through the primitive changes of `Respects`. -/

set_option linter.unusedTactic false
set_option linter.unreachableTactic false

namespace Sys2Proof.Machine

variable {R : State → State → Prop} {s0 s : State}

theorem State.sendHopReport_walk (h : Respects R) (p : Nat) (h0 : R s0 s) :
   R s0 (s.sendHopReport p) := by
  unfold State.sendHopReport
  repeat' first
    | with_reducible assumption
    | with_reducible intro t
    | with_reducible apply h.ite
    | with_reducible apply State.sendLong_walk h
    | dsimp only
    | split

theorem State.takeBlocks_walk (h : Respects R) (p : Nat) (im : ImageContent) (h0 : R s0 s) :
   R s0 (s.takeBlocks p im).2 := by
  unfold State.takeBlocks
  repeat' first
    | with_reducible assumption
    | with_reducible intro t
    | with_reducible apply State.setNode_walk h
    | with_reducible refine h.foldl _ ?_ ?_
    | with_reducible refine h.foldl_snd _ ?_ ?_
    | with_reducible refine h.foldl_snd_snd _ ?_ ?_

theorem State.installHops_walk (h : Respects R) (im : Image) (h0 : R s0 s) :
   R s0 (s.installHops im) := by
  unfold State.installHops
  repeat' first
    | with_reducible assumption
    | with_reducible intro t
    | with_reducible apply State.setNode_walk h
    | with_reducible refine h.foldl _ ?_ ?_
    | with_reducible refine h.foldl_snd _ ?_ ?_
    | with_reducible refine h.foldl_snd_snd _ ?_ ?_

theorem State.tellMembers_walk (h : Respects R) (p : Nat) (body : List Nat) (h0 : R s0 s) :
   R s0 (s.tellMembers p body) := by
  unfold State.tellMembers
  repeat' first
    | with_reducible assumption
    | with_reducible intro t
    | with_reducible apply State.sendLong_walk h
    | with_reducible refine h.foldl _ ?_ ?_
    | with_reducible refine h.foldl_snd _ ?_ ?_
    | with_reducible refine h.foldl_snd_snd _ ?_ ?_

theorem State.settleReady_walk (h : Respects R) (p : Nat) (idx : Nat) (h0 : R s0 s) :
   R s0 (s.settleReady p idx) := by
  unfold State.settleReady
  repeat' first
    | with_reducible assumption
    | with_reducible intro t
    | with_reducible apply h.ite
    | with_reducible apply State.setBits_walk h
    | with_reducible apply State.clearBits_walk h
    | with_reducible apply State.tellMembers_walk h
    | dsimp only
    | split

theorem State.noteDigest_walk (h : Respects R) (p : Nat) (device : Nat) (idx : Nat) (digest : Option (BitVec 256)) (h0 : R s0 s) :
   R s0 (s.noteDigest p device idx digest) := by
  unfold State.noteDigest
  repeat' first
    | with_reducible assumption
    | with_reducible intro t
    | with_reducible apply State.setMember_walk h
    | with_reducible apply State.settleReady_walk h
    | dsimp only
    | split

theorem State.sendDigest_walk (h : Respects R) (p : Nat) (idx : Nat) (digest : Option (BitVec 256)) (h0 : R s0 s) :
   R s0 (s.sendDigest p idx digest) := by
  unfold State.sendDigest
  repeat' first
    | with_reducible assumption
    | with_reducible apply h.ite
    | with_reducible apply State.noteDigest_walk h
    | with_reducible apply State.clearBits_walk h
    | with_reducible apply State.sendLong_walk h
    | dsimp only
    | split

theorem State.bindImage_walk (h : Respects R) (k : Nat) (h0 : R s0 s) :
   R s0 (s.bindImage k) := by
  unfold State.bindImage
  repeat' first
    | with_reducible assumption
    | with_reducible intro t
    | with_reducible apply State.setImage_walk h
    | with_reducible apply State.installHops_walk h
    | with_reducible apply State.useRegions_walk h
    | with_reducible apply State.setBits_walk h
    | with_reducible apply State.sendDigest_walk h
    | with_reducible refine h.foldl _ ?_ ?_
    | with_reducible refine h.foldl_snd _ ?_ ?_
    | with_reducible refine h.foldl_snd_snd _ ?_ ?_
    | dsimp only
    | split

theorem State.removeImage_walk (h : Respects R) (k : Nat) (bound : Bool) (h0 : R s0 s) :
   R s0 (s.removeImage k bound) := by
  unfold State.removeImage
  repeat' first
    | with_reducible assumption
    | with_reducible intro t
    | with_reducible apply h.ite
    | with_reducible apply State.freeImageBlocks_walk h
    | with_reducible apply State.destroyImage_walk h
    | with_reducible apply State.unrefObj_walk h
    | with_reducible apply State.unuseRegions_walk h
    | with_reducible apply State.clearBits_walk h
    | with_reducible apply State.sendDigest_walk h
    | with_reducible refine h.foldl _ ?_ ?_
    | with_reducible refine h.foldl_snd _ ?_ ?_
    | with_reducible refine h.foldl_snd_snd _ ?_ ?_
    | dsimp only
    | split

theorem State.popItem_walk (h : Respects R) (p : Nat) (h0 : R s0 s) :
   R s0 (s.popItem p) := by
  unfold State.popItem
  repeat' first
    | with_reducible assumption
    | with_reducible apply State.setLine_walk h

theorem State.setStep_walk (h : Respects R) (p : Nat) (n : Nat) (h0 : R s0 s) :
   R s0 (s.setStep p n) := by
  unfold State.setStep
  repeat' first
    | with_reducible assumption
    | with_reducible apply State.setLine_walk h
    | dsimp only
    | split

theorem State.completeSome_walk (h : Respects R) (a : Option Adm) (status : Nat) (h0 : R s0 s) :
   R s0 (s.completeSome a status) := by
  unfold State.completeSome
  repeat' first
    | with_reducible assumption
    | with_reducible apply State.complete_walk h
    | dsimp only
    | split

theorem execBindItem_walk (h : Respects R) (p : PtnNo) (h0 : R s0 s) :
   Yields (R s0) (execBindItem p s) := by
  unfold execBindItem
  repeat' first
    | with_reducible assumption
    | with_reducible apply Yields.next
    | with_reducible apply Yields.ite
    | with_reducible apply h.ite
    | with_reducible apply State.startHead_walk h
    | with_reducible apply State.installHops_walk h
    | dsimp only
    | split

theorem execUnbindItem_walk (h : Respects R) (p : PtnNo) (h0 : R s0 s) :
   Yields (R s0) (execUnbindItem p s) := by
  unfold execUnbindItem
  repeat' first
    | with_reducible assumption
    | with_reducible apply Yields.next
    | with_reducible apply Yields.ite
    | with_reducible apply h.ite
    | with_reducible apply State.startHead_walk h
    | dsimp only
    | split

theorem execTranslationUpdate_walk (h : Respects R) (p : PtnNo) (h0 : R s0 s) :
   Yields (R s0) (execTranslationUpdate p s) := by
  unfold execTranslationUpdate
  repeat' first
    | with_reducible assumption
    | with_reducible apply Yields.next
    | with_reducible apply Yields.ite
    | with_reducible apply h.ite
    | with_reducible apply State.startHead_walk h
    | with_reducible apply State.applyUpdate_walk h
    | dsimp only
    | split

theorem State.bothShapes_walk (h : Respects R) (p : Nat) (slices : Nat) (sets : Nat) (h0 : R s0 s) :
   R s0 (s.bothShapes p slices sets) := by
  unfold State.bothShapes
  repeat' first
    | with_reducible assumption
    | with_reducible apply State.set_walk h

theorem State.backShape_walk (h : Respects R) (p : Nat) (slices : Nat) (sets : Nat) (h0 : R s0 s) :
   R s0 (s.backShape p slices sets) := by
  unfold State.backShape
  repeat' first
    | with_reducible assumption
    | with_reducible apply State.set_walk h

theorem State.moveOne_walk (h : RespectsLines R) (new : State) (old : State) (errs : List LineError) (m : Move) (h0 : R s0 s) :
   R s0 (s.moveOne new old errs m) := by
  unfold State.moveOne
  repeat' first
    | with_reducible assumption
    | with_reducible intro t
    | with_reducible apply State.sealFrom_walk h.toRespects
    | with_reducible apply State.writeLine_walk h
    | with_reducible apply State.logObject_walk h.toRespects
    | with_reducible refine h.toRespects.foldl _ ?_ ?_
    | with_reducible refine h.toRespects.foldl_snd _ ?_ ?_
    | with_reducible refine h.toRespects.foldl_snd_snd _ ?_ ?_
    | dsimp only
    | split

theorem State.rebindStart_walk (h : Respects R) (p : Nat) (slices : Nat) (sets : Nat) (h0 : R s0 s) :
   R s0 (s.rebindStart p slices sets) := by
  unfold State.rebindStart
  repeat' first
    | with_reducible assumption
    | with_reducible intro t
    | with_reducible apply State.setSlicePower_walk h
    | with_reducible apply State.setChannel_walk h
    | with_reducible apply State.setOwner_walk h
    | with_reducible apply State.set_walk h
    | with_reducible refine h.foldl _ ?_ ?_
    | with_reducible refine h.foldl_snd _ ?_ ?_
    | with_reducible refine h.foldl_snd_snd _ ?_ ?_

theorem State.rebindMoves_walk (h : Respects R) (p : Nat) (moves : List Move) (h0 : R s0 s) :
   R s0 (s.rebindMoves p moves) := by
  unfold State.rebindMoves
  repeat' first
    | with_reducible assumption
    | with_reducible intro t
    | with_reducible apply State.useRegions_walk h
    | with_reducible apply State.placeOrder_walk h
    | with_reducible apply State.setStep_walk h
    | with_reducible refine h.foldl _ ?_ ?_
    | with_reducible refine h.foldl_snd _ ?_ ?_
    | with_reducible refine h.foldl_snd_snd _ ?_ ?_

theorem State.endMove_walk (h : RespectsLines R) (p : Nat) (k : Nat) (errs : List LineError) (h0 : R s0 s) :
   R s0 (s.endMove p k errs) := by
  unfold State.endMove
  repeat' first
    | with_reducible assumption
    | with_reducible intro t
    | with_reducible apply State.asStaged_walk h.toRespects
    | with_reducible apply State.noteLines_walk h.toRespects
    | with_reducible apply State.popItem_walk h.toRespects
    | with_reducible apply State.set_walk h.toRespects
    | with_reducible apply State.cancelItem_walk h.toRespects
    | with_reducible apply State.faultPtn_walk h.toRespects
    | with_reducible apply State.bothShapes_walk h.toRespects
    | with_reducible apply State.moveOne_walk h
    | with_reducible apply State.backShape_walk h.toRespects
    | with_reducible apply State.count_walk h.toRespects
    | dsimp only
    | split

theorem State.endOrder_walk (h : RespectsLines R) (e : Nat) (o : OpenEntry) (errs : List LineError) (h0 : R s0 s) :
   R s0 (s.endOrder e o errs) := by
  unfold State.endOrder
  repeat' first
    | with_reducible assumption
    | with_reducible intro t
    | with_reducible apply h.toRespects.ite
    | with_reducible apply State.asRead_walk h
    | with_reducible apply State.touchChannel_walk h.toRespects
    | with_reducible apply State.noteLines_walk h.toRespects
    | with_reducible apply State.sealFrom_walk h.toRespects
    | with_reducible apply State.writeLines_walk h
    | with_reducible apply State.addMasked_walk h.toRespects
    | with_reducible apply State.count_walk h.toRespects
    | with_reducible apply State.complete_walk h.toRespects
    | with_reducible apply State.endGroup_walk h.toRespects
    | with_reducible apply State.faultPtn_walk h.toRespects
    | with_reducible refine h.toRespects.foldl _ ?_ ?_
    | with_reducible refine h.toRespects.foldl_snd _ ?_ ?_
    | with_reducible refine h.toRespects.foldl_snd_snd _ ?_ ?_
    | dsimp only
    | split

theorem execOpenEntryEnd_walk (h : RespectsLines R) (engine : BitVec 5) (entry : BitVec 6) (errs : List LineError) (h0 : R s0 s) :
   Yields (R s0) (execOpenEntryEnd engine entry errs s) := by
  unfold execOpenEntryEnd
  repeat' first
    | with_reducible assumption
    | with_reducible intro t
    | with_reducible apply Yields.next
    | with_reducible apply Yields.ite
    | with_reducible apply h.toRespects.ite
    | with_reducible apply State.meetErrors_walk h.toRespects
    | with_reducible apply State.setEngine_walk h.toRespects
    | with_reducible apply State.set_walk h.toRespects
    | with_reducible apply State.count_walk h.toRespects
    | with_reducible apply State.overwrite_walk h
    | with_reducible apply State.endMove_walk h
    | with_reducible apply State.endOrder_walk h
    | with_reducible apply State.unuseRegions_walk h.toRespects
    | with_reducible apply State.grantQueue_walk h.toRespects
    | dsimp only
    | split

theorem State.applyGrant_walk (h : Respects R) (p : Nat) (g : Grant) (h0 : R s0 s) :
   R s0 (s.applyGrant p g) := by
  unfold State.applyGrant
  repeat' first
    | with_reducible assumption
    | with_reducible intro t
    | with_reducible apply h.ite
    | with_reducible apply State.onNet_walk h
    | with_reducible refine h.foldl _ ?_ ?_
    | with_reducible refine h.foldl_snd _ ?_ ?_
    | with_reducible refine h.foldl_snd_snd _ ?_ ?_
    | dsimp only
    | split

theorem State.rebindRegion_walk (h : Respects R) (p : Nat) (e : Nat) (changed : Bool) (n : Nat) (g : Region) (h0 : R s0 s) :
   R s0 (s.rebindRegion p e changed n g) := by
  unfold State.rebindRegion
  repeat' first
    | with_reducible assumption
    | with_reducible apply h.ite
    | with_reducible apply State.setEngine_walk h
    | with_reducible apply State.unrefObj_walk h
    | dsimp only
    | split

theorem State.rebindShape_walk (h : Respects R) (p : Nat) (profile : Nat) (slices : Nat) (sets : Nat) (h0 : R s0 s) :
   R s0 (s.rebindShape p profile slices sets) := by
  unfold State.rebindShape
  repeat' first
    | with_reducible assumption
    | with_reducible intro t
    | with_reducible apply h.ite
    | with_reducible apply State.setOwner_walk h
    | with_reducible apply State.backShape_walk h
    | with_reducible apply State.set_walk h
    | with_reducible apply State.toPool_walk h
    | with_reducible apply State.rebindRegion_walk h
    | with_reducible refine h.foldl _ ?_ ?_
    | with_reducible refine h.foldl_snd _ ?_ ?_
    | with_reducible refine h.foldl_snd_snd _ ?_ ?_
    | with_reducible refine h.onMem ?_ rfl id
    | dsimp only
    | split

theorem State.rebindZeroise_walk (h : Respects R) (gone : Nat) (h0 : R s0 s) :
   R s0 (s.rebindZeroise gone) := by
  unfold State.rebindZeroise
  repeat' first
    | with_reducible assumption
    | with_reducible intro t
    | with_reducible apply State.zeroiseSlice_walk h
    | with_reducible apply State.toPool_walk h
    | with_reducible refine h.foldl _ ?_ ?_
    | with_reducible refine h.foldl_snd _ ?_ ?_
    | with_reducible refine h.foldl_snd_snd _ ?_ ?_
    | with_reducible refine h.onMem ?_ rfl id

theorem State.rebindStep_walk (h : Respects R) (p : Nat) (it : Item) (h0 : R s0 s) :
   R s0 (s.rebindStep p it) := by
  unfold State.rebindStep
  repeat' first
    | with_reducible assumption
    | with_reducible intro t
    | with_reducible apply h.ite
    | with_reducible apply State.rebindMoves_walk h
    | with_reducible apply State.applyUpdate_walk h
    | with_reducible apply State.setStep_walk h
    | with_reducible apply State.removeImage_walk h
    | with_reducible apply State.bindImage_walk h
    | with_reducible apply State.applyGrant_walk h
    | with_reducible apply State.sendHopReport_walk h
    | with_reducible apply State.set_walk h
    | with_reducible apply State.rebindShape_walk h
    | with_reducible apply State.rebindZeroise_walk h
    | with_reducible refine h.foldl _ ?_ ?_
    | with_reducible refine h.foldl_snd _ ?_ ?_
    | with_reducible refine h.foldl_snd_snd _ ?_ ?_
    | dsimp only
    | split

theorem execRebindingItem_walk (h : Respects R) (p : PtnNo) (errs : List LineError) (h0 : R s0 s) :
   Yields (R s0) (execRebindingItem p errs s) := by
  unfold execRebindingItem
  repeat' first
    | with_reducible assumption
    | with_reducible apply Yields.next
    | with_reducible apply Yields.ite
    | with_reducible apply h.ite
    | with_reducible apply State.meetErrors_walk h
    | with_reducible apply State.startHead_walk h
    | with_reducible apply State.rebindStart_walk h
    | with_reducible apply State.setStep_walk h
    | with_reducible apply State.rebindStep_walk h
    | dsimp only
    | split

theorem State.endReshape_walk (h : Respects R) (p : Nat) (plan : ReshapePlan) (masks : Bool) (a : Adm) (h0 : R s0 s) :
   R s0 (s.endReshape p plan masks a) := by
  unfold State.endReshape
  repeat' first
    | with_reducible assumption
    | with_reducible apply h.ite
    | with_reducible apply State.popItem_walk h
    | with_reducible apply State.set_walk h
    | with_reducible apply State.setLine_walk h
    | with_reducible apply State.complete_walk h
    | with_reducible apply State.faultPtn_walk h
    | dsimp only
    | split

theorem State.finishReshape_walk (h : Respects R) (p : Nat) (h0 : R s0 s) :
   R s0 (s.finishReshape p) := by
  unfold State.finishReshape
  repeat' first
    | with_reducible assumption
    | with_reducible intro t
    | with_reducible apply h.ite
    | with_reducible apply State.rebindStep_walk h
    | with_reducible apply State.endReshape_walk h
    | dsimp only
    | split

theorem execParkItem_walk (h : Respects R) (p : PtnNo) (h0 : R s0 s) :
   Yields (R s0) (execParkItem p s) := by
  unfold execParkItem
  repeat' first
    | with_reducible assumption
    | with_reducible intro t
    | with_reducible apply Yields.next
    | with_reducible apply Yields.ite
    | with_reducible apply h.ite
    | with_reducible apply State.setSlicePower_walk h
    | with_reducible apply State.startHead_walk h
    | with_reducible apply State.raise_walk h
    | with_reducible refine h.foldl _ ?_ ?_
    | with_reducible refine h.foldl_snd _ ?_ ?_
    | with_reducible refine h.foldl_snd_snd _ ?_ ?_
    | dsimp only
    | split

theorem execWakeItem_walk (h : Respects R) (p : PtnNo) (h0 : R s0 s) :
   Yields (R s0) (execWakeItem p s) := by
  unfold execWakeItem
  repeat' first
    | with_reducible assumption
    | with_reducible intro t
    | with_reducible apply Yields.next
    | with_reducible apply Yields.ite
    | with_reducible apply h.ite
    | with_reducible apply State.setSlicePower_walk h
    | with_reducible apply State.startHead_walk h
    | with_reducible apply State.set_walk h
    | with_reducible refine h.foldl _ ?_ ?_
    | with_reducible refine h.foldl_snd _ ?_ ?_
    | with_reducible refine h.foldl_snd_snd _ ?_ ?_
    | dsimp only
    | split

theorem execDebugItem_walk (h : Respects R) (p : PtnNo) (h0 : R s0 s) :
   Yields (R s0) (execDebugItem p s) := by
  unfold execDebugItem
  repeat' first
    | with_reducible assumption
    | with_reducible apply Yields.next
    | with_reducible apply Yields.ite
    | with_reducible apply h.ite
    | with_reducible apply State.startHead_walk h
    | with_reducible apply State.raise_walk h
    | with_reducible apply State.complete_walk h
    | dsimp only
    | split

theorem State.endDebug_walk (h : Respects R) (p : Nat) (h0 : R s0 s) :
   R s0 (s.endDebug p) := by
  unfold State.endDebug
  repeat' first
    | with_reducible assumption
    | with_reducible intro t
    | with_reducible apply State.cancelItem_walk h
    | with_reducible apply State.setLine_walk h
    | with_reducible refine h.foldl _ ?_ ?_
    | with_reducible refine h.foldl_snd _ ?_ ?_
    | with_reducible refine h.foldl_snd_snd _ ?_ ?_

theorem State.endMembership_walk (h : Respects R) (p : Nat) (h0 : R s0 s) :
   R s0 (s.endMembership p) := by
  unfold State.endMembership
  repeat' first
    | with_reducible assumption
    | with_reducible intro t
    | with_reducible apply State.onNet_walk h
    | with_reducible apply State.setMstate_walk h
    | with_reducible apply State.setMember_walk h
    | with_reducible apply State.set_walk h
    | with_reducible refine h.foldl _ ?_ ?_
    | with_reducible refine h.foldl_snd _ ?_ ?_
    | with_reducible refine h.foldl_snd_snd _ ?_ ?_
    | dsimp only
    | split

theorem execLeaveItem_walk (h : Respects R) (p : PtnNo) (h0 : R s0 s) :
   Yields (R s0) (execLeaveItem p s) := by
  unfold execLeaveItem
  repeat' first
    | with_reducible assumption
    | with_reducible apply Yields.next
    | with_reducible apply Yields.ite
    | with_reducible apply h.ite
    | with_reducible apply State.startHead_walk h
    | with_reducible apply State.setMstate_walk h
    | with_reducible apply State.setMember_walk h
    | with_reducible apply State.sendMask_walk h
    | dsimp only
    | split

theorem execLeaveInstant_walk (h : Respects R) (p : PtnNo) (h0 : R s0 s) :
   Yields (R s0) (execLeaveInstant p s) := by
  unfold execLeaveInstant
  repeat' first
    | with_reducible assumption
    | with_reducible intro t
    | with_reducible apply Yields.next
    | with_reducible apply Yields.ite
    | with_reducible apply h.ite
    | with_reducible apply State.atLeast_walk h
    | with_reducible apply State.endMembership_walk h
    | with_reducible apply State.setMember_walk h
    | with_reducible apply State.setMstate_walk h
    | with_reducible apply State.set_walk h
    | with_reducible apply State.settleReady_walk h
    | with_reducible refine h.foldl _ ?_ ?_
    | with_reducible refine h.foldl_snd _ ?_ ?_
    | with_reducible refine h.foldl_snd_snd _ ?_ ?_
    | dsimp only
    | split

theorem State.endItem_walk (h : Respects R) (p : Nat) (it : Item) (t : Nat) (h0 : R s0 s) :
   R s0 (s.endItem p it t) := by
  unfold State.endItem
  repeat' first
    | with_reducible assumption
    | with_reducible apply h.ite
    | with_reducible apply State.atLeast_walk h
    | with_reducible apply State.popItem_walk h
    | with_reducible apply State.bindImage_walk h
    | with_reducible apply State.complete_walk h
    | with_reducible apply State.removeImage_walk h
    | with_reducible apply State.completeSome_walk h
    | with_reducible apply State.endReshape_walk h
    | with_reducible apply State.runSeg_walk h
    | with_reducible apply State.idleUnits_walk h
    | dsimp only
    | split

theorem execLineItemEnd_walk (h : Respects R) (p : PtnNo) (h0 : R s0 s) :
   Yields (R s0) (execLineItemEnd p s) := by
  unfold execLineItemEnd
  repeat' first
    | with_reducible assumption
    | with_reducible apply Yields.next
    | with_reducible apply Yields.ite
    | with_reducible apply h.ite
    | with_reducible apply State.endItem_walk h
    | with_reducible apply State.seamEffects_walk h
    | dsimp only
    | split

theorem execLineItemOverrun_walk (h : Respects R) (p : PtnNo) (h0 : R s0 s) :
   Yields (R s0) (execLineItemOverrun p s) := by
  unfold execLineItemOverrun
  repeat' first
    | with_reducible assumption
    | with_reducible apply Yields.next
    | with_reducible apply Yields.ite
    | with_reducible apply h.ite
    | with_reducible apply State.atLeast_walk h
    | with_reducible apply State.faultPtn_walk h
    | dsimp only
    | split

theorem State.beginSwitch_walk (h : Respects R) (fabric : Bool) (a : Option Adm) (h0 : R s0 s) :
   R s0 (s.beginSwitch fabric a) := by
  unfold State.beginSwitch
  repeat' first
    | with_reducible assumption
    | with_reducible intro t
    | with_reducible apply State.onClock_walk h
    | with_reducible apply State.raise_walk h

theorem execStandbyPllLock_walk (h : Respects R) (h0 : R s0 s) :
    Yields (R s0) (execStandbyPllLock s) := by
  unfold execStandbyPllLock
  repeat' first
    | with_reducible assumption
    | with_reducible intro t
    | with_reducible apply Yields.next
    | with_reducible apply Yields.ite
    | with_reducible apply h.ite
    | with_reducible apply State.raise_walk h
    | with_reducible apply State.onClock_walk h
    | with_reducible apply State.setLine_walk h
    | with_reducible refine h.foldl _ ?_ ?_
    | with_reducible refine h.foldl_snd _ ?_ ?_
    | with_reducible refine h.foldl_snd_snd _ ?_ ?_
    | dsimp only
    | split

theorem State.dropSwitch_walk (h : Respects R) (h0 : R s0 s) :
    R s0 (s.dropSwitch) := by
  unfold State.dropSwitch
  repeat' first
    | with_reducible assumption
    | with_reducible intro t
    | with_reducible apply State.setLine_walk h
    | with_reducible apply State.onClock_walk h
    | with_reducible apply State.set_walk h
    | with_reducible refine h.foldl _ ?_ ?_
    | with_reducible refine h.foldl_snd _ ?_ ?_
    | with_reducible refine h.foldl_snd_snd _ ?_ ?_

theorem execTickSwitchItem_walk (h : Respects R) (h0 : R s0 s) :
    Yields (R s0) (execTickSwitchItem s) := by
  unfold execTickSwitchItem
  repeat' first
    | with_reducible assumption
    | with_reducible intro t
    | with_reducible apply Yields.next
    | with_reducible apply Yields.ite
    | with_reducible apply h.ite
    | with_reducible apply State.dropSwitch_walk h
    | with_reducible apply State.completeSome_walk h
    | with_reducible apply State.startHead_walk h
    | with_reducible apply State.refreshAll_walk h
    | with_reducible apply State.onClock_walk h
    | with_reducible refine h.foldl _ ?_ ?_
    | with_reducible refine h.foldl_snd _ ?_ ?_
    | with_reducible refine h.foldl_snd_snd _ ?_ ?_
    | dsimp only
    | split

theorem State.afterSwitch_walk (h : Respects R) (fabric : Bool) (h0 : R s0 s) :
   R s0 (s.afterSwitch fabric) := by
  unfold State.afterSwitch
  repeat' first
    | with_reducible assumption
    | with_reducible intro t
    | with_reducible apply h.ite
    | with_reducible apply State.loseLock_walk h
    | with_reducible apply State.set_walk h
    | with_reducible apply State.onNet_walk h
    | with_reducible apply State.settlePhase_walk h
    | dsimp only
    | split

theorem execTickRestart_walk (h : Respects R) (h0 : R s0 s) :
    Yields (R s0) (execTickRestart s) := by
  unfold execTickRestart
  repeat' first
    | with_reducible assumption
    | with_reducible intro t
    | with_reducible apply Yields.next
    | with_reducible apply Yields.ite
    | with_reducible apply h.ite
    | with_reducible apply State.atLeast_walk h
    | with_reducible apply State.refreshAll_walk h
    | with_reducible apply State.set_walk h
    | with_reducible apply State.onClock_walk h
    | with_reducible apply State.restartFrames_walk h
    | with_reducible apply State.dropSwitch_walk h
    | with_reducible apply State.afterSwitch_walk h
    | with_reducible apply State.completeSome_walk h
    | with_reducible refine h.foldl _ ?_ ?_
    | with_reducible refine h.foldl_snd _ ?_ ?_
    | with_reducible refine h.foldl_snd_snd _ ?_ ?_
    | dsimp only
    | split

theorem execAutoTickSwitch_walk (h : Respects R) (h0 : R s0 s) :
    Yields (R s0) (execAutoTickSwitch s) := by
  unfold execAutoTickSwitch
  repeat' first
    | with_reducible assumption
    | with_reducible apply Yields.next
    | with_reducible apply Yields.ite
    | with_reducible apply h.ite
    | with_reducible apply State.beginSwitch_walk h
    | dsimp only
    | split

theorem State.orderSwitch_walk (h : Respects R) (a : Adm) (fabric : Bool) (h0 : R s0 s) :
   R s0 (s.orderSwitch a fabric) := by
  unfold State.orderSwitch
  repeat' first
    | with_reducible assumption
    | with_reducible apply h.ite
    | with_reducible apply State.complete_walk h
    | with_reducible apply State.beginSwitch_walk h
    | dsimp only
    | split

theorem execTickSourceLocal_walk (h : Respects R) (a : Adm) (h0 : R s0 s) :
   Yields (R s0) (execTickSourceLocal a s) := by
  unfold execTickSourceLocal
  repeat' first
    | with_reducible assumption
    | with_reducible intro t
    | with_reducible apply Yields.next
    | with_reducible apply Yields.ite
    | with_reducible apply State.admin_walk h
    | with_reducible apply State.orderSwitch_walk h

theorem execTickSourceFabric_walk (h : Respects R) (a : Adm) (h0 : R s0 s) :
   Yields (R s0) (execTickSourceFabric a s) := by
  unfold execTickSourceFabric
  repeat' first
    | with_reducible assumption
    | with_reducible intro t
    | with_reducible apply Yields.next
    | with_reducible apply Yields.ite
    | with_reducible apply State.admin_walk h
    | with_reducible apply State.orderSwitch_walk h

theorem execPwrPark_walk (h : Respects R) (a : Adm) (p : Byte) (state : Byte) (h0 : R s0 s) :
   Yields (R s0) (execPwrPark a p state s) := by
  unfold execPwrPark
  repeat' first
    | with_reducible assumption
    | with_reducible intro t
    | with_reducible apply Yields.next
    | with_reducible apply Yields.ite
    | with_reducible apply h.ite
    | with_reducible apply State.admin_walk h
    | with_reducible apply State.complete_walk h
    | with_reducible apply State.placeItem_walk h
    | dsimp only
    | split

theorem execPwrWake_walk (h : Respects R) (a : Adm) (p : Byte) (h0 : R s0 s) :
   Yields (R s0) (execPwrWake a p s) := by
  unfold execPwrWake
  repeat' first
    | with_reducible assumption
    | with_reducible intro t
    | with_reducible apply Yields.next
    | with_reducible apply Yields.ite
    | with_reducible apply h.ite
    | with_reducible apply State.admin_walk h
    | with_reducible apply State.complete_walk h
    | with_reducible apply State.placeItem_walk h
    | dsimp only
    | split

end Sys2Proof.Machine
end

