-- ==== Sys2Proof/Laws/WalkAlloy.lean ====
section
/-! SUPPORT. What each operation of Machine/Alloy.lean can do: it walks through the primitive changes of `Respects`. -/

set_option linter.unusedTactic false
set_option linter.unreachableTactic false

namespace Sys2Proof.Machine

variable {R : State → State → Prop} {s0 s : State}

theorem execAlloyJoin_walk (h : Respects R) (a : Adm) (p : Byte) (lead : BitVec 16) (alloy : BitVec 32) (windowUs : BitVec 32) (tJoin : Word) (plan : JoinPlan) (h0 : R s0 s) :
   Yields (R s0) (execAlloyJoin a p lead alloy windowUs tJoin plan s) := by
  unfold execAlloyJoin
  repeat' first
    | with_reducible assumption
    | with_reducible intro t
    | with_reducible apply Yields.next
    | with_reducible apply Yields.ite
    | with_reducible apply h.ite
    | with_reducible apply State.admin_walk h
    | with_reducible apply State.complete_walk h
    | with_reducible apply State.setMember_walk h
    | with_reducible apply State.setMstate_walk h
    | with_reducible apply State.set_walk h
    | dsimp only
    | split

theorem State.sendDown_walk (h : Respects R) (alloy : Nat) (opcode : Nat) (seq : Nat) (arg : BitVec 64) (h0 : R s0 s) :
   R s0 (s.sendDown alloy opcode seq arg) := by
  unfold State.sendDown
  repeat' first
    | with_reducible assumption
    | with_reducible apply State.sendMask_walk h
    | dsimp only
    | split

theorem State.endJoin_walk (h : Respects R) (p : Nat) (status : Nat) (h0 : R s0 s) :
   R s0 (s.endJoin p status) := by
  unfold State.endJoin
  repeat' first
    | with_reducible assumption
    | with_reducible apply State.setMember_walk h
    | with_reducible apply State.complete_walk h
    | dsimp only
    | split

theorem State.becomeActive_walk (h : Respects R) (p : Nat) (h0 : R s0 s) :
   R s0 (s.becomeActive p) := by
  unfold State.becomeActive
  repeat' first
    | with_reducible assumption
    | with_reducible apply h.ite
    | with_reducible apply State.setMstate_walk h
    | with_reducible apply State.endJoin_walk h
    | with_reducible apply State.setMember_walk h
    | dsimp only
    | split

theorem State.abandonJoin_walk (h : Respects R) (p : Nat) (h0 : R s0 s) :
   R s0 (s.abandonJoin p) := by
  unfold State.abandonJoin
  repeat' first
    | with_reducible assumption
    | with_reducible apply h.ite
    | with_reducible apply State.endJoin_walk h
    | with_reducible apply State.endMembership_walk h
    | dsimp only
    | split

theorem State.joinComplete_walk (h : Respects R) (alloy : Nat) (p : Nat) (h0 : R s0 s) :
   R s0 (s.joinComplete alloy p) := by
  unfold State.joinComplete
  repeat' first
    | with_reducible assumption
    | with_reducible apply State.sendDown_walk h
    | with_reducible apply State.becomeActive_walk h

theorem execJoinInstant_walk (h : Respects R) (p : PtnNo) (h0 : R s0 s) :
   Yields (R s0) (execJoinInstant p s) := by
  unfold execJoinInstant
  repeat' first
    | with_reducible assumption
    | with_reducible apply Yields.next
    | with_reducible apply Yields.ite
    | with_reducible apply h.ite
    | with_reducible apply State.atLeast_walk h
    | with_reducible apply State.sendHopReport_walk h
    | with_reducible apply State.setMember_walk h
    | with_reducible apply State.arrive_walk h
    | with_reducible apply State.joinComplete_walk h
    | dsimp only
    | split

theorem execJoinWindowEnd_walk (h : Respects R) (p : PtnNo) (h0 : R s0 s) :
   Yields (R s0) (execJoinWindowEnd p s) := by
  unfold execJoinWindowEnd
  repeat' first
    | with_reducible assumption
    | with_reducible intro t
    | with_reducible apply Yields.next
    | with_reducible apply Yields.ite
    | with_reducible apply h.ite
    | with_reducible apply State.atLeast_walk h
    | with_reducible apply State.sendDown_walk h
    | with_reducible apply State.notice_walk h
    | with_reducible apply State.abandonJoin_walk h
    | dsimp only
    | split

theorem execAlloyUndecided_walk (h : Respects R) (p : PtnNo) (h0 : R s0 s) :
   Yields (R s0) (execAlloyUndecided p s) := by
  unfold execAlloyUndecided
  repeat' first
    | with_reducible assumption
    | with_reducible apply Yields.next
    | with_reducible apply Yields.ite
    | with_reducible apply h.ite
    | with_reducible apply State.atLeast_walk h
    | with_reducible apply State.setMember_walk h
    | with_reducible apply State.notice_walk h
    | dsimp only
    | split

theorem execAlloyRuleNone_walk (h : Respects R) (a : Adm) (p : Byte) (h0 : R s0 s) :
   Yields (R s0) (execAlloyRuleNone a p s) := by
  unfold execAlloyRuleNone
  repeat' first
    | with_reducible assumption
    | with_reducible intro t
    | with_reducible apply Yields.next
    | with_reducible apply Yields.ite
    | with_reducible apply h.ite
    | with_reducible apply State.admin_walk h
    | with_reducible apply State.complete_walk h
    | with_reducible apply State.abandonJoin_walk h
    | dsimp only
    | split

theorem execAlloyRuleActive_walk (h : Respects R) (a : Adm) (p : Byte) (h0 : R s0 s) :
   Yields (R s0) (execAlloyRuleActive a p s) := by
  unfold execAlloyRuleActive
  repeat' first
    | with_reducible assumption
    | with_reducible intro t
    | with_reducible apply Yields.next
    | with_reducible apply Yields.ite
    | with_reducible apply h.ite
    | with_reducible apply State.admin_walk h
    | with_reducible apply State.complete_walk h
    | with_reducible apply State.becomeActive_walk h
    | dsimp only
    | split

theorem execAlloyLeave_walk (h : Respects R) (a : Adm) (p : Byte) (leaving : List (BitVec 16)) (h0 : R s0 s) :
   Yields (R s0) (execAlloyLeave a p leaving s) := by
  unfold execAlloyLeave
  repeat' first
    | with_reducible assumption
    | with_reducible intro t
    | with_reducible apply Yields.next
    | with_reducible apply Yields.ite
    | with_reducible apply h.ite
    | with_reducible apply State.admin_walk h
    | with_reducible apply State.complete_walk h
    | with_reducible apply State.placeItem_walk h
    | dsimp only
    | split

theorem State.killAlloy_walk (h : Respects R) (p : Nat) (e : Ending) (h0 : R s0 s) :
   R s0 (s.killAlloy p e) := by
  unfold State.killAlloy
  repeat' first
    | with_reducible assumption
    | with_reducible intro t
    | with_reducible apply State.voidAll_walk h

theorem execAlloyDissolve_walk (h : Respects R) (a : Adm) (p : Byte) (h0 : R s0 s) :
   Yields (R s0) (execAlloyDissolve a p s) := by
  unfold execAlloyDissolve
  repeat' first
    | with_reducible assumption
    | with_reducible intro t
    | with_reducible apply Yields.next
    | with_reducible apply Yields.ite
    | with_reducible apply h.ite
    | with_reducible apply State.admin_walk h
    | with_reducible apply State.complete_walk h
    | with_reducible apply State.voidAlloy_walk h
    | with_reducible apply State.killAlloy_walk h
    | with_reducible apply State.endJoin_walk h
    | with_reducible apply State.endMembership_walk h
    | dsimp only
    | split

theorem execAlloyResume_walk (h : Respects R) (a : Adm) (p : Byte) (h0 : R s0 s) :
   Yields (R s0) (execAlloyResume a p s) := by
  unfold execAlloyResume
  repeat' first
    | with_reducible assumption
    | with_reducible intro t
    | with_reducible apply Yields.next
    | with_reducible apply Yields.ite
    | with_reducible apply h.ite
    | with_reducible apply State.admin_walk h
    | with_reducible apply State.complete_walk h
    | with_reducible apply State.sendDown_walk h
    | with_reducible apply State.becomeActive_walk h
    | dsimp only
    | split

theorem execAlloyTreeInstall_walk (h : Respects R) (a : Adm) (up : Byte) (down : Byte) (member : Byte) (alloy : BitVec 32) (h0 : R s0 s) :
   Yields (R s0) (execAlloyTreeInstall a up down member alloy s) := by
  unfold execAlloyTreeInstall
  repeat' first
    | with_reducible assumption
    | with_reducible intro t
    | with_reducible apply Yields.next
    | with_reducible apply Yields.ite
    | with_reducible apply h.ite
    | with_reducible apply State.admin_walk h
    | with_reducible apply State.complete_walk h
    | with_reducible apply State.onNet_walk h
    | dsimp only
    | split

theorem execAlloyTreeRemove_walk (h : Respects R) (a : Adm) (up : Byte) (down : Byte) (member : Byte) (alloy : BitVec 32) (h0 : R s0 s) :
   Yields (R s0) (execAlloyTreeRemove a up down member alloy s) := by
  unfold execAlloyTreeRemove
  repeat' first
    | with_reducible assumption
    | with_reducible intro t
    | with_reducible apply Yields.next
    | with_reducible apply Yields.ite
    | with_reducible apply h.ite
    | with_reducible apply State.admin_walk h
    | with_reducible apply State.complete_walk h
    | with_reducible apply State.onNet_walk h
    | dsimp only
    | split

theorem execRouteWrite_walk (h : Respects R) (a : Adm) (first : BitVec 16) (count : BitVec 16) (entries : List (BitVec 4)) (h0 : R s0 s) :
   Yields (R s0) (execRouteWrite a first count entries s) := by
  unfold execRouteWrite
  repeat' first
    | with_reducible assumption
    | with_reducible intro t
    | with_reducible apply Yields.next
    | with_reducible apply Yields.ite
    | with_reducible apply State.admin_walk h
    | with_reducible apply State.count_walk h
    | with_reducible apply State.onNet_walk h
    | with_reducible apply State.complete_walk h
    | with_reducible refine h.foldl _ ?_ ?_
    | with_reducible refine h.foldl_snd _ ?_ ?_
    | with_reducible refine h.foldl_snd_snd _ ?_ ?_

theorem State.strayMsg_walk (h : Respects R) (m : AlloyMsg) (h0 : R s0 s) :
   R s0 (s.strayMsg m) := by
  unfold State.strayMsg
  repeat' first
    | with_reducible assumption
    | with_reducible apply State.strayed_walk h
    | dsimp only
    | split

theorem State.downMsg_walk (h : Respects R) (opcode : Nat) (m : AlloyMsg) {deliver : State → Nat → State}
    (hg : ∀ t p, R s0 t → R s0 (deliver t p)) (h0 : R s0 s) : R s0 (s.downMsg opcode m deliver) := by
  unfold State.downMsg
  have ht := State.sendDown_walk h (alloyId m) opcode (alloySeq m) m.arg h0
  refine h.ite ?_ (State.strayMsg_walk h _ h0)
  dsimp only
  split
  · exact hg _ _ ht
  · exact ht

theorem State.deliverLaunch_walk (h : Respects R) (p : Nat) (m : AlloyMsg) (h0 : R s0 s) :
   R s0 (s.deliverLaunch p m) := by
  unfold State.deliverLaunch
  repeat' first
    | with_reducible assumption
    | with_reducible apply h.ite
    | with_reducible apply State.drawOthers_walk h
    | with_reducible apply State.setBits_walk h
    | with_reducible apply State.placeCmd_walk h
    | dsimp only
    | split

theorem execLaunch_walk (h : Respects R) (m : AlloyMsg) (h0 : R s0 s) :
   Yields (R s0) (execLaunch m s) := by
  unfold execLaunch
  repeat' first
    | with_reducible assumption
    | with_reducible intro t
    | with_reducible apply Yields.next
    | with_reducible apply Yields.ite
    | with_reducible apply State.downMsg_walk h
    | with_reducible apply State.deliverLaunch_walk h

theorem execCommit_walk (h : Respects R) (m : AlloyMsg) (h0 : R s0 s) :
   Yields (R s0) (execCommit m s) := by
  unfold execCommit
  repeat' first
    | with_reducible assumption
    | with_reducible apply Yields.next
    | with_reducible apply Yields.ite
    | with_reducible apply State.arrive_walk h
    | with_reducible apply State.alloyCommit_walk h
    | with_reducible apply State.strayMsg_walk h
    | dsimp only
    | split

theorem State.deliverRelease_walk (h : Respects R) (p : Nat) (m : AlloyMsg) (h0 : R s0 s) :
   R s0 (s.deliverRelease p m) := by
  unfold State.deliverRelease
  repeat' first
    | with_reducible assumption
    | with_reducible apply h.ite
    | with_reducible apply State.setHead_walk h
    | with_reducible apply State.commitHead_walk h
    | dsimp only
    | split

theorem execRelease_walk (h : Respects R) (m : AlloyMsg) (h0 : R s0 s) :
   Yields (R s0) (execRelease m s) := by
  unfold execRelease
  repeat' first
    | with_reducible assumption
    | with_reducible intro t
    | with_reducible apply Yields.next
    | with_reducible apply Yields.ite
    | with_reducible apply State.downMsg_walk h
    | with_reducible apply State.deliverRelease_walk h

theorem State.deliverVoid_walk (h : Respects R) (p : Nat) (m : AlloyMsg) (h0 : R s0 s) :
   R s0 (s.deliverVoid p m) := by
  unfold State.deliverVoid
  repeat' first
    | with_reducible assumption
    | with_reducible intro t
    | with_reducible apply h.ite
    | with_reducible apply State.voidAlloy_walk h
    | with_reducible apply State.voidPromise_walk h
    | with_reducible apply State.setLine_walk h
    | with_reducible apply State.voidAll_walk h
    | with_reducible apply State.failMember_walk h
    | with_reducible apply State.tellResume_walk h
    | with_reducible refine h.foldl _ ?_ ?_
    | with_reducible refine h.foldl_snd _ ?_ ?_
    | with_reducible refine h.foldl_snd_snd _ ?_ ?_
    | dsimp only
    | split

theorem execVoid_walk (h : Respects R) (m : AlloyMsg) (h0 : R s0 s) :
   Yields (R s0) (execVoid m s) := by
  unfold execVoid
  repeat' first
    | with_reducible assumption
    | with_reducible apply Yields.next
    | with_reducible apply Yields.ite
    | with_reducible apply h.ite
    | with_reducible apply State.sendVoid_walk h
    | with_reducible apply State.deliverVoid_walk h
    | with_reducible apply State.strayMsg_walk h
    | dsimp only
    | split

theorem State.deliverAbort_walk (h : Respects R) (p : Nat) (m : AlloyMsg) (h0 : R s0 s) :
   R s0 (s.deliverAbort p m) := by
  unfold State.deliverAbort
  repeat' first
    | with_reducible assumption
    | with_reducible intro t
    | with_reducible apply h.ite
    | with_reducible apply State.withdraw_walk h
    | with_reducible apply State.killCmds_walk h
    | with_reducible refine h.foldl _ ?_ ?_
    | with_reducible refine h.foldl_snd _ ?_ ?_
    | with_reducible refine h.foldl_snd_snd _ ?_ ?_
    | dsimp only
    | split

theorem execAbort_walk (h : Respects R) (m : AlloyMsg) (h0 : R s0 s) :
   Yields (R s0) (execAbort m s) := by
  unfold execAbort
  repeat' first
    | with_reducible assumption
    | with_reducible intro t
    | with_reducible apply Yields.next
    | with_reducible apply Yields.ite
    | with_reducible apply State.downMsg_walk h
    | with_reducible apply State.deliverAbort_walk h

theorem State.addMember_walk (h : Respects R) (alloy : Nat) (p : Nat) (device : Nat) (h0 : R s0 s) :
   R s0 (s.addMember alloy p device) := by
  unfold State.addMember
  repeat' first
    | with_reducible assumption
    | with_reducible intro t
    | with_reducible apply h.ite
    | with_reducible apply State.setMember_walk h
    | with_reducible apply State.set_walk h
    | with_reducible apply State.settleReady_walk h
    | with_reducible apply State.sendDown_walk h
    | with_reducible refine h.foldl _ ?_ ?_
    | with_reducible refine h.foldl_snd _ ?_ ?_
    | with_reducible refine h.foldl_snd_snd _ ?_ ?_
    | dsimp only
    | split

theorem execJoinSync_walk (h : Respects R) (m : AlloyMsg) (device : DeviceId) (h0 : R s0 s) :
   Yields (R s0) (execJoinSync m device s) := by
  unfold execJoinSync
  repeat' first
    | with_reducible assumption
    | with_reducible apply Yields.next
    | with_reducible apply Yields.ite
    | with_reducible apply h.ite
    | with_reducible apply State.addMember_walk h
    | with_reducible apply State.setMember_walk h
    | with_reducible apply State.arrive_walk h
    | with_reducible apply State.joinComplete_walk h
    | with_reducible apply State.strayMsg_walk h
    | dsimp only
    | split

theorem execActive_walk (h : Respects R) (m : AlloyMsg) (h0 : R s0 s) :
   Yields (R s0) (execActive m s) := by
  unfold execActive
  repeat' first
    | with_reducible assumption
    | with_reducible intro t
    | with_reducible apply Yields.next
    | with_reducible apply Yields.ite
    | with_reducible apply State.downMsg_walk h
    | with_reducible apply State.becomeActive_walk h

theorem execAbandon_walk (h : Respects R) (m : AlloyMsg) (h0 : R s0 s) :
   Yields (R s0) (execAbandon m s) := by
  unfold execAbandon
  repeat' first
    | with_reducible assumption
    | with_reducible intro t
    | with_reducible apply Yields.next
    | with_reducible apply Yields.ite
    | with_reducible apply State.downMsg_walk h
    | with_reducible apply State.abandonJoin_walk h

theorem execLeave_walk (h : Respects R) (m : AlloyMsg) (leaving : List (BitVec 16)) (h0 : R s0 s) :
   Yields (R s0) (execLeave m leaving s) := by
  unfold execLeave
  repeat' first
    | with_reducible assumption
    | with_reducible intro t
    | with_reducible apply Yields.next
    | with_reducible apply Yields.ite
    | with_reducible apply h.ite
    | with_reducible apply State.downMsg_walk h
    | with_reducible apply State.setMstate_walk h
    | with_reducible apply State.setMember_walk h
    | dsimp only
    | split

theorem State.passBarrier_walk (h : Respects R) (p : Nat) (seq : Nat) (index : Nat) (h0 : R s0 s) :
   R s0 (s.passBarrier p seq index) := by
  unfold State.passBarrier
  repeat' first
    | with_reducible assumption
    | with_reducible apply h.ite
    | with_reducible apply State.endHold_walk h
    | with_reducible apply State.runSeg_walk h
    | dsimp only
    | split

theorem State.barrierOpens_walk (h : Respects R) (alloy : Nat) (p : Nat) (seq : Nat) (index : Nat) (h0 : R s0 s) :
   R s0 (s.barrierOpens alloy p seq index) := by
  unfold State.barrierOpens
  repeat' first
    | with_reducible assumption
    | with_reducible apply State.sendDown_walk h
    | with_reducible apply State.passBarrier_walk h

theorem execBarrierTick_walk (h : Respects R) (p : PtnNo) (index : BitVec 16) (h0 : R s0 s) :
   Yields (R s0) (execBarrierTick p index s) := by
  unfold execBarrierTick
  repeat' first
    | with_reducible assumption
    | with_reducible intro t
    | with_reducible apply Yields.next
    | with_reducible apply Yields.ite
    | with_reducible apply h.ite
    | with_reducible apply State.runSeg_walk h
    | with_reducible apply State.setSeg_walk h
    | with_reducible apply State.setLine_walk h
    | with_reducible apply State.arrive_walk h
    | with_reducible apply State.barrierOpens_walk h
    | dsimp only
    | split

theorem execBarrierArrive_walk (h : Respects R) (m : AlloyMsg) (h0 : R s0 s) :
   Yields (R s0) (execBarrierArrive m s) := by
  unfold execBarrierArrive
  repeat' first
    | with_reducible assumption
    | with_reducible apply Yields.next
    | with_reducible apply Yields.ite
    | with_reducible apply State.arrive_walk h
    | with_reducible apply State.barrierOpens_walk h
    | with_reducible apply State.strayMsg_walk h
    | dsimp only
    | split

theorem execBarrierGo_walk (h : Respects R) (m : AlloyMsg) (h0 : R s0 s) :
   Yields (R s0) (execBarrierGo m s) := by
  unfold execBarrierGo
  repeat' first
    | with_reducible assumption
    | with_reducible intro t
    | with_reducible apply Yields.next
    | with_reducible apply Yields.ite
    | with_reducible apply State.downMsg_walk h
    | with_reducible apply State.passBarrier_walk h

theorem execHopReport_walk (h : Respects R) (p : PtnNo) (device : DeviceId) (hops : List (BitVec 16 × BitVec 16)) (h0 : R s0 s) :
   Yields (R s0) (execHopReport p device hops s) := by
  unfold execHopReport
  repeat' first
    | with_reducible assumption
    | with_reducible intro t
    | with_reducible apply Yields.next
    | with_reducible apply Yields.ite
    | with_reducible apply h.ite
    | with_reducible apply State.setMember_walk h
    | dsimp only
    | split

theorem execWcetDigest_walk (h : Respects R) (p : PtnNo) (device : DeviceId) (index : BitVec 4) (digest : BitVec 256) (h0 : R s0 s) :
   Yields (R s0) (execWcetDigest p device index digest s) := by
  unfold execWcetDigest
  repeat' first
    | with_reducible assumption
    | with_reducible apply Yields.next
    | with_reducible apply Yields.ite
    | with_reducible apply h.ite
    | with_reducible apply State.noteDigest_walk h
    | dsimp only
    | split

theorem execResumeReport_walk (h : Respects R) (p : PtnNo) (device : DeviceId) (h0 : R s0 s) :
   Yields (R s0) (execResumeReport p device s) := by
  unfold execResumeReport
  repeat' first
    | with_reducible assumption
    | with_reducible apply Yields.next
    | with_reducible apply Yields.ite
    | with_reducible apply h.ite
    | with_reducible apply State.noteResumed_walk h
    | dsimp only
    | split

end Sys2Proof.Machine
end

