-- ==== Sys2Proof/Laws/WalkEvents.lean ====
section
/-! SUPPORT. What each operation of Machine/Events.lean can do: it walks through the primitive changes of `Respects`. -/

set_option linter.unusedTactic false
set_option linter.unreachableTactic false

namespace Sys2Proof.Machine

variable {R : State → State → Prop} {s0 s : State}

theorem State.wakeEvc_walk (h : Respects R) (n : Nat) (h0 : R s0 s) :
   R s0 (s.wakeEvc n) := by
  unfold State.wakeEvc
  repeat' first
    | with_reducible assumption
    | with_reducible intro t
    | with_reducible apply h.ite
    | with_reducible apply State.setEvc_walk h
    | with_reducible apply State.setSlicePower_walk h
    | dsimp only
    | split

theorem State.evcMessage_walk (h : Respects R) (n : Nat) (src : Nat) (h0 : R s0 s) :
   R s0 (s.evcMessage n src) := by
  unfold State.evcMessage
  repeat' first
    | with_reducible assumption
    | with_reducible apply h.ite
    | with_reducible apply State.setEvc_walk h
    | with_reducible apply State.wakeEvc_walk h
    | dsimp only
    | split

theorem execEvcDoorbell_walk (h : Respects R) (evc : BitVec 7) (source : BitVec 10) (h0 : R s0 s) :
   Yields (R s0) (execEvcDoorbell evc source s) := by
  unfold execEvcDoorbell
  repeat' first
    | with_reducible assumption
    | with_reducible apply Yields.next
    | with_reducible apply Yields.ite
    | with_reducible apply State.evcMessage_walk h

theorem execEvcMessage_walk (h : Respects R) (evc : BitVec 7) (source : BitVec 10) (h0 : R s0 s) :
   Yields (R s0) (execEvcMessage evc source s) := by
  unfold execEvcMessage
  repeat' first
    | with_reducible assumption
    | with_reducible apply Yields.next
    | with_reducible apply Yields.ite
    | with_reducible apply State.evcMessage_walk h
    | with_reducible refine h.sides ?_

theorem execEvcTimeExpiry_walk (h : Respects R) (evc : BitVec 7) (source : BitVec 10) (h0 : R s0 s) :
   Yields (R s0) (execEvcTimeExpiry evc source s) := by
  unfold execEvcTimeExpiry
  repeat' first
    | with_reducible assumption
    | with_reducible apply Yields.next
    | with_reducible apply Yields.ite
    | with_reducible apply h.ite
    | with_reducible apply State.atLeast_walk h
    | with_reducible apply State.setEvc_walk h
    | with_reducible apply State.wakeEvc_walk h
    | dsimp only
    | split

theorem State.claim_walk (h : Respects R) (n : Nat) (h0 : R s0 s) :
   R s0 (s.claim n).2 := by
  unfold State.claim
  repeat' first
    | with_reducible assumption
    | with_reducible apply h.ite
    | with_reducible apply State.setEvc_walk h
    | dsimp only
    | split

theorem execEvcClaim_walk (h : Respects R) (evc : BitVec 7) (origin : Origin) (h0 : R s0 s) :
   Yields (R s0) (execEvcClaim evc origin s) := by
  unfold execEvcClaim
  repeat' first
    | with_reducible assumption
    | with_reducible apply Yields.next
    | with_reducible apply Yields.ite
    | with_reducible apply h.ite
    | with_reducible apply State.claim_walk h
    | with_reducible apply State.emit_walk h
    | dsimp only
    | split

theorem State.evcCompleted_walk (h : Respects R) (n : Nat) (src : Nat) (h0 : R s0 s) :
   R s0 (s.evcCompleted n src) := by
  unfold State.evcCompleted
  repeat' first
    | with_reducible assumption
    | with_reducible apply h.ite
    | with_reducible apply State.setEvc_walk h
    | with_reducible apply State.event_walk h
    | with_reducible apply State.faultSlice_walk h
    | with_reducible apply State.hubFault_walk h
    | dsimp only
    | split

theorem execEvcComplete_walk (h : Respects R) (evc : BitVec 7) (source : BitVec 10) (h0 : R s0 s) :
   Yields (R s0) (execEvcComplete evc source s) := by
  unfold execEvcComplete
  repeat' first
    | with_reducible assumption
    | with_reducible apply Yields.next
    | with_reducible apply Yields.ite
    | with_reducible apply State.evcCompleted_walk h

theorem State.clearStack_walk (h : Respects R) (n : Nat) (h0 : R s0 s) :
   R s0 (s.clearStack n) := by
  unfold State.clearStack
  repeat' first
    | with_reducible assumption
    | with_reducible apply State.setEvc_walk h

theorem execStackClr_walk (h : Respects R) (evc : BitVec 7) (origin : Origin) (h0 : R s0 s) :
   Yields (R s0) (execStackClr evc origin s) := by
  unfold execStackClr
  repeat' first
    | with_reducible assumption
    | with_reducible apply Yields.next
    | with_reducible apply Yields.ite
    | with_reducible apply h.ite
    | with_reducible apply State.clearStack_walk h
    | dsimp only
    | split

theorem State.haltSeq_walk (h : Respects R) (sl : Nat) (v : Bool) (h0 : R s0 s) :
   R s0 (s.haltSeq sl v) := by
  unfold State.haltSeq
  repeat' first
    | with_reducible assumption
    | with_reducible apply h.ite
    | with_reducible apply State.set_walk h
    | with_reducible apply State.setEvc_walk h
    | with_reducible apply State.setSeqr_walk h
    | with_reducible apply State.startSeq_walk h
    | dsimp only
    | split

theorem execHalt_walk (h : Respects R) (slice : SliceNo) (value : Bool) (h0 : R s0 s) :
   Yields (R s0) (execHalt slice value s) := by
  unfold execHalt
  repeat' first
    | with_reducible assumption
    | with_reducible apply Yields.next
    | with_reducible apply Yields.ite
    | with_reducible apply h.ite
    | with_reducible apply State.haltSeq_walk h
    | dsimp only
    | split

theorem execHeartbeatMissed_walk (h : Respects R) (slice : SliceNo) (h0 : R s0 s) :
   Yields (R s0) (execHeartbeatMissed slice s) := by
  unfold execHeartbeatMissed
  repeat' first
    | with_reducible assumption
    | with_reducible apply Yields.next
    | with_reducible apply Yields.ite
    | with_reducible apply h.ite
    | with_reducible apply State.setSeqr_walk h
    | with_reducible apply State.atLeast_walk h
    | with_reducible apply State.raise_walk h
    | with_reducible apply State.faultSlice_walk h
    | dsimp only
    | split

theorem execSeqTrap_walk (h : Respects R) (slice : SliceNo) (mcause : Word) (h0 : R s0 s) :
   Yields (R s0) (execSeqTrap slice mcause s) := by
  unfold execSeqTrap
  repeat' first
    | with_reducible assumption
    | with_reducible apply Yields.next
    | with_reducible apply Yields.ite
    | with_reducible apply h.ite
    | with_reducible apply State.setSeqr_walk h
    | with_reducible apply State.set_walk h
    | with_reducible apply State.faultSlice_walk h
    | dsimp only
    | split

end Sys2Proof.Machine
end

