-- ==== Sys2Proof/Laws/WalkPower.lean ====
section
/-! SUPPORT. What each operation of Machine/Power.lean can do: it walks through the primitive changes of `Respects`. -/

set_option linter.unusedTactic false
set_option linter.unreachableTactic false

namespace Sys2Proof.Machine

variable {R : State → State → Prop} {s0 s : State}

theorem State.applyGap_walk (h : Respects R) (p : Nat) (h0 : R s0 s) :
   R s0 (s.applyGap p) := by
  unfold State.applyGap
  repeat' first
    | with_reducible assumption
    | with_reducible apply h.ite
    | with_reducible apply State.setMember_walk h
    | with_reducible apply State.set_walk h
    | dsimp only
    | split

theorem State.applyGaps_walk (h : Respects R) (h0 : R s0 s) :
    R s0 (s.applyGaps) := by
  unfold State.applyGaps
  repeat' first
    | with_reducible assumption
    | with_reducible intro t
    | with_reducible apply State.applyGap_walk h
    | with_reducible refine h.foldl _ ?_ ?_
    | with_reducible refine h.foldl_snd _ ?_ ?_
    | with_reducible refine h.foldl_snd_snd _ ?_ ?_

theorem State.fillHist_walk (h : Respects R) (h0 : R s0 s) :
    R s0 (s.fillHist) := by
  unfold State.fillHist
  repeat' first
    | with_reducible assumption
    | with_reducible intro t
    | with_reducible apply State.onPower_walk h

theorem State.saturateCap_walk (h : Respects R) (h0 : R s0 s) :
    R s0 (s.saturateCap) := by
  unfold State.saturateCap
  repeat' first
    | with_reducible assumption
    | with_reducible apply h.ite
    | with_reducible apply State.raise_walk h
    | with_reducible apply State.level_walk h
    | with_reducible apply State.notice_walk h
    | dsimp only
    | split

theorem State.clearCap_walk (h : Respects R) (h0 : R s0 s) :
    R s0 (s.clearCap) := by
  unfold State.clearCap
  repeat' first
    | with_reducible assumption
    | with_reducible apply State.set_walk h
    | with_reducible apply State.level_walk h

theorem execCapLoop_walk (h : Respects R) (lastMs : BitVec 32) (fixed : BitVec 32) (other : BitVec 32) (alloys : List (BitVec 32)) (h0 : R s0 s) :
   Yields (R s0) (execCapLoop lastMs fixed other alloys s) := by
  unfold execCapLoop
  repeat' first
    | with_reducible assumption
    | with_reducible intro t
    | with_reducible apply Yields.next
    | with_reducible apply Yields.ite
    | with_reducible apply h.ite
    | with_reducible apply State.atMultiple_walk h
    | with_reducible apply State.onPower_walk h
    | with_reducible apply State.set_walk h
    | with_reducible apply State.clearCap_walk h
    | with_reducible apply State.notice_walk h
    | with_reducible apply State.saturateCap_walk h
    | dsimp only
    | split

theorem execCalibration_walk (h : Respects R) (measured : BitVec 48) (estimated : BitVec 48) (h0 : R s0 s) :
   Yields (R s0) (execCalibration measured estimated s) := by
  unfold execCalibration
  repeat' first
    | with_reducible assumption
    | with_reducible apply Yields.next
    | with_reducible apply Yields.ite
    | with_reducible apply h.ite
    | with_reducible apply State.atMultiple_walk h
    | with_reducible apply State.draw_walk h
    | with_reducible apply State.set_walk h
    | with_reducible apply State.raise_walk h
    | dsimp only
    | split

theorem State.killAll_walk (h : Respects R) (cause : Cause) (h0 : R s0 s) :
   R s0 (s.killAll cause) := by
  unfold State.killAll
  repeat' first
    | with_reducible assumption
    | with_reducible intro t
    | with_reducible apply h.ite
    | with_reducible apply State.voidAlloy_walk h
    | with_reducible apply State.voidLine_walk h
    | with_reducible apply State.killLine_walk h
    | with_reducible refine h.foldl _ ?_ ?_
    | with_reducible refine h.foldl_snd _ ?_ ?_
    | with_reducible refine h.foldl_snd_snd _ ?_ ?_
    | dsimp only
    | split

theorem State.reachSeam_walk (h : Respects R) (p : Nat) (h0 : R s0 s) :
   R s0 (s.reachSeam p) := by
  unfold State.reachSeam
  repeat' first
    | with_reducible assumption
    | with_reducible apply State.finishKills_walk h
    | with_reducible apply State.seamEffects_walk h

theorem State.quench_walk (h : Respects R) (h0 : R s0 s) :
    R s0 (s.quench) := by
  unfold State.quench
  repeat' first
    | with_reducible assumption
    | with_reducible intro t
    | with_reducible apply h.ite
    | with_reducible apply State.raise_walk h
    | with_reducible apply State.killAll_walk h
    | with_reducible apply State.setLine_walk h
    | with_reducible apply State.reachSeam_walk h
    | with_reducible apply State.onPower_walk h
    | with_reducible apply State.onClock_walk h
    | with_reducible apply State.setChannel_walk h
    | with_reducible refine h.foldl _ ?_ ?_
    | with_reducible refine h.foldl_snd _ ?_ ?_
    | with_reducible refine h.foldl_snd_snd _ ?_ ?_
    | dsimp only
    | split

theorem State.tryRecover_walk (h : Respects R) (h0 : R s0 s) :
    R s0 (s.tryRecover) := by
  unfold State.tryRecover
  repeat' first
    | with_reducible assumption
    | with_reducible intro t
    | with_reducible apply h.ite
    | with_reducible apply State.set_walk h
    | with_reducible apply State.onPower_walk h
    | with_reducible apply State.setChannel_walk h
    | with_reducible apply State.onClock_walk h
    | with_reducible apply State.passTicks_walk h
    | with_reducible apply State.applyGaps_walk h
    | with_reducible refine h.foldl _ ?_ ?_
    | with_reducible refine h.foldl_snd _ ?_ ?_
    | with_reducible refine h.foldl_snd_snd _ ?_ ?_
    | dsimp only
    | split

theorem State.trip_walk (h : Respects R) (h0 : R s0 s) :
    R s0 (s.trip) := by
  unfold State.trip
  repeat' first
    | with_reducible assumption
    | with_reducible intro t
    | with_reducible apply State.raise_walk h
    | with_reducible apply State.onPins_walk h
    | with_reducible apply State.onSide_walk h
    | with_reducible apply State.quench_walk h

theorem execThermalFloor_walk (h : Respects R) (maxC : Byte) (hotDie : Byte) (h0 : R s0 s) :
   Yields (R s0) (execThermalFloor maxC hotDie s) := by
  unfold execThermalFloor
  repeat' first
    | with_reducible assumption
    | with_reducible intro t
    | with_reducible apply Yields.next
    | with_reducible apply Yields.ite
    | with_reducible apply h.ite
    | with_reducible apply State.set_walk h
    | with_reducible apply State.onPower_walk h
    | with_reducible apply State.trip_walk h
    | with_reducible apply State.raise_walk h
    | with_reducible apply State.saturateCap_walk h
    | with_reducible apply State.tryRecover_walk h
    | dsimp only
    | split

theorem execThermTrip_walk (h : Respects R) (h0 : R s0 s) :
    Yields (R s0) (execThermTrip s) := by
  unfold execThermTrip
  repeat' first
    | with_reducible assumption
    | with_reducible apply Yields.next
    | with_reducible apply Yields.ite
    | with_reducible apply State.trip_walk h

theorem State.recognised_walk (h : Respects R) (width : Nat) (lo : Nat) (hi : Nat) (h0 : R s0 s) :
   R s0 (s.recognised width lo hi).2 := by
  unfold State.recognised
  repeat' first
    | with_reducible assumption
    | with_reducible apply h.ite
    | with_reducible apply State.draw_walk h
    | dsimp only
    | split

theorem execCoolFailNAssert_walk (h : Respects R) (widthNs : BitVec 16) (h0 : R s0 s) :
   Yields (R s0) (execCoolFailNAssert widthNs s) := by
  unfold execCoolFailNAssert
  repeat' first
    | with_reducible assumption
    | with_reducible intro t
    | with_reducible apply Yields.next
    | with_reducible apply Yields.ite
    | with_reducible apply h.ite
    | with_reducible apply State.recognised_walk h
    | with_reducible apply State.onPins_walk h
    | with_reducible apply State.quench_walk h
    | dsimp only
    | split

theorem execCoolFailNDeassert_walk (h : Respects R) (h0 : R s0 s) :
    Yields (R s0) (execCoolFailNDeassert s) := by
  unfold execCoolFailNDeassert
  repeat' first
    | with_reducible assumption
    | with_reducible intro t
    | with_reducible apply Yields.next
    | with_reducible apply Yields.ite
    | with_reducible apply State.onPins_walk h
    | with_reducible apply State.tryRecover_walk h

theorem execQuenchPowerOffRequest_walk (h : Respects R) (h0 : R s0 s) :
    Yields (R s0) (execQuenchPowerOffRequest s) := by
  unfold execQuenchPowerOffRequest
  repeat' first
    | with_reducible assumption
    | with_reducible intro t
    | with_reducible apply Yields.next
    | with_reducible apply Yields.ite
    | with_reducible apply State.atLeast_walk h
    | with_reducible apply State.onPins_walk h
    | with_reducible apply State.onSide_walk h
    | with_reducible apply State.assertFault_walk h
    | dsimp only
    | split

theorem State.alertLine_walk (h : Respects R) (p : Nat) (h0 : R s0 s) :
   R s0 (s.alertLine p) := by
  unfold State.alertLine
  repeat' first
    | with_reducible assumption
    | with_reducible intro t
    | with_reducible apply State.voidAlloy_walk h
    | with_reducible apply State.voidLine_walk h
    | with_reducible apply State.rankKilled_walk h
    | with_reducible apply State.setLine_walk h
    | dsimp only
    | split

theorem execPwrAlertNAssert_walk (h : Respects R) (widthNs : BitVec 16) (h0 : R s0 s) :
   Yields (R s0) (execPwrAlertNAssert widthNs s) := by
  unfold execPwrAlertNAssert
  repeat' first
    | with_reducible assumption
    | with_reducible intro t
    | with_reducible apply Yields.next
    | with_reducible apply Yields.ite
    | with_reducible apply h.ite
    | with_reducible apply State.recognised_walk h
    | with_reducible apply State.onPins_walk h
    | with_reducible apply State.onPower_walk h
    | with_reducible apply State.raise_walk h
    | with_reducible apply State.alertLine_walk h
    | with_reducible refine h.foldl _ ?_ ?_
    | with_reducible refine h.foldl_snd _ ?_ ?_
    | with_reducible refine h.foldl_snd_snd _ ?_ ?_
    | dsimp only
    | split

theorem execPwrAlertNDeassert_walk (h : Respects R) (h0 : R s0 s) :
    Yields (R s0) (execPwrAlertNDeassert s) := by
  unfold execPwrAlertNDeassert
  repeat' first
    | with_reducible assumption
    | with_reducible intro t
    | with_reducible apply Yields.next
    | with_reducible apply Yields.ite
    | with_reducible apply h.ite
    | with_reducible apply State.onPins_walk h
    | with_reducible apply State.onPower_walk h
    | dsimp only
    | split

theorem execAlertHoldEnd_walk (h : Respects R) (h0 : R s0 s) :
    Yields (R s0) (execAlertHoldEnd s) := by
  unfold execAlertHoldEnd
  repeat' first
    | with_reducible assumption
    | with_reducible intro t
    | with_reducible apply Yields.next
    | with_reducible apply Yields.ite
    | with_reducible apply State.atLeast_walk h
    | with_reducible apply State.onPower_walk h
    | with_reducible apply State.set_walk h
    | with_reducible apply State.applyGaps_walk h
    | dsimp only
    | split

theorem execSupplyWarning_walk (h : Respects R) (rail : BitVec 3) (h0 : R s0 s) :
   Yields (R s0) (execSupplyWarning rail s) := by
  unfold execSupplyWarning
  repeat' first
    | with_reducible assumption
    | with_reducible intro t
    | with_reducible apply Yields.next
    | with_reducible apply Yields.ite
    | with_reducible apply State.raise_walk h
    | with_reducible apply State.bump_walk h
    | with_reducible apply State.set_walk h
    | with_reducible apply State.onPower_walk h

theorem execClampEnd_walk (h : Respects R) (h0 : R s0 s) :
    Yields (R s0) (execClampEnd s) := by
  unfold execClampEnd
  repeat' first
    | with_reducible assumption
    | with_reducible intro t
    | with_reducible apply Yields.next
    | with_reducible apply Yields.ite
    | with_reducible apply State.atLeast_walk h
    | with_reducible apply State.set_walk h
    | with_reducible apply State.onPower_walk h
    | dsimp only
    | split

theorem execDroop_walk (h : Respects R) (stretchedTicks : BitVec 16) (totalPs : BitVec 32) (h0 : R s0 s) :
   Yields (R s0) (execDroop stretchedTicks totalPs s) := by
  unfold execDroop
  repeat' first
    | with_reducible assumption
    | with_reducible intro t
    | with_reducible apply Yields.next
    | with_reducible apply Yields.ite
    | with_reducible apply h.ite
    | with_reducible apply State.set_walk h
    | with_reducible apply State.faultAll_walk h
    | dsimp only
    | split

theorem execTrim_walk (h : Respects R) (errPpm : BitVec 16) (refPresent : Bool) (h0 : R s0 s) :
   Yields (R s0) (execTrim errPpm refPresent s) := by
  unfold execTrim
  repeat' first
    | with_reducible assumption
    | with_reducible apply Yields.next
    | with_reducible apply Yields.ite
    | with_reducible apply h.ite
    | with_reducible apply State.atMultiple_walk h
    | with_reducible apply State.set_walk h
    | dsimp only
    | split

theorem execIdleSp1_walk (h : Respects R) (slice : SliceNo) (h0 : R s0 s) :
   Yields (R s0) (execIdleSp1 slice s) := by
  unfold execIdleSp1
  repeat' first
    | with_reducible assumption
    | with_reducible apply Yields.next
    | with_reducible apply Yields.ite
    | with_reducible apply h.ite
    | with_reducible apply State.atLeast_walk h
    | with_reducible apply State.setSlicePower_walk h
    | dsimp only
    | split

theorem execIdleSp2_walk (h : Respects R) (slice : SliceNo) (h0 : R s0 s) :
   Yields (R s0) (execIdleSp2 slice s) := by
  unfold execIdleSp2
  repeat' first
    | with_reducible assumption
    | with_reducible apply Yields.next
    | with_reducible apply Yields.ite
    | with_reducible apply h.ite
    | with_reducible apply State.atLeast_walk h
    | with_reducible apply State.setSlicePower_walk h
    | dsimp only
    | split

theorem execSelfRefreshReturn_walk (h : Respects R) (channel : BitVec 10) (h0 : R s0 s) :
   Yields (R s0) (execSelfRefreshReturn channel s) := by
  unfold execSelfRefreshReturn
  repeat' first
    | with_reducible assumption
    | with_reducible apply Yields.next
    | with_reducible apply Yields.ite
    | with_reducible apply State.atLeast_walk h
    | with_reducible apply State.setChannel_walk h
    | dsimp only
    | split

theorem State.warmBoot_walk (h : RespectsLines R) (h0 : R s0 s) : R s0 s.warmBoot := by
  unfold State.warmBoot
  have h1 : R s0 (s.dropFields fun pg i f => f.star || (decide (f.kept ≠ .device) && !alwaysOn pg i)) :=
    State.dropFields_walk h.toRespects _ h0
  have h2 := h.trans (h.trans h1 (h.side _ s.now HostSide.reset .empty [] { NetState.reset with frac := s.net.frac } .empty .empty
    EngineState.reset s.plant)) (h.lines _ { MemState.reset with salt := s.mem.salt + 1 } fun _ => rfl)
  exact State.reload_walk h.toRespects (State.set_walk h.toRespects _ _ _ (State.set_walk h.toRespects _ _ _
    (State.set_walk h.toRespects _ _ _ (State.onPlant_walk h.toRespects _ h2))))

theorem execDevStateDs0_walk (h : RespectsLines R) (a : Adm) (h0 : R s0 s) :
   Yields (R s0) (execDevStateDs0 a s) := by
  unfold execDevStateDs0
  repeat' first
    | with_reducible assumption
    | with_reducible intro t
    | with_reducible apply Yields.next
    | with_reducible apply Yields.ite
    | with_reducible apply h.toRespects.ite
    | with_reducible apply State.admin_walk h.toRespects
    | with_reducible apply State.complete_walk h.toRespects
    | with_reducible apply State.warmBoot_walk h
    | with_reducible apply State.set_walk h.toRespects
    | with_reducible apply State.setSlicePower_walk h.toRespects
    | with_reducible refine h.toRespects.foldl _ ?_ ?_
    | with_reducible refine h.toRespects.foldl_snd _ ?_ ?_
    | with_reducible refine h.toRespects.foldl_snd_snd _ ?_ ?_
    | dsimp only
    | split

theorem execDevStateDs2_walk (h : Respects R) (a : Adm) (h0 : R s0 s) :
   Yields (R s0) (execDevStateDs2 a s) := by
  unfold execDevStateDs2
  repeat' first
    | with_reducible assumption
    | with_reducible intro t
    | with_reducible apply Yields.next
    | with_reducible apply Yields.ite
    | with_reducible apply h.ite
    | with_reducible apply State.admin_walk h
    | with_reducible apply State.setSlicePower_walk h
    | with_reducible apply State.raise_walk h
    | with_reducible apply State.setChannel_walk h
    | with_reducible apply State.set_walk h
    | with_reducible apply State.complete_walk h
    | with_reducible refine h.foldl _ ?_ ?_
    | with_reducible refine h.foldl_snd _ ?_ ?_
    | with_reducible refine h.foldl_snd_snd _ ?_ ?_
    | dsimp only
    | split

theorem execDevStateDs3_walk (h : Respects R) (a : Adm) (h0 : R s0 s) :
   Yields (R s0) (execDevStateDs3 a s) := by
  unfold execDevStateDs3
  repeat' first
    | with_reducible assumption
    | with_reducible intro t
    | with_reducible apply Yields.next
    | with_reducible apply Yields.ite
    | with_reducible apply h.ite
    | with_reducible apply State.admin_walk h
    | with_reducible apply State.closePort_walk h
    | with_reducible apply State.set_walk h
    | with_reducible apply State.onSide_walk h
    | with_reducible apply State.onClock_walk h
    | with_reducible apply State.complete_walk h
    | with_reducible refine h.foldl _ ?_ ?_
    | with_reducible refine h.foldl_snd _ ?_ ?_
    | with_reducible refine h.foldl_snd_snd _ ?_ ?_
    | dsimp only
    | split

theorem execAlloyGap_walk (h : Respects R) (a : Adm) (p : Byte) (gap : Byte) (epoch : Word) (h0 : R s0 s) :
   Yields (R s0) (execAlloyGap a p gap epoch s) := by
  unfold execAlloyGap
  repeat' first
    | with_reducible assumption
    | with_reducible intro t
    | with_reducible apply Yields.next
    | with_reducible apply Yields.ite
    | with_reducible apply h.ite
    | with_reducible apply State.admin_walk h
    | with_reducible apply State.complete_walk h
    | with_reducible apply State.setMember_walk h
    | dsimp only
    | split

theorem execAlloyGapEpoch_walk (h : Respects R) (p : PtnNo) (h0 : R s0 s) :
   Yields (R s0) (execAlloyGapEpoch p s) := by
  unfold execAlloyGapEpoch
  repeat' first
    | with_reducible assumption
    | with_reducible apply Yields.next
    | with_reducible apply Yields.ite
    | with_reducible apply h.ite
    | with_reducible apply State.atLeast_walk h
    | with_reducible apply State.applyGap_walk h
    | dsimp only
    | split

theorem execCounterLatch_walk (h : Respects R) (h0 : R s0 s) :
    Yields (R s0) (execCounterLatch s) := by
  unfold execCounterLatch
  repeat' first
    | with_reducible assumption
    | exact (fun _ ht => ht : ∀ t, R s0 t → R s0 t)
    | with_reducible intro t
    | with_reducible apply Yields.next
    | with_reducible apply Yields.ite
    | with_reducible apply h.ite
    | with_reducible apply State.atMultiple_walk h
    | with_reducible apply State.onBus_walk h
    | with_reducible refine h.foldl _ ?_ ?_
    | with_reducible refine h.foldl_snd _ ?_ ?_
    | with_reducible refine h.foldl_snd_snd _ ?_ ?_
    | dsimp only
    | split

theorem State.freezePage_walk (h : Respects R) (page : Nat) (v : Bool) (h0 : R s0 s) :
   R s0 (s.freezePage page v) := by
  unfold State.freezePage
  repeat' first
    | with_reducible assumption
    | with_reducible intro t
    | with_reducible apply h.ite
    | with_reducible apply State.onBus_walk h
    | with_reducible apply State.raise_walk h
    | with_reducible apply State.set_walk h
    | with_reducible refine h.foldl _ ?_ ?_
    | with_reducible refine h.foldl_snd _ ?_ ?_
    | with_reducible refine h.foldl_snd_snd _ ?_ ?_
    | dsimp only
    | split

theorem execPwrViewUpdate_walk (h : Respects R) (powers : List (BitVec 16)) (h0 : R s0 s) :
   Yields (R s0) (execPwrViewUpdate powers s) := by
  unfold execPwrViewUpdate
  repeat' first
    | with_reducible assumption
    | with_reducible intro t
    | with_reducible apply Yields.next
    | with_reducible apply Yields.ite
    | with_reducible apply State.atMultiple_walk h
    | with_reducible apply State.set_walk h
    | with_reducible refine h.foldl _ ?_ ?_
    | with_reducible refine h.foldl_snd _ ?_ ?_
    | with_reducible refine h.foldl_snd_snd _ ?_ ?_

end Sys2Proof.Machine
end

