-- ==== Sys2Proof/Laws/WalkBus.lean ====
section
/-! SUPPORT. What each operation of Machine/Bus.lean can do: it walks through the primitive changes of `Respects`. -/

set_option linter.unusedTactic false
set_option linter.unreachableTactic false

namespace Sys2Proof.Machine

variable {R : State → State → Prop} {s0 s : State}

theorem State.clearW1c_walk (h : Respects R) (f : Field) (i : Nat) (v : Nat) (h0 : R s0 s) :
   R s0 (s.clearW1c f i v) := by
  unfold State.clearW1c
  repeat' first
    | with_reducible assumption
    | exact (fun _ ht => ht : ∀ t, R s0 t → R s0 t)
    | with_reducible apply h.ite
    | with_reducible apply State.clearBits_walk h
    | with_reducible apply State.set_walk h
    | dsimp only
    | split

theorem State.writeField_walk (h : Respects R) (page : Nat) (f : Field) (i : Nat) (mask : Nat) (value : Nat) (h0 : R s0 s) :
   R s0 (s.writeField page f i mask value) := by
  unfold State.writeField
  repeat' first
    | with_reducible assumption
    | with_reducible apply h.ite
    | with_reducible apply State.set_walk h
    | with_reducible apply State.clearW1c_walk h
    | with_reducible apply State.setBits_walk h
    | dsimp only
    | split

theorem State.writeEvtEn_walk (h : Respects R) (page : Nat) (v : Nat) (h0 : R s0 s) :
   R s0 (s.writeEvtEn page v) := by
  unfold State.writeEvtEn
  repeat' first
    | with_reducible assumption
    | with_reducible apply h.ite
    | with_reducible apply State.set_walk h
    | with_reducible apply State.sendEvent_walk h
    | dsimp only
    | split

theorem execEvtEn_walk (h : Respects R) (page : BitVec 14) (value : Word) (h0 : R s0 s) :
   Yields (R s0) (execEvtEn page value s) := by
  unfold execEvtEn
  repeat' first
    | with_reducible assumption
    | with_reducible apply Yields.next
    | with_reducible apply Yields.ite
    | with_reducible apply h.ite
    | with_reducible apply State.writeEvtEn_walk h
    | dsimp only
    | split

theorem State.writeEnable_walk (h : Respects R) (page : Nat) (on : Bool) (h0 : R s0 s) :
   R s0 (s.writeEnable page on) := by
  unfold State.writeEnable
  repeat' first
    | with_reducible assumption
    | with_reducible apply h.ite
    | with_reducible apply State.set_walk h
    | with_reducible apply State.sendEvent_walk h
    | dsimp only
    | split

theorem execBlkEnable_walk (h : Respects R) (page : BitVec 14) (h0 : R s0 s) :
   Yields (R s0) (execBlkEnable page s) := by
  unfold execBlkEnable
  repeat' first
    | with_reducible assumption
    | with_reducible apply Yields.next
    | with_reducible apply Yields.ite
    | with_reducible apply h.ite
    | with_reducible apply State.writeEnable_walk h
    | dsimp only
    | split

theorem State.softReset_walk (h : Respects R) (page : Nat) (h0 : R s0 s) :
   R s0 (s.softReset page) := by
  unfold State.softReset
  repeat' first
    | with_reducible assumption
    | with_reducible intro t
    | with_reducible apply h.ite
    | with_reducible apply State.dropFields_walk h
    | dsimp only
    | split

theorem execSoftRst_walk (h : Respects R) (page : BitVec 14) (origin : Origin) (h0 : R s0 s) :
   Yields (R s0) (execSoftRst page origin s) := by
  unfold execSoftRst
  repeat' first
    | with_reducible assumption
    | with_reducible apply Yields.next
    | with_reducible apply Yields.ite
    | with_reducible apply h.ite
    | with_reducible apply State.softReset_walk h
    | dsimp only
    | split

theorem execFreeze_walk (h : Respects R) (page : BitVec 14) (value : Bool) (h0 : R s0 s) :
   Yields (R s0) (execFreeze page value s) := by
  unfold execFreeze
  repeat' first
    | with_reducible assumption
    | with_reducible apply Yields.next
    | with_reducible apply Yields.ite
    | with_reducible apply h.ite
    | with_reducible apply State.freezePage_walk h
    | dsimp only
    | split

theorem State.writeLockReg_walk (h : Respects R) (page : Nat) (mask : Nat) (value : Nat) (h0 : R s0 s) :
   R s0 (s.writeLockReg page mask value) := by
  unfold State.writeLockReg
  repeat' first
    | with_reducible assumption
    | exact (fun _ ht => ht : ∀ t, R s0 t → R s0 t)
    | with_reducible intro t
    | with_reducible apply h.ite
    | with_reducible apply State.writeField_walk h
    | with_reducible apply State.fillHist_walk h
    | with_reducible apply State.haltSeq_walk h
    | with_reducible apply State.raise_walk h
    | with_reducible refine h.foldl _ ?_ ?_
    | with_reducible refine h.foldl_snd _ ?_ ?_
    | with_reducible refine h.foldl_snd_snd _ ?_ ?_
    | dsimp only
    | split

theorem execLock_walk (h : Respects R) (page : BitVec 14) (value : Word) (h0 : R s0 s) :
   Yields (R s0) (execLock page value s) := by
  unfold execLock
  repeat' first
    | with_reducible assumption
    | with_reducible apply Yields.next
    | with_reducible apply Yields.ite
    | with_reducible apply h.ite
    | with_reducible apply State.writeLockReg_walk h
    | dsimp only
    | split

theorem State.writeRoot_walk (h : Respects R) (p : Nat) (mask : Nat) (value : Nat) (h0 : R s0 s) :
   R s0 (s.writeRoot p mask value) := by
  unfold State.writeRoot
  repeat' first
    | with_reducible assumption
    | with_reducible intro t
    | with_reducible apply h.ite
    | with_reducible apply State.writeField_walk h
    | with_reducible apply State.raise_walk h
    | with_reducible refine h.foldl _ ?_ ?_
    | with_reducible refine h.foldl_snd _ ?_ ?_
    | with_reducible refine h.foldl_snd_snd _ ?_ ?_
    | dsimp only
    | split

theorem execPtnpXltRoot_walk (h : Respects R) (p : PtnNo) (value : Word) (h0 : R s0 s) :
   Yields (R s0) (execPtnpXltRoot p value s) := by
  unfold execPtnpXltRoot
  repeat' first
    | with_reducible assumption
    | with_reducible apply Yields.next
    | with_reducible apply Yields.ite
    | with_reducible apply State.writeRoot_walk h

theorem State.writeQuota_walk (h : Respects R) (p : Nat) (v : Nat) (h0 : R s0 s) :
   R s0 (s.writeQuota p v) := by
  unfold State.writeQuota
  repeat' first
    | with_reducible assumption
    | with_reducible intro t
    | with_reducible apply h.ite
    | with_reducible apply State.raise_walk h
    | with_reducible apply State.trimStore_walk h
    | with_reducible apply State.set_walk h
    | with_reducible refine h.foldl _ ?_ ?_
    | with_reducible refine h.foldl_snd _ ?_ ?_
    | with_reducible refine h.foldl_snd_snd _ ?_ ?_
    | dsimp only
    | split

theorem execQuota_walk (h : Respects R) (p : PtnNo) (value : BitVec 20) (h0 : R s0 s) :
   Yields (R s0) (execQuota p value s) := by
  unfold execQuota
  repeat' first
    | with_reducible assumption
    | with_reducible apply Yields.next
    | with_reducible apply Yields.ite
    | with_reducible apply State.writeQuota_walk h

theorem execRtrOwn_walk (h : Respects R) (slice : SliceNo) (value : Word) (h0 : R s0 s) :
   Yields (R s0) (execRtrOwn slice value s) := by
  unfold execRtrOwn
  repeat' first
    | with_reducible assumption
    | with_reducible apply Yields.next
    | with_reducible apply Yields.ite
    | with_reducible apply State.writeRtrOwn_walk h

theorem execLnkOwn_walk (h : Respects R) (port : PortNo) (value : Word) (h0 : R s0 s) :
   Yields (R s0) (execLnkOwn port value s) := by
  unfold execLnkOwn
  repeat' first
    | with_reducible assumption
    | with_reducible apply Yields.next
    | with_reducible apply Yields.ite
    | with_reducible apply h.ite
    | with_reducible apply State.writeLnkOwn_walk h
    | dsimp only
    | split

theorem State.writeOpenMask_walk (h : Respects R) (ch : Nat) (v : Nat) (h0 : R s0 s) :
   R s0 (s.writeOpenMask ch v) := by
  unfold State.writeOpenMask
  repeat' first
    | with_reducible assumption
    | with_reducible apply h.ite
    | with_reducible apply State.raise_walk h
    | with_reducible apply State.setChannel_walk h
    | with_reducible apply State.set_walk h
    | dsimp only
    | split

theorem execOpenMask_walk (h : Respects R) (channel : BitVec 10) (value : Word) (h0 : R s0 s) :
   Yields (R s0) (execOpenMask channel value s) := by
  unfold execOpenMask
  repeat' first
    | with_reducible assumption
    | with_reducible apply Yields.next
    | with_reducible apply Yields.ite
    | with_reducible apply h.ite
    | with_reducible apply State.writeOpenMask_walk h
    | dsimp only
    | split

theorem State.writeOpenMin_walk (h : Respects R) (ch : Nat) (v : Nat) (h0 : R s0 s) :
   R s0 (s.writeOpenMin ch v) := by
  unfold State.writeOpenMin
  repeat' first
    | with_reducible assumption
    | with_reducible intro t
    | with_reducible apply h.ite
    | with_reducible apply State.raise_walk h
    | with_reducible apply State.setChannel_walk h
    | with_reducible apply State.set_walk h
    | dsimp only
    | split

theorem execOpenMin_walk (h : Respects R) (channel : BitVec 10) (value : BitVec 6) (h0 : R s0 s) :
   Yields (R s0) (execOpenMin channel value s) := by
  unfold execOpenMin
  repeat' first
    | with_reducible assumption
    | with_reducible apply Yields.next
    | with_reducible apply Yields.ite
    | with_reducible apply h.ite
    | with_reducible apply State.writeOpenMin_walk h
    | dsimp only
    | split

theorem State.writePoolState_walk (h : Respects R) (v : Nat) (h0 : R s0 s) :
   R s0 (s.writePoolState v) := by
  unfold State.writePoolState
  repeat' first
    | with_reducible assumption
    | with_reducible intro t
    | with_reducible apply State.set_walk h
    | with_reducible apply State.setSlicePower_walk h
    | with_reducible refine h.foldl _ ?_ ?_
    | with_reducible refine h.foldl_snd _ ?_ ?_
    | with_reducible refine h.foldl_snd_snd _ ?_ ?_

theorem execPoolState_walk (h : Respects R) (value : BitVec 3) (h0 : R s0 s) :
   Yields (R s0) (execPoolState value s) := by
  unfold execPoolState
  repeat' first
    | with_reducible assumption
    | with_reducible apply Yields.next
    | with_reducible apply Yields.ite
    | with_reducible apply State.writePoolState_walk h

theorem State.writeOpenReserve_walk (h : Respects R) (n : Nat) (v : Nat) (h0 : R s0 s) :
   R s0 (s.writeOpenReserve n v) := by
  unfold State.writeOpenReserve
  repeat' first
    | with_reducible assumption
    | with_reducible apply h.ite
    | with_reducible apply State.raise_walk h
    | with_reducible apply State.event_walk h
    | with_reducible apply State.set_walk h
    | dsimp only
    | split

theorem execOpenReserve_walk (h : Respects R) (port : PortNo) (value : BitVec 13) (h0 : R s0 s) :
   Yields (R s0) (execOpenReserve port value s) := by
  unfold execOpenReserve
  repeat' first
    | with_reducible assumption
    | with_reducible apply Yields.next
    | with_reducible apply Yields.ite
    | with_reducible apply h.ite
    | with_reducible apply State.writeOpenReserve_walk h
    | dsimp only
    | split

theorem State.writeGate_walk (h : Respects R) (f : Field) (i : Nat) (bit : Nat) (on : Bool) (use : Bool) (h0 : R s0 s) :
   R s0 (s.writeGate f i bit on use) := by
  unfold State.writeGate
  repeat' first
    | with_reducible assumption
    | with_reducible apply h.ite
    | with_reducible apply State.setBits_walk h
    | with_reducible apply State.raise_walk h
    | with_reducible apply State.clearBits_walk h
    | dsimp only
    | split

theorem State.writeClkGate_walk (h : Respects R) (reg : Nat) (mask : Nat) (v : Nat) (h0 : R s0 s) :
   R s0 (s.writeClkGate reg mask v) := by
  unfold State.writeClkGate
  repeat' first
    | with_reducible assumption
    | with_reducible intro t
    | with_reducible apply h.ite
    | with_reducible apply State.writeGate_walk h
    | with_reducible refine h.foldl _ ?_ ?_
    | with_reducible refine h.foldl_snd _ ?_ ?_
    | with_reducible refine h.foldl_snd_snd _ ?_ ?_
    | dsimp only
    | split

theorem execClkGate_walk (h : Respects R) (reg : BitVec 3) (value : Word) (h0 : R s0 s) :
   Yields (R s0) (execClkGate reg value s) := by
  unfold execClkGate
  repeat' first
    | with_reducible assumption
    | with_reducible apply Yields.next
    | with_reducible apply Yields.ite
    | with_reducible apply State.writeClkGate_walk h

theorem State.changeRole_walk (h : Respects R) (was : Nat) (h0 : R s0 s) :
   R s0 (s.changeRole was) := by
  unfold State.changeRole
  repeat' first
    | with_reducible assumption
    | with_reducible apply h.ite
    | with_reducible apply State.settleParent_walk h
    | with_reducible apply State.set_walk h
    | with_reducible apply State.settlePhase_walk h
    | with_reducible apply State.loseLock_walk h
    | dsimp only
    | split

theorem State.writeKept_walk (h : Respects R) (fm : Bool) (h0 : R s0 s) :
   R s0 (s.writeKept fm) := by
  unfold State.writeKept
  repeat' first
    | with_reducible assumption
    | with_reducible intro t
    | with_reducible apply State.writeCpl_walk h
    | with_reducible apply State.setPair_walk h
    | with_reducible refine h.foldl _ ?_ ?_
    | with_reducible refine h.foldl_snd _ ?_ ?_
    | with_reducible refine h.foldl_snd_snd _ ?_ ?_

theorem State.writeMbxEnable_walk (h : Respects R) (fm : Bool) (on : Bool) (h0 : R s0 s) :
   R s0 (s.writeMbxEnable fm on) := by
  unfold State.writeMbxEnable
  repeat' first
    | with_reducible assumption
    | with_reducible apply h.ite
    | with_reducible apply State.raise_walk h
    | with_reducible apply State.writeKept_walk h
    | with_reducible apply State.set_walk h
    | dsimp only
    | split

theorem execMbxEnable_walk (h : Respects R) (fm : Bool) (h0 : R s0 s) :
   Yields (R s0) (execMbxEnable fm s) := by
  unfold execMbxEnable
  repeat' first
    | with_reducible assumption
    | with_reducible apply Yields.next
    | with_reducible apply Yields.ite
    | with_reducible apply State.writeMbxEnable_walk h

theorem State.writeSqBase_walk (h : Respects R) (fm : Bool) (mask : Nat) (value : Nat) (h0 : R s0 s) :
   R s0 (s.writeSqBase fm mask value) := by
  unfold State.writeSqBase
  repeat' first
    | with_reducible assumption
    | with_reducible intro t
    | with_reducible apply h.ite
    | with_reducible apply State.writeField_walk h
    | with_reducible apply State.set_walk h
    | with_reducible refine h.foldl _ ?_ ?_
    | with_reducible refine h.foldl_snd _ ?_ ?_
    | with_reducible refine h.foldl_snd_snd _ ?_ ?_
    | dsimp only
    | split

theorem State.writeCqBase_walk (h : Respects R) (fm : Bool) (mask : Nat) (value : Nat) (h0 : R s0 s) :
   R s0 (s.writeCqBase fm mask value) := by
  unfold State.writeCqBase
  repeat' first
    | with_reducible assumption
    | with_reducible intro t
    | with_reducible apply h.ite
    | with_reducible apply State.writeField_walk h
    | with_reducible apply State.setPair_walk h
    | with_reducible apply State.set_walk h
    | with_reducible refine h.foldl _ ?_ ?_
    | with_reducible refine h.foldl_snd _ ?_ ?_
    | with_reducible refine h.foldl_snd_snd _ ?_ ?_
    | dsimp only
    | split

theorem execMbxSqBase_walk (h : Respects R) (fm : Bool) (value : Word) (h0 : R s0 s) :
   Yields (R s0) (execMbxSqBase fm value s) := by
  unfold execMbxSqBase
  repeat' first
    | with_reducible assumption
    | with_reducible apply Yields.next
    | with_reducible apply Yields.ite
    | with_reducible apply State.writeSqBase_walk h

theorem execMbxCqBase_walk (h : Respects R) (fm : Bool) (value : Word) (h0 : R s0 s) :
   Yields (R s0) (execMbxCqBase fm value s) := by
  unfold execMbxCqBase
  repeat' first
    | with_reducible assumption
    | with_reducible apply Yields.next
    | with_reducible apply Yields.ite
    | with_reducible apply State.writeCqBase_walk h

theorem State.writeSqTail_walk (h : Respects R) (fm : Bool) (v : Nat) (h0 : R s0 s) :
   R s0 (s.writeSqTail fm v) := by
  unfold State.writeSqTail
  repeat' first
    | with_reducible assumption
    | with_reducible apply h.ite
    | with_reducible apply State.set_walk h
    | dsimp only
    | split

theorem State.writeCqHead_walk (h : Respects R) (fm : Bool) (v : Nat) (h0 : R s0 s) :
   R s0 (s.writeCqHead fm v) := by
  unfold State.writeCqHead
  repeat' first
    | with_reducible assumption
    | with_reducible apply h.ite
    | with_reducible apply State.setPair_walk h
    | with_reducible apply State.set_walk h
    | dsimp only
    | split

theorem execSqTail_walk (h : Respects R) (fm : Bool) (value : BitVec 16) (h0 : R s0 s) :
   Yields (R s0) (execSqTail fm value s) := by
  unfold execSqTail
  repeat' first
    | with_reducible assumption
    | with_reducible apply Yields.next
    | with_reducible apply Yields.ite
    | with_reducible apply State.writeSqTail_walk h

theorem execCqHead_walk (h : Respects R) (fm : Bool) (value : BitVec 16) (h0 : R s0 s) :
   Yields (R s0) (execCqHead fm value s) := by
  unfold execCqHead
  repeat' first
    | with_reducible assumption
    | with_reducible apply Yields.next
    | with_reducible apply Yields.ite
    | with_reducible apply State.writeCqHead_walk h

theorem execAdmOpcode_walk (h : Respects R) (fm : Bool) (a : Adm) (opcode : BitVec 16) (h0 : R s0 s) :
   Yields (R s0) (execAdmOpcode fm a opcode s) := by
  unfold execAdmOpcode
  repeat' first
    | with_reducible assumption
    | with_reducible apply Yields.next
    | with_reducible apply Yields.ite
    | with_reducible apply h.ite
    | with_reducible apply State.takeAdm_walk h
    | with_reducible apply State.complete_walk h
    | dsimp only
    | split

theorem execAdmDenied_walk (h : Respects R) (fm : Bool) (a : Adm) (opcode : BitVec 16) (h0 : R s0 s) :
   Yields (R s0) (execAdmDenied fm a opcode s) := by
  unfold execAdmDenied
  repeat' first
    | with_reducible assumption
    | with_reducible apply Yields.next
    | with_reducible apply Yields.ite
    | with_reducible apply h.ite
    | with_reducible apply State.takeAdm_walk h
    | with_reducible apply State.complete_walk h
    | dsimp only
    | split

theorem execNoticePost_walk (h : Respects R) (h0 : R s0 s) :
    Yields (R s0) (execNoticePost s) := by
  unfold execNoticePost
  repeat' first
    | with_reducible assumption
    | with_reducible apply Yields.next
    | with_reducible apply Yields.ite
    | with_reducible apply State.drainNotice_walk h

theorem execQSqTail_walk (h : Respects R) (inst : BitVec 9) (q : BitVec 3) (tail : BitVec 16) (h0 : R s0 s) :
   Yields (R s0) (execQSqTail inst q tail s) := by
  unfold execQSqTail
  repeat' first
    | with_reducible assumption
    | with_reducible apply Yields.next
    | with_reducible apply Yields.ite
    | with_reducible apply h.ite
    | with_reducible apply State.setQueue_walk h
    | dsimp only
    | split

theorem execQCqHead_walk (h : Respects R) (inst : BitVec 9) (q : BitVec 3) (head : BitVec 16) (h0 : R s0 s) :
   Yields (R s0) (execQCqHead inst q head s) := by
  unfold execQCqHead
  repeat' first
    | with_reducible assumption
    | with_reducible apply Yields.next
    | with_reducible apply Yields.ite
    | with_reducible apply h.ite
    | with_reducible apply State.setQueue_walk h
    | dsimp only
    | split

theorem State.setVector_walk (h : Respects R) (fn : Nat) (v : Nat) (e : Nat × Nat × Bool) (h0 : R s0 s) :
   R s0 (s.setVector fn v e) := by
  unfold State.setVector
  repeat' first
    | with_reducible assumption
    | with_reducible intro t
    | with_reducible apply h.ite
    | with_reducible apply State.onHost_walk h
    | with_reducible apply State.emit_walk h
    | dsimp only
    | split

theorem execVectorUnmask_walk (h : Respects R) (fn : Bool) (vector : BitVec 11) (h0 : R s0 s) :
   Yields (R s0) (execVectorUnmask fn vector s) := by
  unfold execVectorUnmask
  repeat' first
    | with_reducible assumption
    | with_reducible apply Yields.next
    | with_reducible apply Yields.ite
    | with_reducible apply h.ite
    | with_reducible apply State.setVector_walk h
    | dsimp only
    | split

theorem State.writeVectorWord_walk (h : Respects R) (v : Nat) (word : Nat) (mask : Nat) (value : Nat) (h0 : R s0 s) :
   R s0 (s.writeVectorWord v word mask value) := by
  unfold State.writeVectorWord
  repeat' first
    | with_reducible assumption
    | with_reducible apply h.ite
    | with_reducible apply State.setVector_walk h
    | dsimp only
    | split

theorem State.writeEvc_walk (h : Respects R) (origin : Origin) (page : Nat) (off : Nat) (mask : Nat) (value : Nat) (h0 : R s0 s) :
   R s0 (s.writeEvc origin page off mask value) := by
  unfold State.writeEvc
  repeat' first
    | with_reducible assumption
    | with_reducible apply h.ite
    | with_reducible apply State.setEvc_walk h
    | with_reducible apply State.clearStack_walk h
    | with_reducible apply State.evcMessage_walk h
    | with_reducible apply State.evcCompleted_walk h
    | with_reducible apply State.wakeEvc_walk h
    | dsimp only
    | split

theorem State.writeReg_walk (h : Respects R) (origin : Origin) (page : Nat) (off : Nat) (mask : Nat) (value : Nat) (h0 : R s0 s) :
   R s0 (s.writeReg origin page off mask value) := by
  unfold State.writeReg
  repeat' first
    | with_reducible assumption
    | with_reducible intro t
    | with_reducible apply h.ite
    | with_reducible apply State.writeField_walk h
    | with_reducible apply State.freezePage_walk h
    | with_reducible apply State.writeEnable_walk h
    | with_reducible apply State.softReset_walk h
    | with_reducible apply State.writeEvtEn_walk h
    | with_reducible apply State.writeEvc_walk h
    | with_reducible apply State.writeLockReg_walk h
    | with_reducible apply State.writePoolState_walk h
    | with_reducible apply State.writeRoot_walk h
    | with_reducible apply State.writeQuota_walk h
    | with_reducible apply State.writeRtrOwn_walk h
    | with_reducible apply State.writeOpenMask_walk h
    | with_reducible apply State.writeOpenMin_walk h
    | with_reducible apply State.writeOpenReserve_walk h
    | with_reducible apply State.writeClkGate_walk h
    | with_reducible apply State.enablePort_walk h
    | with_reducible apply State.closePort_walk h
    | with_reducible apply State.admin_walk h
    | with_reducible apply State.writeLnkOwn_walk h
    | with_reducible apply State.changeRole_walk h
    | with_reducible apply State.writeSqBase_walk h
    | with_reducible apply State.writeCqBase_walk h
    | with_reducible apply State.writeSqTail_walk h
    | with_reducible apply State.writeCqHead_walk h
    | with_reducible apply State.writeMbxEnable_walk h
    | with_reducible refine h.foldl _ ?_ ?_
    | with_reducible refine h.foldl_snd _ ?_ ?_
    | with_reducible refine h.foldl_snd_snd _ ?_ ?_
    | dsimp only
    | split

theorem execRegisterWrite_walk (h : Respects R) (origin : Origin) (offset : BitVec 26) (size : BitVec 8) (value : Word) (h0 : R s0 s) :
   Yields (R s0) (execRegisterWrite origin offset size value s) := by
  unfold execRegisterWrite
  repeat' first
    | with_reducible assumption
    | with_reducible apply Yields.next
    | with_reducible apply Yields.ite
    | with_reducible apply h.ite
    | with_reducible apply State.bump_walk h
    | with_reducible apply State.writeVectorWord_walk h
    | with_reducible apply State.writeReg_walk h
    | dsimp only
    | split

theorem execBadAccess_walk (h : Respects R) (bar : BitVec 3) (offset : BitVec 26) (size : BitVec 8) (write : Bool) (h0 : R s0 s) :
   Yields (R s0) (execBadAccess bar offset size write s) := by
  unfold execBadAccess
  repeat' first
    | with_reducible assumption
    | with_reducible apply Yields.next
    | with_reducible apply Yields.ite
    | with_reducible apply h.ite
    | with_reducible apply State.bump_walk h
    | with_reducible apply State.emit_walk h
    | dsimp only
    | split

theorem State.keepLast_walk (h : Respects R) (fm : Bool) (h0 : R s0 s) :
   R s0 (s.keepLast fm) := by
  unfold State.keepLast
  repeat' first
    | with_reducible assumption
    | with_reducible intro t
    | with_reducible apply h.ite
    | with_reducible apply State.notice_walk h
    | with_reducible apply State.setPair_walk h
    | dsimp only
    | split

theorem execDmaError_walk (h : Respects R) (what : BitVec 3) (inst : BitVec 9) (q : BitVec 3) (h0 : R s0 s) :
   Yields (R s0) (execDmaError what inst q s) := by
  unfold execDmaError
  repeat' first
    | with_reducible assumption
    | with_reducible apply Yields.next
    | with_reducible apply Yields.ite
    | with_reducible apply h.ite
    | with_reducible apply State.raise_walk h
    | with_reducible apply State.setQueue_walk h
    | with_reducible apply State.set_walk h
    | with_reducible apply State.keepLast_walk h
    | dsimp only
    | split

end Sys2Proof.Machine
end

