-- ==== Sys2Proof/Laws/WalkPartition.lean ====
section
/-! SUPPORT. What each operation of Machine/Partition.lean can do: it walks through the primitive changes of `Respects`. -/

set_option linter.unusedTactic false
set_option linter.unreachableTactic false

namespace Sys2Proof.Machine

variable {R : State → State → Prop} {s0 s : State}

theorem State.createPtn_walk (h : Respects R) (q : Nat) (profile : Nat) (quota : Nat) (slices : Nat) (sets : Nat) (h0 : R s0 s) :
   R s0 (s.createPtn q profile quota slices sets) := by
  unfold State.createPtn
  repeat' first
    | with_reducible assumption
    | with_reducible intro t
    | with_reducible apply h.ite
    | with_reducible apply State.set_walk h
    | with_reducible apply State.setOwner_walk h
    | with_reducible apply State.setSlicePower_walk h
    | with_reducible apply State.setChannel_walk h
    | with_reducible apply State.setLine_walk h
    | with_reducible refine h.foldl _ ?_ ?_
    | with_reducible refine h.foldl_snd _ ?_ ?_
    | with_reducible refine h.foldl_snd_snd _ ?_ ?_
    | dsimp only
    | split

theorem execPtnCreate_walk (h : Respects R) (a : Adm) (p : Byte) (profile : Byte) (quota : BitVec 32) (slices : Word) (sets : Word) (h0 : R s0 s) :
   Yields (R s0) (execPtnCreate a p profile quota slices sets s) := by
  unfold execPtnCreate
  repeat' first
    | with_reducible assumption
    | with_reducible intro t
    | with_reducible apply Yields.next
    | with_reducible apply Yields.ite
    | with_reducible apply h.ite
    | with_reducible apply State.admin_walk h
    | with_reducible apply State.complete_walk h
    | with_reducible apply State.createPtn_walk h
    | dsimp only
    | split

theorem State.runOutItem_walk (h : Respects R) (p : Nat) (h0 : R s0 s) :
   R s0 (s.runOutItem p) := by
  unfold State.runOutItem
  repeat' first
    | with_reducible assumption
    | with_reducible apply State.finishReshape_walk h
    | with_reducible apply State.endItem_walk h
    | dsimp only
    | split

theorem State.unbindIndices_walk (h : Respects R) (p : Nat) (h0 : R s0 s) :
   R s0 (s.unbindIndices p) := by
  unfold State.unbindIndices
  repeat' first
    | with_reducible assumption
    | with_reducible intro t
    | with_reducible apply h.ite
    | with_reducible apply State.sendDigest_walk h
    | with_reducible refine h.foldl _ ?_ ?_
    | with_reducible refine h.foldl_snd _ ?_ ?_
    | with_reducible refine h.foldl_snd_snd _ ?_ ?_
    | dsimp only
    | split

theorem State.placeFills_walk (h : Respects R) (p : Nat) (h0 : R s0 s) :
   R s0 (s.placeFills p) := by
  unfold State.placeFills
  repeat' first
    | with_reducible assumption
    | with_reducible intro t
    | with_reducible apply State.placeOrder_walk h
    | with_reducible refine h.foldl _ ?_ ?_
    | with_reducible refine h.foldl_snd _ ?_ ?_
    | with_reducible refine h.foldl_snd_snd _ ?_ ?_

theorem State.resetPtn_walk (h : Respects R) (p : Nat) (destroy : Bool) (adm : Option Adm) (h0 : R s0 s) :
   R s0 (s.resetPtn p destroy adm) := by
  unfold State.resetPtn
  repeat' first
    | with_reducible assumption
    | with_reducible intro t
    | with_reducible apply h.ite
    | with_reducible apply State.runOutItem_walk h
    | with_reducible apply State.withdrawAbort_walk h
    | with_reducible apply State.killLine_walk h
    | with_reducible apply State.releaseHeld_walk h
    | with_reducible apply State.unbindIndices_walk h
    | with_reducible apply State.set_walk h
    | with_reducible apply State.startAnneal_walk h
    | with_reducible apply State.level_walk h
    | with_reducible apply State.placeFills_walk h
    | with_reducible apply State.tellResume_walk h
    | with_reducible refine h.foldl _ ?_ ?_
    | with_reducible refine h.foldl_snd _ ?_ ?_
    | with_reducible refine h.foldl_snd_snd _ ?_ ?_
    | dsimp only
    | split

theorem execPtnDestroy_walk (h : Respects R) (a : Adm) (p : Byte) (h0 : R s0 s) :
   Yields (R s0) (execPtnDestroy a p s) := by
  unfold execPtnDestroy
  repeat' first
    | with_reducible assumption
    | with_reducible intro t
    | with_reducible apply Yields.next
    | with_reducible apply Yields.ite
    | with_reducible apply h.ite
    | with_reducible apply State.admin_walk h
    | with_reducible apply State.complete_walk h
    | with_reducible apply State.resetPtn_walk h
    | dsimp only
    | split

theorem execPtnReset_walk (h : Respects R) (a : Adm) (p : Byte) (h0 : R s0 s) :
   Yields (R s0) (execPtnReset a p s) := by
  unfold execPtnReset
  repeat' first
    | with_reducible assumption
    | with_reducible intro t
    | with_reducible apply Yields.next
    | with_reducible apply Yields.ite
    | with_reducible apply h.ite
    | with_reducible apply State.admin_walk h
    | with_reducible apply State.complete_walk h
    | with_reducible apply State.faultPtn_walk h
    | with_reducible apply State.resetPtn_walk h
    | dsimp only
    | split

theorem execAnnealOverwriteEnd_walk (h : Respects R) (p : PtnNo) (h0 : R s0 s) :
   Yields (R s0) (execAnnealOverwriteEnd p s) := by
  unfold execAnnealOverwriteEnd
  repeat' first
    | with_reducible assumption
    | with_reducible intro t
    | with_reducible apply Yields.next
    | with_reducible apply Yields.ite
    | with_reducible apply h.ite
    | with_reducible apply State.level_walk h
    | with_reducible apply State.endAnneal_walk h
    | with_reducible apply State.tellResume_walk h
    | dsimp only
    | split

theorem State.tellLine_walk (h : Respects R) (p : Nat) (duration : Nat) (h0 : R s0 s) :
   R s0 (s.tellLine p duration) := by
  unfold State.tellLine
  repeat' first
    | with_reducible assumption
    | with_reducible apply h.ite
    | with_reducible apply State.tellMembers_walk h
    | with_reducible apply State.sendLong_walk h
    | dsimp only
    | split

theorem State.placeReshape_walk (h : Respects R) (a : Adm) (q : Nat) (profile : Nat) (slices : Nat) (sets : Nat) (plan : ReshapePlan) (duration : Nat) (h0 : R s0 s) :
   R s0 (s.placeReshape a q profile slices sets plan duration) := by
  unfold State.placeReshape
  repeat' first
    | with_reducible assumption
    | with_reducible intro t
    | with_reducible apply State.set_walk h
    | with_reducible apply State.setImage_walk h
    | with_reducible apply State.staleRanges_walk h
    | with_reducible apply State.placeItem_walk h
    | with_reducible apply State.tellLine_walk h
    | with_reducible refine h.foldl _ ?_ ?_
    | with_reducible refine h.foldl_snd _ ?_ ?_
    | with_reducible refine h.foldl_snd_snd _ ?_ ?_
    | dsimp only
    | split

theorem execPtnReshape_walk (h : Respects R) (a : Adm) (p : Byte) (profile : Byte) (slices : Word) (sets : Word) (plan : ReshapePlan) (h0 : R s0 s) :
   Yields (R s0) (execPtnReshape a p profile slices sets plan s) := by
  unfold execPtnReshape
  repeat' first
    | with_reducible assumption
    | with_reducible intro t
    | with_reducible apply Yields.next
    | with_reducible apply Yields.ite
    | with_reducible apply h.ite
    | with_reducible apply State.admin_walk h
    | with_reducible apply State.asStaged_walk h
    | with_reducible apply State.complete_walk h
    | with_reducible apply State.placeReshape_walk h
    | dsimp only
    | split

end Sys2Proof.Machine
end

