-- ==== Sys2Proof/Laws/WalkSecurity.lean ====
section
/-! SUPPORT. What each operation of Machine/Security.lean can do: it walks through the primitive changes of `Respects`. -/

set_option linter.unusedTactic false
set_option linter.unreachableTactic false

namespace Sys2Proof.Machine

variable {R : State → State → Prop} {s0 s : State}

theorem execFwStage_walk (h : Respects R) (a : Adm) (bytes : BitVec 32) (image : FwImage) (h0 : R s0 s) :
   Yields (R s0) (execFwStage a bytes image s) := by
  unfold execFwStage
  repeat' first
    | with_reducible assumption
    | with_reducible intro t
    | with_reducible apply Yields.next
    | with_reducible apply Yields.ite
    | with_reducible apply h.ite
    | with_reducible apply State.admin_walk h
    | with_reducible apply State.onSec_walk h
    | with_reducible apply State.set_walk h
    | with_reducible apply State.complete_walk h
    | dsimp only
    | split

theorem execFwSvnCommit_walk (h : Respects R) (a : Adm) (svn : Byte) (h0 : R s0 s) :
   Yields (R s0) (execFwSvnCommit a svn s) := by
  unfold execFwSvnCommit
  repeat' first
    | with_reducible assumption
    | with_reducible intro t
    | with_reducible apply Yields.next
    | with_reducible apply Yields.ite
    | with_reducible apply h.ite
    | with_reducible apply State.admin_walk h
    | with_reducible apply State.complete_walk h
    | with_reducible apply State.set_walk h
    | dsimp only
    | split

theorem State.failUnseal_walk (h : Respects R) (p : Nat) (dst : Handle) (a : Adm) (code : Nat) (h0 : R s0 s) :
   R s0 (s.failUnseal p dst a code) := by
  unfold State.failUnseal
  repeat' first
    | with_reducible assumption
    | with_reducible apply State.dropSession_walk h
    | with_reducible apply State.setObj_walk h
    | with_reducible apply State.complete_walk h
    | dsimp only
    | split

theorem State.writeChunk_walk (h : RespectsLines R) (p : Nat) (va : Nat) (key : BitVec 256) (index : Nat) (cipher : List Byte) (h0 : R s0 s) :
   R s0 (s.writeChunk p va key index cipher) := by
  unfold State.writeChunk
  repeat' first
    | with_reducible assumption
    | with_reducible intro t
    | with_reducible apply State.apServe_walk h.toRespects
    | with_reducible apply State.writeLine_walk h
    | with_reducible apply State.onSec_walk h.toRespects
    | with_reducible refine h.toRespects.foldl _ ?_ ?_
    | with_reducible refine h.toRespects.foldl_snd _ ?_ ?_
    | with_reducible refine h.toRespects.foldl_snd_snd _ ?_ ?_
    | dsimp only
    | split

theorem State.unsealChunks_walk (h : RespectsLines R) (p srcVa dstVa : Nat) (u : Unseal) (n : Nat) (h0 : R s0 s) :
    R s0 (s.unsealChunks p srcVa dstVa u n).2.2 := by
  induction n generalizing s srcVa u with
  | zero => exact h0
  | succ n ih =>
    have hr := h.toRespects
    unfold State.unsealChunks
    have ht := fun (len : Nat) => State.hubWalks_walk hr p (dstVa + 65536 * u.next) len
      (State.hubWalks_walk hr p srcVa (len + 16) h0)
    dsimp only
    split
    · exact State.reading_walk hr _ _ (fun _ hu => hu) (fun _ hu => hu) (ht _)
    · exact ht _
    · have hu := State.noteLines_walk hr [] (s.vaDpas p (lineVas srcVa (Nat.min 65536 (u.bytes - 65536 * u.next) + 16))) (ht (Nat.min 65536 (u.bytes - 65536 * u.next)))
      split
      · exact hu
      · split
        · exact hu
        · exact ih _ _ (State.writeChunk_walk h _ _ _ _ _ hu)

theorem State.runUnseal_walk (h : RespectsLines R) (p srcVa dstVa : Nat) (u : Unseal) (count : Nat) (a : Adm) (h0 : R s0 s) :
    R s0 (s.runUnseal p srcVa dstVa u count a) := by
  unfold State.runUnseal
  have ht := State.unsealChunks_walk h p srcVa dstVa u count h0
  have hu := State.onSec_walk h.toRespects (fun x => { x with
    unseals := x.unseals.put p (s.unsealChunks p srcVa dstVa u count).2.1 }) ht
  refine h.toRespects.ite (State.failUnseal_walk h.toRespects _ _ _ _ ht) (State.complete_walk h.toRespects _ _ _ _ _ _ ?_)
  exact h.toRespects.ite (State.onSec_walk h.toRespects _ (State.endSession_walk h.toRespects _ _ hu)) hu

theorem execPkgUnseal_walk (h : RespectsLines R) (a : Adm) (p : Byte) (src : Handle) (dst : Handle) (first : BitVec 32) (count : BitVec 32) (h0 : R s0 s) :
   Yields (R s0) (execPkgUnseal a p src dst first count s) := by
  unfold execPkgUnseal
  repeat' first
    | with_reducible assumption
    | with_reducible intro t
    | with_reducible apply Yields.next
    | with_reducible apply Yields.ite
    | with_reducible apply h.toRespects.ite
    | with_reducible apply State.admin_walk h.toRespects
    | with_reducible apply State.count_walk h.toRespects
    | with_reducible apply State.complete_walk h.toRespects
    | with_reducible apply State.reading_walk h.toRespects
    | with_reducible apply State.failUnseal_walk h.toRespects
    | with_reducible apply State.dropSession_walk h.toRespects
    | with_reducible apply State.setObj_walk h.toRespects
    | with_reducible apply State.onSec_walk h.toRespects
    | with_reducible apply State.runUnseal_walk h
    | dsimp only
    | split

theorem State.answerAttest_walk (h : Respects R) (r : AttestReq) (status : Nat) (total : Nat) (h0 : R s0 s) :
   R s0 (s.answerAttest r status total) := by
  unfold State.answerAttest
  repeat' first
    | with_reducible assumption
    | with_reducible apply h.ite
    | with_reducible apply State.complete_walk h
    | with_reducible apply State.emit_walk h
    | dsimp only
    | split

theorem State.askAttest_walk (h : Respects R) (r : AttestReq) (h0 : R s0 s) :
   R s0 (s.askAttest r) := by
  unfold State.askAttest
  repeat' first
    | with_reducible assumption
    | with_reducible intro t
    | with_reducible apply h.ite
    | with_reducible apply State.answerAttest_walk h
    | with_reducible apply State.onSec_walk h
    | dsimp only
    | split

theorem execAttest_walk (h : Respects R) (a : Adm) (p : Byte) (capacity : BitVec 32) (dst : Word) (nonce : BitVec 256) (h0 : R s0 s) :
   Yields (R s0) (execAttest a p capacity dst nonce s) := by
  unfold execAttest
  repeat' first
    | with_reducible assumption
    | with_reducible intro t
    | with_reducible apply Yields.next
    | with_reducible apply Yields.ite
    | with_reducible apply State.admin_walk h
    | with_reducible apply State.askAttest_walk h

theorem execAttestFm_walk (h : Respects R) (a : Adm) (p : Byte) (capacity : BitVec 32) (dst : Word) (nonce : BitVec 256) (h0 : R s0 s) :
   Yields (R s0) (execAttestFm a p capacity dst nonce s) := by
  unfold execAttestFm
  repeat' first
    | with_reducible assumption
    | with_reducible intro t
    | with_reducible apply Yields.next
    | with_reducible apply Yields.ite
    | with_reducible apply State.admin_walk h
    | with_reducible apply State.askAttest_walk h

theorem execAttestDoe_walk (h : Respects R) (kind : Byte) (p : Byte) (capacity : BitVec 32) (nonce : BitVec 256) (h0 : R s0 s) :
   Yields (R s0) (execAttestDoe kind p capacity nonce s) := by
  unfold execAttestDoe
  repeat' first
    | with_reducible assumption
    | with_reducible apply Yields.next
    | with_reducible apply Yields.ite
    | with_reducible apply h.ite
    | with_reducible apply State.askAttest_walk h
    | with_reducible apply State.emit_walk h
    | dsimp only
    | split

theorem execAttestSnapshot_walk (h : Respects R) (h0 : R s0 s) :
    Yields (R s0) (execAttestSnapshot s) := by
  unfold execAttestSnapshot
  repeat' first
    | with_reducible assumption
    | with_reducible intro t
    | with_reducible apply Yields.next
    | with_reducible apply Yields.ite
    | with_reducible apply h.ite
    | with_reducible apply State.onSec_walk h
    | with_reducible apply State.answerAttest_walk h
    | with_reducible apply State.emit_walk h
    | dsimp only
    | split

theorem execConsent_walk (h : Respects R) (a : Adm) (p : Byte) (flags : Byte) (h0 : R s0 s) :
   Yields (R s0) (execConsent a p flags s) := by
  unfold execConsent
  repeat' first
    | with_reducible assumption
    | with_reducible intro t
    | with_reducible apply Yields.next
    | with_reducible apply Yields.ite
    | with_reducible apply h.ite
    | with_reducible apply State.admin_walk h
    | with_reducible apply State.complete_walk h
    | with_reducible apply State.endDebug_walk h
    | with_reducible apply State.set_walk h
    | dsimp only
    | split

theorem execDbgOpen_walk (h : Respects R) (a : Adm) (p : Byte) (h0 : R s0 s) :
   Yields (R s0) (execDbgOpen a p s) := by
  unfold execDbgOpen
  repeat' first
    | with_reducible assumption
    | with_reducible intro t
    | with_reducible apply Yields.next
    | with_reducible apply Yields.ite
    | with_reducible apply h.ite
    | with_reducible apply State.admin_walk h
    | with_reducible apply State.complete_walk h
    | with_reducible apply State.placeItem_walk h
    | dsimp only
    | split

theorem execDbgClose_walk (h : Respects R) (a : Adm) (p : Byte) (h0 : R s0 s) :
   Yields (R s0) (execDbgClose a p s) := by
  unfold execDbgClose
  repeat' first
    | with_reducible assumption
    | with_reducible intro t
    | with_reducible apply Yields.next
    | with_reducible apply Yields.ite
    | with_reducible apply h.ite
    | with_reducible apply State.admin_walk h
    | with_reducible apply State.endDebug_walk h
    | with_reducible apply State.complete_walk h
    | dsimp only
    | split

theorem execTrngFail_walk (h : Respects R) (h0 : R s0 s) :
    Yields (R s0) (execTrngFail s) := by
  unfold execTrngFail
  repeat' first
    | with_reducible assumption
    | with_reducible apply Yields.next
    | with_reducible apply Yields.ite
    | with_reducible apply State.raise_walk h

theorem execIdeKm_walk (h : Respects R) (stream : BitVec 3) (subStream : BitVec 3) (rx : Bool) (keyOk : Bool) (setGo : Bool) (h0 : R s0 s) :
   Yields (R s0) (execIdeKm stream subStream rx keyOk setGo s) := by
  unfold execIdeKm
  repeat' first
    | with_reducible assumption
    | with_reducible intro t
    | with_reducible apply Yields.next
    | with_reducible apply Yields.ite
    | with_reducible apply h.ite
    | with_reducible apply State.emit_walk h
    | with_reducible apply State.onBus_walk h
    | dsimp only
    | split

theorem execDoeDiscovery_walk (h : Respects R) (index : Byte) (h0 : R s0 s) :
   Yields (R s0) (execDoeDiscovery index s) := by
  unfold execDoeDiscovery
  repeat' first
    | with_reducible assumption
    | with_reducible apply Yields.next
    | with_reducible apply Yields.ite
    | with_reducible apply h.ite
    | with_reducible apply State.emit_walk h
    | dsimp only
    | split

end Sys2Proof.Machine
end

