-- ==== Sys2Proof/Laws/WalkBoot.lean ====
section
/-! SUPPORT. What each operation of Machine/Boot.lean can do: it walks through the primitive changes of `Respects`. -/

set_option linter.unusedTactic false
set_option linter.unreachableTactic false

namespace Sys2Proof.Machine

variable {R : State → State → Prop} {s0 s : State}

theorem State.stopStartup_walk (h : Respects R) (h0 : R s0 s) :
    R s0 (s.stopStartup) := by
  unfold State.stopStartup
  repeat' first
    | with_reducible assumption
    | with_reducible apply State.set_walk h
    | with_reducible apply State.assertFault_walk h

theorem State.bankFail_walk (h : Respects R) (k : Nat) (h0 : R s0 s) :
   R s0 (s.bankFail k) := by
  unfold State.bankFail
  repeat' first
    | with_reducible assumption
    | with_reducible intro t
    | with_reducible apply h.ite
    | with_reducible apply State.onSec_walk h
    | with_reducible apply State.stopStartup_walk h
    | with_reducible apply State.raise_walk h
    | dsimp only
    | split

theorem State.trainLink_walk (h : Respects R) (h0 : R s0 s) :
    R s0 (s.trainLink) := by
  unfold State.trainLink
  repeat' first
    | with_reducible assumption
    | with_reducible apply h.ite
    | with_reducible apply State.set_walk h
    | dsimp only
    | split

theorem State.bootFrom_walk (h : Respects R) (k : Nat) (i : FwImage) (nvmOk : Bool) (mNvm : BitVec 256) (h0 : R s0 s) :
   R s0 (s.bootFrom k i nvmOk mNvm) := by
  unfold State.bootFrom
  repeat' first
    | with_reducible assumption
    | with_reducible intro t
    | with_reducible apply h.ite
    | with_reducible apply State.set_walk h
    | with_reducible apply State.onSec_walk h
    | with_reducible apply State.bump_walk h
    | with_reducible apply State.trainLink_walk h
    | with_reducible apply State.onBoot_walk h
    | dsimp only
    | split

theorem execFirmwareVerified_walk (h : Respects R) (bank : Bool) (image : FwImage) (nvmOk : Bool) (mNvm : BitVec 256) (h0 : R s0 s) :
   Yields (R s0) (execFirmwareVerified bank image nvmOk mNvm s) := by
  unfold execFirmwareVerified
  repeat' first
    | with_reducible assumption
    | with_reducible apply Yields.next
    | with_reducible apply Yields.ite
    | with_reducible apply h.ite
    | with_reducible apply State.bootFrom_walk h
    | with_reducible apply State.bankFail_walk h
    | dsimp only
    | split

theorem execBankVerifyFail_walk (h : Respects R) (bank : Bool) (h0 : R s0 s) :
   Yields (R s0) (execBankVerifyFail bank s) := by
  unfold execBankVerifyFail
  repeat' first
    | with_reducible assumption
    | with_reducible apply Yields.next
    | with_reducible apply Yields.ite
    | with_reducible apply h.ite
    | with_reducible apply State.bankFail_walk h
    | dsimp only
    | split

theorem execTrngTimeout_walk (h : Respects R) (what : BitVec 2) (port : PortNo) (h0 : R s0 s) :
   Yields (R s0) (execTrngTimeout what port s) := by
  unfold execTrngTimeout
  repeat' first
    | with_reducible assumption
    | with_reducible intro t
    | with_reducible apply Yields.next
    | with_reducible apply Yields.ite
    | with_reducible apply h.ite
    | with_reducible apply State.bankFail_walk h
    | with_reducible apply State.closePort_walk h
    | with_reducible apply State.onSec_walk h
    | with_reducible apply State.answerAttest_walk h
    | dsimp only
    | split

theorem State.serveSlice_walk (h : Respects R) (sl : Nat) (on : Bool) (h0 : R s0 s) :
   R s0 (s.serveSlice sl on) := by
  unfold State.serveSlice
  repeat' first
    | with_reducible assumption
    | with_reducible intro t
    | with_reducible apply State.set_walk h
    | with_reducible refine h.foldl _ ?_ ?_
    | with_reducible refine h.foldl_snd _ ?_ ?_
    | with_reducible refine h.foldl_snd_snd _ ?_ ?_

theorem State.assayResult_walk (h : Respects R) (result : Nat) (repairs : Nat) (fails : Nat) (h0 : R s0 s) :
   R s0 (s.assayResult result repairs fails) := by
  unfold State.assayResult
  repeat' first
    | with_reducible assumption
    | with_reducible intro t
    | with_reducible apply State.set_walk h
    | with_reducible apply State.onBoot_walk h

theorem execAssayRun_walk (h : Respects R) (a : Adm) (kind : Byte) (target : BitVec 16) (h0 : R s0 s) :
   Yields (R s0) (execAssayRun a kind target s) := by
  unfold execAssayRun
  repeat' first
    | with_reducible assumption
    | with_reducible intro t
    | with_reducible apply Yields.next
    | with_reducible apply Yields.ite
    | with_reducible apply h.ite
    | with_reducible apply State.admin_walk h
    | with_reducible apply State.complete_walk h
    | with_reducible apply State.set_walk h
    | with_reducible apply State.clearBits_walk h
    | with_reducible apply State.setSlicePower_walk h
    | with_reducible apply State.setTile_walk h
    | with_reducible apply State.setCluster_walk h
    | with_reducible apply State.onBoot_walk h
    | with_reducible refine h.foldl _ ?_ ?_
    | with_reducible refine h.foldl_snd _ ?_ ?_
    | with_reducible refine h.foldl_snd_snd _ ?_ ?_
    | dsimp only
    | split

theorem State.assayPass_walk (h : Respects R) (kind : Nat) (t : Nat) (repairs : Nat) (h0 : R s0 s) :
   R s0 (s.assayPass kind t repairs) := by
  unfold State.assayPass
  repeat' first
    | with_reducible assumption
    | with_reducible intro t
    | with_reducible apply h.ite
    | with_reducible apply State.toPool_walk h
    | with_reducible apply State.set_walk h
    | with_reducible apply State.onBoot_walk h
    | with_reducible apply State.clearBits_walk h
    | with_reducible refine h.foldl _ ?_ ?_
    | with_reducible refine h.foldl_snd _ ?_ ?_
    | with_reducible refine h.foldl_snd_snd _ ?_ ?_
    | dsimp only
    | split

theorem State.assayFail_walk (h : Respects R) (kind : Nat) (t : Nat) (h0 : R s0 s) :
   R s0 (s.assayFail kind t) := by
  unfold State.assayFail
  repeat' first
    | with_reducible assumption
    | with_reducible intro t
    | with_reducible apply h.ite
    | with_reducible apply State.setSlicePower_walk h
    | with_reducible apply State.serveSlice_walk h
    | with_reducible apply State.onBoot_walk h
    | with_reducible apply State.set_walk h
    | with_reducible apply State.setBits_walk h
    | dsimp only
    | split

theorem State.spareLanes_walk (h : Respects R) (ch : Nat) (failing : Nat) (h0 : R s0 s) :
   R s0 (s.spareLanes ch failing) := by
  unfold State.spareLanes
  repeat' first
    | with_reducible assumption
    | with_reducible apply h.ite
    | with_reducible apply State.set_walk h
    | with_reducible apply State.setChannel_walk h
    | with_reducible apply State.raise_walk h
    | dsimp only
    | split

theorem State.steer_walk (h : Respects R) (tiles : List TestedTile) (h0 : R s0 s) :
   R s0 (s.steer tiles).2 := by
  unfold State.steer
  repeat' first
    | with_reducible assumption
    | with_reducible intro t
    | with_reducible apply h.ite
    | with_reducible apply State.onBoot_walk h
    | with_reducible refine h.foldl _ ?_ ?_
    | with_reducible refine h.foldl_snd _ ?_ ?_
    | with_reducible refine h.foldl_snd_snd _ ?_ ?_
    | dsimp only
    | split

theorem State.targetRepair_walk (h : Respects R) (kind : Nat) (t : Nat) (f : AssayFound) (h0 : R s0 s) :
   R s0 (s.targetRepair kind t f).2 := by
  unfold State.targetRepair
  repeat' first
    | with_reducible assumption
    | with_reducible intro t
    | with_reducible apply h.ite
    | with_reducible apply State.steer_walk h
    | with_reducible apply State.spareLanes_walk h
    | with_reducible refine h.foldl _ ?_ ?_
    | with_reducible refine h.foldl_snd _ ?_ ?_
    | with_reducible refine h.foldl_snd_snd _ ?_ ?_
    | dsimp only
    | split

theorem State.routerResult_walk (h : Respects R) (sl : Nat) (f : AssayFound) (h0 : R s0 s) :
   R s0 (s.routerResult sl f) := by
  unfold State.routerResult
  repeat' first
    | with_reducible assumption
    | with_reducible apply h.ite
    | with_reducible apply State.raise_walk h
    | with_reducible apply State.set_walk h
    | dsimp only
    | split

theorem State.endAssay_walk (h : Respects R) (r : AssayRun) (f : AssayFound) (h0 : R s0 s) :
   R s0 (s.endAssay r f) := by
  unfold State.endAssay
  repeat' first
    | with_reducible assumption
    | with_reducible intro t
    | with_reducible apply h.ite
    | with_reducible apply State.onBoot_walk h
    | with_reducible apply State.assayResult_walk h
    | with_reducible apply State.assayPass_walk h
    | with_reducible apply State.targetRepair_walk h
    | with_reducible apply State.assayFail_walk h
    | with_reducible apply State.routerResult_walk h
    | with_reducible apply State.complete_walk h
    | dsimp only
    | split

theorem State.assayFound_walk (h : Respects R) (f : AssayFound) (h0 : R s0 s) :
   R s0 (s.assayFound f).2 := by
  unfold State.assayFound
  repeat' first
    | with_reducible assumption
    | with_reducible intro t
    | with_reducible apply State.set_walk h
    | with_reducible apply State.onBoot_walk h
    | with_reducible apply State.spareLanes_walk h
    | with_reducible apply State.steer_walk h
    | with_reducible refine h.foldl _ ?_ ?_
    | with_reducible refine h.foldl_snd _ ?_ ?_
    | with_reducible refine h.foldl_snd_snd _ ?_ ?_

theorem State.endPowerUp_walk (h : Respects R) (f : AssayFound) (h0 : R s0 s) :
   R s0 (s.endPowerUp f) := by
  unfold State.endPowerUp
  repeat' first
    | with_reducible assumption
    | with_reducible apply h.ite
    | with_reducible apply State.atLeast_walk h
    | with_reducible apply State.set_walk h
    | with_reducible apply State.assayFound_walk h
    | with_reducible apply State.assayResult_walk h
    | with_reducible apply State.stopStartup_walk h
    | dsimp only
    | split

theorem execAssayEnd_walk (h : Respects R) (repairs : BitVec 16) (hubOk : Bool) (routers : BitVec 68) (units : AssayUnits) (h0 : R s0 s) :
   Yields (R s0) (execAssayEnd repairs hubOk routers units s) := by
  unfold execAssayEnd
  repeat' first
    | with_reducible assumption
    | with_reducible apply Yields.next
    | with_reducible apply Yields.ite
    | with_reducible apply h.ite
    | with_reducible apply State.endAssay_walk h
    | with_reducible apply State.endPowerUp_walk h
    | dsimp only
    | split

theorem execAssayRead_walk (h : Respects R) (a : Adm) (h0 : R s0 s) :
   Yields (R s0) (execAssayRead a s) := by
  unfold execAssayRead
  repeat' first
    | with_reducible assumption
    | with_reducible intro t
    | with_reducible apply Yields.next
    | with_reducible apply Yields.ite
    | with_reducible apply State.admin_walk h
    | with_reducible apply State.complete_walk h

theorem execAssayReadFm_walk (h : Respects R) (a : Adm) (h0 : R s0 s) :
   Yields (R s0) (execAssayReadFm a s) := by
  unfold execAssayReadFm
  repeat' first
    | with_reducible assumption
    | with_reducible intro t
    | with_reducible apply Yields.next
    | with_reducible apply Yields.ite
    | with_reducible apply State.admin_walk h
    | with_reducible apply State.complete_walk h

theorem execAssayFuse_walk (h : Respects R) (a : Adm) (h0 : R s0 s) :
   Yields (R s0) (execAssayFuse a s) := by
  unfold execAssayFuse
  repeat' first
    | with_reducible assumption
    | with_reducible intro t
    | with_reducible apply Yields.next
    | with_reducible apply Yields.ite
    | with_reducible apply h.ite
    | with_reducible apply State.admin_walk h
    | with_reducible apply State.complete_walk h
    | with_reducible apply State.set_walk h
    | with_reducible apply State.onBoot_walk h
    | dsimp only
    | split

theorem execAssayOutOfWindow_walk (h : Respects R) (h0 : R s0 s) :
    Yields (R s0) (execAssayOutOfWindow s) := by
  unfold execAssayOutOfWindow
  repeat' first
    | with_reducible assumption
    | with_reducible apply Yields.next
    | with_reducible apply Yields.ite
    | with_reducible apply h.ite
    | with_reducible apply State.atLeast_walk h
    | with_reducible apply State.set_walk h
    | with_reducible apply State.stopStartup_walk h
    | dsimp only
    | split

theorem State.compatRelease_walk (h : Respects R) (avail : Nat) (h0 : R s0 s) :
   R s0 (s.compatRelease avail) := by
  unfold State.compatRelease
  repeat' first
    | with_reducible assumption
    | with_reducible intro t
    | with_reducible apply h.ite
    | with_reducible apply State.createPtn_walk h
    | with_reducible apply State.setInst_walk h
    | with_reducible apply State.set_walk h
    | with_reducible refine h.foldl _ ?_ ?_
    | with_reducible refine h.foldl_snd _ ?_ ?_
    | with_reducible refine h.foldl_snd_snd _ ?_ ?_
    | dsimp only
    | split

theorem State.releasePorts_walk (h : Respects R) (h0 : R s0 s) :
    R s0 (s.releasePorts) := by
  unfold State.releasePorts
  repeat' first
    | with_reducible assumption
    | with_reducible intro t
    | with_reducible apply h.ite
    | with_reducible apply State.set_walk h
    | with_reducible apply State.enterPort_walk h
    | with_reducible refine h.foldl _ ?_ ?_
    | with_reducible refine h.foldl_snd _ ?_ ?_
    | with_reducible refine h.foldl_snd_snd _ ?_ ?_
    | dsimp only
    | split

theorem State.openDevice_walk (h : Respects R) (h0 : R s0 s) :
    R s0 (s.openDevice) := by
  unfold State.openDevice
  repeat' first
    | with_reducible assumption
    | with_reducible intro t
    | with_reducible apply h.ite
    | with_reducible apply State.set_walk h
    | with_reducible apply State.onBoot_walk h
    | with_reducible apply State.serveSlice_walk h
    | with_reducible apply State.setSlicePower_walk h
    | with_reducible apply State.fillHist_walk h
    | with_reducible apply State.releasePorts_walk h
    | with_reducible apply State.onPins_walk h
    | with_reducible apply State.compatRelease_walk h
    | with_reducible apply State.settlePhase_walk h
    | with_reducible refine h.foldl _ ?_ ?_
    | with_reducible refine h.foldl_snd _ ?_ ?_
    | with_reducible refine h.foldl_snd_snd _ ?_ ?_
    | dsimp only
    | split

theorem execDeviceRelease_walk (h : Respects R) (trained : Bool) (h0 : R s0 s) :
    Yields (R s0) (execDeviceRelease trained s) := by
  unfold execDeviceRelease
  repeat' first
    | with_reducible assumption
    | with_reducible apply Yields.next
    | with_reducible apply Yields.ite
    | with_reducible apply h.ite
    | with_reducible apply State.openDevice_walk h
    | dsimp only
    | split

theorem execEngineReset_walk (h : Respects R) (a : Adm) (p : Byte) (slice : Byte) (tiles : Byte) (h0 : R s0 s) :
   Yields (R s0) (execEngineReset a p slice tiles s) := by
  unfold execEngineReset
  repeat' first
    | with_reducible assumption
    | with_reducible intro t
    | with_reducible apply Yields.next
    | with_reducible apply Yields.ite
    | with_reducible apply h.ite
    | with_reducible apply State.admin_walk h
    | with_reducible apply State.engineReset_walk h
    | with_reducible apply State.complete_walk h
    | dsimp only
    | split

theorem execDevResetDevice_walk (h : Respects R) (a : Adm) (h0 : R s0 s) :
   Yields (R s0) (execDevResetDevice a s) := by
  unfold execDevResetDevice
  repeat' first
    | with_reducible assumption
    | with_reducible intro t
    | with_reducible apply Yields.next
    | with_reducible apply Yields.ite
    | with_reducible apply State.admin_walk h
    | with_reducible apply State.deviceReset_walk h

theorem execDevResetPowerCycle_walk (h : Respects R) (a : Adm) (h0 : R s0 s) :
   Yields (R s0) (execDevResetPowerCycle a s) := by
  unfold execDevResetPowerCycle
  repeat' first
    | with_reducible assumption
    | with_reducible intro t
    | with_reducible apply Yields.next
    | with_reducible apply Yields.ite
    | with_reducible apply State.admin_walk h
    | with_reducible apply State.powerCycle_walk h

theorem State.contextOverrun_walk (h : Respects R) (p : Nat) (h0 : R s0 s) :
   R s0 (s.contextOverrun p) := by
  unfold State.contextOverrun
  repeat' first
    | with_reducible assumption
    | with_reducible intro t
    | with_reducible apply h.ite
    | with_reducible apply State.escalated_walk h
    | with_reducible apply State.faultPtn_walk h
    | with_reducible apply State.engineReset_walk h
    | with_reducible apply State.setInst_walk h
    | with_reducible apply State.complete_walk h
    | with_reducible refine h.foldl _ ?_ ?_
    | with_reducible refine h.foldl_snd _ ?_ ?_
    | with_reducible refine h.foldl_snd_snd _ ?_ ?_
    | dsimp only
    | split

theorem execResetOverrun_walk (h : Respects R) (level : BitVec 3) (p : PtnNo) (h0 : R s0 s) :
   Yields (R s0) (execResetOverrun level p s) := by
  unfold execResetOverrun
  repeat' first
    | with_reducible assumption
    | with_reducible apply Yields.next
    | with_reducible apply Yields.ite
    | with_reducible apply h.ite
    | with_reducible apply State.level_walk h
    | with_reducible apply State.contextOverrun_walk h
    | with_reducible apply State.escalated_walk h
    | with_reducible apply State.faultPtn_walk h
    | with_reducible apply State.resetPtn_walk h
    | with_reducible apply State.deviceReset_walk h
    | with_reducible apply State.powerCycle_walk h
    | dsimp only
    | split

theorem execConfigRequest_walk (h : Respects R) (fn : Bool) (offset : BitVec 12) (write : Bool) (value : BitVec 32) (h0 : R s0 s) :
   Yields (R s0) (execConfigRequest fn offset write value s) := by
  unfold execConfigRequest
  repeat' first
    | with_reducible assumption
    | with_reducible intro t
    | with_reducible apply Yields.next
    | with_reducible apply Yields.ite
    | with_reducible apply h.ite
    | with_reducible apply State.emit_walk h
    | with_reducible apply State.onBus_walk h
    | dsimp only
    | split

theorem execPcieLinkReset_walk (h : Respects R) (fn : Bool) (h0 : R s0 s) :
   Yields (R s0) (execPcieLinkReset fn s) := by
  unfold execPcieLinkReset
  repeat' first
    | with_reducible assumption
    | with_reducible intro t
    | with_reducible apply Yields.next
    | with_reducible apply Yields.ite
    | with_reducible apply h.ite
    | with_reducible apply State.contextReset_walk h
    | with_reducible apply State.writeMbxEnable_walk h
    | with_reducible refine h.foldl _ ?_ ?_
    | with_reducible refine h.foldl_snd _ ?_ ?_
    | with_reducible refine h.foldl_snd_snd _ ?_ ?_
    | dsimp only
    | split

theorem execPerstN_walk (h : Respects R) (h0 : R s0 s) :
    Yields (R s0) (execPerstN s) := by
  unfold execPerstN
  repeat' first
    | with_reducible assumption
    | with_reducible intro t
    | with_reducible apply Yields.next
    | with_reducible apply Yields.ite
    | with_reducible apply h.ite
    | with_reducible apply State.onPins_walk h
    | with_reducible apply State.onBus_walk h
    | with_reducible apply State.deviceReset_walk h
    | dsimp only
    | split

theorem execPerstNDeassert_walk (h : Respects R) (h0 : R s0 s) :
    Yields (R s0) (execPerstNDeassert s) := by
  unfold execPerstNDeassert
  repeat' first
    | with_reducible assumption
    | with_reducible intro t
    | with_reducible apply Yields.next
    | with_reducible apply Yields.ite
    | with_reducible apply h.ite
    | with_reducible apply State.onPins_walk h
    | with_reducible apply State.onBus_walk h
    | with_reducible apply State.trainLink_walk h
    | dsimp only
    | split

theorem execPwrEnRise_walk (h : Respects R) (railsOk : Bool) (h0 : R s0 s) :
   Yields (R s0) (execPwrEnRise railsOk s) := by
  unfold execPwrEnRise
  repeat' first
    | with_reducible assumption
    | with_reducible intro t
    | with_reducible apply Yields.next
    | with_reducible apply Yields.ite
    | with_reducible apply h.ite
    | with_reducible apply State.onPins_walk h
    | with_reducible apply State.onBoot_walk h
    | with_reducible apply State.onBus_walk h
    | with_reducible apply State.reload_walk h
    | with_reducible apply State.assertFault_walk h
    | dsimp only
    | split

theorem execPwrEnFall_walk (h : RespectsLines R) (h0 : R s0 s) : Yields (R s0) (execPwrEnFall s) := by
  unfold execPwrEnFall
  refine Yields.next (h.toRespects.ite h0 ?_)
  have h1 := State.dropFields_walk h.toRespects (fun _ _ f => decide (f.backing = .table)) h0
  exact h.trans (h.trans h1 (h.side _ 0 HostSide.reset .empty [] NetState.reset .empty .empty EngineState.reset _))
    (h.lines _ { MemState.reset with salt := s.mem.salt + 1 } fun _ => rfl)

theorem State.brownoutReset_walk (h : Respects R) (h0 : R s0 s) :
    R s0 (s.brownoutReset) := by
  unfold State.brownoutReset
  repeat' first
    | with_reducible assumption
    | with_reducible intro t
    | with_reducible apply h.ite
    | with_reducible apply State.restart_walk h
    | with_reducible apply State.onBoot_walk h
    | with_reducible apply State.set_walk h
    | dsimp only
    | split

theorem execRailOutOfRegulation_walk (h : Respects R) (h0 : R s0 s) :
    Yields (R s0) (execRailOutOfRegulation s) := by
  unfold execRailOutOfRegulation
  repeat' first
    | with_reducible assumption
    | with_reducible intro t
    | with_reducible apply Yields.next
    | with_reducible apply Yields.ite
    | with_reducible apply h.ite
    | with_reducible apply State.onPins_walk h
    | with_reducible apply State.assertFault_walk h
    | with_reducible apply State.brownoutReset_walk h
    | dsimp only
    | split

theorem execBrownout_walk (h : Respects R) (rail : BitVec 3) (h0 : R s0 s) :
   Yields (R s0) (execBrownout rail s) := by
  unfold execBrownout
  repeat' first
    | with_reducible assumption
    | with_reducible apply Yields.next
    | with_reducible apply Yields.ite
    | with_reducible apply h.ite
    | with_reducible apply State.brownoutReset_walk h
    | dsimp only
    | split

theorem execResetLevelRecovery_walk (h : Respects R) (h0 : R s0 s) :
    Yields (R s0) (execResetLevelRecovery s) := by
  unfold execResetLevelRecovery
  repeat' first
    | with_reducible assumption
    | with_reducible intro t
    | with_reducible apply Yields.next
    | with_reducible apply Yields.ite
    | with_reducible apply h.ite
    | with_reducible apply State.onBoot_walk h
    | with_reducible apply State.onPins_walk h
    | dsimp only
    | split

theorem execHubHeartbeatCheck_walk (h : Respects R) (incremented : BitVec 4) (recordsPosted : Bool) (h0 : R s0 s) :
   Yields (R s0) (execHubHeartbeatCheck incremented recordsPosted s) := by
  unfold execHubHeartbeatCheck
  repeat' first
    | with_reducible assumption
    | with_reducible intro t
    | with_reducible apply Yields.next
    | with_reducible apply Yields.ite
    | with_reducible apply h.ite
    | with_reducible apply State.atMultiple_walk h
    | with_reducible apply State.hubFault_walk h
    | with_reducible apply State.onBoot_walk h
    | dsimp only
    | split

end Sys2Proof.Machine
end

