-- ==== Sys2Proof/Laws/WalkManage.lean ====
section
/-! SUPPORT. What each operation of Machine/Manage.lean can do: it walks through the primitive changes of `Respects`. -/

set_option linter.unusedTactic false
set_option linter.unreachableTactic false

namespace Sys2Proof.Machine

variable {R : State → State → Prop} {s0 s : State}

theorem execInstCreate_walk (h : Respects R) (a : Adm) (inst : BitVec 16) (p : Byte) (fn : Byte) (image : Handle) (h0 : R s0 s) :
   Yields (R s0) (execInstCreate a inst p fn image s) := by
  unfold execInstCreate
  repeat' first
    | with_reducible assumption
    | with_reducible intro t
    | with_reducible apply Yields.next
    | with_reducible apply Yields.ite
    | with_reducible apply h.ite
    | with_reducible apply State.admin_walk h
    | with_reducible apply State.complete_walk h
    | with_reducible apply State.setInst_walk h
    | with_reducible apply State.set_walk h
    | dsimp only
    | split

theorem State.drainInst_walk (h : Respects R) (a : Adm) (i : Nat) (x : Inst) (h0 : R s0 s) :
   R s0 (s.drainInst a i x) := by
  unfold State.drainInst
  repeat' first
    | with_reducible assumption
    | with_reducible apply State.setInst_walk h
    | with_reducible apply State.settleInst_walk h

theorem execInstDestroyDrain_walk (h : Respects R) (a : Adm) (inst : BitVec 16) (h0 : R s0 s) :
   Yields (R s0) (execInstDestroyDrain a inst s) := by
  unfold execInstDestroyDrain
  repeat' first
    | with_reducible assumption
    | with_reducible intro t
    | with_reducible apply Yields.next
    | with_reducible apply Yields.ite
    | with_reducible apply h.ite
    | with_reducible apply State.admin_walk h
    | with_reducible apply State.drainInst_walk h
    | with_reducible apply State.complete_walk h
    | dsimp only
    | split

theorem execInstDestroySquash_walk (h : Respects R) (a : Adm) (inst : BitVec 16) (h0 : R s0 s) :
   Yields (R s0) (execInstDestroySquash a inst s) := by
  unfold execInstDestroySquash
  repeat' first
    | with_reducible assumption
    | with_reducible intro t
    | with_reducible apply Yields.next
    | with_reducible apply Yields.ite
    | with_reducible apply h.ite
    | with_reducible apply State.admin_walk h
    | with_reducible apply State.squash_walk h
    | with_reducible apply State.drainInst_walk h
    | with_reducible apply State.complete_walk h
    | dsimp only
    | split

theorem execInstReset_walk (h : Respects R) (a : Adm) (inst : BitVec 16) (h0 : R s0 s) :
   Yields (R s0) (execInstReset a inst s) := by
  unfold execInstReset
  repeat' first
    | with_reducible assumption
    | with_reducible intro t
    | with_reducible apply Yields.next
    | with_reducible apply Yields.ite
    | with_reducible apply h.ite
    | with_reducible apply State.admin_walk h
    | with_reducible apply State.contextReset_walk h
    | with_reducible apply State.complete_walk h
    | dsimp only
    | split

theorem execInstSuspend_walk (h : Respects R) (a : Adm) (inst : BitVec 16) (h0 : R s0 s) :
   Yields (R s0) (execInstSuspend a inst s) := by
  unfold execInstSuspend
  repeat' first
    | with_reducible assumption
    | with_reducible intro t
    | with_reducible apply Yields.next
    | with_reducible apply Yields.ite
    | with_reducible apply h.ite
    | with_reducible apply State.admin_walk h
    | with_reducible apply State.setInst_walk h
    | with_reducible apply State.settleInst_walk h
    | with_reducible apply State.complete_walk h
    | dsimp only
    | split

theorem execInstResume_walk (h : Respects R) (a : Adm) (inst : BitVec 16) (h0 : R s0 s) :
   Yields (R s0) (execInstResume a inst s) := by
  unfold execInstResume
  repeat' first
    | with_reducible assumption
    | with_reducible intro t
    | with_reducible apply Yields.next
    | with_reducible apply Yields.ite
    | with_reducible apply h.ite
    | with_reducible apply State.admin_walk h
    | with_reducible apply State.setInst_walk h
    | with_reducible apply State.complete_walk h
    | dsimp only
    | split

theorem execInstImage_walk (h : Respects R) (a : Adm) (inst : BitVec 16) (image : Handle) (h0 : R s0 s) :
   Yields (R s0) (execInstImage a inst image s) := by
  unfold execInstImage
  repeat' first
    | with_reducible assumption
    | with_reducible intro t
    | with_reducible apply Yields.next
    | with_reducible apply Yields.ite
    | with_reducible apply h.ite
    | with_reducible apply State.admin_walk h
    | with_reducible apply State.complete_walk h
    | with_reducible apply State.setInst_walk h
    | with_reducible apply State.setLine_walk h
    | dsimp only
    | split

theorem execInstQuery_walk (h : Respects R) (a : Adm) (inst : BitVec 16) (h0 : R s0 s) :
   Yields (R s0) (execInstQuery a inst s) := by
  unfold execInstQuery
  repeat' first
    | with_reducible assumption
    | with_reducible intro t
    | with_reducible apply Yields.next
    | with_reducible apply Yields.ite
    | with_reducible apply State.admin_walk h
    | with_reducible apply State.complete_walk h
    | dsimp only
    | split

theorem execQCreate_walk (h : Respects R) (a : Adm) (inst : BitVec 16) (q : Byte) (sqLog2 : Byte) (cqLog2 : Byte) (sqBase : Word) (cqBase : Word) (h0 : R s0 s) :
   Yields (R s0) (execQCreate a inst q sqLog2 cqLog2 sqBase cqBase s) := by
  unfold execQCreate
  repeat' first
    | with_reducible assumption
    | with_reducible intro t
    | with_reducible apply Yields.next
    | with_reducible apply Yields.ite
    | with_reducible apply h.ite
    | with_reducible apply State.admin_walk h
    | with_reducible apply State.complete_walk h
    | with_reducible apply State.setQueue_walk h
    | dsimp only
    | split

theorem execQDestroy_walk (h : Respects R) (a : Adm) (inst : BitVec 16) (q : Byte) (h0 : R s0 s) :
   Yields (R s0) (execQDestroy a inst q s) := by
  unfold execQDestroy
  repeat' first
    | with_reducible assumption
    | with_reducible intro t
    | with_reducible apply Yields.next
    | with_reducible apply Yields.ite
    | with_reducible apply h.ite
    | with_reducible apply State.admin_walk h
    | with_reducible apply State.complete_walk h
    | with_reducible apply State.onHost_walk h
    | dsimp only
    | split

theorem execMoCreate_walk (h : Respects R) (a : Adm) (p : Byte) (kind : Byte) (flags : Byte) (owner : BitVec 16) (va : Word) (bytes : Word) (h0 : R s0 s) :
   Yields (R s0) (execMoCreate a p kind flags owner va bytes s) := by
  unfold execMoCreate
  repeat' first
    | with_reducible assumption
    | with_reducible intro t
    | with_reducible apply Yields.next
    | with_reducible apply Yields.ite
    | with_reducible apply h.ite
    | with_reducible apply State.admin_walk h
    | with_reducible apply State.complete_walk h
    | with_reducible apply State.setObj_walk h
    | dsimp only
    | split

theorem State.moFree_walk (h : Respects R) (a : Adm) (h_ : Handle) (h0 : R s0 s) :
   R s0 (s.moFree a h_) := by
  unfold State.moFree
  repeat' first
    | with_reducible assumption
    | with_reducible apply h.ite
    | with_reducible apply State.complete_walk h
    | with_reducible apply State.freeObj_walk h
    | dsimp only
    | split

theorem execMoFree_walk (h : Respects R) (a : Adm) (obj : Handle) (h0 : R s0 s) :
   Yields (R s0) (execMoFree a obj s) := by
  unfold execMoFree
  repeat' first
    | with_reducible assumption
    | with_reducible intro t
    | with_reducible apply Yields.next
    | with_reducible apply Yields.ite
    | with_reducible apply State.admin_walk h
    | with_reducible apply State.moFree_walk h

theorem State.fenceFree_walk (h : Respects R) (a : Adm) (h_ : Handle) (h0 : R s0 s) :
   R s0 (s.fenceFree a h_) := by
  unfold State.fenceFree
  repeat' first
    | with_reducible assumption
    | with_reducible apply h.ite
    | with_reducible apply State.complete_walk h
    | with_reducible apply State.freeFence_walk h
    | dsimp only
    | split

theorem State.imageFree_walk (h : Respects R) (a : Adm) (h_ : Handle) (h0 : R s0 s) :
   R s0 (s.imageFree a h_) := by
  unfold State.imageFree
  repeat' first
    | with_reducible assumption
    | with_reducible apply h.ite
    | with_reducible apply State.complete_walk h
    | with_reducible apply State.removeImage_walk h
    | with_reducible apply State.setImage_walk h
    | with_reducible apply State.placeItem_walk h
    | dsimp only
    | split

theorem execObjRef_walk (h : Respects R) (a : Adm) (kind : Byte) (h_ : Handle) (delta : BitVec 32) (h0 : R s0 s) :
   Yields (R s0) (execObjRef a kind h_ delta s) := by
  unfold execObjRef
  repeat' first
    | with_reducible assumption
    | with_reducible intro t
    | with_reducible apply Yields.next
    | with_reducible apply Yields.ite
    | with_reducible apply h.ite
    | with_reducible apply State.admin_walk h
    | with_reducible apply State.complete_walk h
    | with_reducible apply State.moFree_walk h
    | with_reducible apply State.setObj_walk h
    | with_reducible apply State.fenceFree_walk h
    | with_reducible apply State.setFence_walk h
    | with_reducible apply State.imageFree_walk h
    | with_reducible apply State.setImage_walk h
    | dsimp only
    | split

theorem execAppendSet_walk (h : Respects R) (a : Adm) (obj : Handle) (extent : Word) (h0 : R s0 s) :
   Yields (R s0) (execAppendSet a obj extent s) := by
  unfold execAppendSet
  repeat' first
    | with_reducible assumption
    | with_reducible intro t
    | with_reducible apply Yields.next
    | with_reducible apply Yields.ite
    | with_reducible apply h.ite
    | with_reducible apply State.admin_walk h
    | with_reducible apply State.complete_walk h
    | with_reducible apply State.setObj_walk h
    | dsimp only
    | split

theorem execFenceCreate_walk (h : Respects R) (a : Adm) (p : Byte) (value : Word) (h0 : R s0 s) :
   Yields (R s0) (execFenceCreate a p value s) := by
  unfold execFenceCreate
  repeat' first
    | with_reducible assumption
    | with_reducible intro t
    | with_reducible apply Yields.next
    | with_reducible apply Yields.ite
    | with_reducible apply h.ite
    | with_reducible apply State.admin_walk h
    | with_reducible apply State.complete_walk h
    | with_reducible apply State.setFence_walk h
    | dsimp only
    | split

theorem execFenceFree_walk (h : Respects R) (a : Adm) (fence : Handle) (h0 : R s0 s) :
   Yields (R s0) (execFenceFree a fence s) := by
  unfold execFenceFree
  repeat' first
    | with_reducible assumption
    | with_reducible intro t
    | with_reducible apply Yields.next
    | with_reducible apply Yields.ite
    | with_reducible apply State.admin_walk h
    | with_reducible apply State.fenceFree_walk h

theorem execFenceSignal_walk (h : Respects R) (a : Adm) (fence : Handle) (value : Word) (h0 : R s0 s) :
   Yields (R s0) (execFenceSignal a fence value s) := by
  unfold execFenceSignal
  repeat' first
    | with_reducible assumption
    | with_reducible intro t
    | with_reducible apply Yields.next
    | with_reducible apply Yields.ite
    | with_reducible apply h.ite
    | with_reducible apply State.admin_walk h
    | with_reducible apply State.complete_walk h
    | with_reducible apply State.signal_walk h
    | dsimp only
    | split

theorem execFenceView_walk (h : Respects R) (a : Adm) (inst : BitVec 16) (view : Byte) (fence : Handle) (h0 : R s0 s) :
   Yields (R s0) (execFenceView a inst view fence s) := by
  unfold execFenceView
  repeat' first
    | with_reducible assumption
    | with_reducible intro t
    | with_reducible apply Yields.next
    | with_reducible apply Yields.ite
    | with_reducible apply h.ite
    | with_reducible apply State.admin_walk h
    | with_reducible apply State.complete_walk h
    | with_reducible apply State.setInst_walk h
    | dsimp only
    | split

theorem execArgsetWrite_walk (h : Respects R) (a : Adm) (p : Byte) (set : Byte) (data : BitVec 1536) (h0 : R s0 s) :
   Yields (R s0) (execArgsetWrite a p set data s) := by
  unfold execArgsetWrite
  repeat' first
    | with_reducible assumption
    | with_reducible intro t
    | with_reducible apply Yields.next
    | with_reducible apply Yields.ite
    | with_reducible apply h.ite
    | with_reducible apply State.admin_walk h
    | with_reducible apply State.set_walk h
    | with_reducible apply State.complete_walk h
    | with_reducible apply State.refObj_walk h
    | with_reducible apply State.unrefObj_walk h
    | with_reducible apply State.onHost_walk h
    | with_reducible refine h.foldl _ ?_ ?_
    | with_reducible refine h.foldl_snd _ ?_ ?_
    | with_reducible refine h.foldl_snd_snd _ ?_ ?_
    | dsimp only
    | split

theorem execPtWrite_walk (h : Respects R) (a : Adm) (p : Byte) (rec : TableRec) (h0 : R s0 s) :
   Yields (R s0) (execPtWrite a p rec s) := by
  unfold execPtWrite
  repeat' first
    | with_reducible assumption
    | with_reducible intro t
    | with_reducible apply Yields.next
    | with_reducible apply Yields.ite
    | with_reducible apply h.ite
    | with_reducible apply State.admin_walk h
    | with_reducible apply State.complete_walk h
    | with_reducible apply State.writeTable_walk h
    | with_reducible apply State.staleRanges_walk h
    | with_reducible apply State.placeItem_walk h
    | dsimp only
    | split

theorem execRegionCreate_walk (h : Respects R) (a : Adm) (engine : Byte) (flags : Byte) (region : BitVec 16) (obj : Handle) (base : BitVec 32) (lines : BitVec 32) (kind : Byte) (h0 : R s0 s) :
   Yields (R s0) (execRegionCreate a engine flags region obj base lines kind s) := by
  unfold execRegionCreate
  repeat' first
    | with_reducible assumption
    | with_reducible intro t
    | with_reducible apply Yields.next
    | with_reducible apply Yields.ite
    | with_reducible apply h.ite
    | with_reducible apply State.admin_walk h
    | with_reducible apply State.complete_walk h
    | with_reducible apply State.hubWalks_walk h
    | with_reducible apply State.setEngine_walk h
    | with_reducible apply State.refObj_walk h
    | dsimp only
    | split

theorem execRegionDestroy_walk (h : Respects R) (a : Adm) (engine : Byte) (region : BitVec 16) (h0 : R s0 s) :
   Yields (R s0) (execRegionDestroy a engine region s) := by
  unfold execRegionDestroy
  repeat' first
    | with_reducible assumption
    | with_reducible intro t
    | with_reducible apply Yields.next
    | with_reducible apply Yields.ite
    | with_reducible apply h.ite
    | with_reducible apply State.admin_walk h
    | with_reducible apply State.complete_walk h
    | with_reducible apply State.setEngine_walk h
    | with_reducible apply State.unrefObj_walk h
    | dsimp only
    | split

theorem execOpenOrder_walk (h : Respects R) (a : Adm) (engine : Byte) (p : Byte) (desc : Line) (h0 : R s0 s) :
   Yields (R s0) (execOpenOrder a engine p desc s) := by
  unfold execOpenOrder
  repeat' first
    | with_reducible assumption
    | with_reducible intro t
    | with_reducible apply Yields.next
    | with_reducible apply Yields.ite
    | with_reducible apply h.ite
    | with_reducible apply State.admin_walk h
    | with_reducible apply State.complete_walk h
    | with_reducible apply State.useRegions_walk h
    | with_reducible apply State.placeOrder_walk h
    | dsimp only
    | split

theorem execImgBind_walk (h : Respects R) (a : Adm) (p : Byte) (flags : Byte) (index : Byte) (obj : Handle) (h0 : R s0 s) :
   Yields (R s0) (execImgBind a p flags index obj s) := by
  unfold execImgBind
  repeat' first
    | with_reducible assumption
    | with_reducible intro t
    | with_reducible apply Yields.next
    | with_reducible apply Yields.ite
    | with_reducible apply h.ite
    | with_reducible apply State.admin_walk h
    | with_reducible apply State.complete_walk h
    | with_reducible apply State.asStaged_walk h
    | with_reducible apply State.hubWalks_walk h
    | with_reducible apply State.reading_walk h
    | with_reducible apply State.takeBlocks_walk h
    | with_reducible apply State.setImage_walk h
    | with_reducible apply State.refObj_walk h
    | with_reducible apply State.installHops_walk h
    | with_reducible apply State.placeItem_walk h
    | dsimp only
    | split

theorem execImgUnbind_walk (h : Respects R) (a : Adm) (image : Handle) (h0 : R s0 s) :
   Yields (R s0) (execImgUnbind a image s) := by
  unfold execImgUnbind
  repeat' first
    | with_reducible assumption
    | with_reducible intro t
    | with_reducible apply Yields.next
    | with_reducible apply Yields.ite
    | with_reducible apply State.admin_walk h
    | with_reducible apply State.imageFree_walk h

theorem execHeapSet_walk (h : Respects R) (a : Adm) (p : Byte) (obj : Handle) (h0 : R s0 s) :
   Yields (R s0) (execHeapSet a p obj s) := by
  unfold execHeapSet
  repeat' first
    | with_reducible assumption
    | with_reducible intro t
    | with_reducible apply Yields.next
    | with_reducible apply Yields.ite
    | with_reducible apply h.ite
    | with_reducible apply State.admin_walk h
    | with_reducible apply State.onHost_walk h
    | with_reducible apply State.unrefObj_walk h
    | with_reducible apply State.complete_walk h
    | with_reducible apply State.refObj_walk h
    | dsimp only
    | split

theorem execHeapReset_walk (h : Respects R) (a : Adm) (p : Byte) (h0 : R s0 s) :
   Yields (R s0) (execHeapReset a p s) := by
  unfold execHeapReset
  repeat' first
    | with_reducible assumption
    | with_reducible intro t
    | with_reducible apply Yields.next
    | with_reducible apply Yields.ite
    | with_reducible apply h.ite
    | with_reducible apply State.admin_walk h
    | with_reducible apply State.complete_walk h
    | with_reducible apply State.onHost_walk h
    | dsimp only
    | split

theorem State.onInstance_walk (h : Respects R) (a : Adm) (inst : BitVec 16) {go : Nat → Inst → State → State}
    (hg : ∀ i x t, R s0 t → R s0 (go i x t)) (h0 : R s0 s) : R s0 (s.onInstance a inst go) := by
  unfold State.onInstance
  split
  · exact State.complete_walk h _ _ _ _ _ _ h0
  · exact hg _ _ _ h0

theorem execLogCtlEnable_walk (h : Respects R) (a : Adm) (inst : BitVec 16) (h0 : R s0 s) :
   Yields (R s0) (execLogCtlEnable a inst s) := by
  unfold execLogCtlEnable
  repeat' first
    | with_reducible assumption
    | with_reducible intro t
    | with_reducible apply Yields.next
    | with_reducible apply Yields.ite
    | with_reducible apply State.admin_walk h
    | with_reducible apply State.onInstance_walk h
    | with_reducible apply State.onHost_walk h
    | with_reducible apply State.setInst_walk h
    | with_reducible apply State.complete_walk h

theorem execLogCtlDisable_walk (h : Respects R) (a : Adm) (inst : BitVec 16) (h0 : R s0 s) :
   Yields (R s0) (execLogCtlDisable a inst s) := by
  unfold execLogCtlDisable
  repeat' first
    | with_reducible assumption
    | with_reducible intro t
    | with_reducible apply Yields.next
    | with_reducible apply Yields.ite
    | with_reducible apply State.admin_walk h
    | with_reducible apply State.onInstance_walk h
    | with_reducible apply State.setInst_walk h
    | with_reducible apply State.complete_walk h

theorem State.moveLog_walk (h : Respects R) (i : Nat) (first : Nat) (n : Nat) (dst : Nat) (h0 : R s0 s) :
   R s0 (s.moveLog i first n dst) := by
  unfold State.moveLog
  repeat' first
    | with_reducible assumption
    | with_reducible intro t
    | with_reducible apply State.emit_walk h
    | with_reducible apply State.onHost_walk h

theorem execLogFetch_walk (h : Respects R) (a : Adm) (inst : BitVec 16) (first : BitVec 32) (count : BitVec 32) (dst : Word) (h0 : R s0 s) :
   Yields (R s0) (execLogFetch a inst first count dst s) := by
  unfold execLogFetch
  repeat' first
    | with_reducible assumption
    | with_reducible intro t
    | with_reducible apply Yields.next
    | with_reducible apply Yields.ite
    | with_reducible apply h.ite
    | with_reducible apply State.takeAnd_walk h
    | with_reducible apply State.onInstance_walk h
    | with_reducible apply State.count_walk h
    | with_reducible apply State.complete_walk h
    | with_reducible apply State.draw_walk h
    | with_reducible apply State.moveLog_walk h
    | with_reducible apply State.raise_walk h
    | dsimp only
    | split

theorem execApertureMap_walk (h : Respects R) (a : Adm) (inst : BitVec 16) (base : Word) (h0 : R s0 s) :
   Yields (R s0) (execApertureMap a inst base s) := by
  unfold execApertureMap
  repeat' first
    | with_reducible assumption
    | with_reducible intro t
    | with_reducible apply Yields.next
    | with_reducible apply Yields.ite
    | with_reducible apply State.admin_walk h
    | with_reducible apply State.onInstance_walk h
    | with_reducible apply State.setInst_walk h
    | with_reducible apply State.complete_walk h

theorem execPasidBind_walk (h : Respects R) (a : Adm) (inst : BitVec 16) (pasid : BitVec 32) (h0 : R s0 s) :
   Yields (R s0) (execPasidBind a inst pasid s) := by
  unfold execPasidBind
  repeat' first
    | with_reducible assumption
    | with_reducible intro t
    | with_reducible apply Yields.next
    | with_reducible apply Yields.ite
    | with_reducible apply State.admin_walk h
    | with_reducible apply State.onInstance_walk h
    | with_reducible apply State.setInst_walk h
    | with_reducible apply State.complete_walk h

theorem execVecAlloc_walk (h : Respects R) (a : Adm) (inst : BitVec 16) (count : Byte) (h0 : R s0 s) :
   Yields (R s0) (execVecAlloc a inst count s) := by
  unfold execVecAlloc
  repeat' first
    | with_reducible assumption
    | with_reducible intro t
    | with_reducible apply Yields.next
    | with_reducible apply Yields.ite
    | with_reducible apply h.ite
    | with_reducible apply State.count_walk h
    | with_reducible apply State.admin_walk h
    | with_reducible apply State.onInstance_walk h
    | with_reducible apply State.complete_walk h
    | with_reducible apply State.setInst_walk h
    | dsimp only
    | split

theorem execVecFree_walk (h : Respects R) (a : Adm) (inst : BitVec 16) (h0 : R s0 s) :
   Yields (R s0) (execVecFree a inst s) := by
  unfold execVecFree
  repeat' first
    | with_reducible assumption
    | with_reducible intro t
    | with_reducible apply Yields.next
    | with_reducible apply Yields.ite
    | with_reducible apply h.ite
    | with_reducible apply State.admin_walk h
    | with_reducible apply State.onInstance_walk h
    | with_reducible apply State.setInst_walk h
    | with_reducible apply State.complete_walk h
    | dsimp only
    | split

end Sys2Proof.Machine
end

