-- ==== Sys2Proof/Laws/WalkPreempt.lean ====
section
/-! SUPPORT. What each operation of Machine/Preempt.lean can do: it walks through the primitive changes of `Respects`. -/

set_option linter.unusedTactic false
set_option linter.unreachableTactic false

namespace Sys2Proof.Machine

variable {R : State → State → Prop} {s0 s : State}

theorem State.applyPreempt_walk (h : Respects R) (p : Nat) (i : Nat) (q : Nat) (head : Nat) (idx : Nat) (index : Nat) (d : Desc) (j : Judged) (c : Cmd) (w : Walk) (h0 : R s0 s) :
   R s0 (s.applyPreempt p i q head idx index d j c w) := by
  unfold State.applyPreempt
  repeat' first
    | with_reducible assumption
    | with_reducible intro t
    | with_reducible apply State.withdrawAbort_walk h
    | with_reducible apply State.setLine_walk h
    | with_reducible apply State.holdStored_walk h
    | with_reducible apply State.placeCmd_walk h
    | with_reducible apply State.postAdmission_walk h
    | with_reducible apply State.sendLaunch_walk h
    | with_reducible apply State.killCmds_walk h
    | with_reducible refine h.foldl _ ?_ ?_
    | with_reducible refine h.foldl_snd _ ?_ ?_
    | with_reducible refine h.foldl_snd_snd _ ?_ ?_
    | dsimp only
    | split

theorem State.preempt_walk (h : Respects R) (a : Adm) (mode : Nat) (p : Nat) (i : Nat) (q : Nat) (d : Desc) (h0 : R s0 s) :
   R s0 (s.preempt a mode p i q d) := by
  unfold State.preempt
  repeat' first
    | with_reducible assumption
    | with_reducible intro t
    | with_reducible apply h.ite
    | with_reducible apply State.complete_walk h
    | with_reducible apply State.setQueue_walk h
    | with_reducible apply State.count_walk h
    | with_reducible apply State.exitIdle_walk h
    | with_reducible apply State.otherMembers_walk h
    | with_reducible apply State.placeItem_walk h
    | with_reducible apply State.postAdmission_walk h
    | with_reducible apply State.applyPreempt_walk h
    | with_reducible refine h.foldl _ ?_ ?_
    | with_reducible refine h.foldl_snd _ ?_ ?_
    | with_reducible refine h.foldl_snd_snd _ ?_ ?_
    | dsimp only
    | split

theorem execPreemptAbsorb_walk (h : Respects R) (a : Adm) (p : Byte) (inst : BitVec 16) (q : Byte) (desc : BitVec 2048) (h0 : R s0 s) :
   Yields (R s0) (execPreemptAbsorb a p inst q desc s) := by
  unfold execPreemptAbsorb
  repeat' first
    | with_reducible assumption
    | with_reducible intro t
    | with_reducible apply Yields.next
    | with_reducible apply Yields.ite
    | with_reducible apply State.admin_walk h
    | with_reducible apply State.preempt_walk h

theorem execPreemptWithdraw_walk (h : Respects R) (a : Adm) (p : Byte) (inst : BitVec 16) (q : Byte) (desc : BitVec 2048) (h0 : R s0 s) :
   Yields (R s0) (execPreemptWithdraw a p inst q desc s) := by
  unfold execPreemptWithdraw
  repeat' first
    | with_reducible assumption
    | with_reducible intro t
    | with_reducible apply Yields.next
    | with_reducible apply Yields.ite
    | with_reducible apply State.admin_walk h
    | with_reducible apply State.preempt_walk h

theorem execPreemptKill_walk (h : Respects R) (a : Adm) (p : Byte) (inst : BitVec 16) (q : Byte) (desc : BitVec 2048) (h0 : R s0 s) :
   Yields (R s0) (execPreemptKill a p inst q desc s) := by
  unfold execPreemptKill
  repeat' first
    | with_reducible assumption
    | with_reducible intro t
    | with_reducible apply Yields.next
    | with_reducible apply Yields.ite
    | with_reducible apply State.admin_walk h
    | with_reducible apply State.preempt_walk h

end Sys2Proof.Machine
end

