-- ==== Sys2Proof/Laws/WalkSeqCore.lean ====
section
/-! SUPPORT. What each operation of Machine/SeqCore.lean can do: it walks through the primitive changes of `Respects`. -/

set_option linter.unusedTactic false
set_option linter.unreachableTactic false

namespace Sys2Proof.Machine

variable {R : State → State → Prop} {s0 s : State}

theorem State.putTableLine_walk (h : Respects R) (sl : Nat) (q : Nat) (v : Line) (mask : Nat) (h0 : R s0 s) :
   R s0 (s.putTableLine sl q v mask) := by
  unfold State.putTableLine
  repeat' first
    | with_reducible assumption
    | with_reducible intro t
    | with_reducible apply State.setTableEntry_walk h
    | with_reducible refine h.foldl _ ?_ ?_
    | with_reducible refine h.foldl_snd _ ?_ ?_
    | with_reducible refine h.foldl_snd_snd _ ?_ ?_

theorem State.reservedBad_walk (h : Respects R) (sl : Nat) (dpa : Nat) (h0 : R s0 s) :
   R s0 (s.reservedBad sl dpa) := by
  unfold State.reservedBad
  repeat' first
    | with_reducible assumption
    | with_reducible apply State.noteLine_walk h
    | with_reducible apply State.faultPtn_walk h
    | dsimp only
    | split

theorem State.seqRead_walk (h : Respects R) (sl : Nat) (pl : SeqPlace) (h0 : R s0 s) :
    ∀ v t, s.seqRead sl pl = some (v, t) → R s0 t := by
  intro v t ht
  cases pl with
  | mem l =>
    obtain ⟨-, rfl⟩ := Prod.mk.inj (Option.some.inj ht)
    exact h0
  | page page off =>
    change (if page = clusterPage sl 5 ∧ off = 0x50 then some (s.claim sl) else some (s.pageWord page off, s)) = some (v, t) at ht
    split at ht
    · have hc := State.claim_walk h sl h0
      rw [Option.some.inj ht] at hc
      exact hc
    · obtain ⟨-, rfl⟩ := Prod.mk.inj (Option.some.inj ht)
      exact h0
  | cache e =>
    obtain ⟨-, rfl⟩ := Prod.mk.inj (Option.some.inj ht)
    exact h0
  | mailbox w =>
    obtain ⟨-, rfl⟩ := Prod.mk.inj (Option.some.inj ht)
    exact h0
  | reserved q =>
    unfold State.seqRead at ht
    dsimp only at ht
    split at ht
    · contradiction
    · obtain ⟨-, rfl⟩ := Prod.mk.inj (Option.some.inj ht)
      exact State.noteLine_walk h _ _ _ h0

theorem State.seqBad_walk (h : Respects R) (sl : Nat) (pl : SeqPlace) (h0 : R s0 s) : R s0 (s.seqBad sl pl) := by
  cases pl with
  | reserved q => exact State.reservedBad_walk h _ _ h0
  | _ => exact h0

theorem State.seqWrite_walk (h : RespectsLines R) (sl at_ size v : Nat) (pl : SeqPlace) (h0 : R s0 s) :
    ∀ t, s.seqWrite sl at_ size v pl = some t → R s0 t := by
  have hr := h.toRespects
  intro t ht
  cases pl with
  | mem l =>
    obtain rfl := Option.some.inj ht
    exact State.setLocalLine_walk hr _ _ _ h0
  | page page off =>
    obtain rfl := Option.some.inj ht
    exact hr.ite (State.writeReg_walk hr _ _ _ _ _ h0) h0
  | cache e =>
    obtain rfl := Option.some.inj ht
    exact hr.onMem h0 rfl id
  | mailbox w =>
    obtain rfl := Option.some.inj ht
    exact State.setSeqr_walk hr _ _ h0
  | reserved q =>
    unfold State.seqWrite at ht
    dsimp only at ht
    split at ht
    · contradiction
    · obtain rfl := Option.some.inj ht
      exact hr.ite (State.putTableLine_walk hr _ _ _ _ (State.noteLine_walk hr _ _ _ h0)) (State.putBytes_walk h _ _ _ _ h0)

theorem State.setCore_walk (h : Respects R) (sl : Nat) (c : SeqCore) (h0 : R s0 s) :
   R s0 (s.setCore sl c) := by
  unfold State.setCore
  repeat' first
    | with_reducible assumption
    | with_reducible apply State.setSeqr_walk h

theorem State.seqTrap_walk (h : Respects R) (sl : Nat) (cause : Nat) (tval : BitVec 64) (h0 : R s0 s) :
   R s0 (s.seqTrap sl cause tval) := by
  unfold State.seqTrap
  repeat' first
    | with_reducible assumption
    | with_reducible apply State.setCore_walk h

theorem State.writeCsr_walk (h : Respects R) (sl : Nat) (n : Nat) (v : BitVec 64) (h0 : R s0 s) :
   R s0 (s.writeCsr sl n v) := by
  unfold State.writeCsr
  repeat' first
    | with_reducible assumption
    | with_reducible apply h.ite
    | with_reducible apply State.setCore_walk h
    | with_reducible apply State.writeKept_walk h
    | with_reducible apply State.sxlaunch_walk h
    | with_reducible apply State.sxkill_walk h
    | dsimp only
    | split

theorem State.fetchHalf_walk (h : Respects R) (sl a : Nat) (h0 : R s0 s) : ∀ v t, s.fetchHalf sl a = some (v, t) → R s0 t := by
  intro v t ht
  unfold State.fetchHalf at ht
  split at ht
  · split at ht
    · split at ht
      · obtain ⟨r, hr, hq⟩ := Option.map_eq_some_iff.mp ht
        obtain ⟨-, rfl⟩ := Prod.mk.inj hq
        exact State.seqRead_walk h sl _ h0 r.1 r.2 hr
      · contradiction
    · contradiction
  · contradiction

theorem State.fetchFault_walk (h : Respects R) (sl a : Nat) (h0 : R s0 s) : R s0 (s.fetchFault sl a) := by
  unfold State.fetchFault
  refine State.seqTrap_walk h _ _ _ ?_
  split
  · exact h.ite (State.seqBad_walk h _ _ h0) h0
  · exact h0

theorem State.seqLoad_walk (h : Respects R) (sl len rd size : Nat) (unsigned : Bool) (addr : BitVec 64) (h0 : R s0 s) :
    R s0 (s.seqLoad sl len rd size unsigned addr) := by
  unfold State.seqLoad
  have hf := State.seqTrap_walk h sl 5 addr h0
  refine h.ite (State.seqTrap_walk h _ _ _ h0) (h.ite hf ?_)
  split
  · exact hf
  · split
    · exact State.seqTrap_walk h _ _ _ (State.seqBad_walk h _ _ h0)
    · rename_i ht
      exact State.setCore_walk h _ _ (State.seqRead_walk h sl _ h0 _ _ ht)

theorem State.seqStore_walk (h : RespectsLines R) (sl len size : Nat) (addr v : BitVec 64) (h0 : R s0 s) :
    R s0 (s.seqStore sl len size addr v) := by
  have hr := h.toRespects
  unfold State.seqStore
  have hf := State.seqTrap_walk hr sl 7 addr h0
  refine hr.ite (State.seqTrap_walk hr _ _ _ h0) (hr.ite hf ?_)
  split
  · exact hf
  · split
    · exact State.seqTrap_walk hr _ _ _ (State.seqBad_walk hr _ _ h0)
    · rename_i ht
      exact State.setCore_walk hr _ _ (State.seqWrite_walk h sl _ _ _ _ h0 _ ht)

theorem State.seqAmo_walk (h : RespectsLines R) (sl len f5 size rd : Nat) (addr v : BitVec 64) (h0 : R s0 s) :
    R s0 (s.seqAmo sl len f5 size rd addr v) := by
  have hr := h.toRespects
  unfold State.seqAmo
  have hf := State.seqTrap_walk hr sl (if decide (f5 = 2) then 5 else 7) addr h0
  refine hr.ite (State.seqTrap_walk hr _ _ _ h0) (hr.ite hf ?_)
  split
  · exact hf
  · dsimp only
    refine hr.ite hf (hr.ite (hr.ite ?_ (State.setCore_walk hr _ _ h0)) ?_)
    · split
      · exact State.seqTrap_walk hr _ _ _ (State.seqBad_walk hr _ _ h0)
      · rename_i ht
        exact State.setCore_walk hr _ _ (State.seqWrite_walk h sl _ _ _ _ h0 _ ht)
    · split
      · exact State.seqTrap_walk hr _ _ _ (State.seqBad_walk hr _ _ h0)
      · rename_i ht
        have h1 := State.seqRead_walk hr sl _ h0 _ _ ht
        refine hr.ite (State.setCore_walk hr _ _ h1) ?_
        split
        · exact State.seqTrap_walk hr _ _ _ (State.seqBad_walk hr _ _ h1)
        · rename_i hw
          exact State.setCore_walk hr _ _ (State.seqWrite_walk h sl _ _ _ _ h1 _ hw)

theorem State.seqCsrOp_walk (h : Respects R) (sl : Nat) (len : Nat) (w : Nat) (rd : Nat) (n : Nat) (how : Nat) (write : Bool) (v : BitVec 64) (h0 : R s0 s) :
   R s0 (s.seqCsrOp sl len w rd n how write v) := by
  unfold State.seqCsrOp
  repeat' first
    | with_reducible assumption
    | with_reducible apply h.ite
    | with_reducible apply State.setCore_walk h
    | with_reducible apply State.writeCsr_walk h
    | with_reducible apply State.seqTrap_walk h
    | dsimp only
    | split

theorem State.seqWfi_walk (h : Respects R) (sl : Nat) (len : Nat) (h0 : R s0 s) :
   R s0 (s.seqWfi sl len) := by
  unfold State.seqWfi
  repeat' first
    | with_reducible assumption
    | with_reducible intro t
    | with_reducible apply h.ite
    | with_reducible apply State.setCore_walk h
    | with_reducible apply State.setEvc_walk h
    | dsimp only
    | split

theorem State.seqExec_walk (h : RespectsLines R) (sl : Nat) (w : Nat) (len : Nat) (h0 : R s0 s) :
   R s0 (s.seqExec sl w len) := by
  unfold State.seqExec
  repeat' first
    | with_reducible assumption
    | with_reducible apply State.setCore_walk h.toRespects
    | with_reducible apply State.seqTrap_walk h.toRespects
    | with_reducible apply State.seqLoad_walk h.toRespects
    | with_reducible apply State.seqStore_walk h
    | with_reducible apply State.seqAmo_walk h
    | with_reducible apply State.seqCsrOp_walk h.toRespects
    | with_reducible apply State.seqWfi_walk h.toRespects
    | dsimp only
    | split

theorem State.seqInstr_walk (h : RespectsLines R) (sl : Nat) (h0 : R s0 s) : R s0 (s.seqInstr sl) := by
  have hr := h.toRespects
  unfold State.seqInstr
  dsimp only
  split
  · exact State.fetchFault_walk hr _ _ h0
  · rename_i ht
    have h1 := State.fetchHalf_walk hr sl _ h0 _ _ ht
    refine hr.ite ?_ ?_
    · split
      · exact State.seqExec_walk h _ _ _ h1
      · exact State.seqTrap_walk hr _ _ _ h1
    · split
      · exact State.fetchFault_walk hr _ _ h1
      · rename_i hg
        exact State.seqExec_walk h _ _ _ (State.fetchHalf_walk hr sl _ h1 _ _ hg)

theorem State.seqStep_walk (h : RespectsLines R) (sl : Nat) (h0 : R s0 s) :
   R s0 (s.seqStep sl) := by
  unfold State.seqStep
  repeat' first
    | with_reducible assumption
    | with_reducible apply h.toRespects.ite
    | with_reducible apply State.setCore_walk h.toRespects
    | with_reducible apply State.seqInstr_walk h
    | dsimp only
    | split

theorem State.tick_walk (h : RespectsLines R) (h0 : R s0 s) : R s0 s.tick :=
  h.toRespects.foldl _ (fun _ sl ht => State.seqStep_walk h sl (State.launchDue_walk h.toRespects sl ht))
    (State.strokeTime_walk h.toRespects (State.idle_walk h.toRespects h0))

end Sys2Proof.Machine
end

