-- ==== Sys2Proof/Laws/WalkSide.lean ====
section
/-! SUPPORT. What each operation of Machine/Side.lean can do: it walks through the primitive changes of `Respects`. -/

set_option linter.unusedTactic false
set_option linter.unreachableTactic false

namespace Sys2Proof.Machine

variable {R : State → State → Prop} {s0 s : State}

theorem execBypass_walk (h : Respects R) (tdi : Bool) (h0 : R s0 s) :
   Yields (R s0) (execBypass tdi s) := by
  unfold execBypass
  repeat' first
    | with_reducible assumption
    | with_reducible intro t
    | with_reducible apply Yields.next
    | with_reducible apply Yields.ite
    | with_reducible apply h.ite
    | with_reducible apply State.onSide_walk h
    | with_reducible apply State.emit_walk h
    | dsimp only
    | split

theorem execIdcode_walk (h : Respects R) (h0 : R s0 s) :
    Yields (R s0) (execIdcode s) := by
  unfold execIdcode
  repeat' first
    | with_reducible assumption
    | with_reducible apply Yields.next
    | with_reducible apply Yields.ite
    | with_reducible apply h.ite
    | with_reducible apply State.emit_walk h
    | dsimp only
    | split

theorem execSamplePreload_walk (h : Respects R) (cells : Word) (h0 : R s0 s) :
   Yields (R s0) (execSamplePreload cells s) := by
  unfold execSamplePreload
  repeat' first
    | with_reducible assumption
    | with_reducible intro t
    | with_reducible apply Yields.next
    | with_reducible apply Yields.ite
    | with_reducible apply h.ite
    | with_reducible apply State.draw_walk h
    | with_reducible apply State.onSide_walk h
    | with_reducible apply State.emit_walk h
    | dsimp only
    | split

theorem execExtest_walk (h : Respects R) (tdi : Bool) (h0 : R s0 s) :
   Yields (R s0) (execExtest tdi s) := by
  unfold execExtest
  repeat' first
    | with_reducible assumption
    | with_reducible intro t
    | with_reducible apply Yields.next
    | with_reducible apply Yields.ite
    | with_reducible apply h.ite
    | with_reducible apply execBypass_walk h
    | with_reducible apply State.draw_walk h
    | with_reducible apply State.onSide_walk h
    | with_reducible apply State.emit_walk h
    | dsimp only
    | split

theorem State.debugWord_walk (h : Respects R) (sl space address : Nat) (h0 : R s0 s) :
    ∀ w put, s.debugWord sl space address = some (w, put) → ∀ x, R s0 (put x) := by
  intro w put hw x
  unfold State.debugWord at hw
  dsimp only at hw
  repeat' split at hw
  all_goals first
    | contradiction
    | (obtain ⟨-, rfl⟩ := Prod.mk.inj (Option.some.inj hw)
       first
         | exact State.setTile_walk h _ _ _ h0
         | exact State.setCluster_walk h _ _ h0
         | exact State.setSeqr_walk h _ _ h0
         | exact State.writeReg_walk h _ _ _ _ _ h0)

theorem execJtagDebugAccess_walk (h : Respects R) (p : PtnNo) (slice : SliceNo) (space : BitVec 4) (address : BitVec 24)
    (write : Bool) (value : Word) (h0 : R s0 s) : Yields (R s0) (execJtagDebugAccess p slice space address write value s) := by
  unfold execJtagDebugAccess
  refine Yields.next (h.ite h0 ?_)
  split
  · rename_i v put hv
    refine h.ite ?_ (State.emit_walk h _ h0)
    split at hv
    · exact State.debugWord_walk h _ _ _ h0 _ _ hv _
    · contradiction
  · exact h.ite h0 (State.emit_walk h _ h0)

theorem State.respond_walk (h : Respects R) (data : List Byte) (h0 : R s0 s) :
   R s0 (s.respond data) := by
  unfold State.respond
  repeat' first
    | with_reducible assumption
    | with_reducible apply h.ite
    | with_reducible apply State.emit_walk h
    | dsimp only
    | split

theorem execReadReg_walk (h : Respects R) (page : BitVec 16) (offset : BitVec 16) (h0 : R s0 s) :
   Yields (R s0) (execReadReg page offset s) := by
  unfold execReadReg
  repeat' first
    | with_reducible assumption
    | with_reducible apply Yields.next
    | with_reducible apply Yields.ite
    | with_reducible apply h.ite
    | with_reducible apply State.respond_walk h
    | dsimp only
    | split

theorem execStatus_walk (h : Respects R) (h0 : R s0 s) :
    Yields (R s0) (execStatus s) := by
  unfold execStatus
  repeat' first
    | with_reducible assumption
    | with_reducible apply Yields.next
    | with_reducible apply Yields.ite
    | with_reducible apply State.respond_walk h

theorem execWake_walk (h : RespectsLines R) (h0 : R s0 s) :
    Yields (R s0) (execWake s) := by
  unfold execWake
  repeat' first
    | with_reducible assumption
    | with_reducible apply Yields.next
    | with_reducible apply Yields.ite
    | with_reducible apply h.toRespects.ite
    | with_reducible apply State.respond_walk h.toRespects
    | with_reducible apply State.warmBoot_walk h
    | dsimp only
    | split

theorem execFlashErase_walk (h : Respects R) (bank : Byte) (h0 : R s0 s) :
   Yields (R s0) (execFlashErase bank s) := by
  unfold execFlashErase
  repeat' first
    | with_reducible assumption
    | with_reducible intro t
    | with_reducible apply Yields.next
    | with_reducible apply Yields.ite
    | with_reducible apply h.ite
    | with_reducible apply State.respond_walk h
    | with_reducible apply State.onSec_walk h
    | with_reducible apply State.onSide_walk h
    | dsimp only
    | split

theorem execFlashWrite_walk (h : Respects R) (bank : Byte) (offset : BitVec 32) (data : Line) (h0 : R s0 s) :
   Yields (R s0) (execFlashWrite bank offset data s) := by
  unfold execFlashWrite
  repeat' first
    | with_reducible assumption
    | with_reducible intro t
    | with_reducible apply Yields.next
    | with_reducible apply Yields.ite
    | with_reducible apply h.ite
    | with_reducible apply State.respond_walk h
    | with_reducible apply State.onSide_walk h
    | dsimp only
    | split

theorem execFlashRead_walk (h : Respects R) (bank : Byte) (offset : BitVec 32) (h0 : R s0 s) :
   Yields (R s0) (execFlashRead bank offset s) := by
  unfold execFlashRead
  repeat' first
    | with_reducible assumption
    | with_reducible apply Yields.next
    | with_reducible apply Yields.ite
    | with_reducible apply h.ite
    | with_reducible apply State.respond_walk h
    | dsimp only
    | split

theorem execEnec_walk (h : Respects R) (events : Byte) (h0 : R s0 s) :
   Yields (R s0) (execEnec events s) := by
  unfold execEnec
  repeat' first
    | with_reducible assumption
    | with_reducible intro t
    | with_reducible apply Yields.next
    | with_reducible apply Yields.ite
    | with_reducible apply h.ite
    | with_reducible apply State.onSide_walk h
    | dsimp only
    | split

theorem execDisec_walk (h : Respects R) (events : Byte) (h0 : R s0 s) :
   Yields (R s0) (execDisec events s) := by
  unfold execDisec
  repeat' first
    | with_reducible assumption
    | with_reducible intro t
    | with_reducible apply Yields.next
    | with_reducible apply Yields.ite
    | with_reducible apply h.ite
    | with_reducible apply State.onSide_walk h
    | dsimp only
    | split

theorem execRstdaa_walk (h : Respects R) (h0 : R s0 s) :
    Yields (R s0) (execRstdaa s) := by
  unfold execRstdaa
  repeat' first
    | with_reducible assumption
    | with_reducible intro t
    | with_reducible apply Yields.next
    | with_reducible apply Yields.ite
    | with_reducible apply h.ite
    | with_reducible apply State.onSide_walk h
    | dsimp only
    | split

theorem execSetdasa_walk (h : Respects R) (static : BitVec 7) (dynamic : BitVec 7) (h0 : R s0 s) :
   Yields (R s0) (execSetdasa static dynamic s) := by
  unfold execSetdasa
  repeat' first
    | with_reducible assumption
    | with_reducible intro t
    | with_reducible apply Yields.next
    | with_reducible apply Yields.ite
    | with_reducible apply h.ite
    | with_reducible apply State.onSide_walk h
    | dsimp only
    | split

theorem execEntdaa_walk (h : Respects R) (dynamic : BitVec 7) (h0 : R s0 s) :
   Yields (R s0) (execEntdaa dynamic s) := by
  unfold execEntdaa
  repeat' first
    | with_reducible assumption
    | with_reducible intro t
    | with_reducible apply Yields.next
    | with_reducible apply Yields.ite
    | with_reducible apply h.ite
    | with_reducible apply State.onSide_walk h
    | dsimp only
    | split

theorem execGetpid_walk (h : Respects R) (h0 : R s0 s) :
    Yields (R s0) (execGetpid s) := by
  unfold execGetpid
  repeat' first
    | with_reducible assumption
    | with_reducible apply Yields.next
    | with_reducible apply Yields.ite
    | with_reducible apply State.respond_walk h

theorem execGetbcr_walk (h : Respects R) (h0 : R s0 s) :
    Yields (R s0) (execGetbcr s) := by
  unfold execGetbcr
  repeat' first
    | with_reducible assumption
    | with_reducible apply Yields.next
    | with_reducible apply Yields.ite
    | with_reducible apply State.respond_walk h

theorem execGetdcr_walk (h : Respects R) (h0 : R s0 s) :
    Yields (R s0) (execGetdcr s) := by
  unfold execGetdcr
  repeat' first
    | with_reducible assumption
    | with_reducible apply Yields.next
    | with_reducible apply Yields.ite
    | with_reducible apply State.respond_walk h

theorem execGetstatus_walk (h : Respects R) (h0 : R s0 s) :
    Yields (R s0) (execGetstatus s) := by
  unfold execGetstatus
  repeat' first
    | with_reducible assumption
    | with_reducible apply Yields.next
    | with_reducible apply Yields.ite
    | with_reducible apply State.respond_walk h

theorem execInBandInterrupt_walk (h : Respects R) (event : Byte) (taken : Bool) (h0 : R s0 s) :
   Yields (R s0) (execInBandInterrupt event taken s) := by
  unfold execInBandInterrupt
  repeat' first
    | with_reducible assumption
    | with_reducible intro t
    | with_reducible apply Yields.next
    | with_reducible apply Yields.ite
    | with_reducible apply h.ite
    | with_reducible apply State.event_walk h
    | with_reducible apply State.onSide_walk h
    | with_reducible apply State.emit_walk h
    | dsimp only
    | split

end Sys2Proof.Machine
end

