-- ==== Sys2Proof/Laws/WalkTiles.lean ====
section
/-! SUPPORT. What each operation of Machine/Tiles.lean can do: it walks through the primitive changes of `Respects`. -/

set_option linter.unusedTactic false
set_option linter.unreachableTactic false

namespace Sys2Proof.Machine

variable {R : State → State → Prop} {s0 s : State}

theorem State.bundleAbort_walk (h : Respects R) (sl : Nat) (ti : Nat) (slot : Nat) (cause : Nat) (h0 : R s0 s) :
   R s0 (s.bundleAbort sl ti slot cause) := by
  unfold State.bundleAbort
  repeat' first
    | with_reducible assumption
    | with_reducible apply State.bundleFault_walk h
    | with_reducible apply State.faultSlice_walk h

theorem State.operationAbort_walk (h : Respects R) (sl : Nat) (ti : Nat) (slot : Nat) (cause : Nat) (h0 : R s0 s) :
   R s0 (s.operationAbort sl ti slot cause) := by
  unfold State.operationAbort
  repeat' first
    | with_reducible assumption
    | with_reducible apply State.bundleFault_walk h
    | with_reducible apply State.setTile_walk h

theorem State.startOp_walk (h : Respects R) (sl : Nat) (ti : Nat) (slot : Nat) (issue : Nat) (span : Nat) (kind : OpKind) (posts : List Nat) (h0 : R s0 s) :
   R s0 (s.startOp sl ti slot issue span kind posts) := by
  unfold State.startOp
  repeat' first
    | with_reducible assumption
    | with_reducible apply State.setTile_walk h

theorem State.issueSlot_walk (h : Respects R) (t : TileRef) (slot : Nat) (spelled : Nat → BitVec 256 → Bool)
    {go : State → Nat → Nat → Tile → State} (hg : ∀ u a b x, R s0 u → R s0 (go u a b x)) (h0 : R s0 s) :
    R s0 (s.issueSlot t slot spelled go) := by
  unfold State.issueSlot
  have ht := State.runSlice_walk h t.slice.toNat h0
  refine h.ite ht ?_
  split
  · exact State.bundleAbort_walk h _ _ _ _ ht
  · exact h.ite (hg _ _ _ _ ht) ht

theorem State.control_walk (h : Respects R) (t : TileRef) (spelled : BitVec 256 → Bool) (f : Tile → TileCtl) (h0 : R s0 s) :
   R s0 (s.control t spelled f) := by
  unfold State.control
  repeat' first
    | with_reducible assumption
    | with_reducible apply h.ite
    | with_reducible apply State.runSlice_walk h
    | with_reducible apply State.bundleAbort_walk h
    | with_reducible apply State.setTile_walk h
    | dsimp only
    | split

theorem execNop_walk (h : Respects R) (t : TileRef) (wait : BitVec 12) (bits : List BitErrors) (h0 : R s0 s) :
   Yields (R s0) (execNop t wait bits s) := by
  unfold execNop
  repeat' first
    | with_reducible assumption
    | with_reducible intro t
    | with_reducible apply Yields.next
    | with_reducible apply Yields.ite
    | with_reducible apply State.control_walk h

theorem execSetar_walk (h : Respects R) (t : TileRef) (wait : BitVec 12) (ar : BitVec 4) (value : BitVec 20) (stride : BitVec 20) (zero : BitVec 4) (bits : List BitErrors) (h0 : R s0 s) :
   Yields (R s0) (execSetar t wait ar value stride zero bits s) := by
  unfold execSetar
  repeat' first
    | with_reducible assumption
    | with_reducible intro t
    | with_reducible apply Yields.next
    | with_reducible apply Yields.ite
    | with_reducible apply State.control_walk h

theorem execLoop_walk (h : Respects R) (t : TileRef) (wait : BitVec 12) (count : BitVec 16) (halfLen : BitVec 4) (zero : BitVec 28) (bits : List BitErrors) (h0 : R s0 s) :
   Yields (R s0) (execLoop t wait count halfLen zero bits s) := by
  unfold execLoop
  repeat' first
    | with_reducible assumption
    | with_reducible intro t
    | with_reducible apply Yields.next
    | with_reducible apply Yields.ite
    | with_reducible apply h.ite
    | with_reducible apply State.control_walk h
    | with_reducible apply State.count_walk h
    | dsimp only
    | split

theorem execTileEnd_walk (h : Respects R) (t : TileRef) (wait : BitVec 12) (bits : List BitErrors) (h0 : R s0 s) :
   Yields (R s0) (execTileEnd t wait bits s) := by
  unfold execTileEnd
  repeat' first
    | with_reducible assumption
    | with_reducible intro t
    | with_reducible apply Yields.next
    | with_reducible apply Yields.ite
    | with_reducible apply State.control_walk h

theorem execMma_walk (h : Respects R) (t : TileRef) (f : MmaSlot) (h0 : R s0 s) :
   Yields (R s0) (execMma t f s) := by
  unfold execMma
  repeat' first
    | with_reducible assumption
    | with_reducible intro t
    | with_reducible apply Yields.next
    | with_reducible apply Yields.ite
    | with_reducible apply h.ite
    | with_reducible apply State.issueSlot_walk h
    | with_reducible apply State.operationAbort_walk h
    | with_reducible apply State.startOp_walk h
    | dsimp only
    | split

theorem execClear_walk (h : Respects R) (t : TileRef) (f : AccSlot) (h0 : R s0 s) :
   Yields (R s0) (execClear t f s) := by
  unfold execClear
  repeat' first
    | with_reducible assumption
    | with_reducible intro t
    | with_reducible apply Yields.next
    | with_reducible apply Yields.ite
    | with_reducible apply State.issueSlot_walk h
    | with_reducible apply State.startOp_walk h

theorem execLoad_walk (h : Respects R) (t : TileRef) (f : AccSlot) (h0 : R s0 s) :
   Yields (R s0) (execLoad t f s) := by
  unfold execLoad
  repeat' first
    | with_reducible assumption
    | with_reducible intro t
    | with_reducible apply Yields.next
    | with_reducible apply Yields.ite
    | with_reducible apply State.issueSlot_walk h
    | with_reducible apply State.startOp_walk h

theorem execStore_walk (h : Respects R) (t : TileRef) (f : AccSlot) (h0 : R s0 s) :
   Yields (R s0) (execStore t f s) := by
  unfold execStore
  repeat' first
    | with_reducible assumption
    | with_reducible intro t
    | with_reducible apply Yields.next
    | with_reducible apply Yields.ite
    | with_reducible apply h.ite
    | with_reducible apply State.issueSlot_walk h
    | with_reducible apply State.startOp_walk h
    | with_reducible apply State.operationAbort_walk h
    | dsimp only
    | split

theorem State.startXfer_walk (h : Respects R) (t : TileRef) (op : Nat) (f : XferSlot) (kind : Nat → Nat → Nat → OpKind) (h0 : R s0 s) :
   R s0 (s.startXfer t op f kind) := by
  unfold State.startXfer
  repeat' first
    | with_reducible assumption
    | with_reducible intro t
    | with_reducible apply h.ite
    | with_reducible apply State.issueSlot_walk h
    | with_reducible apply State.operationAbort_walk h
    | with_reducible apply State.startOp_walk h
    | dsimp only
    | split

theorem execToCs_walk (h : Respects R) (t : TileRef) (f : XferSlot) (h0 : R s0 s) :
   Yields (R s0) (execToCs t f s) := by
  unfold execToCs
  repeat' first
    | with_reducible assumption
    | with_reducible intro t
    | with_reducible apply Yields.next
    | with_reducible apply Yields.ite
    | with_reducible apply State.startXfer_walk h

theorem execFromCs_walk (h : Respects R) (t : TileRef) (f : XferSlot) (h0 : R s0 s) :
   Yields (R s0) (execFromCs t f s) := by
  unfold execFromCs
  repeat' first
    | with_reducible assumption
    | with_reducible intro t
    | with_reducible apply Yields.next
    | with_reducible apply Yields.ite
    | with_reducible apply State.startXfer_walk h

end Sys2Proof.Machine
end

