-- ==== Sys2Proof/Laws/WalkVector.lean ====
section
/-! SUPPORT. What each operation of Machine/Vector.lean can do: it walks through the primitive changes of `Respects`. -/

set_option linter.unusedTactic false
set_option linter.unreachableTactic false

namespace Sys2Proof.Machine

variable {R : State → State → Prop} {s0 s : State}

theorem State.startLane_walk (h : Respects R) (t : TileRef) (spelled : Nat → BitVec 256 → Bool) (issue : Nat) (lat : Nat) (g : Tile → Nat → Nat → List (Nat × VReg) × VFlags) (h0 : R s0 s) :
   R s0 (s.startLane t spelled issue lat g) := by
  unfold State.startLane
  repeat' first
    | with_reducible assumption
    | with_reducible intro t
    | with_reducible apply State.issueSlot_walk h
    | with_reducible apply State.startOp_walk h

theorem fp32Lane_walk (h : Respects R) (t : TileRef) (op : Nat) (f : LaneSlot) (g : Nat → Nat → Nat → VOut) (h0 : R s0 s) :
   Yields (R s0) (fp32Lane t op f g s) := by
  unfold fp32Lane
  repeat' first
    | with_reducible assumption
    | with_reducible apply Yields.next
    | with_reducible apply Yields.ite
    | with_reducible apply State.startLane_walk h

theorem bf16Lane_walk (h : Respects R) (t : TileRef) (op : Nat) (f : LaneSlot) (g : Nat → Nat → Nat → VOut) (h0 : R s0 s) :
   Yields (R s0) (bf16Lane t op f g s) := by
  unfold bf16Lane
  repeat' first
    | with_reducible assumption
    | with_reducible apply Yields.next
    | with_reducible apply Yields.ite
    | with_reducible apply State.startLane_walk h

theorem intLane_walk (h : Respects R) (t : TileRef) (op : Nat) (f : LaneSlot) (g : Nat → Nat → Nat) (h0 : R s0 s) :
   Yields (R s0) (intLane t op f g s) := by
  unfold intLane
  repeat' first
    | with_reducible assumption
    | with_reducible intro t
    | with_reducible apply Yields.next
    | with_reducible apply Yields.ite
    | with_reducible apply State.startLane_walk h

theorem execFadd_walk (h : Respects R) (t : TileRef) (f : LaneSlot) (h0 : R s0 s) :
   Yields (R s0) (execFadd t f s) := by
  unfold execFadd
  repeat' first
    | with_reducible assumption
    | with_reducible intro t
    | with_reducible apply Yields.next
    | with_reducible apply Yields.ite
    | with_reducible apply fp32Lane_walk h

theorem execFsub_walk (h : Respects R) (t : TileRef) (f : LaneSlot) (h0 : R s0 s) :
   Yields (R s0) (execFsub t f s) := by
  unfold execFsub
  repeat' first
    | with_reducible assumption
    | with_reducible intro t
    | with_reducible apply Yields.next
    | with_reducible apply Yields.ite
    | with_reducible apply fp32Lane_walk h

theorem execFmul_walk (h : Respects R) (t : TileRef) (f : LaneSlot) (h0 : R s0 s) :
   Yields (R s0) (execFmul t f s) := by
  unfold execFmul
  repeat' first
    | with_reducible assumption
    | with_reducible intro t
    | with_reducible apply Yields.next
    | with_reducible apply Yields.ite
    | with_reducible apply fp32Lane_walk h

theorem execFma_walk (h : Respects R) (t : TileRef) (f : LaneSlot) (h0 : R s0 s) :
   Yields (R s0) (execFma t f s) := by
  unfold execFma
  repeat' first
    | with_reducible assumption
    | with_reducible intro t
    | with_reducible apply Yields.next
    | with_reducible apply Yields.ite
    | with_reducible apply fp32Lane_walk h

theorem execFmin_walk (h : Respects R) (t : TileRef) (f : LaneSlot) (h0 : R s0 s) :
   Yields (R s0) (execFmin t f s) := by
  unfold execFmin
  repeat' first
    | with_reducible assumption
    | with_reducible intro t
    | with_reducible apply Yields.next
    | with_reducible apply Yields.ite
    | with_reducible apply fp32Lane_walk h

theorem execFmax_walk (h : Respects R) (t : TileRef) (f : LaneSlot) (h0 : R s0 s) :
   Yields (R s0) (execFmax t f s) := by
  unfold execFmax
  repeat' first
    | with_reducible assumption
    | with_reducible intro t
    | with_reducible apply Yields.next
    | with_reducible apply Yields.ite
    | with_reducible apply fp32Lane_walk h

theorem execFceq_walk (h : Respects R) (t : TileRef) (f : LaneSlot) (h0 : R s0 s) :
   Yields (R s0) (execFceq t f s) := by
  unfold execFceq
  repeat' first
    | with_reducible assumption
    | with_reducible intro t
    | with_reducible apply Yields.next
    | with_reducible apply Yields.ite
    | with_reducible apply fp32Lane_walk h

theorem execFclt_walk (h : Respects R) (t : TileRef) (f : LaneSlot) (h0 : R s0 s) :
   Yields (R s0) (execFclt t f s) := by
  unfold execFclt
  repeat' first
    | with_reducible assumption
    | with_reducible intro t
    | with_reducible apply Yields.next
    | with_reducible apply Yields.ite
    | with_reducible apply fp32Lane_walk h

theorem execFcle_walk (h : Respects R) (t : TileRef) (f : LaneSlot) (h0 : R s0 s) :
   Yields (R s0) (execFcle t f s) := by
  unfold execFcle
  repeat' first
    | with_reducible assumption
    | with_reducible intro t
    | with_reducible apply Yields.next
    | with_reducible apply Yields.ite
    | with_reducible apply fp32Lane_walk h

theorem execSel_walk (h : Respects R) (t : TileRef) (f : LaneSlot) (h0 : R s0 s) :
   Yields (R s0) (execSel t f s) := by
  unfold execSel
  repeat' first
    | with_reducible assumption
    | with_reducible intro t
    | with_reducible apply Yields.next
    | with_reducible apply Yields.ite
    | with_reducible apply h.ite
    | with_reducible apply fp32Lane_walk h
    | dsimp only
    | split

theorem execHadd_walk (h : Respects R) (t : TileRef) (f : LaneSlot) (h0 : R s0 s) :
   Yields (R s0) (execHadd t f s) := by
  unfold execHadd
  repeat' first
    | with_reducible assumption
    | with_reducible intro t
    | with_reducible apply Yields.next
    | with_reducible apply Yields.ite
    | with_reducible apply bf16Lane_walk h

theorem execHsub_walk (h : Respects R) (t : TileRef) (f : LaneSlot) (h0 : R s0 s) :
   Yields (R s0) (execHsub t f s) := by
  unfold execHsub
  repeat' first
    | with_reducible assumption
    | with_reducible intro t
    | with_reducible apply Yields.next
    | with_reducible apply Yields.ite
    | with_reducible apply bf16Lane_walk h

theorem execHmul_walk (h : Respects R) (t : TileRef) (f : LaneSlot) (h0 : R s0 s) :
   Yields (R s0) (execHmul t f s) := by
  unfold execHmul
  repeat' first
    | with_reducible assumption
    | with_reducible intro t
    | with_reducible apply Yields.next
    | with_reducible apply Yields.ite
    | with_reducible apply bf16Lane_walk h

theorem execHfma_walk (h : Respects R) (t : TileRef) (f : LaneSlot) (h0 : R s0 s) :
   Yields (R s0) (execHfma t f s) := by
  unfold execHfma
  repeat' first
    | with_reducible assumption
    | with_reducible intro t
    | with_reducible apply Yields.next
    | with_reducible apply Yields.ite
    | with_reducible apply bf16Lane_walk h

theorem execHmin_walk (h : Respects R) (t : TileRef) (f : LaneSlot) (h0 : R s0 s) :
   Yields (R s0) (execHmin t f s) := by
  unfold execHmin
  repeat' first
    | with_reducible assumption
    | with_reducible intro t
    | with_reducible apply Yields.next
    | with_reducible apply Yields.ite
    | with_reducible apply bf16Lane_walk h

theorem execHmax_walk (h : Respects R) (t : TileRef) (f : LaneSlot) (h0 : R s0 s) :
   Yields (R s0) (execHmax t f s) := by
  unfold execHmax
  repeat' first
    | with_reducible assumption
    | with_reducible intro t
    | with_reducible apply Yields.next
    | with_reducible apply Yields.ite
    | with_reducible apply bf16Lane_walk h

theorem execIadd_walk (h : Respects R) (t : TileRef) (f : LaneSlot) (h0 : R s0 s) :
   Yields (R s0) (execIadd t f s) := by
  unfold execIadd
  repeat' first
    | with_reducible assumption
    | with_reducible intro t
    | with_reducible apply Yields.next
    | with_reducible apply Yields.ite
    | with_reducible apply intLane_walk h

theorem execIsub_walk (h : Respects R) (t : TileRef) (f : LaneSlot) (h0 : R s0 s) :
   Yields (R s0) (execIsub t f s) := by
  unfold execIsub
  repeat' first
    | with_reducible assumption
    | with_reducible intro t
    | with_reducible apply Yields.next
    | with_reducible apply Yields.ite
    | with_reducible apply intLane_walk h

theorem execImul_walk (h : Respects R) (t : TileRef) (f : LaneSlot) (h0 : R s0 s) :
   Yields (R s0) (execImul t f s) := by
  unfold execImul
  repeat' first
    | with_reducible assumption
    | with_reducible intro t
    | with_reducible apply Yields.next
    | with_reducible apply Yields.ite
    | with_reducible apply intLane_walk h

theorem execAnd_walk (h : Respects R) (t : TileRef) (f : LaneSlot) (h0 : R s0 s) :
   Yields (R s0) (execAnd t f s) := by
  unfold execAnd
  repeat' first
    | with_reducible assumption
    | with_reducible intro t
    | with_reducible apply Yields.next
    | with_reducible apply Yields.ite
    | with_reducible apply intLane_walk h

theorem execOr_walk (h : Respects R) (t : TileRef) (f : LaneSlot) (h0 : R s0 s) :
   Yields (R s0) (execOr t f s) := by
  unfold execOr
  repeat' first
    | with_reducible assumption
    | with_reducible intro t
    | with_reducible apply Yields.next
    | with_reducible apply Yields.ite
    | with_reducible apply intLane_walk h

theorem execXor_walk (h : Respects R) (t : TileRef) (f : LaneSlot) (h0 : R s0 s) :
   Yields (R s0) (execXor t f s) := by
  unfold execXor
  repeat' first
    | with_reducible assumption
    | with_reducible intro t
    | with_reducible apply Yields.next
    | with_reducible apply Yields.ite
    | with_reducible apply intLane_walk h

theorem execShl_walk (h : Respects R) (t : TileRef) (f : LaneSlot) (h0 : R s0 s) :
   Yields (R s0) (execShl t f s) := by
  unfold execShl
  repeat' first
    | with_reducible assumption
    | with_reducible intro t
    | with_reducible apply Yields.next
    | with_reducible apply Yields.ite
    | with_reducible apply intLane_walk h

theorem execShr_walk (h : Respects R) (t : TileRef) (f : LaneSlot) (h0 : R s0 s) :
   Yields (R s0) (execShr t f s) := by
  unfold execShr
  repeat' first
    | with_reducible assumption
    | with_reducible intro t
    | with_reducible apply Yields.next
    | with_reducible apply Yields.ite
    | with_reducible apply intLane_walk h

theorem execSra_walk (h : Respects R) (t : TileRef) (f : LaneSlot) (h0 : R s0 s) :
   Yields (R s0) (execSra t f s) := by
  unfold execSra
  repeat' first
    | with_reducible assumption
    | with_reducible intro t
    | with_reducible apply Yields.next
    | with_reducible apply Yields.ite
    | with_reducible apply intLane_walk h

theorem execIceq_walk (h : Respects R) (t : TileRef) (f : LaneSlot) (h0 : R s0 s) :
   Yields (R s0) (execIceq t f s) := by
  unfold execIceq
  repeat' first
    | with_reducible assumption
    | with_reducible intro t
    | with_reducible apply Yields.next
    | with_reducible apply Yields.ite
    | with_reducible apply intLane_walk h

theorem execIclt_walk (h : Respects R) (t : TileRef) (f : LaneSlot) (h0 : R s0 s) :
   Yields (R s0) (execIclt t f s) := by
  unfold execIclt
  repeat' first
    | with_reducible assumption
    | with_reducible intro t
    | with_reducible apply Yields.next
    | with_reducible apply Yields.ite
    | with_reducible apply intLane_walk h

theorem cvtFull_walk (h : Respects R) (t : TileRef) (f : LaneSlot) (code : Nat) (g : Nat → VOut) (h0 : R s0 s) :
   Yields (R s0) (cvtFull t f code g s) := by
  unfold cvtFull
  repeat' first
    | with_reducible assumption
    | with_reducible intro t
    | with_reducible apply Yields.next
    | with_reducible apply Yields.ite
    | with_reducible apply State.startLane_walk h

theorem cvtNarrow_walk (h : Respects R) (t : TileRef) (f : LaneSlot) (code : Nat) (width : Nat) (g : Nat → VOut) (h0 : R s0 s) :
   Yields (R s0) (cvtNarrow t f code width g s) := by
  unfold cvtNarrow
  repeat' first
    | with_reducible assumption
    | with_reducible intro t
    | with_reducible apply Yields.next
    | with_reducible apply Yields.ite
    | with_reducible apply State.startLane_walk h

theorem cvtWiden_walk (h : Respects R) (t : TileRef) (f : LaneSlot) (code : Nat) (width : Nat) (g : Nat → VOut) (h0 : R s0 s) :
   Yields (R s0) (cvtWiden t f code width g s) := by
  unfold cvtWiden
  repeat' first
    | with_reducible assumption
    | with_reducible intro t
    | with_reducible apply Yields.next
    | with_reducible apply Yields.ite
    | with_reducible apply State.startLane_walk h

theorem execCvtFp32ToInt32_walk (h : Respects R) (t : TileRef) (f : LaneSlot) (h0 : R s0 s) :
   Yields (R s0) (execCvtFp32ToInt32 t f s) := by
  unfold execCvtFp32ToInt32
  repeat' first
    | with_reducible assumption
    | with_reducible intro t
    | with_reducible apply Yields.next
    | with_reducible apply Yields.ite
    | with_reducible apply cvtFull_walk h

theorem execCvtInt32ToFp32_walk (h : Respects R) (t : TileRef) (f : LaneSlot) (h0 : R s0 s) :
   Yields (R s0) (execCvtInt32ToFp32 t f s) := by
  unfold execCvtInt32ToFp32
  repeat' first
    | with_reducible assumption
    | with_reducible intro t
    | with_reducible apply Yields.next
    | with_reducible apply Yields.ite
    | with_reducible apply cvtFull_walk h

theorem execCvtFp32ToBf16_walk (h : Respects R) (t : TileRef) (f : LaneSlot) (h0 : R s0 s) :
   Yields (R s0) (execCvtFp32ToBf16 t f s) := by
  unfold execCvtFp32ToBf16
  repeat' first
    | with_reducible assumption
    | with_reducible apply Yields.next
    | with_reducible apply Yields.ite
    | with_reducible apply cvtNarrow_walk h

theorem execCvtBf16ToFp32_walk (h : Respects R) (t : TileRef) (f : LaneSlot) (h0 : R s0 s) :
   Yields (R s0) (execCvtBf16ToFp32 t f s) := by
  unfold execCvtBf16ToFp32
  repeat' first
    | with_reducible assumption
    | with_reducible apply Yields.next
    | with_reducible apply Yields.ite
    | with_reducible apply cvtWiden_walk h

theorem execCvtFp32ToFp16_walk (h : Respects R) (t : TileRef) (f : LaneSlot) (h0 : R s0 s) :
   Yields (R s0) (execCvtFp32ToFp16 t f s) := by
  unfold execCvtFp32ToFp16
  repeat' first
    | with_reducible assumption
    | with_reducible apply Yields.next
    | with_reducible apply Yields.ite
    | with_reducible apply cvtNarrow_walk h

theorem execCvtFp16ToFp32_walk (h : Respects R) (t : TileRef) (f : LaneSlot) (h0 : R s0 s) :
   Yields (R s0) (execCvtFp16ToFp32 t f s) := by
  unfold execCvtFp16ToFp32
  repeat' first
    | with_reducible assumption
    | with_reducible apply Yields.next
    | with_reducible apply Yields.ite
    | with_reducible apply cvtWiden_walk h

theorem execCvtFp32ToE4m3_walk (h : Respects R) (t : TileRef) (f : LaneSlot) (h0 : R s0 s) :
   Yields (R s0) (execCvtFp32ToE4m3 t f s) := by
  unfold execCvtFp32ToE4m3
  repeat' first
    | with_reducible assumption
    | with_reducible apply Yields.next
    | with_reducible apply Yields.ite
    | with_reducible apply cvtNarrow_walk h

theorem execCvtE4m3ToFp32_walk (h : Respects R) (t : TileRef) (f : LaneSlot) (h0 : R s0 s) :
   Yields (R s0) (execCvtE4m3ToFp32 t f s) := by
  unfold execCvtE4m3ToFp32
  repeat' first
    | with_reducible assumption
    | with_reducible apply Yields.next
    | with_reducible apply Yields.ite
    | with_reducible apply cvtWiden_walk h

theorem execCvtFp32ToE5m2_walk (h : Respects R) (t : TileRef) (f : LaneSlot) (h0 : R s0 s) :
   Yields (R s0) (execCvtFp32ToE5m2 t f s) := by
  unfold execCvtFp32ToE5m2
  repeat' first
    | with_reducible assumption
    | with_reducible apply Yields.next
    | with_reducible apply Yields.ite
    | with_reducible apply cvtNarrow_walk h

theorem execCvtE5m2ToFp32_walk (h : Respects R) (t : TileRef) (f : LaneSlot) (h0 : R s0 s) :
   Yields (R s0) (execCvtE5m2ToFp32 t f s) := by
  unfold execCvtE5m2ToFp32
  repeat' first
    | with_reducible assumption
    | with_reducible apply Yields.next
    | with_reducible apply Yields.ite
    | with_reducible apply cvtWiden_walk h

theorem execCvtFp32ToInt8_walk (h : Respects R) (t : TileRef) (f : LaneSlot) (h0 : R s0 s) :
   Yields (R s0) (execCvtFp32ToInt8 t f s) := by
  unfold execCvtFp32ToInt8
  repeat' first
    | with_reducible assumption
    | with_reducible intro t
    | with_reducible apply Yields.next
    | with_reducible apply Yields.ite
    | with_reducible apply cvtNarrow_walk h

theorem execCvtInt8ToFp32_walk (h : Respects R) (t : TileRef) (f : LaneSlot) (h0 : R s0 s) :
   Yields (R s0) (execCvtInt8ToFp32 t f s) := by
  unfold execCvtInt8ToFp32
  repeat' first
    | with_reducible assumption
    | with_reducible intro t
    | with_reducible apply Yields.next
    | with_reducible apply Yields.ite
    | with_reducible apply cvtWiden_walk h

theorem execPerm_walk (h : Respects R) (t : TileRef) (f : LaneSlot) (h0 : R s0 s) :
   Yields (R s0) (execPerm t f s) := by
  unfold execPerm
  repeat' first
    | with_reducible assumption
    | with_reducible intro t
    | with_reducible apply Yields.next
    | with_reducible apply Yields.ite
    | with_reducible apply State.startLane_walk h

theorem execBcast_walk (h : Respects R) (t : TileRef) (f : LaneSlot) (h0 : R s0 s) :
   Yields (R s0) (execBcast t f s) := by
  unfold execBcast
  repeat' first
    | with_reducible assumption
    | with_reducible intro t
    | with_reducible apply Yields.next
    | with_reducible apply Yields.ite
    | with_reducible apply State.startLane_walk h

theorem reduceLane_walk (h : Respects R) (t : TileRef) (op : Nat) (f : LaneSlot) (g : Nat → Nat → VOut) (h0 : R s0 s) :
   Yields (R s0) (reduceLane t op f g s) := by
  unfold reduceLane
  repeat' first
    | with_reducible assumption
    | with_reducible intro t
    | with_reducible apply Yields.next
    | with_reducible apply Yields.ite
    | with_reducible apply State.startLane_walk h

theorem execRsum_walk (h : Respects R) (t : TileRef) (f : LaneSlot) (h0 : R s0 s) :
   Yields (R s0) (execRsum t f s) := by
  unfold execRsum
  repeat' first
    | with_reducible assumption
    | with_reducible intro t
    | with_reducible apply Yields.next
    | with_reducible apply Yields.ite
    | with_reducible apply reduceLane_walk h

theorem execRmax_walk (h : Respects R) (t : TileRef) (f : LaneSlot) (h0 : R s0 s) :
   Yields (R s0) (execRmax t f s) := by
  unfold execRmax
  repeat' first
    | with_reducible assumption
    | with_reducible intro t
    | with_reducible apply Yields.next
    | with_reducible apply Yields.ite
    | with_reducible apply reduceLane_walk h

theorem execRmin_walk (h : Respects R) (t : TileRef) (f : LaneSlot) (h0 : R s0 s) :
   Yields (R s0) (execRmin t f s) := by
  unfold execRmin
  repeat' first
    | with_reducible assumption
    | with_reducible intro t
    | with_reducible apply Yields.next
    | with_reducible apply Yields.ite
    | with_reducible apply reduceLane_walk h

theorem execMxq_walk (h : Respects R) (t : TileRef) (f : LaneSlot) (h0 : R s0 s) :
   Yields (R s0) (execMxq t f s) := by
  unfold execMxq
  repeat' first
    | with_reducible assumption
    | with_reducible intro t
    | with_reducible apply Yields.next
    | with_reducible apply Yields.ite
    | with_reducible apply State.startLane_walk h

theorem transOp_walk (h : Respects R) (t : TileRef) (op : Nat) (f : TransSlot) (g : Nat → VOut) (h0 : R s0 s) :
   Yields (R s0) (transOp t op f g s) := by
  unfold transOp
  repeat' first
    | with_reducible assumption
    | with_reducible intro t
    | with_reducible apply Yields.next
    | with_reducible apply Yields.ite
    | with_reducible apply State.issueSlot_walk h
    | with_reducible apply State.startOp_walk h

theorem execExp_walk (h : Respects R) (t : TileRef) (f : TransSlot) (h0 : R s0 s) :
   Yields (R s0) (execExp t f s) := by
  unfold execExp
  repeat' first
    | with_reducible assumption
    | with_reducible apply Yields.next
    | with_reducible apply Yields.ite
    | with_reducible apply transOp_walk h

theorem execLog_walk (h : Respects R) (t : TileRef) (f : TransSlot) (h0 : R s0 s) :
   Yields (R s0) (execLog t f s) := by
  unfold execLog
  repeat' first
    | with_reducible assumption
    | with_reducible apply Yields.next
    | with_reducible apply Yields.ite
    | with_reducible apply transOp_walk h

theorem execRcp_walk (h : Respects R) (t : TileRef) (f : TransSlot) (h0 : R s0 s) :
   Yields (R s0) (execRcp t f s) := by
  unfold execRcp
  repeat' first
    | with_reducible assumption
    | with_reducible apply Yields.next
    | with_reducible apply Yields.ite
    | with_reducible apply transOp_walk h

theorem execRsqrt_walk (h : Respects R) (t : TileRef) (f : TransSlot) (h0 : R s0 s) :
   Yields (R s0) (execRsqrt t f s) := by
  unfold execRsqrt
  repeat' first
    | with_reducible assumption
    | with_reducible apply Yields.next
    | with_reducible apply Yields.ite
    | with_reducible apply transOp_walk h

theorem execSigmoid_walk (h : Respects R) (t : TileRef) (f : TransSlot) (h0 : R s0 s) :
   Yields (R s0) (execSigmoid t f s) := by
  unfold execSigmoid
  repeat' first
    | with_reducible assumption
    | with_reducible apply Yields.next
    | with_reducible apply Yields.ite
    | with_reducible apply transOp_walk h

theorem execTanh_walk (h : Respects R) (t : TileRef) (f : TransSlot) (h0 : R s0 s) :
   Yields (R s0) (execTanh t f s) := by
  unfold execTanh
  repeat' first
    | with_reducible assumption
    | with_reducible apply Yields.next
    | with_reducible apply Yields.ite
    | with_reducible apply transOp_walk h

theorem execSilu_walk (h : Respects R) (t : TileRef) (f : TransSlot) (h0 : R s0 s) :
   Yields (R s0) (execSilu t f s) := by
  unfold execSilu
  repeat' first
    | with_reducible assumption
    | with_reducible apply Yields.next
    | with_reducible apply Yields.ite
    | with_reducible apply transOp_walk h

theorem execLd_walk (h : Respects R) (t : TileRef) (f : LdstSlot) (h0 : R s0 s) :
   Yields (R s0) (execLd t f s) := by
  unfold execLd
  repeat' first
    | with_reducible assumption
    | with_reducible intro t
    | with_reducible apply Yields.next
    | with_reducible apply Yields.ite
    | with_reducible apply State.issueSlot_walk h
    | with_reducible apply State.startOp_walk h

theorem execSt_walk (h : Respects R) (t : TileRef) (f : LdstSlot) (h0 : R s0 s) :
   Yields (R s0) (execSt t f s) := by
  unfold execSt
  repeat' first
    | with_reducible assumption
    | with_reducible intro t
    | with_reducible apply Yields.next
    | with_reducible apply Yields.ite
    | with_reducible apply State.issueSlot_walk h
    | with_reducible apply State.startOp_walk h

end Sys2Proof.Machine
end

