-- ==== Sys2Proof/Tests/Slice0.lean ====
section
/-! SUPPORT. Tests: ill-formed commands that WellFormed refuses, the spec's worked examples, and, for each statement with
hypotheses, a state and operands that meet them. -/

namespace Sys2Proof.Tests

-- One theorem after another: each kernel evaluation takes a deep stack.
set_option Elab.async false

open Sys2Proof Sys2Proof.Machine Sys2Proof.Certificates

/-! ### States -/

/-- Register fields written one after the other. -/
def fields (s : State) (l : List (Field × Nat × Nat)) : State := l.foldl (fun s e => s.set e.1 e.2.1 e.2.2) s
/-- A number laid out byte by byte: value and byte offset. -/
def laid (l : List (Nat × Nat)) : Nat := (l.map fun e => e.1 * 2 ^ (8 * e.2)).sum
/-- What an entry that both rings carry looks like. -/
def adm : Adm := ⟨1, true, true, false⟩
/-- A released device whose two mailbox pairs run, with a command waiting in each. -/
def live : State := fields State.reset
  [(Reg.rstBootPhase, 0, 6), (Reg.mbxStsEnable, 0, 1), (Reg.mbxStsEnable, 1, 1), (Reg.mbxDbSqTail, 0, 1),
    (Reg.mbxDbSqTail, 1, 1)]
/-- Partition 1 ACTIVE with slice 0 and its channels. -/
def bound : State := fields live
  [(Reg.ptnpCfgState, 1, ptnActive), (Reg.ptnpSlicesSlices, 1, 1), (Reg.ptnpSetsSets, 1, 1), (Reg.pwrSpState, 0, 0)]
/-- A tile of slice 0. -/
def onTile (n : BitVec 3) : TileRef := ⟨0, n⟩
/-- Segment 1 of the image in slot 0, launched, at a segment tick. -/
def segRun (tick : Nat) : SegRun := ⟨0, 1, [], tick, [], [], [], [], []⟩
/-- A bundle word: values at bit offsets. -/
def word (l : List (Nat × Nat)) : BitVec 256 := BitVec.ofNat 256 ((l.map fun e => e.1 * 2 ^ e.2).sum)
/-- Tile `n` of slice 0 runs and has a bundle at issue at segment tick 0. -/
def running (n : Nat) (b : BitVec 256) (t : Tile := .reset) : State :=
  (bound.setSeg 1 (segRun 0)).setTile 0 n { t with busy := true, loopBuf := [(t.index, b)] }
/-- The same with the segment run as far as it goes. -/
def atIssue (n : Nat) (b : BitVec 256) : State := (running n b).runSlice 0
/-- A command of instance 0. -/
def cmd : Cmd where
  inst := 0
  queue := 0
  sqHead := 1
  op := 1
  paced := false
  signalEn := false
  notify := false
  cls := 0
  segment := 1
  image := 0
  argset := 0
  deadline := never
  signalFence := 0
  signalValue := 0
  userTag := 0
  args := []
  objs := []
  fences := []
  seq := 1
  cmdSeq := 1
  tNow := 0
  d := 1000
  m := 0
  mXlat := 0
  switched := false
  tPromise := 3000
  tStart := none
  launch := none
  commit := 0
  phase := .waiting
  voided := none
  causeAt := 0
  withdrawn := false
  stored := []
  reserved := []
  named := []
  openIssued := []
  openDone := []
  allocs := []
  frees := []
  commits := []
  remote := false
/-- An item of a line, placed at 0. -/
def item (k : ItemKind) (started : Option Nat) : Item := ⟨k, 0, 1000, 3000, started, 0⟩
/-- Partition 1's line holds these items. -/
def lined (s : State) (l : List Item) : State := s.setLine 1 { ExecLine.empty with items := l }
/-- A command at the head of partition 1's line. -/
def headed (s : State) (c : Cmd) : State := lined s [item (.command c) (if c.phase = .waiting then none else some 0)]
/-- A segment of 100 ticks. -/
def segment : Segment := ⟨false, 100, [], [], 0, 0, 0, 0, 0, 0⟩
/-- An image of slice 0 with two segments. -/
def content : ImageContent := ⟨false, 64, [0], [segment, segment], [], [], [], [], [], [], [], [], []⟩
/-- A bound image. -/
def imaged (s : State) (c : ImageContent) : State := s.setImage 0 ⟨1, 1, 0, some 0, false, c, 0, 0, 1, 0, false, false, []⟩
/-- A BUFFER of partition 1 at VA 0x10000, 1 MiB, writable. -/
def buffer : MemObj := ⟨1, 1, false, true, false, none, 0x10000, 0x100000, 0, false, 0, 1, 0, 0, false⟩
/-- The buffer's handle. -/
def bufferHandle : Handle := BitVec.ofNat 32 (mkHandle 1 0)
/-- The buffer in slot 0. -/
def buffered (s : State) : State := s.setObj 0 buffer
/-- An instance of partition 1. -/
def ready : Inst := ⟨Is.active, 1, 0, 0, none, false, false, 0, none, none, .empty, none, none⟩
/-- A queue of 16-entry rings with nothing in it. -/
def ring : HostQueue := ⟨0, 0, 0, 0, 0, 0, 0, 0, true, 0, false, none, [], 0⟩

/-! ### Ill-formed commands -/

theorem test_wf_refuses_control_slots :
    [Instr.setar (onTile 0) 0 0 0 0 1 [], .loop (onTile 0) 0 0 0 0 [], .loop (onTile 0) 0 1 0 1 [],
        .tileEnd (onTile 0) 1 []].map Instr.wf =
      List.replicate 4 false := by decide +kernel
/-- Reserved bits, formats that do not exist or do not pair, scales and sparsity without an MX form, and K. -/
theorem test_wf_refuses_mma_slots :
    ([⟨0, 0, 0, false, false, false, 0, 1, false, false, 1, 1⟩, ⟨0, 9, 0, false, false, false, 0, 1, false, false, 0, 1⟩,
      ⟨0, 0, 9, false, false, false, 0, 1, false, false, 0, 1⟩, ⟨0, 8, 0, false, false, false, 0, 1, false, false, 0, 1⟩,
      ⟨0, 0, 3, true, false, false, 0, 1, false, false, 0, 32⟩, ⟨0, 3, 0, false, true, false, 0, 1, false, false, 0, 32⟩,
      ⟨0, 0, 3, false, false, true, 0, 1, false, false, 0, 32⟩, ⟨0, 0, 0, false, false, false, 0, 1, false, false, 0, 0⟩,
      ⟨0, 3, 3, true, true, false, 0, 1, false, false, 0, 31⟩] : List MmaSlot).map MmaSlot.ok = List.replicate 9 false ∧
    (Instr.mma (onTile 6) ⟨0, 0, 0, false, false, false, 0, 1, false, false, 0, 1⟩).wf = false := by decide +kernel
theorem test_wf_refuses_acc_and_xfer_slots :
    ([⟨0, 0, false, 0, false, 1⟩, ⟨0, 1, false, 0, false, 0⟩, ⟨0, 0, true, 0, false, 0⟩, ⟨0, 0, false, 1, false, 0⟩,
      ⟨0, 0, false, 0, true, 0⟩] : List AccSlot).map AccSlot.clearOk = List.replicate 5 false ∧
    ([⟨0, 0, false, 0, false, 1⟩, ⟨0, 2, false, 0, false, 0⟩, ⟨0, 0, true, 0, false, 0⟩] : List AccSlot).map AccSlot.loadOk =
      List.replicate 3 false ∧
    ([⟨0, 0, false, 0, false, 1⟩, ⟨0, 5, false, 0, false, 0⟩] : List AccSlot).map AccSlot.storeOk = List.replicate 2 false ∧
    ([⟨0, 1, false, false, 1, 1⟩, ⟨0, 1, false, false, 0, 0⟩] : List XferSlot).map XferSlot.ok = List.replicate 2 false ∧
    [Instr.clear (onTile 6) ⟨0, 0, false, 0, false, 0⟩, .load (onTile 7) ⟨0, 0, false, 0, false, 0⟩,
      .store (onTile 6) ⟨0, 0, false, 0, false, 0⟩].map Instr.wf = List.replicate 3 false := by decide +kernel
theorem test_wf_refuses_lane_slots :
    ([⟨true, false, 1, 2, 3, 0, 0⟩, ⟨false, false, 1, 2, 3, 4, 0⟩, ⟨false, true, 1, 2, 3, 0, 5⟩, ⟨false, false, 1, 2, 3, 0, 5⟩] :
      List LaneSlot).map (LaneSlot.okData · false false) = List.replicate 4 false ∧
    LaneSlot.okData ⟨false, true, 1, 2, 0, 0, 0x10000⟩ false true = false ∧
    ([⟨false, true, 1, 2, 0, 0, 1⟩, ⟨false, false, 1, 2, 3, 0, 1⟩, ⟨false, false, 1, 2, 0, 3, 1⟩, ⟨true, false, 1, 2, 0, 0, 1⟩,
      ⟨false, false, 1, 2, 0, 0, 2⟩, ⟨false, false, 1, 2, 0, 0, 0x101⟩] : List LaneSlot).map (LaneSlot.okCvt · 1 1 false) =
      List.replicate 6 false ∧
    ([⟨true, false, 1, 2, 3, 0, 0⟩, ⟨false, true, 1, 2, 3, 0, 0⟩, ⟨false, false, 1, 2, 3, 1, 0⟩, ⟨false, false, 1, 2, 3, 0, 1⟩] :
      List LaneSlot).map LaneSlot.okPerm = List.replicate 4 false ∧
    ([⟨true, false, 1, 2, 0, 0, 0⟩, ⟨false, true, 1, 2, 0, 0, 0⟩, ⟨false, false, 1, 2, 1, 0, 0⟩, ⟨false, false, 1, 2, 0, 1, 0⟩,
      ⟨false, false, 1, 2, 0, 0, 512⟩] : List LaneSlot).map LaneSlot.okBcast = List.replicate 5 false ∧
    ([⟨true, false, 1, 2, 0, 0, 0⟩, ⟨false, true, 1, 2, 0, 0, 0⟩, ⟨false, false, 1, 2, 1, 0, 0⟩, ⟨false, false, 1, 2, 0, 1, 0⟩,
      ⟨false, false, 1, 2, 0, 0, 1⟩] : List LaneSlot).map LaneSlot.okReduce = List.replicate 5 false ∧
    ([⟨true, false, 1, 2, 0, 3, 3⟩, ⟨false, true, 1, 2, 0, 3, 3⟩, ⟨false, false, 1, 2, 1, 3, 3⟩, ⟨false, false, 1, 2, 0, 1, 3⟩,
      ⟨false, false, 1, 2, 0, 3, 2⟩, ⟨false, false, 1, 2, 0, 3, 8⟩] : List LaneSlot).map LaneSlot.okMxq = List.replicate 6 false ∧
    TransSlot.ok ⟨1, 2, 1⟩ = false ∧ LdstSlot.ok ⟨1, 2, false, 1⟩ = false ∧
    (Instr.iadd (onTile 5) ⟨false, false, 1, 2, 3, 0, 0⟩).wf = false := by decide +kernel
theorem test_wf_refuses_units_that_do_not_exist :
    portOk 6 = false ∧ channelOk 768 = false ∧ engineOk 24 = false ∧ evcOk 68 0 = false := by decide +kernel

/-! ### Worked examples of the spec -/

/-- Chapter 3's example: an MXFP4 weight matrix takes 20,480 issue ticks, and 20,556 ticks at the
assured rate are 34,548 ns. -/
theorem test_mma_ticks_and_assured_time :
    mmaTicks ⟨0, 7, 3, true, true, false, 0, 1, false, false, 0, 20480⟩ = 20480 ∧ Config.assuredNs 20556 = 34548 ∧
    Config.assuredNs 1234567 = 2074903 := by decide +kernel
/-- Chapter 7's example: stack channel 3 of engine 7, row 62,500, and its XTS number. -/
theorem test_dpa_of_engine_line :
    mkDpa (engineChannel 7 3) 62500 = 0x71803D0900 ∧ mkDpa (engineChannel 7 3) 62500 / 64 = 0x1C600F424 ∧
    chIndex (engineChannel 7 3) = 11 := by decide +kernel
/-- R205: rows that a slice offers on either ordering code. -/
theorem test_offered_lines :
    ((sliceChannels 0).map State.reset.offeredRows).sum = 297795584 ∧
    ((sliceChannels 0).map (State.reset.set Reg.glbInfoOrderCode 0 1).offeredRows).sum = 197132288 ∧
    State.reset.offeredRows 0 = State.reset.channelLines - 349526 := by decide +kernel
/-- Chapter 18's example: the pages of channel 500 and of router 5 of die 1, and BLK_ID. -/
theorem test_page_addresses :
    mchPage 500 * 0x1000 = 0xD74000 ∧ clusterPage 21 7 * 0x1000 = 0x83F000 ∧
    State.reset.pageWord (mchPage 500) 0 = 0x2900742000000001 := by decide +kernel
/-- Chapter 14's example at 50 µs: the window expires, and the claim returns source 40 with COUNT 6. -/
theorem test_evc_claim_returns_count :
    let s := bound.setEvc 9 { Evc.reset with
      groupBits := 3, mask := false
      sources := ⟨[(40, ⟨true, 0xA0, 8, 50, 6, true, false, 0⟩), (41, ⟨true, 0xA4, 1, 0, 0, true, false, 0⟩)]⟩ }
    (match exec (.evcTimeExpiry 9 40) s with
      | .next t => match exec (.evcClaim 9 (.sequencer 9)) t with
        | .next u => decide (u.out = [.coreRead (BitVec.ofNat 64 (6 * 2 ^ 32 + 40))] ∧ (u.evc 9).stack = [(40, 0xA0)] ∧ t.now = 50000)
        | _ => false
      | _ => false) = true := by decide +kernel


/-! ### States and operands that meet the statements' hypotheses -/

/-- LANE slots: three registers, two, and an immediate, at the greatest values. -/
def lanes (op : Nat) : List (LaneSlot × BitVec 256) :=
  [(⟨false, false, 1, 2, 3, 63, 0⟩, word [(op, 122), (1, 114), (2, 108), (3, 102), (63, 96)]),
    (⟨false, false, 63, 62, 61, 0, 0⟩, word [(op, 122), (63, 114), (62, 108), (61, 102)]),
    (⟨false, true, 63, 63, 0, 0, 0xFFFF⟩, word [(op, 122), (1, 120), (63, 114), (63, 108), (0xFFFF, 64)])]
theorem witness_LaneIntegerOperations :
    [0x20, 0x21, 0x22, 0x23, 0x24, 0x25, 0x26, 0x27, 0x28, 0x29, 0x2A].all (fun op => ((lanes op).drop 1).all fun e =>
      decide (LaneAt (atIssue 6 e.2) (onTile 6) e.1 op)) = true := by decide +kernel
theorem witness_LaneFloatOperations :
    [0x01, 0x02, 0x03, 0x05, 0x06, 0x07, 0x08, 0x09, 0x10, 0x11, 0x12, 0x14, 0x15].all (fun op => ((lanes op).drop 1).all fun e =>
      decide (LaneAt (atIssue 7 e.2) (onTile 7) e.1 op)) = true ∧
    [0x04, 0x0A, 0x13].all (fun op => ((lanes op).take 1).all fun e =>
      decide (LaneAt (atIssue 7 e.2) (onTile 7) e.1 op)) = true := by decide +kernel
/-- Each conversion at the last part of its source, and with SAT where it has one. -/
theorem witness_LaneConversions :
    [(0x00, 1, false), (0x01, 1, false), (0x02, 1, true), (0x03, 2, false), (0x04, 1, true), (0x05, 2, false), (0x06, 1, true),
      (0x07, 4, false), (0x08, 1, true), (0x09, 4, false), (0x0A, 1, false), (0x0B, 4, false)].all (fun e =>
        decide (CvtAt (atIssue 6 (word [(0x30, 122), (bit01 e.2.2, 121), (1, 114), (2, 108), (e.1 + 256 * (e.2.1 - 1), 64)])) (onTile 6)
          ⟨e.2.2, false, 1, 2, 0, 0, BitVec.ofNat 32 (e.1 + 256 * (e.2.1 - 1))⟩ e.1)) = true := by decide +kernel
/-- PERM, BCAST of the last lane, the reductions, MXQ of the formats at the ends of its range, and the transcendental codes. -/
theorem witness_LaneShufflesReductionsAndTrans :
    LaneAt (atIssue 7 (word [(0x31, 122), (1, 114), (2, 108), (3, 102)])) (onTile 7) ⟨false, false, 1, 2, 3, 0, 0⟩ 0x31 ∧
    LaneAt (atIssue 7 (word [(0x32, 122), (1, 114), (2, 108), (511, 64)])) (onTile 7) ⟨false, false, 1, 2, 0, 0, 511⟩ 0x32 ∧
    [0x38, 0x39, 0x3A].all (fun op => decide (LaneAt (atIssue 7 (word [(op, 122), (1, 114), (2, 108)])) (onTile 7)
      ⟨false, false, 1, 2, 0, 0, 0⟩ op)) = true ∧
    [3, 7].all (fun k => decide (LaneAt (atIssue 7 (word [(0x3C, 122), (1, 114), (2, 108), (4, 96), (k, 64)])) (onTile 7)
      ⟨false, false, 1, 2, 0, 4, BitVec.ofNat 32 k⟩ 0x3C)) = true ∧
    [1, 2, 3, 4, 5, 6, 7].all (fun op => decide (TransAt (atIssue 6 (word [(op, 156), (63, 150), (2, 144)])) (onTile 6)
      ⟨63, 2, 0⟩ op)) = true := by decide +kernel
/-- Control slots, a LOOP that its own loop's return reaches again, and one that would lie in two others. -/
theorem witness_TileControlSlots :
    [word [(0xFFF, 48)], word [(1, 60), (5, 48), (15, 44), (0xFFFFF, 24), (0xFFFFF, 4)],
        word [(2, 60), (0xFFFF, 32), (15, 28)], word [(3, 60)]].all (fun e =>
      let s := atIssue 0 e; let x := s.tile 0 0; s.atIssue 0 0 && decide (x.breach false = none) && decide (x.word = e) &&
        (Machine.slotsOf false x.word).all x.started.contains) = true ∧
    spellsNop 0xFFF (word [(0xFFF, 48)]) = true ∧
    spellsSetar 5 15 0xFFFFF 0xFFFFF 0 (word [(1, 60), (5, 48), (15, 44), (0xFFFFF, 24), (0xFFFFF, 4)]) = true ∧
    spellsLoop 0 0xFFFF 15 0 (word [(2, 60), (0xFFFF, 32), (15, 28)]) = true ∧ spellsEnd 0 (word [(3, 60)]) = true := by
  decide +kernel
theorem witness_TileControlSlots_loops :
    (let s := (running 0 (word [(2, 60), (3, 32)]) { Tile.reset with returned := true, loops := [⟨0, 2, 1⟩] }).runSlice 0;
      s.atIssue 0 0 = true ∧ (s.tile 0 0).returned = true ∧ (s.tile 0 0).breach false = none) ∧
    (let s := (running 0 (word [(2, 60), (3, 32)]) { Tile.reset with loops := [⟨0, 4, 1⟩, ⟨0, 8, 1⟩] }).runSlice 0;
      s.atIssue 0 0 = true ∧ (s.tile 0 0).breach false = some (0, Bf.illegal)) := by decide +kernel
theorem witness_TileControlSlots_setar :
    let c : TileCtl := ⟨4095, some (15, ⟨7, 9⟩), none, false, []⟩; c.setar = some (15, ⟨7, 9⟩) ∧ 15 < Tile.reset.ars.length := by
  decide +kernel
/-- A SETAR whose bundle also posts the register it names, which it overrides (R103). -/
theorem test_setar_overrides_post :
    let x := { Tile.reset with posts := [15, 15, 3], ars := Tile.reset.ars.set 3 ⟨0xFFFFF, 2⟩ }
    let y := x.advance ⟨4, some (15, ⟨7, 9⟩), none, false, []⟩
    y.ar 15 = ⟨7, 9⟩ ∧ y.ar 3 = ⟨1, 2⟩ ∧ y.tick = 5 ∧ y.index = 1 := by decide +kernel
/-- An uncorrectable error of a graver tile's SRAM faults the owner with code 0x0001 (R60, R483); a corrected one counts. -/
theorem test_bit_errors :
    (let s := bound.bitErrors 0 7 (.uncorrectable false);
      s.get Reg.vecStsEccUncorr 1 = 1 ∧ s.get Reg.ptnpFaultFaultCode 1 = 1 ∧ s.ptnState 1 = ptnFaulted) ∧
    (bound.bitErrors 0 5 (.corrected false)).get Reg.mtxStsEccCorr 5 = 1 ∧
    (bound.bitErrors 0 5 (.corrected true)).get Reg.clsStsStoreEccCorr 0 = 1 := by decide +kernel
/-- Matrix and accumulator slots at their first and last fields, transfers at the cluster store's last line and one past it, and a
bank in the other mode. -/
theorem witness_TileMatrixTransferAndLoadStoreSlots :
    (let s := atIssue 5 (word [(1, 124), (1, 64)]); AtSlot s (onTile 5) 1 (spellsMma ⟨0, 0, 0, false, false, false, 0, 0, false, false, 0, 1⟩) ∧
      (s.tile 0 5).intMode.contains 0 = decide ((0 : BitVec 4) = 8)) ∧
    (let s := atIssue 0 (word [(1, 124), (3, 122), (8, 118), (8, 114), (15, 107), (14, 103), (1, 102), (1, 101), (0xFFFF, 64)]);
      AtSlot s (onTile 0) 1 (spellsMma ⟨3, 8, 8, false, false, false, 15, 14, true, true, 0, 0xFFFF⟩) ∧
      (s.tile 0 0).intMode.contains 3 ≠ decide ((8 : BitVec 4) = 8)) ∧
    AtSlot (atIssue 0 (word [(1, 188), (9, 182)])) (onTile 0) 2 (spellsAcc 1 ⟨0, 9, false, 0, false, 0⟩) ∧
    AtSlot (atIssue 0 (word [(2, 188), (9, 182), (15, 177), (1, 176)])) (onTile 0) 2 (spellsAcc 2 ⟨0, 9, false, 15, true, 0⟩) ∧
    (let s := atIssue 0 (word [(3, 188), (4, 182), (1, 181), (15, 177), (1, 176)]);
      AtSlot s (onTile 0) 2 (spellsAcc 3 ⟨0, 4, true, 15, true, 0⟩) ∧ storeSuits ((s.tile 0 0).intMode.contains 0) 4 = true) ∧
    storeSuits true 4 = false ∧
    (∀ op ∈ [1, 2], ∀ n ∈ [0, 6],
      let s := atIssue n (word [(op, 252), (1, 244), (1, 242), (0xFFFF, 192)]);
      AtSlot s ⟨0, BitVec.ofNat 3 n⟩ (xferSlot n) (fun _ b => spellsXfer op ⟨0, 1, false, true, 0, 0xFFFF⟩ b) ∧
      ((s.tile 0 n).ar 1).value + 0xFFFF ≤ 98304) ∧
    (let x := { Tile.reset with ars := Tile.reset.ars.set 1 ⟨98304 - 0xFFFF, 1⟩ };
      ((running 0 0 x).tile 0 0 |>.ar 1).value + 0xFFFF ≤ 98304) ∧
    (let x := { Tile.reset with ars := Tile.reset.ars.set 1 ⟨98305 - 0xFFFF, 1⟩ };
      98304 < ((running 0 0 x).tile 0 0 |>.ar 1).value + 0xFFFF) ∧
    AtSlot (atIssue 6 (word [(1, 190), (63, 184), (15, 180), (1, 179)])) (onTile 6) 3 (spellsLdst 1 ⟨63, 15, true, 0⟩) ∧
    AtSlot (atIssue 6 (word [(2, 190), (63, 184), (15, 180), (1, 179)])) (onTile 6) 3 (spellsLdst 2 ⟨63, 15, true, 0⟩) := by
  decide +kernel
/-- A tile whose slot asks for a unit in use: the lowest such slot is recorded (R128, R131). -/
theorem test_unit_busy :
    ({ Tile.reset with
      tick := 1, loopBuf := [(0, word [(0x01, 122), (1, 114), (1, 190)])]
      ops := [⟨1, 0, 0, 9, 99, .vec 99 [] 0⟩, ⟨3, 0, 0, 9, 99, .vec 99 [] 0⟩] } : Tile).breach true = some (1, Bf.unitBusy) := by
  decide +kernel

/-- An image whose segment 1 has one stream of one line of slice 0 in the buffer. -/
def streamed : ImageContent := { content with
  streams := [BitVec.ofNat 512 (laid [(1, 4), (0xFF, 0xB), (1, 0xC), (0x10000, 0x10), (1, 0x18), (1, 0x1C), (1, 0x20)])] }
/-- A command over the buffer, in its translation phase. -/
def translatingCmd : Cmd := { cmd with phase := .translating, launch := some 0, objs := [⟨bufferHandle, 1, 1⟩] }
theorem witness_CommandLaunchAndTranslation :
    (let s := headed (imaged bound content) cmd;
      s.headCmd 1 = some cmd ∧ cmd.phase = .waiting ∧ s.atSeam 1 = true ∧ s.mayStart 1 = true) ∧
    (let c := { cmd with op := 2, tStart := some 500 }; (headed bound c).headCmd 1 = some c ∧ (headed bound c).atSeam 1 = true ∧
      (headed bound c).mayStart 1 = true ∧ c.tStart = some 500) ∧
    (let c := { translatingCmd with op := 2, tStart := some 500 }; (headed bound c).headCmd 1 = some c ∧ c.phase = .translating) ∧
    (let s := headed (buffered (imaged bound streamed)) translatingCmd;
      s.translating 1 = some translatingCmd ∧ (match ((s.pinHits 1 translatingCmd).chainNeed 1 translatingCmd 0).next with | .walk _ _ => true | _ => false) = true) ∧
    (let c := { translatingCmd with objs := [] }; let s := headed (buffered (imaged bound streamed)) c;
      s.translating 1 = some c ∧ (match ((s.pinHits 1 c).chainNeed 1 c 0).next with | .stop _ _ => true | _ => false) = true) ∧
    (let s := headed (imaged bound content) translatingCmd;
      (match ((s.pinHits 1 translatingCmd).chainNeed 1 translatingCmd 0).next with | .done => true | _ => false) = true ∧ s.walkBad [] 1 0 = none) ∧
    (let c := { cmd with phase := .loading }; let s := (headed (imaged bound content) c).runSeg 1;
      s.headCmd 1 = some c ∧ s.segIdle 1 = true ∧ (s.host.images.find c.image).isSome = true) ∧
    (let s := lined bound [item (.direct 0 1 100) none];
      (s.line 1).items = [item (.direct 0 1 100) none] ∧ s.atSeam 1 = true ∧ s.mayStart 1 = true) := by decide +kernel
theorem witness_CommitReleaseOverrunAndSeam :
    (∀ op ∈ [1, 2], let c := { cmd with phase := .running, op := op };
      let s := ((headed (imaged bound content) c).setSeg 1 (segRun 100)).runSeg 1; s.headCmd 1 = some c ∧ s.runDone 1 c = true) ∧
    (bound.setLine 1 { ExecLine.empty with held := [{ cmd with phase := .held, paced := true }] } |>.line 1).held ≠ [] ∧
    (((headed bound cmd).line 1).cmds.filter fun c => c.voided.isNone && !c.withdrawn && !c.remote).map Cmd.tPromise = [3000] ∧
    (let it := item (.unbind 0 none) (some 5); (lined bound [it]).headItem 1 = some it ∧ it.started = some 5 ∧ it.cmd = none ∧
      it.isDebug = false) ∧
    (bound.setLine 1 { ExecLine.empty with killed := [(cmd, ⟨3, .fault, 0, none, 0⟩)] } |>.line 1).killed ≠ [] ∧
    (let s := headed bound cmd; (s.line 1).killed = [] ∧ (s.line 1).items.all (fun it => it.started.isNone) = true) := by
  decide +kernel
/-- Every kind of item at the head of a line at a seam, an alloy membership with a tree, and a re-binding item that has
started. -/
theorem witness_LineItemsStart :
    (∀ k ∈ [ItemKind.bind 0 adm, .unbind 0 none, .update ⟨0, 0, 1, 0, 0, [0]⟩ adm, .reshape 0 1 1 ⟨[], [], [], [], []⟩ adm, .park 3 adm,
        .wake none, .debug adm, .leave [2] none adm],
      (lined (imaged bound content) [item k none]).headItem 1 = some (item k none) ∧
      (lined (imaged bound content) [item k none]).itemReady 1 = true) ∧
    ((imaged bound content).host.images.find 0).isSome = true ∧
    (let s := (bound.set Reg.ptnpAlloyAlloyId 1 7).onNet fun n => { n with trees := n.trees.put 7 ⟨none, 1, some 1, [], []⟩ };
      (s.tree (s.get Reg.ptnpAlloyAlloyId 1)).isSome = true) ∧
    (let it := item (.reshape 0 1 1 ⟨[], [], [], [], []⟩ adm) (some 5); (lined bound [it]).headItem 1 = some it ∧ it.started ≠ none) := by
  decide +kernel


/-- A follower of fabric time whose parent port 0 is open and heard. -/
def follower (s : State) : State := (fields s [(Reg.ftmCfgRole, 0, 2), (Reg.ftmCfgParent, 0, 0), (Reg.lnkStsState, 0, 6),
  (Reg.ftmStsLstate, 0, Ts.unlocked)]).onNet
  fun n => { n with rootHeard := some 1 }
/-- A switch of the tick source is under way. -/
def switching (s : State) (w : TickSwitch) : State := s.onClock fun c => { c with switch := some w }
theorem witness_TickSourceSwitch :
    AdmTaken live false adm ∧ (live.takeAdm false).flag Reg.clkTickSource 0 = false ∧
    (let s := live.set Reg.clkTickSource 0 1; AdmTaken s false adm ∧ (s.takeAdm false).flag Reg.clkTickSource 0 = true) ∧
    (let w : TickSwitch := ⟨true, some adm, false, 0, none⟩; (switching live w).plant.clock.switch = some w) ∧
    (∀ fabric ∈ [false, true], let w : TickSwitch := ⟨fabric, some adm, true, 0, none⟩;
      let s := switching (follower (lined bound [item (.tickSwitch fabric (some adm)) none])) w;
      s.plant.clock.switch = some w ∧ w.placed = true ∧ w.tsw = none ∧ s.quenched = false ∧ s.switchLines = [1] ∧
      (s.switchLines.all fun p => s.itemReady p && ((s.headItem p).map Item.isSwitch).getD false) = true ∧ s.parentUsable = true) ∧
    (let w : TickSwitch := ⟨true, some adm, true, 0, some 100⟩; (switching live w).plant.clock.switch = some w) ∧
    (let s := follower live; s.released = true ∧ s.flag Reg.clkTickSource 0 = false ∧ s.plant.clock.switch = none ∧
      s.parentUsable = true ∧ s.get Reg.ftmStsLstate 0 = Ts.unlocked) := by decide +kernel

/-- A region over the buffer. -/
def region (uses : Nat) : Region := ⟨0, 1024, 1, 0, 0, false, uses, false⟩
/-- A COPY descriptor. -/
def copyDesc : Line := BitVec.ofNat 512 (laid [(7, 0)])
/-- A COPY of the first line of region 0 of engine 0 onto itself. -/
def lineCopy : Line := BitVec.ofNat 512 (laid [(7, 0), (1, 0x30)])
/-- A command that runs segment 1 of the image in slot 0. -/
def runningCmd : Cmd := { cmd with phase := .running, launch := some 0 }
/-- Engine `e` with something in it. -/
def engined (s : State) (e : Nat) (x : Engine) : State := s.setEngine e x
theorem witness_PlanishDescriptorsStartAndEnd :
    (let s := ((headed (imaged bound { content with programs := [(23, 1, [copyDesc])] }) runningCmd).setSeg 1 (segRun 0)).runSeg 1;
      (s.seg 1).isSome = true ∧ s.progPlace 23 1 copyDesc = some 0 ∧ s.ticking 1 = true ∧ (s.engine 23).running.has 1 = false) ∧
    (let s := ((engined bound 0 { Engine.reset with running := ⟨[(1, ⟨copyDesc, []⟩)]⟩ }).setSeg 1 (segRun 0)).runSeg 1;
      (s.engine 0).running.find 1 = some ⟨copyDesc, []⟩ ∧ (s.seg 1).isSome = true ∧ descEnd copyDesc = 0 ∧ s.ticking 1 = true) := by
  decide +kernel
/-- An open-queue entry of partition 1, placed by `o`. -/
def openEntry (started : Bool) (o : EntryOrigin := .order adm) : OpenEntry := ⟨1, 3, lineCopy, o, started, 5⟩
/-- An access to a line whose CRC fails: an uncorrectable error (R202). -/
def badLine (dpa : Nat) : LineError := ⟨BitVec.ofNat 40 dpa, 0, false, true, false⟩
/-- The heap of partition 1 is the buffer with one block. -/
def heaped (s : State) : State := (buffered s).onHost fun h => { h with heaps := ⟨[(1, ⟨0, [(0x10000, 0, none)]⟩)]⟩ }
theorem witness_OpenQueueRows :
    (let s := engined bound 0 { Engine.reset with queue := ⟨[(63, openEntry false)]⟩ };
      (s.engine 0).queue.find 63 = some (openEntry false) ∧
      ((s.engine 0).queue.vals.all fun q => decide (q.ptn ≠ 1) || q.started || decide (5 ≤ q.arrival)) = true ∧
      withinShare 16 (s.groupsOn 0) 1 s.reservedBuf (s.engine 0).bufOf = true ∧ s.quenched = false) ∧
    (∀ o ∈ [EntryOrigin.order adm, .group 1 0, .fill 0, .move 0],
      ((engined bound 0 { Engine.reset with queue := ⟨[(0, openEntry true o)]⟩ }).engine 0).queue.find 0 = some (openEntry true o)) ∧
    (let t := entryLeft (engined bound 0 { Engine.reset with regions := ⟨[(0, region 1)]⟩, queue := ⟨[(0, openEntry true)]⟩ }) 0 0 [];
      let l := t.descReads lineCopy;
      l ≠ [] ∧ t.badLine [] l = none ∧ t.badLine (l.map badLine) l ≠ none) := by decide +kernel
theorem witness_OpenQueueRows_heap :
    (let s := headed (heaped bound) runningCmd; s.sliceOwner 0 = some 1 ∧ s.headCmd 1 = some runningCmd ∧
      (s.host.heaps.find 1).isSome = true ∧ s.host.objs.find 0 = some buffer ∧
      Heap.place ⟨0, []⟩ buffer.va buffer.bytes 4 = some 0x10000 ∧ Heap.place ⟨0, []⟩ buffer.va buffer.bytes 5 = none ∧
      Heap.place ⟨0, [(0x10000, 0, none)]⟩ buffer.va buffer.bytes 4 = none ∧ runningCmd.frees.contains 0x10000 = false) := by decide +kernel
theorem witness_OpenQueueRows_groups :
    (∀ r ∈ [1, 2], let im := { content with
        segments := [segment, { segment with openCount := 1 }], openGroups := [BitVec.ofNat 512 (laid [(r, 0)])], orders := [copyDesc] };
      let s := ((headed (imaged bound im) runningCmd).setSeg 1 (segRun 0)).runSeg 1;
      s.reached 1 0 = true ∧ ogStart (BitVec.ofNat 512 (laid [(r, 0)])) = 0 ∧ ogNeed (BitVec.ofNat 512 (laid [(r, 0)])) = 0 ∧
      s.headCmd 1 = some runningCmd ∧ s.groupRec runningCmd 0 = some (im, BitVec.ofNat 512 (laid [(r, 0)])) ∧
      ogCopy (BitVec.ofNat 512 (laid [(r, 0)])) = decide (r = 1) ∧ runningCmd.openIssued.contains 0 = false ∧
      runningCmd.openDone.contains 0 = false ∧ (s.line 1).hold = none) ∧
    (let s := bound.set Reg.lnkStsState 5 6; s.quenched = false ∧ s.portOpen 5 = true ∧
      (firstIn 6250 0 fun k => s.openTxSlot 5 k) = some 1) := by decide +kernel

/-- A stream of one line over the buffer's first page, with its translation held. -/
def stream (write : Bool) : Stream where
  record := BitVec.ofNat 512 (laid [(if write then 1 else 0, 3), (1, 0x18), (1, 0x1C), (64, 0x28)])
  ptn := 1
  base := 0x10000
  next := 0
  taken := 0
  buffer := [(5, 10)]
  tlb := [(0, ⟨0, 0, 0⟩), (0x10000, ⟨0, 0, 0⟩)]
/-- A hop entry of one unit that reads tile 0's SRAM, or input 0, and leaves by output 1. -/
def hop (port : Nat) : BitVec 128 := BitVec.ofNat 128 (port * 2 ^ 61 + 2 * 2 ^ 56)
/-- The entry of node 63 with one flow tick. -/
def hopEntry (port : Nat) : RunEntry := ⟨63, 0, hop port⟩
theorem witness_NetworkStreamsAndRefresh_flow :
    (∀ port ∈ [4, 0], let s := (bound.setSeg 1 (segRun 0)).setNode 63 { Node.reset with
        store := ⟨[(0, hop port)]⟩, runs := [⟨1, 0, 1⟩] };
      ((s.node 63).runs.find? fun r => decide (r.first ≤ 0 ∧ 0 < r.first + r.count)) = some ⟨1, 0, 1⟩ ∧
      (s.node 63).store.find 0 = some (hop port) ∧ s.seg 1 = some (segRun 0) ∧ hopRepeat (hop port) = 0 ∧ hopLenM1 (hop port) = 0 ∧
      (segRun 0).tick ≤ hopTick (hop port) 0 0 ∧ (segRun 0).flow (hopEntry port) (hopTick (hop port) 0 0) = none) ∧
    hopPort 63 (hop 0) ≠ 4 ∧ (hopOut (hop 0)).testBit 4 = false ∧ hopW (hop 0) = 1 ∧ (bound.takeUnits 1 63 0 0 1).1.length = 0 ∧
    (∀ u ∈ [(⟨0, 1, false⟩ : NocUnit), ⟨0, 2, true⟩],
      let s := bound.setNode 63 { Node.reset with units := ⟨[(unitKey 0 0 0, u)]⟩ };
      ((s.takeUnits 1 63 0 0 1).1.all fun u => u.ok && decide (u.ptn = 1)) = false) := by decide +kernel
theorem witness_NetworkStreamsAndRefresh_streams :
    (∀ w ∈ [false, true], let s := ((bound.setSeg 1 (segRun 64)).onMem fun m => { m with streams := ⟨[(0, stream w)]⟩ }).runSlice 0;
      s.mem.streams.find 0 = some (stream w) ∧ s.streamReady 0 (stream w) 127 = true ∧ srWrite (stream w).record = w ∧
      coverOf (stream w).tlb (srVa (stream w).record (stream w).base 0) = some ⟨0, 0, 0⟩ ∧
      s.heapBars 1 w (srVa (stream w).record (stream w).base 0) = false) ∧
    (let st := { stream false with tlb := [] };
      let s := ((bound.setSeg 1 (segRun 64)).onMem fun m => { m with streams := ⟨[(0, st)]⟩ }).runSlice 0;
      s.mem.streams.find 0 = some st ∧ s.streamReady 0 st 64 = true ∧ coverOf st.tlb (srVa st.record st.base 0) = none) ∧
    (let st := { stream false with tlb := [] };
      let s := bound.onMem fun m => { m with streams := ⟨[(0, st)]⟩, store := ⟨[(2 ^ 34 + 1, ⟨⟨0, 0, 0⟩, [], 0⟩)]⟩ };
      s.mem.streams.find 0 = some st ∧ coverOf st.tlb (srVa st.record st.base 0) = none ∧
      s.heldTrans 0 1 (srVa st.record st.base 0) = some (0x10000, ⟨0, 0, 0⟩)) := by decide +kernel
theorem witness_NetworkStreamsAndRefresh_refresh :
    (bound.channel 767).selfRefresh = false ∧
    (let s := (bound.onClock fun c => { c with stopped := true }).set Reg.dieTickTick 3 1024;
      s.framePaused 767 = true ∧ (s.channel 767).refreshedAt + 1024 ≤ s.dieTick 767) ∧
    bound.framePaused 767 = false ∧ refreshMask.testBit (bound.frameUnit 767) = true ∧
    (bound.channel 767).window ≠ some (bound.frameTick 767 / 64) ∧
    (let s := bound.refreshRound 767 2;
      (s.setChannel 767 { s.channel 767 with window := some 0 }).flag Reg.mchEccStsMarked 767 = false) ∧
    (let s := (bound.set Reg.mchEccStsMarked 767 1).refreshRound 767 2;
      (s.flag Reg.mchEccStsMarked 767 = true ∧ s.flag Reg.mchEccStsLaneExhausted 767 = false)) ∧
    failingLanes 0 = [] ∧ failingLanes (2 ^ 73) = [] ∧ failingLanes (2 ^ 71) = [8] ∧ failingLanes (2 ^ 71 + 1) = [0, 8] := by
  decide +kernel

theorem witness_SequencersAndEventControllers :
    (let s := fields bound [(Reg.seqStsRunning, 0, 1), (Reg.pwrSpState, 0, 1)];
      s.flag Reg.seqStsRunning 0 = true ∧ s.slicePower 0 = 1 ∧ s.get Reg.seqHeartbeatCount 0 = (s.seqr 0).beat ∧
      (s.set Reg.seqHeartbeatCount 0 1).get Reg.seqHeartbeatCount 0 ≠ (s.seqr 0).beat) ∧
    (∀ r ∈ [0, 1], let s := fields bound [(Reg.pwrSpState, 0, 1), (Reg.seqStsRunning, 0, r)];
      s.slicePower 0 ≤ 1 ∧ s.flag Reg.seqStsRunning 0 = decide (r = 1)) ∧ bound.directOn 0 = none ∧
    (let s := ((lined (imaged bound content) [item (.direct 0 1 0xFFFF) (some 0)]).setInst 0 ready).set Reg.ptnModeCompat 0 1;
      s.directOn 0 = some (1, 0, 1, 0xFFFF) ∧ s.compat = true ∧ bitsOf 0xFFFF0001 0 16 = 1 ∧ bitsOf 0xFFFF0001 16 16 = 0xFFFF ∧
      s.get Reg.schStsState 0 = 0 ∧ (s.seqr 0).launchAt = none ∧ (s.imageOf 0).isSome = true) ∧
    (1 : Word).getLsbD 0 = true ∧ (bound.set Reg.schStsState 0 1).get Reg.schStsState 0 ≠ 0 ∧
    bound.evcLive 9 = true ∧ bound.evcLive 67 = true ∧
    (let e := { Evc.reset with mask := false, sources := ⟨[(1023, ⟨true, 0, 1, 1, 1, true, false, 0⟩)]⟩ };
      let x := ((bound.setEvc 67 e).evc 67).source 1023; x.enable = true ∧ 1 ≤ x.acc ∧ x.window ≠ 0 ∧ x.pending = false) ∧
    (let e := { Evc.reset with mask := false, sources := ⟨[(1023, ⟨true, 0, 1, 0, 1, true, true, 0⟩)]⟩ };
      ownEvc (.core 3) = some 67 ∧ ((bound.setEvc 67 e).evc 67).line = true ∧ ((bound.setEvc 67 e).evc 67).best = some (1023, 0)) ∧
    ownEvc .bar0 ≠ some 67 ∧ (bound.evc 67).line = false ∧ mayWriteEvc (.core 3) 67 = true ∧ mayWriteEvc (.sequencer 63) 63 = true := by
  decide +kernel
theorem witness_EventMessageRule :
    bound.headerOpen 0 = true ∧ bound.headerOpen (clusterPage 63 7) = true := by decide +kernel
/-- Accesses at the edges of what is aligned, and a page with an offset that nothing lists. -/
theorem witness_BadAccessCompletesAndCounts :
    accessOk 0x3FFFFFC 4 = true ∧ accessOk 0x3FFFFF8 8 = true ∧ accessOk 2 4 = false ∧ accessOk 4 8 = false ∧ accessOk 0 2 = false ∧
    accessOk 0 16 = false ∧ pageInfo 0 = some (.glb, 4, 0) ∧ headerPage 0 = true ∧ regAt .glb 0 0 0xE00 = none := by decide +kernel
theorem witness_BusHeaderAndRegisterWrites :
    [0x1FFFFF8, 0x2000000, 0x2007FF8, 0x2008000].map (accessOk · 8) = [true, true, true, true] ∧
    bound.mayWrite .bar0 0x1FFF 0 = false ∧ bound.mayWrite .bar0 0x2008 0 = false ∧ bound.mayWrite .bar0 0 0x30 = true ∧
    bound.headerOpen 0 = true ∧ pageInfo 0 = some (.glb, 4, 0) ∧ bound.blockIdle 0 = true ∧
    bound.flag Reg.blkCtlFreeze 0 = false ∧ (bound.set Reg.blkCtlFreeze 0 1).flag Reg.blkCtlFreeze 0 = true ∧
    lockReg 0 = none ∧ bound.mayWrite (.core 0) 0x20 0x40 = true ∧ bound.mayWrite (.core 0) 0x3000 0x40 = false ∧
    bound.mayWrite (.core 0) qmgPage 0x40 = true ∧ (lockReg qmgPage).isSome = true := by decide +kernel
theorem witness_NetworkClockAndPoolRegisters :
    ((bound.line 1).isEmpty = true ∧ (bound.line 1).resident = none ∧ ((headed bound cmd).line 1).isEmpty = false ∧
      ((bound.setLine 1 { ExecLine.empty with resident := some 0 }).line 1).resident ≠ none) ∧
    bound.quotaElse 1 + 524288 = quarterEntries ∧
    (refreshMask ≠ 0 ∧ bound.openMinNext 767 = 8 ∧
      (∃ v : Word, popcount 64 v.toNat = 32 ∧ v.toNat &&& refreshMask = 0) ∧
      (∃ v : Word, popcount 64 v.toNat = 33 ∧ v.toNat &&& refreshMask = 0) ∧
      (popcount 64 (0xFE : Word).toNat = 7 ∧ popcount 64 (0x1FE : Word).toNat = 8)) ∧
    (let s := (fields bound [(Reg.mchWindowOpenMask, 767, 0xFFFFFFFF), (Reg.schStsState, 63, 1)]);
      popcount 64 (s.openMaskNext 767) = 32 ∧ s.channelBusy 767 = false ∧
      (imaged s { content with windows := [(767, 0x1)] }).boundImages.any (fun im => im.content.windows.any fun w =>
        decide (w.1 = 767) && decide (popcount 64 w.2.toNat < 2)) = true ∧ s.boundImages = []) ∧
    6200 - max (bound.grantedSlots 5 0) (bound.grantedSlots 5 1) = 6200 ∧
    bound.portState 5 < 2 ∧ (bound.set Reg.lnkStsState 5 6).portState 5 = 6 := by
  refine ⟨by decide +kernel, by decide +kernel, ⟨by decide +kernel, by decide +kernel,
    ⟨0xFFFEFFFE000C0000, by decide +kernel⟩, ⟨0xFFFEFFFE000E0000, by decide +kernel⟩, by decide +kernel⟩, by decide +kernel, by decide +kernel,
    by decide +kernel, by decide +kernel⟩
theorem witness_RingRegistersAndVectors :
    (let s := bound.setQueue 511 7 ring; s.queue 511 7 = some ring ∧ s.barsOpen = true ∧ 2 ^ (ring.sqLog2 + 4) = 16 ∧
      s.queue 0 0 = none) ∧ State.reset.barsOpen = false ∧
    live.released = true ∧ live.flag Reg.mbxStsEnable 0 = true ∧ live.flag Reg.mbxStsEnable 1 = true ∧
    (live.set Reg.mbxStsEnable 1 0).flag Reg.mbxStsEnable 1 = false ∧ live.ringSize false false = 16 ∧ live.ringSize true true = 16 ∧
    live.host.fmPair.notices = [] ∧ (live.setPair true { live.pair true with notices := [⟨0, 1, 0, 0, 0⟩] }).host.fmPair.notices ≠ [] ∧
    live.host.fmPair.taken < live.ringFree true := by decide +kernel
theorem witness_DmaErrorsAndRefusedAdmin :
    ((bound.raise Reg.hifStsDmaErr 0).setQueue 0 0 ring).queue 0 0 = some ring ∧ live.canTake false = true ∧ live.canTake true = true ∧
    State.reset.canTake false = false ∧ State.reset.canTake true = false := by decide +kernel
/-- Descriptors of a RUN of segment 1 with no deadline, of an ALLOY_RUN and of a SIGNAL, and one that waits for a fence. -/
def desc (op flags : Nat) : BitVec 2048 := BitVec.ofNat 2048 (laid [(op, 0), (flags, 1), (1, 4), (never, 8)])
/-- Instance 0 with a queue that has one descriptor waiting. -/
def submitting : State := ((imaged bound content).setInst 0 ready).setQueue 0 0 { ring with sqTail := 1 }
theorem witness_SubmissionTakesADescriptor :
    (∀ op ∈ [1, 2, 3], (parseDesc (desc op 0)).op = op ∧ submitting.waits 1 (parseDesc (desc op 0)) = false) ∧
    submitting.inst 0 = some ready ∧ submitting.queue 0 0 = some { ring with sqTail := 1 } ∧
    submitting.mayTake ready { ring with sqTail := 1 } = true ∧ submitting.isNext 1 0 0 { ring with sqTail := 1 } = true ∧
    (let s := submitting.setFence 0 ⟨1, 1, 0, 1, 0, false⟩;
      s.waits 1 (parseDesc (BitVec.ofNat 2048 (laid [(1, 0), (2, 1), (1, 4), (never, 8), (mkHandle 1 0, 0x10), (1, 0x18)]))) = true) ∧
    (let s := submitting.set Reg.pwrStsQuenched 0 1; let j := s.judge 1 0 0 1 ready (parseDesc (desc 1 0)) [] 0 (0, []);
      j.cmd.isNone = true) ∧
    (submitting.judge 1 0 0 1 ready (parseDesc (desc 1 0)) [] 0 (0, [])).cmd.isSome = true ∧
    (let s := submitting.set Reg.ptnModeCompat 0 1; s.compat = true ∧ (s.commandSegment 0 1).isSome = true ∧ ready.state = Is.active ∧
      s.commandSegment 0 2 = none) := by decide +kernel
/-- A command accepted for a deadline that its promise meets exactly, and one nanosecond less, which is refused. -/
theorem witness_AdmissionMeetsTheDeadline :
    let judged := fun deadline => submitting.judge 1 0 0 1 ready
      (parseDesc (BitVec.ofNat 2048 (laid [(1, 0), (1, 1), (1, 4), (deadline, 8)]))) [] 0 (0, [])
    (judged (2000 + Config.assuredNs 200 + 20)).cmd.isSome = true ∧ (judged (2000 + Config.assuredNs 200 + 19)).cmd.isNone = true := by
  decide +kernel


/-- The image's handle. -/
def imageHandle : Handle := BitVec.ofNat 32 (mkHandle 1 0)
/-- Partition 1's root table at line 0 of slice 0 and one leaf of 1 GiB, writable and executable, at VA 0. -/
def mapped (s : State) : State :=
  ((fields s [(Reg.ptnpXltRootValid, 1, 1), (Reg.mchKeyStsKeyed, 0, 1), (Reg.mchKeyStsOwner, 0, 1)]).setTableEntry 0 0 0 (BitVec.ofNat 64 (64 * 1024 + 1))).setTableEntry 0 64 0 15
/-- Instance 0 with a queue whose next entry is waiting. -/
def withInst (s : State) (x : Inst) : State := (imaged s content).setInst 0 x
theorem witness_InstancesAndTheirQueues_create_1 :
    instOk 0 = true ∧ instOk 511 = true := by decide +kernel
theorem witness_InstancesAndTheirQueues_create_2 :
    AdmTaken (imaged bound content) false adm := by decide +kernel
theorem witness_InstancesAndTheirQueues_create_3 :
    let t := (imaged bound content).takeAdm false;
      t.ptnState 1 = ptnActive ∧ t.get Reg.ptnpCfgInstances 1 < 8 ∧ (t.inst 511).isNone = true ∧
      t.usableImage 1 imageHandle = some 0 ∧ t.usableImage 1 0 = none ∧ t.ptnState 2 ≠ ptnActive := by decide +kernel
theorem witness_InstancesAndTheirQueues_create_4 :
    let t := ((imaged bound content).set Reg.ptnpCfgInstances 1 8).takeAdm false;
      t.get Reg.ptnpCfgInstances 1 = 8 ∧ t.ptnState 1 = ptnActive := by decide +kernel
theorem witness_InstancesAndTheirQueues_create_5 :
    let s := (imaged bound content).set Reg.hifCfgBifurcated 0 1; AdmTaken s false adm ∧
      (s.takeAdm false).flag Reg.hifCfgBifurcated 0 = true := by decide +kernel
theorem witness_InstancesAndTheirQueues_active :
    (∀ n ∈ [1, 8], let s := (withInst bound ready).setQueue 0 7 ring; let t := s.takeAdm false;
      AdmTaken s false adm ∧ t.inst 0 = some ready ∧ ready.settled = true ∧ ready.state = Is.active ∧
      t.usableImage ready.ptn imageHandle = some 0 ∧ (t.line 1).items = [] ∧ (t.line 1).killed = [] ∧ ready.vectors = none ∧
      firstIn 2048 0 (fun v => decide (v % n = 0 ∧ 16 ≤ v ∧ v + n ≤ 2048) &&
        (List.range n).all fun k => !t.vectorTaken ready.fn (v + k)) = some 16 ∧
      t.queue 0 7 = some ring ∧ t.queue 0 0 = none) := by decide +kernel
theorem witness_InstancesAndTheirQueues_others :
    (let x := { ready with state := Is.suspended }; AdmTaken (withInst bound x) false adm ∧
      ((withInst bound x).takeAdm false).inst 0 = some x ∧ x.settled = true) ∧
    (let x := { ready with state := Is.suspending }; AdmTaken (withInst bound x) false adm ∧
      ((withInst bound x).takeAdm false).inst 0 = some x ∧ x.settled = false) ∧
    (let s := withInst (headed bound cmd) ready; AdmTaken s false adm ∧ ((s.takeAdm false).line 1).items ≠ []) ∧
    (let s := (withInst bound ready).setQueue 0 0 { ring with taken := 1 }; AdmTaken s false adm ∧
      (s.takeAdm false).queue 0 0 = some { ring with taken := 1 }) := by decide +kernel

/-- A set of arguments that names the buffer. -/
def argData : BitVec 1536 := BitVec.ofNat 1536 (laid [(bufferHandle.toNat, 128), (1, 132), (1, 133)])
theorem witness_MemoryObjectsAndReferences :
    (let s := buffered bound; let t := s.takeAdm false;
      AdmTaken s false adm ∧ ptnOk 1 = true ∧ t.mayCreate 1 = true ∧ t.ownerOk 1 0xFFFF = true ∧
      firstGap 262144 t.host.objs.entries 0 = some 1 ∧
      (∀ o ∈ t.host.objs.vals, o.ptn = 1 → rangesMeet 0 0x10000 o.va o.bytes = false) ∧
      (∀ o ∈ t.host.objs.vals, o.ptn = 1 → rangesMeet (2 ^ 48 - 0x10000) 0x10000 o.va o.bytes = false) ∧
      rangesMeet 0x20000 0x10000 buffer.va buffer.bytes = true ∧
      t.findObj bufferHandle = some (0, buffer) ∧ buffer.freeing = false ∧
      (buffer.host : Int) + (BitVec.ofInt 32 (-2)).toInt < 0 ∧ (buffer.host : Int) + (BitVec.ofInt 32 (-1)).toInt = 0 ∧
      (hostLimit : Int) < buffer.host + (0x7FFFFFFF : BitVec 32).toInt ∧
      firstGap 65536 t.host.fences.entries 0 = some 0 ∧
      (∀ e ∈ argObjs argData, t.findObj e.handle = some (0, buffer) ∧ buffer.ptn = 1) ∧
      argSlots argData = [0] ∧ buffer.dev + 1 - 0 ≤ devLimit) ∧
    (let o := { buffer with append := true, extent := 64 }; let s := bound.setObj 0 o; AdmTaken s false adm ∧
      (s.takeAdm false).findObj bufferHandle = some (0, o) ∧ o.bytes % 64 = 0 ∧ o.freeing = false) ∧
    (let f : Fence := ⟨1, 1, 0, 1, 0, false⟩; let s := (withInst bound ready).setFence 0 f; AdmTaken s false adm ∧
      (s.takeAdm false).findFence imageHandle = some (0, f) ∧ f.freeing = false ∧ (s.takeAdm false).inst 0 = some ready ∧
      imageHandle ≠ 0) := by decide +kernel

/-- The lines of a schedule image of slice 0 with one LOAD segment and nothing else. -/
def smallImage : Nat := laid
  [(0x5358494D, 0), (1, 4), (0x140, 8), (1, 0x10), (1, 0x12), (6, 0x14),
    (1, 0x40), (0xC0, 0x48), (2, 0x4C), (2, 0x50), (0x100, 0x58), (32, 0x5C), (3, 0x60), (0x140, 0x68),
    (4, 0x70), (0x140, 0x78), (6, 0x80), (0x140, 0x88), (7, 0x90), (0x140, 0x98), (2, 0x100), (48, 0x104)]
/-- The buffer holds that image. -/
def stored : State := (List.range 8).foldl (fun s k =>
  s.writeVa 1 (0x10000 + 64 * k) (BitVec.ofNat 512 (smallImage / 2 ^ (512 * k)))) (mapped (buffered bound))
/-- An update of partition 1's leaf. -/
def leafRec (slice : BitVec 8) : TableRec := ⟨0, slice, 1, 64, 0, [0]⟩
theorem witness_TablesRegionsOrdersImagesAndHeaps_1 :
    let s := mapped bound; let t := s.takeAdm false; AdmTaken s false adm ∧ recInRange (leafRec 0) = true ∧
      recInRange ⟨3, 15, 1, 2097088, 511, [0]⟩ = true ∧ t.ptnState 2 = ptnFree ∧ t.ptnState 1 = ptnActive ∧
      Nat.testBit (t.get Reg.ptnpSlicesSlices 1) (recSlice (leafRec 0)) = true ∧
      Nat.testBit (t.get Reg.ptnpSlicesSlices 1) (recSlice (leafRec 1)) = false ∧ t.immediate 1 (leafRec 0) = false ∧
      t.immediate 1 ⟨0, 0, 1, 2097151, 0, [0]⟩ = true := by decide +kernel
theorem witness_TablesRegionsOrdersImagesAndHeaps_2 :
    let s := buffered bound; let t := s.takeAdm false; AdmTaken s false adm ∧ t.findObj bufferHandle = some (0, buffer) ∧
      buffer.freeing = false ∧ (t.engine 23).regions.has 1023 = false ∧
      Nat.testBit (t.get Reg.astDetailFailedEngines 0) 23 = false := by decide +kernel
theorem witness_TablesRegionsOrdersImagesAndHeaps_3 :
    ∀ n ∈ [0, 1], let s := (buffered bound).setEngine 23 { Engine.reset with regions := ⟨[(1023, region n)]⟩ };
      AdmTaken s false adm ∧ ((s.takeAdm false).engine 23).regions.find 1023 = some (region n) ∧ (region n).freeing = false := by decide +kernel
theorem witness_TablesRegionsOrdersImagesAndHeaps_4 :
    let d : Line := BitVec.ofNat 512 (laid [(7, 0), (1, 0x30)]); AdmTaken bound false adm ∧
      (bound.takeAdm false).ptnState 1 = ptnActive ∧ descLayoutOk d = true ∧ descOp d = 7 ∧ descStart d = 0 ∧ descEnd d = 0 ∧
      descFlag d 5 = false := by decide +kernel
/-- The DPAs that IMG_BIND of the buffer reads. -/
def bindReads (w : State) (n : Nat) : List Nat := w.vaDpas 1 ((List.range n).map fun n => 0x10000 + 64 * n)
theorem witness_TablesRegionsOrdersImagesAndHeaps_5 :
    let s := stored; let t := s.takeAdm false; let w := t.hubWalks 1 0x10000 320; AdmTaken s false adm ∧
      t.ptnState 1 = ptnActive ∧ t.findObj bufferHandle = some (0, buffer) ∧ buffer.ptn = 1 ∧ buffer.freeing = false ∧
      (readImage (t.objRd 1 buffer.va)).bytes = 320 ∧
      t.imageStatus 1 (t.objRd 1 buffer.va) buffer.bytes (t.mappedX 1 buffer.va 320) false = St.success ∧
      bindReads w 5 ≠ [] ∧ w.badLine [] (bindReads w 5) = none ∧
      buffer.dev < devLimit ∧ firstGap imageSlots (w.noteLines [] (bindReads w 5)).host.images.entries 0 = some 0 := by decide +kernel
theorem witness_TablesRegionsOrdersImagesAndHeaps_6 :
    (let s := buffered bound; let t := s.takeAdm false; let w := t.hubWalks 1 0x10000 64; AdmTaken s false adm ∧
      (readImage (t.objRd 1 buffer.va)).bytes = 0 ∧ w.badLine [] (bindReads w 0) = none ∧
      t.imageStatus 1 (t.objRd 1 buffer.va) buffer.bytes (t.mappedX 1 buffer.va 64) false ≠ St.success) ∧
    (let s := stored.set Reg.mchEccStsLaneExhausted 0 1; let t := s.takeAdm false; let w := t.hubWalks 1 0x10000 320;
      AdmTaken s false adm ∧ (readImage (t.objRd 1 buffer.va)).bytes = 320 ∧ w.badLine [] (bindReads w 5) ≠ none) ∧
    (∀ st ∈ [Ms.joining, Ms.active], ((bound.setMstate 1 st).takeAdm false).mstate 1 = st) := by decide +kernel
theorem witness_TablesRegionsOrdersImagesAndHeaps_7 :
    let o := { buffer with va := 0x100000 }; let s := bound.setObj 0 o; let t := s.takeAdm false; AdmTaken s false adm ∧
      t.findObj bufferHandle = some (0, o) ∧ heapSizeOk o.bytes = true ∧ o.va % o.bytes = 0 ∧ (t.line 1).names 0 = false ∧
      (t.host.heaps.find 1).isNone = true ∧ bufferHandle ≠ 0 := by decide +kernel
theorem witness_TablesRegionsOrdersImagesAndHeaps_8 :
    AdmTaken (heaped bound) false adm ∧ ((heaped bound).takeAdm false).host.heaps.find 1 = some ⟨0, [(0x10000, 0, none)]⟩ := by decide +kernel

/-- A plan that changes nothing else. -/
def noPlan : ReshapePlan := ⟨[], [], [], [], []⟩
theorem witness_PartitionsCreatedDestroyedAndReshaped :
    ptnOk 63 = true ∧ ptnOk 1 = true ∧ AdmTaken bound false adm ∧ AdmTaken (bound.set Reg.ptnModeCompat 0 1) false adm ∧
    ((bound.set Reg.ptnModeCompat 0 1).takeAdm false).compat = true ∧
    (let t := bound.takeAdm false; t.compat = false ∧ t.ptnState 1 = ptnActive ∧ t.ptnState 2 = ptnFree ∧ (t.line 2).items = [] ∧
      t.get Reg.ptnpCfgInstances 1 = 0) ∧
    (let t := (fields live [(Reg.ptnFreeFree, 0, 2), (Reg.ptnSetsFreeSetsFree, 0, 2)]).takeAdm false; t.compat = false ∧
      maskDiff 2 (t.get Reg.ptnFreeFree 0) = 0 ∧ maskDiff 2 (t.get Reg.ptnSetsFreeSetsFree 0) = 0 ∧
      maskDiff 3 (t.get Reg.ptnFreeFree 0) ≠ 0 ∧ t.quotaElse 63 + quarterEntries ≤ quarterEntries ∧
      quarterEntries < t.quotaElse 63 + (quarterEntries + 1) ∧ t.ptnState 63 = ptnFree ∧ (t.line 63).items = []) ∧
    (let s := fields bound [(Reg.ptnpCfgState, 1, ptnFaulted), (Reg.ptnpCfgInstances, 1, 1)];
      AdmTaken s false adm ∧ (s.takeAdm false).ptnState 1 = ptnFaulted ∧ 0 < (s.takeAdm false).get Reg.ptnpCfgInstances 1 ∧
      (s.takeAdm false).engineResettable 1 0 = true) ∧
    (let r : ResetRun := ⟨3, 63, 0, none, true, false⟩; let s := bound.onBoot fun b => { b with resets := [r] };
      (s.plant.boot.resets.find? fun r => decide (r.level = 3 ∧ r.ptn = 63) && r.overwriting) = some r ∧ s.fillsLeft 63 = false) ∧
    (let t := bound.takeAdm false; planOk noPlan = true ∧
      maskDiff (maskDiff 1 (t.get Reg.ptnpSlicesSlices 1)) (t.get Reg.ptnFreeFree 0) = 0 ∧
      maskDiff (maskDiff 1 (t.get Reg.ptnpSetsSets 1)) (t.get Reg.ptnSetsFreeSetsFree 0) = 0 ∧
      (t.tables 1).any (fun e => Nat.testBit (maskDiff (t.get Reg.ptnpSlicesSlices 1) 1) e.1) = false ∧
      t.movesOk (t.asStaged 1 1 1) 1 noPlan.moves = true ∧ t.stagesOk 1 1 1 noPlan = true ∧ (bitsSet 1).length ≤ 4 ∧
      t.grantsOk 1 noPlan.grants = true) := by decide +kernel

/-- The judgement of the head descriptor of instance 0's queue 0, of partition 1, as PREEMPT makes it. -/
def preempted (s : State) (kill : Bool) : Judged × List (Cmd × Option Nat) :=
  let t := s.takeAdm false
  let d := parseDesc (desc 1 0)
  let y := { ring with sqTail := 1 }
  let r := (((t.setQueue 0 0 { y with sqHead := 1, waiting := none, taken := 1 }).count qmgPage 0 1).exitIdle 1).otherMembers 1 d
  let v := if r.2.wakeAhead 1 = 0 then r.2 else r.2.placeItem 1 (.wake none) (r.2.wakeAhead 1)
  let l := v.line 1
  let idx := insertionPoint l.items
  let run := if kill then runningVictim l.items else none
  let tIns := match run with
    | some _ => r.2.now + Config.admitNs + Config.killNs
    | none => (boundEnds 0 (l.items.take idx)).getLastD 0
  let j := v.judge 1 0 0 1 ready d (l.items.take idx) tIns r.1
  let w := ((l.items.drop idx).filterMap Item.cmd).foldl (fun w c => v.walkOne 1 false w c)
    ⟨match run with | some x => [(x, none)] | none => [], [], cmd.tPromise, cmd.inst, cmd.reserved⟩
  (j, w.victims)
/-- What PREEMPT needs of a state whose instance and queue are taken. -/
def preemptReady (s : State) : Bool :=
  let t := s.takeAdm false
  decide (t.inst 0 = some ready ∧ t.queue 0 0 = some { ring with sqTail := 1 } ∧ t.mstate 1 = Ms.none) &&
    t.mayTake ready { ring with sqTail := 1 } && !t.waits 1 (parseDesc (desc 1 0))
theorem witness_PreemptJudgesTheHeadDescriptor :
    AdmTaken submitting false adm ∧ ptnOk 1 = true ∧ instOk 0 = true ∧ ready.state = Is.active ∧ ready.ptn = 1 ∧
    preemptReady submitting = true ∧ (preempted submitting false).1.cmd.isSome = true ∧
    (let s := submitting.set Reg.pwrStsQuenched 0 1; AdmTaken s false adm ∧ preemptReady s = true ∧
      (preempted s false).1.cmd.isNone = true) ∧
    (let c := { cmd with phase := .running, launch := some 0 }; let s := (lined submitting [item (.command c) (some 0)]);
      AdmTaken s false adm ∧ preemptReady s = true ∧ (preempted s true).1.cmd.isSome = true ∧ (preempted s true).2.length = 1 ∧
      (preempted s false).2 = []) ∧
    (submitting.takeAdm false).inst 511 = none ∧
    (let s := submitting.setQueue 0 0 ring; ((s.takeAdm false).mayTake ready ring) = false) := by decide +kernel

/-- A handoff record of partition 1. -/
def record (state : Nat) : HoRecord where
  gen := 1
  ptn := 1
  state := state
  rulingWait := false
  limitPassed := false
  confirmed := false
  dataLost := true
  cls := 0
  epoch := 0xFFFFFFFB
  peerDevice := 0
  peerHandle := 0
  length := 64
  tState := 0
  extents := [⟨bufferHandle, 0x10000, 64⟩]
  inline := 0
  digest := 0
  recvObj := 0
  tail := 0
  capacity := 64
  received := []
  streaming := false
  streamEnd := none
  sends := 0
  nextSend := none
/-- The record in slot 0 of a device whose buffer is in slot 0. -/
def recorded (state : Nat) : State := (buffered bound).setRecord 0 (record state)
/-- A handle of the record. -/
def recordHandle : Handle := BitVec.ofNat 32 262144
/-- Every slot holds a record. -/
def recordsFull : State := (buffered bound).onNet fun n => { n with records := ⟨(List.range 16384).map fun k => (k, record 1)⟩ }
theorem witness_HandoffCommands :
    (let s := buffered bound; let t := s.takeAdm false; AdmTaken s false adm ∧ t.compat = false ∧ t.ptnState 1 = ptnActive ∧
      [(⟨bufferHandle, 0x10000, 64⟩ : Extent), ⟨bufferHandle, 0x10000, 0x100000⟩].map (t.extentOk 1) = [true, true] ∧
      t.extentOk 1 ⟨bufferHandle, 0x10FFC0, 0x80⟩ = false ∧ t.freeRecordSlot = some 0 ∧ t.reachable 0 = true) ∧
    (let o := { buffer with append := true }; let s := mapped (bound.setObj 0 o); let t := s.takeAdm false;
      AdmTaken s false adm ∧ t.findObj bufferHandle = some (0, o) ∧ 
      (t.hubWalks 1 0x10000 0x100000).tailOk 1 0 o 0x100000 = true ∧ (t.hubWalks 1 0x10000 0x100000).tailOk 1 0 o 0x100001 = false ∧
      (t.hubWalks 1 0x10000 0x100000).freeRecordSlot = some 0) ∧
    (let t := (buffered bound).takeAdm false; t.findRecord recordHandle.toNat = none ∧ t.freeHandle recordHandle.toNat = true ∧
      t.findRecord (2 * 262144) = none ∧ t.freeHandle (2 * 262144) = false) ∧
    (∀ st ∈ [1, 2, 3, 6], let s := recorded st; AdmTaken s false adm ∧
      (s.takeAdm false).findRecord recordHandle.toNat = some (0, record st) ∧ (s.takeAdm false).ptnState (record st).ptn = ptnActive) ∧
    (record 1).owned = true ∧ (record 2).owned = false ∧ (record 1).epoch ≤ 0xFFFFFFFB ∧
    (((recorded 1).takeAdm false).enterRecord 0 2 (record 1).epoch fun x => { x with peerDevice := 0, peerHandle := 0 }).record 0 ≠ none ∧
    (∀ st ∈ [2, 6], AdmTaken (recorded st) true adm ∧ ((recorded st).takeAdm true).compat = false ∧
      ((recorded st).takeAdm true).findRecord recordHandle.toNat = some (0, record st)) ∧
    (record 2).offered = true ∧ (record 2).dataLost = true ∧ (record 6).unconfirmed = true ∧
    ((recorded 1).takeAdm true).findRecord (2 * 262144) = none := by decide +kernel
theorem witness_HandoffCommands_full :
    AdmTaken recordsFull false adm ∧ (recordsFull.takeAdm false).freeRecordSlot = none := by decide +kernel

/-- An instance whose aperture starts at the buffer, which the aperture may read and write. -/
def apertured (o : MemObj) (st : Nat) : State :=
  (((mapped bound).setInst 0 { ready with apertureBase := 0x10000, state := st }).setObj 0 { o with ap := true })
theorem witness_LogsApertureAndPasid :
    (let s := apertured buffer Is.active; let t := s.takeAdm false; AdmTaken s false adm ∧ (t.inst 0).isSome = true ∧
      t.logWords < t.logWords + 1 ∧ t.logWords - 1 + 1 ≤ t.logWords ∧ s.barsOpen = true) ∧
    (∀ st ∈ [Is.active, Is.suspended], let s := apertured buffer st; let x := { ready with apertureBase := 0x10000, state := st };
      s.inst 0 = some x ∧ x.windowOpen = true ∧ (s.apLines [] 0 x false (lineVas 0x10000 4096)).1.isSome = true ∧
      (s.apLines [] 0 x false (lineVas 0x10FFC0 65)).1.isNone = true ∧ (s.apLines [] 0 x true (lineVas 0x10FFFF 1)).1.isSome = true ∧
      (match (s.apLines [] 0 x false (lineVas 0x10000 65)).1 with
        | some ls => decide ((ls.filter fun l => !l.2.2.2.1.readsZero l.1).length = 2)
        | none => false) = true ∧
      (match s.apLines [] 0 x false (lineVas 0x10000 65) with
        | (some ls, t) => decide (t.badLine [] (ls.map fun l => l.2.1) = none) &&
            decide ((t.set Reg.mchEccStsLaneExhausted 0 1).badLine [] (ls.map fun l => l.2.1) ≠ none)
        | _ => false) = true) ∧
    (let s := apertured { buffer with append := true } Is.active; let x := { ready with apertureBase := 0x10000 };
      (match (s.apLines [] 0 x false (lineVas 0x10000 65)).1 with
        | some ls => (ls.filter fun l => !l.2.2.2.1.readsZero l.1).isEmpty
        | none => false) = true) ∧
    ({ ready with apertureBase := 0 } : Inst).windowOpen = false ∧ ready.state ≠ Is.resetting ∧ ready.state ≠ Is.draining ∧
    (apertured buffer Is.resetting).inst 0 = some { ready with apertureBase := 0x10000, state := Is.resetting } := by decide +kernel

/-- A membership of two devices in partition 1, of which this device, 0, is one. -/
def membership : Membership := { Membership.empty with members := [0, 5], tJoin := 1000, window := 1000 }
/-- Partition 1's state of membership of alloy 7, and whether it leads. -/
def allied (st lead : Nat) (m : Membership) : State :=
  (fields bound [(Reg.ptnpAlloyMstate, 1, st), (Reg.ptnpCfgLead, 1, lead), (Reg.ptnpAlloyAlloyId, 1, 7)]).setMember 1 m
/-- Alloy 7's tree entry: port 0 up, ports 1 and 5 down, partition 1 the member. -/
def treeEntry : TreeEntry := ⟨some 0, 0x22, some 1, [], []⟩
/-- The state with ports 0, 1 and 5 open and alloy 7's tree entry. -/
def treed (s : State) (e : TreeEntry) : State := ([0, 1, 5].foldl (fun s n => s.set Reg.lnkStsState n 6) s).onNet fun n => { n with trees := n.trees.put 7 e }
/-- Eleven trees that lead down through port 5. -/
def crowded : State := bound.onNet fun n => { n with trees := ⟨(List.range 11).map fun k => (100 + k, treeEntry)⟩ }
theorem witness_AlloyCommands :
    (let t := bound.takeAdm true; AdmTaken bound true adm ∧ joinPlanOk ⟨[0, 5], [⟨0, 5, 0⟩], [[], [0]]⟩ = true ∧
      t.joinCheck 1 0 7 [0, 5] = none ∧ t.joinCheck 1 5 7 [0, 5] = none ∧ t.joinCheck 1 0 7 [5] = some St.alloyList ∧
      t.joinCheck 2 0 7 [0] = some St.alloyBusy ∧ t.compat = false) ∧
    (let s := bound.set Reg.ptnModeCompat 0 1; AdmTaken s true adm ∧ (s.takeAdm true).compat = true) ∧
    (let s := allied Ms.active 1 membership; let t := s.takeAdm true; AdmTaken s true adm ∧ t.mstate 1 = Ms.active ∧
      t.flag Reg.ptnpCfgLead 1 = true ∧ t.ptnState 1 = ptnActive) ∧
    (let s := allied Ms.faulted 1 membership; let t := s.takeAdm true; AdmTaken s true adm ∧ t.mstate 1 = Ms.faulted ∧
      t.flag Reg.ptnpCfgLead 1 = true) ∧
    treeArgsOk 5 63 255 = true ∧ treeArgsOk 7 0 63 = true ∧ treeArgsOk 6 0 0 = false ∧
    (AdmTaken crowded true adm ∧ (⟨some 5, 0, none, [], []⟩ : TreeEntry).uses 5 = true ∧
      11 ≤ (crowded.takeAdm true).treesOn 7 5 ∧ (crowded.takeAdm true).treesOn 7 0 = 11 ∧
      (crowded.takeAdm true).treesOn 100 5 = 10 ∧
      (crowded.takeAdm true).net.trees.entries.length < 256) ∧
    [(0 : BitVec 4), 5, 14, 15].all routeCode = true ∧ routeCode 6 = false ∧ 16383 + 1 ≤ 16384 ∧
    (8 : Byte).toNat ≤ 8 ∧ (3000000 : Word).toNat % 1000000 = 0 := by decide +kernel

/-- An image with a barrier in segment 1. -/
def barred : ImageContent := { content with alloy := true, linkSlots := [BitVec.ofNat 256 (laid [(3, 0), (1, 4), (9, 12)])] }
theorem witness_AlloyInstants :
    (∀ lead ∈ [0, 1], let s := allied Ms.joining lead membership; s.mstate 1 = Ms.joining ∧ (s.member 1).synced = false ∧
      (s.line 1).isEmpty = true ∧ s.atSeam 1 = true ∧
      max s.now (s.member 1).tJoin < (s.member 1).tJoin + (s.member 1).window ∧ (s.member 1).undecided = false ∧
      s.flag Reg.ptnpCfgLead 1 = decide (lead = 1)) ∧
    (let s := allied Ms.joining 0 { membership with undecided := true };
      s.mstate 1 = Ms.joining ∧ (s.member 1).undecided = true) ∧
    (∀ d ∈ [0, 5], let s := allied Ms.leaving 0 { membership with tLeave := some 500, leaving := [d] };
      (s.member 1).tLeave = some 500 ∧ (s.member 1).leaving.contains s.deviceId = decide (d = 0)) ∧
    (let s := allied Ms.active 0 { membership with gapNext := some (8, 1000000) };
      (s.member 1).gapNext = some (8, 1000000)) ∧
    (let c := { cmd with op := 2, phase := .running, launch := some 0 }; 
      let s := ((headed (imaged (allied Ms.active 1 membership) barred) c).setSeg 1 (segRun 0)).runSeg 1;
      s.headCmd 1 = some c ∧ s.seg 1 = some (segRun 0) ∧ (s.host.images.find c.image).isSome = true ∧ s.ticking 1 = true ∧
      (segRun 0).barriers.contains 9 = false ∧
      (barred.linkSlots.any fun r => barrierRec r c.segment 9 && decide (recField r 8 4 = 0)) = true) ∧
    membership.gapNext = none := by decide +kernel
/-- A message of alloy 7 from a port. -/
def message (port : Option PortNo) : AlloyMsg := ⟨port, 3, 7, 2⟩
theorem witness_AlloyMessages :
    (∀ st ∈ [Ms.active, Ms.leaving], let s := treed (allied st 1 membership) treeEntry;
      s.fromUp (message (some 0)) = true ∧ s.localMember 7 = some 1 ∧ s.fromUp (message (some 1)) = false ∧
      s.fromDown (message (some 5)) = some 5 ∧ s.fromDown (message (some 2)) = none ∧
      (s.tree 7) = some treeEntry ∧ treeEntry.uses 5 = true ∧ treeEntry.uses 0 = true ∧ treeEntry.voided.contains 3 = false ∧
      s.leads 1 5 = true ∧ s.leads 1 6 = false ∧ s.portOpen 5 = true ∧ s.portOpen 0 = true) ∧
    (let s := treed bound { treeEntry with member := none };
      s.fromUp (message (some 0)) = true ∧ s.localMember 7 = none ∧ s.fromDown (message (some 1)) = some 1) ∧
    (let e := { treeEntry with voided := [3] }; (treed bound e).tree 7 = some e ∧ e.voided.contains 3 = true) ∧
    (let e := { treeEntry with up := none, down := 2 }; let s := treed (allied Ms.active 1 membership) e;
      let t := (s.arrive 7 0x15 3 2 8).2; s.fromDown (message (some 1)) = some 1 ∧ (s.arrive 7 0x15 3 2 1).1 = false ∧
      (t.arrive 7 0x15 3 2 1).1 = true ∧ t.localMember 7 = some 1 ∧ s.mstate 1 = Ms.active ∧ s.tree 7 = some e ∧ e.up = none ∧
      (s.setMstate 1 Ms.faulted).fromDown (message (some 1)) = some 1 ∧ (s.setMstate 1 Ms.faulted).mstate 1 = Ms.faulted) ∧
    (treed (allied Ms.joining 1 membership) treeEntry).mstate 1 = Ms.joining ∧
    (treed (allied Ms.active 0 membership) treeEntry).flag Reg.ptnpCfgLead 1 = false := by decide +kernel

theorem witness_PowerStatesByCommand :
    (let t := bound.takeAdm false; AdmTaken bound false adm ∧ (∀ sl ∈ t.slicesOf 1, t.slicePower sl ≤ 2) ∧
      t.get Reg.pwrStsDstate 0 = 0 ∧ (∀ l ∈ t.host.lines.vals, l.isEmpty = true) ∧ t.anyResident = false ∧
      (List.range 64).all (fun p => decide (t.mstate p = Ms.none)) = true ∧ t.ptnState 1 ≠ ptnFree) ∧
    (let s := bound.set Reg.pwrSpState 0 3; let t := s.takeAdm false; AdmTaken s false adm ∧ t.slicesOf 1 = [0] ∧
      t.slicePower 0 = 3 ∧ t.ptnState 1 = ptnActive) ∧
    (let s := fields bound [(Reg.pwrSpState, 0, 4), (Reg.ptnpCfgState, 1, ptnFaulted)]; let t := s.takeAdm false;
      AdmTaken s false adm ∧ t.slicesOf 1 = [0] ∧ t.slicePower 0 = 4 ∧ t.ptnState 1 ≠ ptnActive) ∧
    (let s := live.set Reg.pwrStsDstate 0 2; AdmTaken s false adm ∧ (s.takeAdm false).get Reg.pwrStsDstate 0 = 2) ∧
    (let s := live.set Reg.pwrStsDstate 0 3; AdmTaken s false adm ∧ (s.takeAdm false).get Reg.pwrStsDstate 0 = 3) ∧
    (AdmTaken (headed bound cmd) false adm ∧
      (((headed bound cmd).takeAdm false).host.lines.vals.all fun l => l.isEmpty) = false) ∧
    (let t := live.takeAdm false; (List.range 64).all (fun p => decide (t.ptnState p = ptnFree)) = true ∧
      t.net.records.entries = [] ∧ t.net.trees.entries = []) ∧
    bound.sliceIdle 0 = true ∧ bound.slicePower 0 = 0 ∧ (bound.set Reg.pwrSpState 0 1).sliceIdle 0 = true ∧
    (bound.set Reg.pwrSpState 0 1).slicePower 0 = 1 ∧ bound.sliceIdle 63 = false ∧
    ((bound.setChannel 767 { Channel.reset with returnAt := some 500 }).channel 767).returnAt = some 500 ∧
    (bound.channel 767).returnAt = none := by decide +kernel

/-- A firmware image that verifies, of the greatest body. -/
def firmware : FwImage := ⟨0x53584657, 64, true, 16777216, 0, true, true⟩
theorem witness_FirmwareAttestationAndConsent :
    (let t := bound.takeAdm false; AdmTaken bound false adm ∧ AdmTaken bound true adm ∧ t.bankVerifies firmware = true ∧
      bankBytes firmware ≤ (0xFFFFFFFF : BitVec 32).toNat ∧ t.bankVerifies { firmware with bodyBytes := 16777217 } = false ∧
      t.bankVerifies { firmware with svn := 65 } = false ∧ attestPtnOk 63 = true ∧ attestPtnOk 255 = true ∧
      t.ptnState 1 = ptnActive ∧ t.get Reg.ptnpCfgInstances 1 = 0 ∧ t.get Reg.ptnpSecDebug 1 = 0 ∧ t.ptnState 63 ≠ ptnActive) ∧
    (let r : AttestReq := ⟨some true, adm, 255, 64, 0, 0⟩; (bound.onSec fun x => { x with attest := [r] }).plant.sec.attest = [r]) ∧
    bound.mailboxOpen = true ∧ (4 : BitVec 3).toNat ≤ 4 ∧ (2 : BitVec 3).toNat ≤ 2 ∧
    (bound.onBus fun b => { b with ideKeys := b.ideKeys.put 69 false }).plant.bus.ideKeys.has (16 * 4 + 2 * 2 + 1) = true := by
  decide +kernel

/-- A source BUFFER at VA 0x10000 that holds the header of a package of one entry with `bytes` of content, and an empty
destination BUFFER in slot 1. -/
def packed (bytes : Nat) : State :=
  let s := (mapped (buffered bound)).setObj 1 { buffer with va := 0x200000 }
  let lines := laid [(0x5358504B, 0), (1, 4), (1, 8), (65536, 12), (bytes, 16)]
  (List.range 28).foldl (fun s k => s.writeVa 1 (0x10000 + 64 * k) (BitVec.ofNat 512 (lines / 2 ^ (512 * k)))) s
/-- The destination's handle. -/
def destination : Handle := BitVec.ofNat 32 (mkHandle 1 1)
/-- What an unseal finds at the head of the package. -/
def packageFound (s : State) : Option (List Byte) :=
  (s.vaBytes 1 0x10000 64).bind fun h => if packageHeaderOk h = true then s.vaBytes 1 0x10000 (packageHead h) else none
theorem witness_PackagesUnseal :
    (∀ n ∈ [64, 0x100000, 0x100040], let s := packed n; let t := s.takeAdm false; let d := { buffer with va := 0x200000 };
      AdmTaken s false adm ∧ ptnOk 1 = true ∧ t.ptnState 1 = ptnActive ∧ t.findObj bufferHandle = some (0, buffer) ∧
      t.findObj destination = some (1, d) ∧ buffer.ptn = 1 ∧ d.ptn = 1 ∧ d.append = false ∧ d.w = true ∧ d.ap = false ∧
      d.freeing = false ∧ t.namedByCommand 1 1 (fun _ => false) = false ∧ (packageFound t).isSome = true ∧
      ((packageFound t).map fun h => bytesAt h 16 8) = some n ∧ (t.listedPackages 1).length < 256) ∧
    (let s := packed 1; AdmTaken s false adm ∧ (packageFound (s.takeAdm false)).isNone = true ∧
      (s.takeAdm false).plant.sec.unseals.find 1 = none) ∧
    (let u : Unseal := ⟨destination, 1, 2, 131072, [], 0⟩; let s := (packed 64).onSec fun x => { x with unseals := x.unseals.put 1 u };
      AdmTaken s false adm ∧ (s.takeAdm false).plant.sec.unseals.find 1 = some u ∧ u.dst = destination ∧
      (1 : BitVec 32).toNat = u.next ∧ u.next + 1 ≤ u.chunks ∧ u.chunks < u.next + 2) ∧
    ((bound.takeAdm false).ptnState 2 ≠ ptnActive) := by decide +kernel
/-- The header's lines are read without an error, or one of them is uncorrectable; no image holds the destination. -/
theorem witness_PackagesUnseal_lines :
    let t := (packed 64).takeAdm false; let h := (t.vaBytes 1 0x10000 64).getD [];
    packageHead h = 1704 ∧ t.imageObjs 1 = [] ∧
    t.badLine [] (t.vaDpas 1 (lineVas 0x10000 1704)) = none ∧
    (let u := ((packed 64).set Reg.mchEccStsLaneExhausted 0 1).takeAdm false;
      u.badLine [] (t.vaDpas 1 (lineVas 0x10000 1704)) = some 65536) := by decide +kernel
/-- A full list of packages. -/
theorem witness_PackagesUnseal_full :
    let s := (packed 64).onSec fun x => { x with packages := x.packages.put 1 (List.replicate 256 (bufferHandle.toNat, 0)) };
    AdmTaken s false adm ∧ ((s.takeAdm false).listedPackages 1).length = 256 := by decide +kernel

/-- A self test of a slice runs. -/
def assaying : AssayRun := ⟨1, 63, some adm⟩
theorem witness_SelfTestAndResetLevels :
    AdmTaken live false adm ∧ AdmTaken live true adm ∧
    (let t := (fields live [(Reg.ptnFreeFree, 0, 2 ^ 63), (Reg.ptnSetsFreeSetsFree, 0, 2 ^ 63)]).takeAdm false;
      t.get Reg.astStsFuseEvents 0 = 0 ∧ t.plant.boot.unfused = 0 ∧ t.plant.boot.assay = none ∧
      t.plant.clock.stopped = false ∧ t.assayIdle 1 63 = true ∧ t.assayIdle 2 63 = true ∧ t.assayIdle 3 5 = true ∧
      t.assayIdle 4 23 = true) ∧
    (let s := (live.set Reg.astStsFuseEvents 0 7).onBoot fun b => { b with unfused := 3 }; AdmTaken s false adm ∧
      (s.takeAdm false).get Reg.astStsFuseEvents 0 < 8 ∧ (s.takeAdm false).plant.boot.unfused ≠ 0) ∧
    assayTargetOk 1 63 = true ∧ assayTargetOk 2 63 = true ∧ assayTargetOk 3 5 = true ∧ assayTargetOk 4 23 = true ∧
    assayTargetOk 4 24 = false ∧
    (let s := live.onBoot fun b => { b with assay := some assaying }; AdmTaken s false adm ∧ s.plant.boot.assay = some assaying) ∧
    (∀ st ∈ [ptnActive, ptnFaulted], let s := bound.set Reg.ptnpCfgState 1 st; s.ptnState 1 = st) ∧ bound.ptnState 2 = ptnFree ∧
    (State.reset.set Reg.rstBootPhase 0 2).assayDue = true ∧
    live.bootPhase ≠ 0 ∧ live.get Reg.pwrStsDstate 0 ≠ 3 := by decide +kernel

/-- A die's spare serves one position only (R25, R162), a third failing row fences a tile's cluster and a second fenced cluster
of a die leaves a slice unavailable (R76, R77, R500), and a third failing lane exhausts a channel (R216). -/
theorem test_assay_found :
    let f : AssayFound := ⟨⟨[⟨31, 0, 3, 0⟩, ⟨32, 7, 2, 8⟩], 2 ^ 34 + 2 ^ 35, 1, 2, [(767, 3), (0, 1)]⟩, 2 ^ 32, true, 0⟩;
    (List.range 4).map (sparePosOf f) = [none, some 14, some 0, none] ∧
    (List.range 64).filter (fun sl => !sliceFound f sl) = [33] ∧ routerAt (sparePosOf f 1) 31 = 32 ∧
    (State.reset.steer f.tiles).1 = 10 ∧
    (let s := (State.reset.spareLanes 767 3).spareLanes 0 1;
      s.get Reg.mchLaneSparesLeft 0 = 1 ∧ s.get Reg.mchEccStsLaneExhausted 767 = 1 ∧ s.get Reg.mchEccStsLaneExhausted 0 = 0) := by
  decide +kernel

/-- An unpowered module. -/
def unpowered : State := State.reset.onPins fun x => { x with pwrEn := false, pwrGood := false }
theorem witness_PowerUpBootAndHostReset :
    unpowered.plant.pins.pwrEn = false ∧ State.reset.plant.pins.pwrEn = true ∧
    (State.reset.onPins fun x => { x with perst := true }).plant.pins.perst = true ∧ State.reset.plant.pins.perst = false ∧
    State.reset.configOpen = false ∧ State.reset.plant.bus.linkUp = true ∧ live.configOpen = true ∧ live.plant.bus.linkUp = true ∧
    (live.set Reg.hifCfgBifurcated 0 1).flag Reg.hifCfgBifurcated 0 = true ∧ unpowered.verified = false ∧
    (live.onBus fun b => { b with linkUp := false }).plant.bus.linkUp = false ∧
    State.reset.inRom = true ∧ State.reset.romBank = bit01 false ∧ (State.reset.set Reg.secStsBankNext 0 1).romBank = bit01 true ∧
    (State.reset.bankImage 0 firmware).isSome = true ∧
    ((State.reset.onSec fun x => { x with banks := .empty }).bankImage 0 firmware).isNone = true ∧
    (∀ n ∈ [1, 2, 3], let s := State.reset.set Reg.rstBootPhase 0 n; 1 ≤ s.bootPhase ∧ s.bootPhase ≤ 3) ∧
    (let s := (State.reset.onBoot fun b => { b with held := true }).set Reg.rstStsLastCause 0 4;
      s.plant.boot.held = true ∧ s.get Reg.rstStsLastCause 0 = 4) ∧
    (let s := State.reset.set Reg.rstBootPhase 0 3; s.bootPhase = 3 ∧ s.plant.boot.held = false) ∧ State.reset.bootPhase ≠ 3 := by decide +kernel

theorem witness_AlertQuenchSupplyAndClamp :
    (bound.recognised 50 20 50).1 = true ∧ (bound.recognised 20 20 50).1 = false ∧ (bound.recognised 1000 200 1000).1 = true ∧
    (bound.recognised 200 200 1000).1 = false ∧
    (bound.onPower fun x => { x with alertEnd := some 500 }).plant.power.alertEnd = some 500 ∧ bound.plant.power.alertEnd = none ∧
    (bound.onPower fun x => { x with quenchAt := some 500 }).plant.power.quenchAt = some 500 ∧ bound.plant.power.quenchAt = none ∧
    (bound.onPower fun x => { x with clampEnd := some 500 }).plant.power.clampEnd = some 500 := by decide +kernel

/-- One window of estimates within the allowance, and one above it at every gap. -/
theorem witness_CapLoopCalibrationAndThermalFloor :
    bound.plant.clock.stopped = false ∧
    (let t := bound.atMultiple 1000000; let w := t.windowMs; let sum := 100;
      (0 : Int) ≤ ((t.capW * w : Nat) - ((sum - 0 : Nat) : Int)) * gapScale ∧
      (List.range 9).all (fun g => decide (((t.capW * w : Nat) - ((sum - 0 : Nat) : Int)) * gapScale <
        predicted 0xFFFFFFFF 0 (t.get Reg.pwrStsG 0) g [])) = true ∧
      (List.range 9).all (fun g => decide ((predicted 0 0 (t.get Reg.pwrStsG 0) g [] : Int) ≤
        ((t.capW * w : Nat) - ((sum - 0 : Nat) : Int)) * gapScale)) = true) ∧
    (let t := (allied Ms.active 1 membership).atMultiple 1000000; let c := t.capW * t.windowMs; let p := BitVec.ofNat 32 (c * 8 / 7);
      t.alloyGaps = [(1, 0, 0)] ∧
      (List.range 9).all (fun g => decide (c * gapScale < predicted 0 0 (t.get Reg.pwrStsG 0) g [(p.toNat, 0, 0)])) = true ∧
      (List.range 8).all (fun ga => decide (c * gapScale < predicted 0 0 (t.get Reg.pwrStsG 0) 8 [(p.toNat, 0, ga)])) = true ∧
      predicted 0 0 (t.get Reg.pwrStsG 0) 8 [(p.toNat, 0, 8)] ≤ c * gapScale) ∧
    (1 : BitVec 48) ≠ 0 ∧
    ((bound.atMultiple 10000000).set Reg.clkAonTrimSrc 0 1).get Reg.clkAonTrimSrc 0 = 1 ∧
    (let t := (fields bound [(Reg.clkAonTrimSrc, 0, 7), (Reg.lnkStsState, 5, 6)]).atMultiple 10000000;
      t.get Reg.clkAonTrimSrc 0 = 7 ∧ t.portOpen (7 - 2) = true) := by decide +kernel
theorem witness_TimePpsCapturesTimeOnly :
    (let s := bound.set Reg.ftmCfgPpsEn 0 1; s.flag Reg.ftmCfgPpsEn 0 = true ∧ s.regs.wf = true) ∧
    bound.flag Reg.ftmCfgPpsEn 0 = false ∧ Field.key Reg.ftmStsLstate 0 ≠ Field.key Reg.ftmPpsPpsNs 0 := by decide +kernel

/-- Port 5 in a state. -/
def porting (st : Nat) (x : Port) : State := (bound.set Reg.lnkStsState 5 st).setPort 5 x
/-- Bit-error rates with the first four lanes too bad, or the first five. -/
def rates (bad : Nat) : List (BitVec 32) := (List.range 68).map fun k => if k < bad then 10000 else 9999
theorem witness_PortBringUp :
    (5 : PortNo).toNat < 6 ∧ (porting 1 .reset).portState 5 = 1 ∧ popcount 68 (BitVec.ofNat 68 (2 ^ 64 - 1)).toNat = 64 ∧
    (porting 2 .reset).portState 5 = 2 ∧ (rates 4).length = 68 ∧
    ((sortLanes (rates 4)).take 64).all (fun e => decide (e.1 < 10000)) = true ∧
    ((sortLanes (rates 5)).take 64).any (fun e => decide (10000 ≤ e.1)) = true ∧
    (∀ k ∈ [false, true], let x := { Port.reset with keys := k }; (porting 3 x).portState 5 = 3 ∧ ((porting 3 x).port 5).keys = k) ∧
    (BitVec.ofNat 64 1 ≠ BitVec.allOnes 64) ∧
    (let x := { Port.reset with helloOk := true }; let s := porting 4 x; s.portState 5 = 4 ∧ (s.port 5).helloOk = true ∧
      (0 : DeviceId).toNat = s.deviceId ∧ (5 : DeviceId).toNat ≠ s.deviceId) ∧
    (let x := { Port.reset with echoes := 1023 }; let s := porting 5 x; s.portState 5 = 5 ∧ (s.port 5).echoes + 1 = 1024) ∧
    [2, 3, 4, 5].all (fun n => (portBound ((porting n .reset).portState 5)).isSome) = true ∧
    [0, 1, 6].all (fun n => (portBound ((porting n .reset).portState 5)).isNone) = true := by decide +kernel
theorem witness_FabricTimeFromTheParent :
    (let s := follower (bound.set Reg.ftmCfgAltParent 0 5); s.role = 2 ∧ s.portOpen 0 = true ∧ s.parentPort = 0 ∧
      s.net.missStrokes = 0) ∧
    (let s := (follower (fields bound [(Reg.ftmCfgAltParent, 0, 5), (Reg.lnkStsState, 5, 6)])); s.portOpen 5 = true ∧
      5 ≠ s.parentPort ∧ 5 = s.get Reg.ftmCfgAltParent 0 ∧ s.net.altInUse = false) ∧
    (let s := (follower (bound.set Reg.lnkStsState 5 6)); s.portOpen 5 = true ∧ 5 ≠ s.parentPort ∧
      5 ≠ s.get Reg.ftmCfgAltParent 0) ∧
    bound.portOpen 5 = false ∧ bound.role ≠ 2 ∧
    (let s := (follower bound).onNet fun n => { n with missStrokes := 3 }; 4 ≤ s.net.missStrokes + 1 ∧ s.role = 2 ∧
      s.portOpen 0 = true) ∧
    (let s := (follower bound).set Reg.ftmStsLstate 0 Ts.holdover; s.get Reg.ftmStsLstate 0 = Ts.holdover ∧ s.parentPort < 6 ∧
      s.portOpen s.parentPort = true) := by decide +kernel
theorem witness_LinkIntervalsLanesAndHolds :
    (porting 5 .reset).portState 5 = 5 ∧ (porting 6 .reset).portOpen 5 = true ∧ (porting 5 .reset).portOpen 5 = false ∧
    (let s := porting 6 { Port.reset with lostStroke := 0, lostRun := 2 }; (s.port 5).lostStroke = s.now / 1000 ∧
      3 ≤ (s.port 5).lostRun + 1) ∧
    (let x := { Port.reset with lanes := List.range 64, spares := [64, 65, 66, 67], swap := some (63, 67, 0) }; let s := porting 6 x;
      s.portOpen 5 = true ∧ (s.port 5).swap = some (63, 67, 0) ∧ (s.port 5).txSwap = none) ∧
    (let x := { Port.reset with txSwap := some (63, 67, 0) }; let s := porting 6 x;
      s.portOpen 5 = true ∧ (s.port 5).swap = none ∧ (s.port 5).txSwap = some (63, 67, 0)) ∧
    ((porting 6 { Port.reset with keys := true }).port 5).keys = true ∧
    (let s := headed bound { cmd with phase := .running }; (s.line 1).hold = none ∧
      ((s.line 1).cmds.any fun c => decide (c.phase ≠ .waiting)) = true) ∧
    (let s := (porting 6 { Port.reset with tx := List.replicate 769 ⟨1, 3, 0⟩ }).setSeg 1 (segRun 0);
      (s.line 1).hold = none ∧ (s.seg 1).isSome = true ∧ s.linkHolds 5 1 = true ∧ s.linkHolds 4 1 = false) ∧
    (∀ h ∈ [HoldKind.link 5, .barrier 9], ((bound.setLine 1 { ExecLine.empty with hold := some (h, 100) }).line 1).hold = some (h, 100)) ∧
    (bound.line 1).hold = none := by decide +kernel
/-- Port 5 open, with slots 1 and 6249 of both directions held by partition 1. -/
def slotted (s : State) : State := (s.set Reg.lnkStsState 5 6).onNet fun n => { n with
  slots := ⟨[(10 * 8192 + 1, 0x81), (10 * 8192 + 6249, 0x81), (11 * 8192 + 1, 0x81), (11 * 8192 + 6249, 0x81)]⟩ }
theorem witness_FlitsLeaveAndArrive :
    (let s := (slotted bound).setPort 5 { Port.reset with tx := [⟨1, 3, 0⟩] }; s.portOpen 5 = true ∧ 1 % 125 ≠ 0 ∧ 6249 % 125 ≠ 0 ∧
      [1, 6249].map (s.slotHolder 5 0) = [some 1, some 1] ∧ s.slotHolder 5 0 2 = none ∧
      Nat.testBit (s.port 5).paused 1 = false ∧ s.quenched = false ∧ s.ptnState 1 = ptnActive ∧
      (s.port 5).nextPoint 1 = some 3 ∧ s.openTxSlot 5 2 = true) ∧
    (let s := slotted bound; (s.port 5).nextPoint 1 = none) ∧ bound.portOpen 5 = false ∧
    (let s := slotted (allied Ms.active 0 membership); s.portOpen 5 = true ∧ [1, 6249].map (s.slotHolder 5 1) = [some 1, some 1] ∧
      s.slotHolder 5 1 2 = none ∧ s.get Reg.ptnpAlloyAlloyId 1 = (7 : BitVec 32).toNat ∧ s.mstate 1 ≠ Ms.none ∧
      (s.line 1).killed = []) ∧
    (let s := (slotted (allied Ms.active 0 membership)).setLine 1 { ExecLine.empty with
        killed := [({ cmd with op := 2, cmdSeq := 3 }, ⟨3, .fault, 0, none, 0⟩)] };
      ((s.line 1).killed.any fun k => decide (k.1.op = 2 ∧ k.1.cmdSeq % 2 ^ 18 = (3 : BitVec 18).toNat)) = true) := by
  decide +kernel

/-- A message between this device, 0, and device 5 about the record, with its epoch. -/
def hoMsg (src dst : BitVec 16) (epoch : BitVec 32) (code : Byte) : HoMsg := ⟨code, epoch, src, dst, recordHandle, recordHandle, 64⟩
/-- The record of a state and an epoch, its peer device 5's record of the same handle. -/
def peered (state epoch : Nat) : HoRecord := { record state with peerDevice := 5, peerHandle := recordHandle.toNat, epoch := epoch }
/-- The device with that record. -/
def peering (state epoch : Nat) : State := (buffered bound).setRecord 0 (peered state epoch)
theorem witness_HandoffMessages :
    (hoMsg 0 5 3 0).dstDevice.toNat ≠ bound.deviceId ∧ (hoMsg 5 0 3 0).dstDevice.toNat = bound.deviceId ∧
    bound.findRecord recordHandle.toNat = none ∧ bound.record 0 = none ∧
    (peering 1 4).findRecord (2 * 262144) = none ∧ (peering 1 4).record 0 = some (peered 1 4) ∧
    (∀ st ∈ [1, 2, 3, 4, 5, 6], let s := peering st 4; s.findRecord recordHandle.toNat = some (0, peered st 4) ∧
      (peered st 4).state = st ∧ (peered st 4).peerIsSource (hoMsg 5 0 3 0) = true ∧
      (peered st 4).peerIsSource (hoMsg 6 0 3 0) = false ∧ (peered st 4).epoch = 3 + 1 ∧
      (peered st 4).peerIsDest (hoMsg 0 5 5 0) = true ∧ (peered st 4).epoch + 1 = 5 ∧
      (peered st 4).peerIsDest (hoMsg 0 6 5 0) = false) ∧
    (peered 4 0).capacity < (65 : Word).toNat ∧ (64 : Word).toNat ≤ (peered 4 0).capacity ∧ (peered 6 4).unconfirmed = true ∧
    (hoMsg 0 5 5 0).srcDevice.toNat = bound.deviceId ∧
    ((peering 5 4).receiver 5 0).isSome = true ∧ ((peering 4 4).receiver 5 0).isNone = true := by decide +kernel

/-- A record that has received a trailer-sized stream of 64 bytes into an append object in slot 0. -/
def received : HoRecord := { record 5 with received := List.replicate 256 0 }
theorem witness_HandoffStreamsAndTimers :
    (let s := (bound.setRecord 0 { record 2 with streaming := true }); s.record 0 = some { record 2 with streaming := true } ∧
      s.net.ports.vals = []) ∧
    (let s := (bound.setObj 0 { buffer with append := true }).setRecord 0 received; s.record 0 = some received ∧
      received.state = 5 ∧ received.epoch = (0xFFFFFFFB : BitVec 32).toNat ∧ (64 : Word).toNat = received.length ∧
      received.received.length = 256 * ceilDiv (64 + 128) 256 ∧ (65 : Word).toNat ≠ received.length ∧
      (s.host.objs.find received.recvObj).isSome = true) ∧
    (∀ n ∈ [0, 2, 3], let x := { record 2 with nextSend := some 500, sends := n }; (bound.setRecord 16383 x).record 16383 = some x ∧
      x.nextSend = some 500) ∧
    (∀ n ∈ [2, 3], let x := { record 6 with nextSend := some 500, sends := n }; (bound.setRecord 16383 x).record 16383 = some x ∧
      x.unconfirmed = true) ∧
    (∀ b ∈ [false, true], let x := { record 2 with streamEnd := some 500, limitPassed := b };
      (bound.setRecord 16383 x).record 16383 = some x ∧ x.streamEnd = some 500) := by decide +kernel
/-- The digest that the trailer carries agrees, whatever the hash is. -/
theorem witness_HandoffStreamsAndTimers_digest :
    ∃ digest, Config.sha256 (received.received.take (64 + 64)) = digest := ⟨_, rfl⟩

/-- A request header from device 5 to a device. -/
def header (src dst : DeviceId) : OpenHdr := ⟨2, 1, src, dst, 9⟩
/-- Partition 1 in an alloy with device 5, its buffer mapped and read and written from outside. -/
def target (o : MemObj) : State := (mapped (allied Ms.active 0 membership)).setObj 0 { o with ap := true }
theorem witness_RemoteRequestsAtTheirTarget :
    (let s := target buffer; (header 5 0).dstDevice.toNat = s.deviceId ∧ (header 5 3).dstDevice.toNat ≠ s.deviceId ∧
      s.targetOf (header 5 0) = some 1 ∧ s.targetOf (header 6 0) = none ∧
      (s.remoteLines [] 1 false [0x10000, 0x10FFC0]).2.1 = none ∧ ((s.remoteLines [] 1 false [0x10FFC0, 0x40000000]).2.1).isSome = true ∧
      (s.remoteLines [] 1 true [0x10000]).2.1 = none ∧ (s.remoteLines [] 1 true []).2.1 = none ∧
      ((s.remoteLines [] 1 true [0x40000000]).2.1).isSome = true ∧
      ((s.remoteLines [] 1 false [0x10000]).1.all fun l => !(l.2.2.any fun o => o.readsZero l.1)) = true ∧
      s.net.remoteWrites = [] ∧ s.badLine [] [0x10000] = none ∧ s.badLine [badLine 0x10000] [0x10000] = some 0x10000) ∧
    (let s := target { buffer with append := true }; (s.remoteLines [] 1 false [0x10000]).2.1 = none ∧
      ((s.remoteLines [] 1 false [0x10000]).1.all fun l => (l.2.2.any fun o => o.readsZero l.1) && !s.ownAccess 1 false l.1) = true) ∧
    (∀ n ∈ [4, 5], let w : RemoteWrite := ⟨5, 1, 9, 1, 0x10000, n, 0, 0⟩;
      let s := (target buffer).onNet fun n => { n with remoteWrites := [w] };
      s.net.remoteWrites.find? (fun w => w.of (header 5 0)) = some w ∧
      (s.remoteLines [] 1 true ((List.range 4).map fun k => w.va % 2 ^ 48 + 64 * (w.done + k))).2.1 = none) ∧
    (let w : RemoteWrite := ⟨5, 1, 9, 1, 0x3FFFFFC0, 2, 0, 0⟩; let s := (target buffer).onNet fun n => { n with remoteWrites := [w] };
      s.net.remoteWrites.find? (fun w => w.of (header 5 0)) = some w ∧
      ((s.remoteLines [] 1 true ((List.range 2).map fun k => w.va % 2 ^ 48 + 64 * (w.done + k))).2.1).isSome = true) := by
  decide +kernel
/-- A request of the running command, of six lines to device 5, for a destination here or at device 6. -/
def request (write : Bool) (dst : Nat) : RemoteReq := ⟨1, 1, write, 5, 0x10000, 6, 4, dst, 0, 0⟩
theorem witness_RemoteAnswersAtTheirSource :
    (∀ w ∈ [false, true], let r := request w 0x10000;
      let s := (headed (imaged bound content) runningCmd).onNet fun n => { n with requests := ⟨[(9, r)]⟩ };
      (header 5 0).dstDevice.toNat = s.deviceId ∧ s.net.requests.find (header 5 0).tag.toNat = some r ∧
      r.device = (header 5 0).srcDevice.toNat ∧ r.device ≠ (header 6 0).srcDevice.toNat ∧ s.requestLives r = true ∧
      s.localVa r.dst = some 0x10000) ∧
    (let r := request false (2 ^ 62 + 6 * 2 ^ 48); let s := (headed (imaged bound content) runningCmd).onNet fun n =>
        { n with requests := ⟨[(9, r)]⟩ };
      s.requestLives r = true ∧ (s.localVa r.dst).isNone = true) ∧
    (let r := request false 0x10000; (bound.onNet fun n => { n with requests := ⟨[(9, r)]⟩ }).requestLives r = false) ∧
    bound.net.requests.find 9 = none := by decide +kernel

theorem witness_JtagAndI3c :
    bound.plant.pins.pwrEn = true ∧ bound.released = true ∧ State.reset.released = false ∧ unpowered.plant.pins.pwrEn = false ∧
    (let s := bound.set Reg.ptnpSecDbgItem 1 1; s.flag Reg.ptnpSecDbgItem 1 = true ∧ s.sliceOwner 0 = some 1 ∧
      [0, 1, 2, 3, 4, 5, 6].all (fun k => (s.debugWord 0 k (if k = 2 then 6 * 2 ^ 21 else if k = 5 then 4 * 2 ^ 21 + 511 else 0)).isSome)
        = true) ∧
    bound.flag Reg.ptnpSecDbgItem 1 = false ∧ bound.trayPages.contains secPage = true ∧ bound.trayPages.contains ptnPage = false ∧
    bound.bootPhase ≠ 15 ∧
    (let s := (State.reset.set Reg.rstBootPhase 0 15).onSec fun x => { x with banks := .empty };
      s.bootPhase = 15 ∧ s.erased 1 (bankSpan / 64 - 1) = true ∧ (bankSpan - 64) % 64 = 0 ∧ bankSpan - 64 < bankSpan ∧
      bankSpan - 64 + 64 ≤ bankSpan) ∧
    (1 : Byte).getLsbD 0 = true ∧ bound.plant.side.dynamic = none ∧ (0x50 : BitVec 7).toNat = bound.staticAddress ∧
    (∀ b ∈ [false, true], let s := (bound.onPins fun x => { x with fault := true }).onSide fun x =>
        { x with ibis := [1], ibiEnabled := b };
      s.plant.side.ibis.contains 1 = true ∧ s.ibiStands 1 = true ∧ s.plant.side.ibiEnabled = b) ∧
    (let s := bound.onSide fun x => { x with ibis := [5] }; s.plant.side.ibis.contains 5 = true ∧ s.ibiStands 5 = false) := by
  decide +kernel

theorem witness_EmptyQueueIdles :
    State.reset.pending = [] ∧ bound.get Reg.rstBootPhase 0 ≠ 1 ∧
    (bound.onClock fun c => { c with stopped := true }).plant.clock.stopped = true ∧ bound.plant.clock.frac < 19660800 ∧ 19660800 ≤ (bound.onClock fun c => { c with frac := 19660800 }).plant.clock.frac ∧
    (List.range 64).all (fun sl => !(bound.idle.seqRuns sl) && (bound.idle.seqr sl).launchAt.isNone) = true ∧
    Reg.ftmStsLstate.id ≠ Reg.dieTickTick.id ∧ 262143 < fieldStride := by decide +kernel
theorem witness_CommandsFollow : exec (.idcode) State.reset = .next (State.reset.emit (.tdo (Config.idcode.setWidth 64))) := rfl
theorem witness_HbmWrittenOnlyByNamedRows : mayWriteHbm .idcode = false := rfl
theorem witness_EveryStepKeepsForm :
    State.reset.wf = true ∧ bound.wf = true ∧ stored.wf = true ∧
    ∃ t, step State.reset = .next t := ⟨by decide +kernel, by decide +kernel, by decide +kernel, _, rfl⟩
theorem witness_RegisterFieldsReadBack :
    bound.regs.wf = true ∧ Reg.ftmStsLstate.key 262143 ≠ Reg.ftmStsLstate.key 0 ∧
    Reg.ftmStsLstate.id ≠ Reg.dieTickTick.id ∧ 262143 < fieldStride := by decide +kernel
/-- A line of slice 0's channels before and after a change of the key epoch, and with its owner unchanged. -/
theorem witness_LinesReadBackUnderTheirKey :
    ((mapped bound).set Reg.ptnpMemEpochEpoch 1 1).keyOf 0 ≠ (mapped bound).keyOf 0 ∧
    (let t := ((mapped bound).writeLine 0 5).set Reg.ptnpMemEpochEpoch 1 1; t.mem = ((mapped bound).writeLine 0 5).mem) ∧
    (let t := ((mapped bound).writeLine 0 5).set Reg.ptnpMemEpochEpoch 2 1; t.mem = ((mapped bound).writeLine 0 5).mem ∧ t.keyOf 0 = (mapped bound).keyOf 0) ∧
    64 / 64 ≠ 63 / 64 ∧ (mapped bound).mem.tables.wf = true ∧ tableKey 63 2097151 0 + 7 ≠ tableKey 63 2097151 0 + 6 := by decide +kernel

end Sys2Proof.Tests
end

section
/-! Admission and the deadline (R36, R40): what a judgement can answer, and that every answer keeps the deadline rule. -/

namespace Sys2Proof.Machine

/-! ### The shapes of a judgement -/

/-- The last test of a judgement, of a command whose promise is known: nothing has a promise behind a debug item (R475), and
the deadline decides on the rest (R40). -/
def deadlineVerdict (d : Desc) (debugAhead : Bool) (c : Cmd) : Judged :=
  let late := c.tPromise + (if c.paced then Config.paceNs else 0)
  if debugAhead then .refuse St.rejDeadline 0 0 never
  else if d.deadline ≠ never ∧ d.deadline < late then .refuse St.rejDeadline 0 0 c.tPromise
  else ⟨St.accepted, 0, 0, c.tPromise, some c⟩

/-- A judgement is either a refusal under another status than ACCEPTED, or the deadline test of a command that is paced as
its descriptor says. -/
inductive Judged.Decides (d : Desc) (debugAhead : Bool) : Judged → Prop
  | refused {status dcode detail tPromise : Nat} (other : status ≠ St.accepted) :
      Decides d debugAhead (.refuse status dcode detail tPromise)
  | tested {c : Cmd} (paced : c.paced = Nat.testBit d.flags 0) : Decides d debugAhead (deadlineVerdict d debugAhead c)

/-- The closures of checks 1 and 2 answer statuses of their own (R36). -/
theorem admitClosed_ne_accepted {s : State} {p status : Nat} (h : s.admitClosed p = some status) :
    status ≠ St.accepted := by
  unfold State.admitClosed at h
  split_ifs at h <;> cases h <;> decide

/-- Every way through the checks of R36 ends in a refusal or in the deadline test. -/
theorem judge_decides (s : State) (p i q sqHead : Nat) (x : Inst) (d : Desc) (ahead : List Item) (free : Nat)
    (other : Nat × List Word) :
    (s.judge p i q sqHead x d ahead free other).Decides d (ahead.any Item.isDebug) := by
  unfold State.judge
  split
  case h_1 status closed => exact .refused (admitClosed_ne_accepted closed)
  case h_2 => -- check 3
    extract_lets line held uses
    split
    case h_1 => exact .refused (by decide)
    case h_2 => -- a SIGNAL has no image and no terms
      split
      case h_1 => exact .tested rfl
      case h_2 => -- translation of every page (R251), whichever address it is that fails
        extract_lets unmapped
        clear_value unmapped
        split
        case h_1 => exact .refused (by decide)
        case h_2 => -- the quota of store entries (R251)
          split
          case isTrue => exact .refused (by decide)
          case isFalse => -- M_open, with no value at a bandwidth of 0 (R41)
            split
            case h_1 => exact .refused (by decide)
            case h_2 => exact .tested rfl

/-! ### The deadline rule -/

/-- What R40 asks of a judgement of a descriptor: an accepted command keeps its deadline with its promise, and ACCEPTED is
the status of exactly those that carry a command. -/
structure Judged.KeepsDeadline (d : Desc) (j : Judged) : Prop where
  ofCommand : ∀ c, j.cmd = some c → j.status = St.accepted ∧ j.tPromise = c.tPromise ∧ c.paced = Nat.testBit d.flags 0 ∧
    (d.deadline ≠ never → c.tPromise + (if c.paced = true then 20 else 0) ≤ d.deadline)
  ofNone : j.cmd = none → j.status ≠ St.accepted

/-- A refusal names no command, so that only its status is asked for. -/
theorem refuse_keepsDeadline {d : Desc} {status dcode detail tPromise : Nat} (other : status ≠ St.accepted) :
    (Judged.refuse status dcode detail tPromise).KeepsDeadline d where
  ofCommand _ h := nomatch h
  ofNone _ := other

theorem deadlineVerdict_keepsDeadline {d : Desc} {debugAhead : Bool} {c : Cmd} (paced : c.paced = Nat.testBit d.flags 0) :
    (deadlineVerdict d debugAhead c).KeepsDeadline d := by
  unfold deadlineVerdict
  extract_lets late
  split_ifs with debug missed
  · exact refuse_keepsDeadline (by decide)
  · exact refuse_keepsDeadline (by decide)
  · have met (limited : d.deadline ≠ never) : late ≤ d.deadline := Nat.le_of_not_lt fun h => missed ⟨limited, h⟩
    exact ⟨fun _ h => Option.some.inj h ▸ ⟨rfl, rfl, paced, met⟩, nofun⟩

theorem Judged.Decides.keepsDeadline {d : Desc} {debugAhead : Bool} {j : Judged} (h : j.Decides d debugAhead) :
    j.KeepsDeadline d := by
  cases h with
  | refused other => exact refuse_keepsDeadline other
  | tested paced => exact deadlineVerdict_keepsDeadline paced

/-- Settles O22: the command of a judgement has passed the deadline test, and no other outcome carries one (R40). -/
theorem admissionMeetsTheDeadline : Obligations.AdmissionMeetsTheDeadline := by
  unfold Obligations.AdmissionMeetsTheDeadline
  intro s p i q sqHead x d ahead free other
  obtain ⟨ofCommand, ofNone⟩ := (judge_decides s p i q sqHead x d ahead free other).keepsDeadline
  exact ⟨ofCommand, ofNone⟩

end Sys2Proof.Machine
end

section
/-! The capture input TIME_PPS (R338), over the reading of a register field after a field is written. -/

namespace Sys2Proof.Machine

/-! ### A register field after a write -/

/-- The canonical form is needed for a write of the reset value only, which takes the key out of the table. -/
theorem State.get_set_self {s : State} (hwf : s.regs.wf = true) (f : Field) (i v : Nat) :
    (s.set f i v).get f i = v % 2 ^ f.width :=
  FMap.getD_putD_self hwf (f.key i) f.reset (v % 2 ^ f.width)

theorem State.get_set_ne (s : State) {f g : Field} {i j : Nat} (v : Nat) (hkey : g.key j ≠ f.key i) :
    (s.set f i v).get g j = s.get g j :=
  FMap.getD_putD_ne s.regs f.reset (v % 2 ^ f.width) g.reset hkey

/-! ### A rising edge of TIME_PPS -/

theorem exec_timePps_of_enabled {s : State} (enabled : s.flag Reg.ftmCfgPpsEn 0 = true) :
    exec .timePps s = .next (s.set Reg.ftmPpsPpsNs 0 s.now) := by
  rw [exec_timePps, execTimePps, if_pos enabled]

theorem exec_timePps_of_disabled {s : State} (disabled : s.flag Reg.ftmCfgPpsEn 0 = false) :
    exec .timePps s = .next s := by
  rw [exec_timePps, execTimePps, if_neg (Bool.not_eq_true _ ▸ disabled)]

/-- Settles O40: an edge that is enabled is one write of FTM_PPS, which leaves every other field and part of the state, and
any other edge answers the state itself (R338). -/
theorem timePpsCapturesTimeOnly : Obligations.TimePpsCapturesTimeOnly := by
  unfold Obligations.TimePpsCapturesTimeOnly
  refine fun s => ⟨fun enabled => ⟨s.set Reg.ftmPpsPpsNs 0 s.now, exec_timePps_of_enabled enabled, ?captured, ?frame⟩,
    exec_timePps_of_disabled⟩
  case captured => exact fun hwf => State.get_set_self hwf Reg.ftmPpsPpsNs 0 s.now
  case frame =>
    have others (f : Field) (i : Nat) (hkey : f.key i ≠ Reg.ftmPpsPpsNs.key 0) :
        (s.set Reg.ftmPpsPpsNs 0 s.now).get f i = s.get f i := State.get_set_ne s s.now hkey
    simpa only [State.set_now, State.set_plant, State.set_net, State.set_host, State.set_mem, State.set_tiles,
      State.set_clusters, State.set_engines, State.set_evcs, State.set_msgs, State.set_out, State.set_pending,
      State.set_freeCtr, true_and] using others

end Sys2Proof.Machine
end

section
/-! Events and their messages (R420, R522): when a page sends one, and what a message leaves as it was. -/

namespace Sys2Proof.Machine

/-! ### A message -/

@[simp] theorem State.sendEvent_regs (s : State) (page : Nat) : (s.sendEvent page).regs = s.regs := by
  unfold State.sendEvent
  extract_lets evc
  split_ifs
  · rfl
  · rfl

/-- A message joins those in flight where EVT_ROUTE names the sequencer of an available slice or a management core; no
other is kept (R419). -/
theorem State.sendEvent_msgs (s : State) (page : Nat) :
    (s.sendEvent page).msgs = s.msgs ∨
      (s.sendEvent page).msgs = s.msgs ++ [⟨page, s.get Reg.evtRouteEvc page, s.get Reg.evtRouteSource page⟩] ∧
        (s.get Reg.evtRouteEvc page < 64 ∧ Nat.testBit (s.get Reg.ptnAvailAvail 0) (s.get Reg.evtRouteEvc page) = true ∨
          64 ≤ s.get Reg.evtRouteEvc page ∧ s.get Reg.evtRouteEvc page < 68) := by
  unfold State.sendEvent
  extract_lets evc
  split_ifs with routed
  · exact .inr ⟨rfl, routed⟩
  · exact .inl rfl

/-! ### What may send one -/

/-- The rule of R420: a page whose events have changed from those of `s` to those of `t` sends a message when they have become
pending and enabled while ENABLE is 1. -/
def State.messageOnRise (s t : State) (page : Nat) : State :=
  if s.evtActive page = false ∧ t.evtActive page = true ∧ s.flag Reg.blkCtlEnable page = true then t.sendEvent page else t

theorem State.event_eq_messageOnRise (s : State) (page bit : Nat) :
    s.event page bit = s.messageOnRise (s.setBits Reg.evtPendPend page (2 ^ bit)) page := by
  simp only [State.event, State.messageOnRise, Bool.not_eq_true]

theorem State.writeEvtEn_eq_messageOnRise (s : State) (page v : Nat) :
    s.writeEvtEn page v = s.messageOnRise (s.set Reg.evtEnEn page (v &&& evtMask page)) page := by
  simp only [State.writeEvtEn, State.messageOnRise, Bool.not_eq_true]

theorem State.writeEnable_false (s : State) (page : Nat) :
    s.writeEnable page false = s.set Reg.blkCtlEnable page 0 := by
  simp only [State.writeEnable, Bool.false_eq_true, false_and, if_false]

theorem State.writeEnable_true (s : State) (page : Nat) :
    s.writeEnable page true =
      if s.flag Reg.blkCtlEnable page = false ∧ (s.set Reg.blkCtlEnable page 1).evtActive page = true then
        (s.set Reg.blkCtlEnable page 1).sendEvent page
      else s.set Reg.blkCtlEnable page 1 := by
  simp only [State.writeEnable, Bool.not_eq_true, if_true, true_and]

/-! ### The commands, on a page whose header takes writes -/

theorem exec_blkEnable_of_headerOpen {s : State} {page : BitVec 14} (takes : s.headerOpen page.toNat = true) :
    exec (.blkEnable page) s = .next (s.writeEnable page.toNat true) := by
  rw [exec_blkEnable, execBlkEnable, if_pos takes]

theorem exec_evtEn_of_headerOpen {s : State} {page : BitVec 14} (value : Word) (takes : s.headerOpen page.toNat = true) :
    exec (.evtEn page value) s = .next (s.writeEvtEn page.toNat value.toNat) := by
  rw [exec_evtEn, execEvtEn, if_pos takes]

/-- Settles O15: a rising event and a write of EVT_EN send under the one rule of R420, and BLK_ENABLE under that of R522. -/
theorem eventMessageRule : Obligations.EventMessageRule := by
  unfold Obligations.EventMessageRule
  refine fun s page bit => ⟨s.event_eq_messageOnRise page bit, s.sendEvent_regs page, s.writeEnable_false page,
    s.sendEvent_msgs page, fun pg takes => ⟨?enable, fun value => ?events⟩⟩
  case enable => rw [exec_blkEnable_of_headerOpen takes, State.writeEnable_true]
  case events => rw [exec_evtEn_of_headerOpen value takes, State.writeEvtEn_eq_messageOnRise, State.messageOnRise]

end Sys2Proof.Machine
end

section
/-! Accesses to BAR0 and BAR2 by size and alignment, and offsets that no register lists (R518). -/

namespace Sys2Proof.Machine

/-! ### Size and alignment -/

theorem accessOk_iff (offset : BitVec 26) (size : BitVec 8) :
    accessOk offset.toNat size.toNat = true ↔
      size = 4 ∧ offset.toNat % 4 = 0 ∨ size = 8 ∧ offset.toNat % 8 = 0 := by
  have four : size = 4 ↔ size.toNat = 4 := BitVec.toNat_eq
  have eight : size = 8 ↔ size.toNat = 8 := BitVec.toNat_eq
  simp only [accessOk, Bool.or_eq_true, Bool.and_eq_true, decide_eq_true_eq, four, eight]

theorem exec_badAccess_of_misaligned {s : State} {bar : BitVec 3} {offset : BitVec 26} {size : BitVec 8} (write : Bool)
    (onBar : bar = 0 ∨ bar = 2) (misaligned : ¬ accessOk offset.toNat size.toNat = true) :
    exec (.badAccess bar offset size write) s = .next (if write = true then s.bump Reg.glbStsBadAccess 0 else
      (s.bump Reg.glbStsBadAccess 0).emit (.busRead (some (List.replicate size.toNat 0)))) := by
  rw [exec_badAccess, execBadAccess, if_pos ⟨onBar, misaligned⟩]

theorem exec_badAccess_of_accessOk {s : State} {offset : BitVec 26} {size : BitVec 8} (bar : BitVec 3) (write : Bool)
    (aligned : accessOk offset.toNat size.toNat = true) : exec (.badAccess bar offset size write) s = .next s := by
  rw [exec_badAccess, execBadAccess, if_neg fun h => h.2 aligned]

theorem exec_registerWrite_of_misaligned {s : State} {offset : BitVec 26} {size : BitVec 8} (origin : Origin) (value : Word)
    (misaligned : ¬ accessOk offset.toNat size.toNat = true) :
    exec (.registerWrite origin offset size value) s = .next (s.bump Reg.glbStsBadAccess 0) := by
  rw [exec_registerWrite, execRegisterWrite, if_pos misaligned]

/-! ### Offsets that nothing lists -/

/-- Past the identification words of the header a page reads by its registers alone, except the areas of EVC and MBX pages,
which are not tables of registers. -/
theorem State.regWord_of_unlisted {s : State} {page off d i : Nat} {t : Page} (info : pageInfo page = some (t, d, i))
    (header : headerPage page = true) (past : 0x10 ≤ off) (unlisted : regAt t i page off = none)
    (table : t = .evc ∨ t = .mbx → ¬ (0x40 ≤ off ∧ off < 0xF00)) : s.regWord page off = 0 := by
  have notEvc : ¬ (t = .evc ∧ 0x40 ≤ off ∧ off < 0xF00) := fun h => table (.inl h.1) h.2
  have notMbx : ¬ (t = .mbx ∧ 0x40 ≤ off ∧ off < 0xF00) := fun h => table (.inr h.1) h.2
  simp only [State.regWord, info, header, not_true_eq_false, if_false, Nat.not_lt.mpr past, if_neg notEvc, if_neg notMbx,
    unlisted, ite_self]

/-- A page that is closed, gated or stopped reads zero (R437, R440, R505), so what its registers show decides alone. -/
theorem State.bar0Word_of_regWord_eq_zero {s : State} {page off : Nat} (zero : s.regWord page off = 0) :
    s.bar0Word page off = 0 := by
  simp only [State.bar0Word, State.pageWord, zero, ite_self]

/-- Settles O16: the counted accesses are those that `accessOk` refuses, of whichever command. -/
theorem badAccessCompletesAndCounts : Obligations.BadAccessCompletesAndCounts := by
  unfold Obligations.BadAccessCompletesAndCounts
  intro s offset size
  extract_lets aligned n counted
  have ok : accessOk offset.toNat size.toNat = true ↔ aligned := accessOk_iff offset size
  refine ⟨fun bar onBar => ⟨fun misaligned => ?counts, fun h w => ?wellFormed⟩, fun misaligned origin value => ?write,
    fun page off t d i info header past unlisted table => ?unlisted⟩
  case counts =>
    have refused := mt ok.mp misaligned
    exact ⟨exec_badAccess_of_misaligned true onBar refused, exec_badAccess_of_misaligned false onBar refused⟩
  case wellFormed => exact exec_badAccess_of_accessOk bar w (ok.mpr h)
  case write => exact exec_registerWrite_of_misaligned origin value (mt ok.mp misaligned)
  case unlisted => exact State.bar0Word_of_regWord_eq_zero (State.regWord_of_unlisted info header past unlisted table)

end Sys2Proof.Machine
end

section
/-! Every command at once: what each meaning's walk says of it, and from that the rules that hold of the whole machine. -/

namespace Sys2Proof.Machine

/-- Every command goes through the primitive changes of `Respects`, and those that may write HBM through that of lines as
well: the walks of Laws/ over the whole of `exec`. -/
theorem exec_respects {R : State → State → Prop} {s0 s : State} (hR : Respects R) (c : Instr)
    (hLines : mayWriteHbm c = true → RespectsLines R) (h0 : R s0 s) : Yields (R s0) (exec c s) := by
  cases c with
  | qSqTail inst q tail => exact execQSqTail_walk hR inst q tail h0
  | qCqHead inst q head => exact execQCqHead_walk hR inst q head h0
  | instLaunch inst segment delay => exact execInstLaunch_walk hR inst segment delay h0
  | run inst q desc => exact execRun_walk hR inst q desc h0
  | alloyRun inst q desc => exact execAlloyRun_walk hR inst q desc h0
  | signal inst q desc => exact execSignal_walk hR inst q desc h0
  | commandLaunch p => exact execCommandLaunch_walk hR p h0
  | alloyLaunchInstant p => exact execAlloyLaunchInstant_walk hR p h0
  | walk p chain tableUe => exact execWalk_walk hR p chain tableUe h0
  | translationPhaseEnd p => exact execTranslationPhaseEnd_walk hR p h0
  | loadSegmentEnd p => exact execLoadSegmentEnd_walk hR p h0
  | nop t wait bits => exact execNop_walk hR t wait bits h0
  | setar t wait ar value stride zero bits => exact execSetar_walk hR t wait ar value stride zero bits h0
  | loop t wait count halfLen zero bits => exact execLoop_walk hR t wait count halfLen zero bits h0
  | tileEnd t wait bits => exact execTileEnd_walk hR t wait bits h0
  | mma t f => exact execMma_walk hR t f h0
  | clear t f => exact execClear_walk hR t f h0
  | load t f => exact execLoad_walk hR t f h0
  | store t f => exact execStore_walk hR t f h0
  | toCs t f => exact execToCs_walk hR t f h0
  | fromCs t f => exact execFromCs_walk hR t f h0
  | fadd t f => exact execFadd_walk hR t f h0
  | fsub t f => exact execFsub_walk hR t f h0
  | fmul t f => exact execFmul_walk hR t f h0
  | fma t f => exact execFma_walk hR t f h0
  | fmin t f => exact execFmin_walk hR t f h0
  | fmax t f => exact execFmax_walk hR t f h0
  | fceq t f => exact execFceq_walk hR t f h0
  | fclt t f => exact execFclt_walk hR t f h0
  | fcle t f => exact execFcle_walk hR t f h0
  | sel t f => exact execSel_walk hR t f h0
  | hadd t f => exact execHadd_walk hR t f h0
  | hsub t f => exact execHsub_walk hR t f h0
  | hmul t f => exact execHmul_walk hR t f h0
  | hfma t f => exact execHfma_walk hR t f h0
  | hmin t f => exact execHmin_walk hR t f h0
  | hmax t f => exact execHmax_walk hR t f h0
  | iadd t f => exact execIadd_walk hR t f h0
  | isub t f => exact execIsub_walk hR t f h0
  | imul t f => exact execImul_walk hR t f h0
  | and t f => exact execAnd_walk hR t f h0
  | or t f => exact execOr_walk hR t f h0
  | xor t f => exact execXor_walk hR t f h0
  | shl t f => exact execShl_walk hR t f h0
  | shr t f => exact execShr_walk hR t f h0
  | sra t f => exact execSra_walk hR t f h0
  | iceq t f => exact execIceq_walk hR t f h0
  | iclt t f => exact execIclt_walk hR t f h0
  | cvtFp32ToInt32 t f => exact execCvtFp32ToInt32_walk hR t f h0
  | cvtInt32ToFp32 t f => exact execCvtInt32ToFp32_walk hR t f h0
  | cvtFp32ToBf16 t f => exact execCvtFp32ToBf16_walk hR t f h0
  | cvtBf16ToFp32 t f => exact execCvtBf16ToFp32_walk hR t f h0
  | cvtFp32ToFp16 t f => exact execCvtFp32ToFp16_walk hR t f h0
  | cvtFp16ToFp32 t f => exact execCvtFp16ToFp32_walk hR t f h0
  | cvtFp32ToE4m3 t f => exact execCvtFp32ToE4m3_walk hR t f h0
  | cvtE4m3ToFp32 t f => exact execCvtE4m3ToFp32_walk hR t f h0
  | cvtFp32ToE5m2 t f => exact execCvtFp32ToE5m2_walk hR t f h0
  | cvtE5m2ToFp32 t f => exact execCvtE5m2ToFp32_walk hR t f h0
  | cvtFp32ToInt8 t f => exact execCvtFp32ToInt8_walk hR t f h0
  | cvtInt8ToFp32 t f => exact execCvtInt8ToFp32_walk hR t f h0
  | perm t f => exact execPerm_walk hR t f h0
  | bcast t f => exact execBcast_walk hR t f h0
  | rsum t f => exact execRsum_walk hR t f h0
  | rmax t f => exact execRmax_walk hR t f h0
  | rmin t f => exact execRmin_walk hR t f h0
  | mxq t f => exact execMxq_walk hR t f h0
  | exp t f => exact execExp_walk hR t f h0
  | log t f => exact execLog_walk hR t f h0
  | rcp t f => exact execRcp_walk hR t f h0
  | rsqrt t f => exact execRsqrt_walk hR t f h0
  | sigmoid t f => exact execSigmoid_walk hR t f h0
  | tanh t f => exact execTanh_walk hR t f h0
  | silu t f => exact execSilu_walk hR t f h0
  | ld t f => exact execLd_walk hR t f h0
  | st t f => exact execSt_walk hR t f h0
  | flowTick node entry rep at_ fails => exact execFlowTick_walk hR node entry rep at_ fails h0
  | streamAccess slice stream tick errs => exact execStreamAccess_walk (hLines rfl) slice stream tick errs h0
  | microTlbRequest slice stream line => exact execMicroTlbRequest_walk hR slice stream line h0
  | refreshWindow channel fails reads => exact execRefreshWindow_walk hR channel fails reads h0
  | holdRefresh channel => exact execHoldRefresh_walk hR channel h0
  | attn engine p desc ecc => exact execAttn_walk hR engine p desc ecc h0
  | matvec engine p desc ecc => exact execMatvec_walk hR engine p desc ecc h0
  | gather engine p desc ecc => exact execGather_walk hR engine p desc ecc h0
  | scatter engine p desc ecc => exact execScatter_walk hR engine p desc ecc h0
  | topk engine p desc ecc => exact execTopk_walk hR engine p desc ecc h0
  | sum engine p desc ecc => exact execSum_walk hR engine p desc ecc h0
  | max engine p desc ecc => exact execMax_walk hR engine p desc ecc h0
  | min engine p desc ecc => exact execMin_walk hR engine p desc ecc h0
  | merge engine p desc ecc => exact execMerge_walk hR engine p desc ecc h0
  | copy engine p desc ecc => exact execCopy_walk hR engine p desc ecc h0
  | fill engine p desc ecc => exact execFill_walk hR engine p desc ecc h0
  | descriptorEnd engine p => exact execDescriptorEnd_walk (hLines rfl) engine p h0
  | openEntryStart engine start => exact execOpenEntryStart_walk hR engine start h0
  | openEntryEnd engine entry outcome => exact execOpenEntryEnd_walk (hLines rfl) engine entry outcome h0
  | alloc slice cls => exact execAlloc_walk hR slice cls h0
  | free slice va => exact execFree_walk hR slice va h0
  | openGroupStart p group => exact execOpenGroupStart_walk hR p group h0
  | openGroupNeed p group => exact execOpenGroupNeed_walk hR p group h0
  | internalCommit p => exact execInternalCommit_walk hR p h0
  | pacedRelease p => exact execPacedRelease_walk hR p h0
  | promiseOverrun p => exact execPromiseOverrun_walk hR p h0
  | seam drain => exact execSeam_walk hR drain h0
  | lineItemEnd p => exact execLineItemEnd_walk hR p h0
  | bindItem p => exact execBindItem_walk hR p h0
  | unbindItem p => exact execUnbindItem_walk hR p h0
  | translationUpdate p => exact execTranslationUpdate_walk hR p h0
  | rebindingItem p errs => exact execRebindingItem_walk hR p errs h0
  | parkItem p => exact execParkItem_walk hR p h0
  | wakeItem p => exact execWakeItem_walk hR p h0
  | debugItem p => exact execDebugItem_walk hR p h0
  | directLaunch p => exact execDirectLaunch_walk hR p h0
  | tickSwitchItem => exact execTickSwitchItem_walk hR h0
  | tickRestart => exact execTickRestart_walk hR h0
  | standbyPllLock => exact execStandbyPllLock_walk hR h0
  | autoTickSwitch => exact execAutoTickSwitch_walk hR h0
  | leaveItem p => exact execLeaveItem_walk hR p h0
  | leaveInstant p => exact execLeaveInstant_walk hR p h0
  | heartbeatMissed slice => exact execHeartbeatMissed_walk hR slice h0
  | seqTrap slice mcause => exact execSeqTrap_walk hR slice mcause h0
  | sxlaunch slice value => exact execSxlaunch_walk hR slice value h0
  | sxkill slice value => exact execSxkill_walk hR slice value h0
  | halt slice value => exact execHalt_walk hR slice value h0
  | evcDoorbell evc source => exact execEvcDoorbell_walk hR evc source h0
  | evcMessage evc source => exact execEvcMessage_walk hR evc source h0
  | evcTimeExpiry evc source => exact execEvcTimeExpiry_walk hR evc source h0
  | evcClaim evc origin => exact execEvcClaim_walk hR evc origin h0
  | evcComplete evc source => exact execEvcComplete_walk hR evc source h0
  | stackClr evc origin => exact execStackClr_walk hR evc origin h0
  | evtEn page value => exact execEvtEn_walk hR page value h0
  | blkEnable page => exact execBlkEnable_walk hR page h0
  | softRst page origin => exact execSoftRst_walk hR page origin h0
  | freeze page value => exact execFreeze_walk hR page value h0
  | lock page value => exact execLock_walk hR page value h0
  | badAccess bar offset size write => exact execBadAccess_walk hR bar offset size write h0
  | registerWrite origin offset size value => exact execRegisterWrite_walk hR origin offset size value h0
  | ptnpXltRoot p value => exact execPtnpXltRoot_walk hR p value h0
  | quota p value => exact execQuota_walk hR p value h0
  | rtrOwn slice value => exact execRtrOwn_walk hR slice value h0
  | lnkOwn port value => exact execLnkOwn_walk hR port value h0
  | openMask channel value => exact execOpenMask_walk hR channel value h0
  | openMin channel value => exact execOpenMin_walk hR channel value h0
  | poolState value => exact execPoolState_walk hR value h0
  | openReserve port value => exact execOpenReserve_walk hR port value h0
  | clkGate reg value => exact execClkGate_walk hR reg value h0
  | retrain port => exact execRetrain_walk hR port h0
  | enable port value => exact execEnable_walk hR port value h0
  | mbxEnable fm => exact execMbxEnable_walk hR fm h0
  | mbxSqBase fm value => exact execMbxSqBase_walk hR fm value h0
  | mbxCqBase fm value => exact execMbxCqBase_walk hR fm value h0
  | sqTail fm value => exact execSqTail_walk hR fm value h0
  | cqHead fm value => exact execCqHead_walk hR fm value h0
  | admOpcode fm a opcode => exact execAdmOpcode_walk hR fm a opcode h0
  | admDenied fm a opcode => exact execAdmDenied_walk hR fm a opcode h0
  | noticePost => exact execNoticePost_walk hR h0
  | instCreate a inst p fn image => exact execInstCreate_walk hR a inst p fn image h0
  | instDestroyDrain a inst => exact execInstDestroyDrain_walk hR a inst h0
  | instDestroySquash a inst => exact execInstDestroySquash_walk hR a inst h0
  | instReset a inst => exact execInstReset_walk hR a inst h0
  | instSuspend a inst => exact execInstSuspend_walk hR a inst h0
  | instResume a inst => exact execInstResume_walk hR a inst h0
  | instImage a inst image => exact execInstImage_walk hR a inst image h0
  | instQuery a inst => exact execInstQuery_walk hR a inst h0
  | qCreate a inst q sqLog2 cqLog2 sqBase cqBase => exact execQCreate_walk hR a inst q sqLog2 cqLog2 sqBase cqBase h0
  | qDestroy a inst q => exact execQDestroy_walk hR a inst q h0
  | moCreate a p kind flags owner va bytes => exact execMoCreate_walk hR a p kind flags owner va bytes h0
  | moFree a obj => exact execMoFree_walk hR a obj h0
  | objRef a kind h delta => exact execObjRef_walk hR a kind h delta h0
  | appendSet a obj extent => exact execAppendSet_walk hR a obj extent h0
  | fenceCreate a p value => exact execFenceCreate_walk hR a p value h0
  | fenceFree a fence => exact execFenceFree_walk hR a fence h0
  | fenceSignal a fence value => exact execFenceSignal_walk hR a fence value h0
  | fenceView a inst view fence => exact execFenceView_walk hR a inst view fence h0
  | argsetWrite a p set data => exact execArgsetWrite_walk hR a p set data h0
  | ptWrite a p rec => exact execPtWrite_walk hR a p rec h0
  | regionCreate a engine flags region obj base lines kind => exact execRegionCreate_walk hR a engine flags region obj base lines kind h0
  | regionDestroy a engine region => exact execRegionDestroy_walk hR a engine region h0
  | openOrder a engine p desc => exact execOpenOrder_walk hR a engine p desc h0
  | imgBind a p flags index obj => exact execImgBind_walk hR a p flags index obj h0
  | imgUnbind a image => exact execImgUnbind_walk hR a image h0
  | heapSet a p obj => exact execHeapSet_walk hR a p obj h0
  | heapReset a p => exact execHeapReset_walk hR a p h0
  | ptnCreate a p profile quota slices sets => exact execPtnCreate_walk hR a p profile quota slices sets h0
  | ptnDestroy a p => exact execPtnDestroy_walk hR a p h0
  | ptnReset a p => exact execPtnReset_walk hR a p h0
  | annealOverwriteEnd p => exact execAnnealOverwriteEnd_walk hR p h0
  | ptnReshape a p profile slices sets plan => exact execPtnReshape_walk hR a p profile slices sets plan h0
  | preemptAbsorb a p inst q desc => exact execPreemptAbsorb_walk hR a p inst q desc h0
  | preemptWithdraw a p inst q desc => exact execPreemptWithdraw_walk hR a p inst q desc h0
  | preemptKill a p inst q desc => exact execPreemptKill_walk hR a p inst q desc h0
  | hoCreate a p cls count extents inline => exact execHoCreate_walk hR a p cls count extents inline h0
  | hoArm a p srcDevice srcHandle obj capacity => exact execHoArm_walk hR a p srcDevice srcHandle obj capacity h0
  | hoOffer a record dstDevice dstHandle => exact execHoOffer_walk hR a record dstDevice dstHandle h0
  | hoFree a record => exact execHoFree_walk hR a record h0
  | hoRead a record dst => exact execHoRead_walk hR a record dst h0
  | hoRuleSource a state record epoch => exact execHoRuleSource_walk hR a state record epoch h0
  | hoRuleDestination a state record epoch => exact execHoRuleDestination_walk hR a state record epoch h0
  | hoRuleLost a state record epoch => exact execHoRuleLost_walk hR a state record epoch h0
  | hoRuleKeep a state record epoch => exact execHoRuleKeep_walk hR a state record epoch h0
  | hoRuleDrop a state record epoch => exact execHoRuleDrop_walk hR a state record epoch h0
  | logCtlEnable a inst => exact execLogCtlEnable_walk hR a inst h0
  | logCtlDisable a inst => exact execLogCtlDisable_walk hR a inst h0
  | logFetch a inst first count dst => exact execLogFetch_walk hR a inst first count dst h0
  | apertureMap a inst base => exact execApertureMap_walk hR a inst base h0
  | pasidBind a inst pasid => exact execPasidBind_walk hR a inst pasid h0
  | alloyJoin a p lead alloy windowUs tJoin plan => exact execAlloyJoin_walk hR a p lead alloy windowUs tJoin plan h0
  | joinInstant p => exact execJoinInstant_walk hR p h0
  | joinWindowEnd p => exact execJoinWindowEnd_walk hR p h0
  | alloyUndecided p => exact execAlloyUndecided_walk hR p h0
  | alloyLeave a p leaving => exact execAlloyLeave_walk hR a p leaving h0
  | alloyDissolve a p => exact execAlloyDissolve_walk hR a p h0
  | alloyResume a p => exact execAlloyResume_walk hR a p h0
  | alloyRuleNone a p => exact execAlloyRuleNone_walk hR a p h0
  | alloyRuleActive a p => exact execAlloyRuleActive_walk hR a p h0
  | alloyTreeInstall a up down member alloy => exact execAlloyTreeInstall_walk hR a up down member alloy h0
  | alloyTreeRemove a up down member alloy => exact execAlloyTreeRemove_walk hR a up down member alloy h0
  | routeWrite a first count entries => exact execRouteWrite_walk hR a first count entries h0
  | vecAlloc a inst count => exact execVecAlloc_walk hR a inst count h0
  | vecFree a inst => exact execVecFree_walk hR a inst h0
  | tickSourceLocal a => exact execTickSourceLocal_walk hR a h0
  | tickSourceFabric a => exact execTickSourceFabric_walk hR a h0
  | pwrPark a p state => exact execPwrPark_walk hR a p state h0
  | pwrWake a p => exact execPwrWake_walk hR a p h0
  | devStateDs0 a => exact execDevStateDs0_walk (hLines rfl) a h0
  | devStateDs2 a => exact execDevStateDs2_walk hR a h0
  | devStateDs3 a => exact execDevStateDs3_walk hR a h0
  | alloyGap a p gap epoch => exact execAlloyGap_walk hR a p gap epoch h0
  | alloyGapEpoch p => exact execAlloyGapEpoch_walk hR p h0
  | fwStage a bytes image => exact execFwStage_walk hR a bytes image h0
  | fwSvnCommit a svn => exact execFwSvnCommit_walk hR a svn h0
  | attest a p capacity dst nonce => exact execAttest_walk hR a p capacity dst nonce h0
  | attestFm a p capacity dst nonce => exact execAttestFm_walk hR a p capacity dst nonce h0
  | attestDoe kind p capacity nonce => exact execAttestDoe_walk hR kind p capacity nonce h0
  | attestSnapshot => exact execAttestSnapshot_walk hR h0
  | consent a p flags => exact execConsent_walk hR a p flags h0
  | dbgOpen a p => exact execDbgOpen_walk hR a p h0
  | dbgClose a p => exact execDbgClose_walk hR a p h0
  | pkgUnseal a p src dst first count => exact execPkgUnseal_walk (hLines rfl) a p src dst first count h0
  | engineReset a p slice tiles => exact execEngineReset_walk hR a p slice tiles h0
  | devResetDevice a => exact execDevResetDevice_walk hR a h0
  | devResetPowerCycle a => exact execDevResetPowerCycle_walk hR a h0
  | assayRun a kind target => exact execAssayRun_walk hR a kind target h0
  | assayEnd repairs hubOk routers units => exact execAssayEnd_walk hR repairs hubOk routers units h0
  | assayRead a => exact execAssayRead_walk hR a h0
  | assayReadFm a => exact execAssayReadFm_walk hR a h0
  | assayFuse a => exact execAssayFuse_walk hR a h0
  | resetOverrun level p => exact execResetOverrun_walk hR level p h0
  | apertureRead inst offset size outcome => exact execApertureRead_walk hR inst offset size outcome h0
  | apertureWrite inst offset data outcome => exact execApertureWrite_walk (hLines rfl) inst offset data outcome h0
  | selfRefreshReturn channel => exact execSelfRefreshReturn_walk hR channel h0
  | dmaError what inst q => exact execDmaError_walk hR what inst q h0
  | configRequest fn offset write value => exact execConfigRequest_walk hR fn offset write value h0
  | pcieLinkReset fn => exact execPcieLinkReset_walk hR fn h0
  | perstN => exact execPerstN_walk hR h0
  | pwrEnRise railsOk => exact execPwrEnRise_walk hR railsOk h0
  | pwrEnFall => exact execPwrEnFall_walk (hLines rfl) h0
  | railOutOfRegulation => exact execRailOutOfRegulation_walk hR h0
  | firmwareVerified bank image nvmOk mNvm => exact execFirmwareVerified_walk hR bank image nvmOk mNvm h0
  | bankVerifyFail bank => exact execBankVerifyFail_walk hR bank h0
  | deviceRelease trained => exact execDeviceRelease_walk hR trained h0
  | assayOutOfWindow => exact execAssayOutOfWindow_walk hR h0
  | hubHeartbeatCheck incremented recordsPosted => exact execHubHeartbeatCheck_walk hR incremented recordsPosted h0
  | pwrAlertNAssert widthNs => exact execPwrAlertNAssert_walk hR widthNs h0
  | pwrAlertNDeassert => exact execPwrAlertNDeassert_walk hR h0
  | alertHoldEnd => exact execAlertHoldEnd_walk hR h0
  | coolFailNAssert widthNs => exact execCoolFailNAssert_walk hR widthNs h0
  | coolFailNDeassert => exact execCoolFailNDeassert_walk hR h0
  | quenchPowerOffRequest => exact execQuenchPowerOffRequest_walk hR h0
  | thermTrip => exact execThermTrip_walk hR h0
  | supplyWarning rail => exact execSupplyWarning_walk hR rail h0
  | clampEnd => exact execClampEnd_walk hR h0
  | brownout rail => exact execBrownout_walk hR rail h0
  | droop stretchedTicks totalPs => exact execDroop_walk hR stretchedTicks totalPs h0
  | capLoop lastMs fixed other alloys => exact execCapLoop_walk hR lastMs fixed other alloys h0
  | calibration measured estimated => exact execCalibration_walk hR measured estimated h0
  | thermalFloor maxC hotDie => exact execThermalFloor_walk hR maxC hotDie h0
  | trim errPpm refPresent => exact execTrim_walk hR errPpm refPresent h0
  | idleSp1 slice => exact execIdleSp1_walk hR slice h0
  | idleSp2 slice => exact execIdleSp2_walk hR slice h0
  | counterLatch => exact execCounterLatch_walk hR h0
  | pwrViewUpdate powers => exact execPwrViewUpdate_walk hR powers h0
  | trngFail => exact execTrngFail_walk hR h0
  | trngTimeout what port => exact execTrngTimeout_walk hR what port h0
  | timePps => exact execTimePps_walk hR h0
  | time port valid hops root start arrival => exact execTime_walk hR port valid hops root start arrival h0
  | parentLost => exact execParentLost_walk hR h0
  | parentUsable => exact execParentUsable_walk hR h0
  | trainingFrame port lanes => exact execTrainingFrame_walk hR port lanes h0
  | trainDone port ber => exact execTrainDone_walk hR port ber h0
  | alignDone port lanes => exact execAlignDone_walk hR port lanes h0
  | hello port certOk device peerPort nonce => exact execHello_walk hR port certOk device peerPort nonce h0
  | encap port ok => exact execEncap_walk hR port ok h0
  | portStateTimeout port => exact execPortStateTimeout_walk hR port h0
  | interval port corrected lanes => exact execInterval_walk hR port corrected lanes h0
  | lostInterval port => exact execLostInterval_walk hR port h0
  | laneSwap port logical spare stroke => exact execLaneSwap_walk hR port logical spare stroke h0
  | laneSwapStroke port => exact execLaneSwapStroke_walk hR port h0
  | keyRefresh port => exact execKeyRefresh_walk hR port h0
  | echoReq port seq delta => exact execEchoReq_walk hR port seq delta h0
  | echoRsp port seq delta elapsed => exact execEchoRsp_walk hR port seq delta elapsed h0
  | close port cause => exact execClose_walk hR port cause h0
  | pause port set => exact execPause_walk hR port set h0
  | scheduledSlot port slot => exact execScheduledSlot_walk hR port slot h0
  | openSlot port slot => exact execOpenSlot_walk hR port slot h0
  | scheduledFlit port slot kind point cmd srcPart alloy units => exact execScheduledFlit_walk hR port slot kind point cmd srcPart alloy units h0
  | holdBegin p port => exact execHoldBegin_walk hR p port h0
  | holdEnd p => exact execHoldEnd_walk hR p h0
  | holdLimitUs p => exact execHoldLimitUs_walk hR p h0
  | barrierTick p index => exact execBarrierTick_walk hR p index h0
  | barrierArrive m => exact execBarrierArrive_walk hR m h0
  | barrierGo m => exact execBarrierGo_walk hR m h0
  | launch m => exact execLaunch_walk hR m h0
  | commit m => exact execCommit_walk hR m h0
  | release m => exact execRelease_walk hR m h0
  | void m => exact execVoid_walk hR m h0
  | abort m => exact execAbort_walk hR m h0
  | joinSync m device => exact execJoinSync_walk hR m device h0
  | active m => exact execActive_walk hR m h0
  | abandon m => exact execAbandon_walk hR m h0
  | leave m leaving => exact execLeave_walk hR m leaving h0
  | hopReport p device hops => exact execHopReport_walk hR p device hops h0
  | wcetDigest p device index digest => exact execWcetDigest_walk hR p device index digest h0
  | resumeReport p device => exact execResumeReport_walk hR p device h0
  | offer m => exact execOffer_walk hR m h0
  | stream h data => exact execStream_walk hR h data h0
  | streamEnd record => exact execStreamEnd_walk hR record h0
  | trailer record epoch length digest => exact execTrailer_walk (hLines rfl) record epoch length digest h0
  | taken m => exact execTaken_walk hR m h0
  | released m => exact execReleased_walk hR m h0
  | refuse m => exact execRefuse_walk hR m h0
  | query m => exact execQuery_walk hR m h0
  | answer m => exact execAnswer_walk hR m h0
  | stale m => exact execStale_walk hR m h0
  | holdQueryExpiry record => exact execHoldQueryExpiry_walk hR record h0
  | takenResend record => exact execTakenResend_walk hR record h0
  | hoHoldLimit record => exact execHoHoldLimit_walk hR record h0
  | readReq h va lines deadline outcome => exact execReadReq_walk hR h va lines deadline outcome h0
  | readData h lines => exact execReadData_walk (hLines rfl) h lines h0
  | writeReq h va lines deadline => exact execWriteReq_walk hR h va lines deadline h0
  | writeData h lines => exact execWriteData_walk (hLines rfl) h lines h0
  | ack h status lines => exact execAck_walk hR h status lines h0
  | nack h status va => exact execNack_walk hR h status va h0
  | openRequestTimeout tag => exact execOpenRequestTimeout_walk hR tag h0
  | grant kind index => exact execGrant_walk (hLines rfl) kind index h0
  | guaranteeCheck kind index => exact execGuaranteeCheck_walk hR kind index h0
  | bypass tdi => exact execBypass_walk hR tdi h0
  | idcode => exact execIdcode_walk hR h0
  | samplePreload cells => exact execSamplePreload_walk hR cells h0
  | extest tdi => exact execExtest_walk hR tdi h0
  | jtagDebugAccess p slice space address write value => exact execJtagDebugAccess_walk hR p slice space address write value h0
  | readReg page offset => exact execReadReg_walk hR page offset h0
  | status => exact execStatus_walk hR h0
  | wake => exact execWake_walk (hLines rfl) h0
  | flashErase bank => exact execFlashErase_walk hR bank h0
  | flashWrite bank offset data => exact execFlashWrite_walk hR bank offset data h0
  | flashRead bank offset => exact execFlashRead_walk hR bank offset h0
  | enec events => exact execEnec_walk hR events h0
  | disec events => exact execDisec_walk hR events h0
  | rstdaa => exact execRstdaa_walk hR h0
  | setdasa static dynamic => exact execSetdasa_walk hR static dynamic h0
  | entdaa dynamic => exact execEntdaa_walk hR dynamic h0
  | getpid => exact execGetpid_walk hR h0
  | getbcr => exact execGetbcr_walk hR h0
  | getdcr => exact execGetdcr_walk hR h0
  | getstatus => exact execGetstatus_walk hR h0
  | inBandInterrupt event taken => exact execInBandInterrupt_walk hR event taken h0
  | markerDiscontinuity port => exact execMarkerDiscontinuity_walk hR port h0
  | resetLevelRecovery => exact execResetLevelRecovery_walk hR h0
  | perstNDeassert => exact execPerstNDeassert_walk hR h0
  | lineItemOverrun p => exact execLineItemOverrun_walk hR p h0
  | vectorUnmask fn vector => exact execVectorUnmask_walk hR fn vector h0
  | ideKm stream subStream rx keyOk setGo => exact execIdeKm_walk hR stream subStream rx keyOk setGo h0
  | doeDiscovery index => exact execDoeDiscovery_walk hR index h0

theorem exec_respectsLines {R : State → State → Prop} (h : RespectsLines R) (c : Instr) (s : State) :
    Yields (R s) (exec c s) :=
  exec_respects h.toRespects c (fun _ => h) (h.refl s)

/-- What a command answers is related to the state it ran on. -/
theorem Yields.of_next {P : State → Prop} {o : StepOut} {t : State} (h : Yields P o) (next : o = .next t) : P t := by
  obtain ⟨u, hu, hP⟩ := h
  cases hu.symm.trans next
  exact hP

/-! ### No command stops -/

theorem respectsLines_true : RespectsLines fun _ _ => True where
  refl _ := trivial
  trans _ _ := trivial
  side _ _ _ _ _ _ _ _ _ _ := trivial
  set _ _ _ _ := trivial
  keep _ _ := trivial
  emit _ _ := trivial
  drawn _ _ := trivial
  mem _ _ _ _ := trivial
  lines _ _ _ := trivial

/-- Settles O53: each meaning completes, whichever primitive changes it makes. -/
theorem noCommandStops : Obligations.NoCommandStops := by
  unfold Obligations.NoCommandStops
  intro c s
  obtain ⟨t, next, -⟩ := exec_respectsLines respectsLines_true c s
  exact ⟨t, next⟩

/-! ### What came before a command stays -/

theorem Follows.of_same {s t : State} (pending : t.pending = s.pending) (out : t.out = s.out)
    (drawn : t.freeCtr = s.freeCtr) : Follows s t :=
  ⟨pending, out ▸ List.prefix_rfl, drawn.ge⟩

theorem Follows.trans {a b c : State} (hab : Follows a b) (hbc : Follows b c) : Follows a c :=
  ⟨hbc.pending.trans hab.pending, hab.out.trans hbc.out, hab.drawn.trans hbc.drawn⟩

/-- Only `emit` touches what has left the module, which it adds to, and only a draw the count of free values. -/
theorem respectsLines_follows : RespectsLines Follows where
  refl _ := .of_same rfl rfl rfl
  trans := Follows.trans
  side _ _ _ _ _ _ _ _ _ _ := .of_same rfl rfl rfl
  set _ _ _ _ := .of_same rfl rfl rfl
  keep _ _ := .of_same rfl rfl rfl
  emit s o := ⟨rfl, s.out.prefix_append [o], le_rfl⟩
  drawn s n := ⟨rfl, List.prefix_rfl, s.freeCtr.le_add_right n⟩
  mem _ _ _ _ := .of_same rfl rfl rfl
  lines _ _ _ := .of_same rfl rfl rfl

/-- Settles O54: `Follows` is a relation that every primitive change respects. -/
theorem commandsFollow : Obligations.CommandsFollow := by
  unfold Obligations.CommandsFollow
  exact fun c s t next => (exec_respectsLines respectsLines_follows c s).of_next next

/-! ### The lines of HBM -/

/-- The same lines, with the keys that they were written under. -/
def SameLines (s t : State) : Prop := t.mem.lines = s.mem.lines

theorem respects_sameLines : Respects SameLines where
  refl _ := rfl
  trans hab hbc := hbc.trans hab
  side _ _ _ _ _ _ _ _ _ _ := rfl
  set _ _ _ _ := rfl
  keep _ _ := rfl
  emit _ _ := rfl
  drawn _ _ := rfl
  mem _ _ same _ := same

/-- Settles O55: a command that `mayWriteHbm` leaves out makes no change of lines. -/
theorem hbmWrittenOnlyByNamedRows : Obligations.HbmWrittenOnlyByNamedRows := by
  unfold Obligations.HbmWrittenOnlyByNamedRows
  intro c s t unnamed next
  have lines : mayWriteHbm c = true → RespectsLines SameLines := fun named => nomatch unnamed.symm.trans named
  exact (exec_respects respects_sameLines c lines (respects_sameLines.refl s)).of_next next

/-! ### The canonical form -/

theorem State.wf_iff (s : State) : s.wf = true ↔ Memory.wf s.mem = true ∧ s.regs.wf = true := Bool.and_eq_true_iff

theorem Memory.wf_iff (m : MemState) : Memory.wf m = true ↔ m.lines.wf = true ∧ m.tables.wfD 0 = true :=
  Bool.and_eq_true_iff

/-- Canonical form is kept. -/
def KeepsForm (s t : State) : Prop := s.wf = true → t.wf = true

theorem keepsForm_of_mem {s : State} {m : MemState} (keeps : Memory.wf s.mem = true → Memory.wf m = true) :
    KeepsForm s { s with mem := m } := fun h => by
  obtain ⟨mem, regs⟩ := s.wf_iff.mp h
  exact (State.wf_iff _).mpr ⟨keeps mem, regs⟩

theorem keepsForm_of_regs {s : State} {regs : FMap Nat} (keeps : s.regs.wf = true → regs.wf = true) :
    KeepsForm s { s with regs := regs } := fun h => by
  obtain ⟨mem, form⟩ := s.wf_iff.mp h
  exact (State.wf_iff _).mpr ⟨mem, keeps form⟩

theorem respectsLines_keepsForm : RespectsLines KeepsForm where
  refl _ := id
  trans hab hbc := hbc ∘ hab
  side _ _ _ _ _ _ _ _ _ _ := id
  set _ _ _ _ := keepsForm_of_regs fun h => FMap.wf_putD h _ _ _
  keep _ _ := keepsForm_of_regs fun h => FMap.wf_keep h _
  emit _ _ := id
  drawn _ _ := id
  mem s m same tables := keepsForm_of_mem fun h => by
    obtain ⟨lines, entries⟩ := (Memory.wf_iff _).mp h
    exact (Memory.wf_iff _).mpr ⟨same ▸ lines, tables entries⟩
  lines _ _ keeps := keepsForm_of_mem keeps

/-- Settles O56: a step is a command on the queue's rest, or a nanosecond with its sequencers, and each walks through changes
that keep the form. -/
theorem everyStepKeepsForm : Obligations.EveryStepKeepsForm := by
  unfold Obligations.EveryStepKeepsForm
  intro s t form next
  unfold step at next
  split at next
  case h_1 =>
    have ticked : KeepsForm s s.tick := State.tick_walk respectsLines_keepsForm (respectsLines_keepsForm.refl s)
    exact Host.Outcome.next.inj next ▸ ticked form
  case h_2 c rest _ => exact (exec_respectsLines respectsLines_keepsForm c { s with pending := rest }).of_next next form

end Sys2Proof.Machine
end

section
/-! What is written reads back: register fields, lines of HBM under their key, and entries of page tables. -/

namespace Sys2Proof.Machine

/-! ### Register fields -/

theorem Field.key_ne_of_instance {f : Field} {i j : Nat} (other : j ≠ i) : f.key j ≠ f.key i :=
  fun h => other (Nat.add_left_cancel h)

/-- Fields lie `fieldStride` apart, so that instances in range never reach the next field's keys. -/
theorem Field.key_ne_of_id {f g : Field} {i j : Nat} (other : g.id ≠ f.id) (hi : i < fieldStride) (hj : j < fieldStride) :
    g.key j ≠ f.key i := by
  unfold Field.key fieldStride at *
  omega

/-- Settles O57: by the sparse map of fields, whose keys tell fields and instances apart. -/
theorem registerFieldsReadBack : Obligations.RegisterFieldsReadBack := by
  unfold Obligations.RegisterFieldsReadBack
  exact fun s f i v => ⟨fun form => State.get_set_self form f i v, fun g j other => State.get_set_ne s v other,
    fun j other => Field.key_ne_of_instance other, fun g j other hi hj => Field.key_ne_of_id other hi hj,
    rfl, rfl, rfl, rfl⟩

/-! ### Lines of HBM -/

/-- A line holds its plain data for the key, and the salt of the contents, that it was written under. -/
theorem State.readLine_of_find {s : State} {dpa : Nat} {l : HbmLine} (listed : s.mem.lines.find (dpa / 64) = some l)
    (part : l.part = (s.keyOf dpa).1) (epoch : l.epoch = (s.keyOf dpa).2) (salt : l.salt = s.mem.salt) :
    s.readLine dpa = l.data := by
  simp only [State.readLine, listed, part, epoch, salt, and_self, if_true]

theorem State.readLine_of_other_key {s : State} {dpa : Nat} {l : HbmLine} (listed : s.mem.lines.find (dpa / 64) = some l)
    (other : s.keyOf dpa ≠ (l.part, l.epoch)) : ∃ n, s.readLine dpa = Config.garbageLine n := by
  have changed : ¬ (l.part = (s.keyOf dpa).1 ∧ l.epoch = (s.keyOf dpa).2 ∧ l.salt = s.mem.salt) :=
    fun ⟨part, epoch, _⟩ => other (Prod.ext part.symm epoch.symm)
  simp only [State.readLine, listed, if_neg changed]
  exact ⟨_, rfl⟩

theorem State.find_writeLine_self (s : State) (dpa : Nat) (v : Line) :
    (s.writeLine dpa v).mem.lines.find (dpa / 64) = some ⟨(s.keyOf dpa).1, (s.keyOf dpa).2, s.mem.salt, v⟩ :=
  FMap.find_put_self ..

/-- The same number of a line and the same registers give the same line read. -/
theorem State.readLine_writeLine_ne (s : State) {dpa d : Nat} (v : Line) (other : d / 64 ≠ dpa / 64) :
    (s.writeLine dpa v).readLine d = s.readLine d := by
  have same : (s.writeLine dpa v).mem.lines.find (d / 64) = s.mem.lines.find (d / 64) := FMap.find_put_ne _ _ other
  have key : (s.writeLine dpa v).keyOf d = s.keyOf d := rfl
  have salt : (s.writeLine dpa v).mem.salt = s.mem.salt := rfl
  simp only [State.readLine, same, key, salt]

theorem State.readLine_of_written {s t : State} {dpa : Nat} {v : Line} (mem : t.mem = (s.writeLine dpa v).mem)
    (key : t.keyOf dpa = s.keyOf dpa) : t.readLine dpa = v :=
  State.readLine_of_find (l := ⟨(s.keyOf dpa).1, (s.keyOf dpa).2, s.mem.salt, v⟩) (mem ▸ s.find_writeLine_self dpa v)
    (key ▸ rfl) (key ▸ rfl) (mem ▸ rfl)

/-- Settles O58: the line is listed with the key in force when it was written, and a table entry is a key of a sparse map. -/
theorem linesReadBackUnderTheirKey : Obligations.LinesReadBackUnderTheirKey := by
  unfold Obligations.LinesReadBackUnderTheirKey
  refine fun s dpa v => ⟨State.readLine_of_written rfl rfl, fun d other => s.readLine_writeLine_ne v other,
    fun t mem key => State.readLine_of_written mem key, fun t mem key => ?garbage,
    fun slice q i w form => FMap.getD_putD_self form _ 0 w,
    fun slice q i w slice' q' i' other => FMap.getD_putD_ne s.mem.tables 0 w 0 other⟩
  case garbage => exact State.readLine_of_other_key (mem ▸ s.find_writeLine_self dpa v) key

end Sys2Proof.Machine
end

section
/-! A step of the block: the command in front, the nanosecond of an empty queue, and the state after reset. -/

namespace Sys2Proof.Machine

/-- Settles O50: both halves are what `step` and the decoder are. -/
theorem stepRunsFrontCommand : Obligations.StepRunsFrontCommand := by
  unfold Obligations.StepRunsFrontCommand
  exact ⟨fun _ _ _ => rfl, fun _ _ _ => ⟨rfl, rfl⟩⟩

theorem State.reset_get (f : Field) (i : Nat) : State.reset.get f i = f.reset := rfl

/-- Settles O52: reset lists nothing, so every field reads its Reset value. -/
theorem resetState : Obligations.ResetState := by
  unfold Obligations.ResetState
  refine ⟨State.reset_get, rfl, rfl, rfl, rfl, rfl, rfl, fun _ _ _ => rfl, rfl, rfl, rfl, rfl, rfl, rfl, rfl, rfl, ?released,
    ?alert, ?quenched, fun n => ?closed, fun p => State.reset_get Reg.ptnpCfgState p, ?form⟩
  case released => simp [State.released, State.reset_get, Reg.rstBootPhase]
  case alert => simp [State.flag, State.reset_get, Reg.pwrStsAlert]
  case quenched => simp [State.quenched, State.flag, State.reset_get, Reg.pwrStsQuenched]
  case closed => simp [State.portOpen, State.reset_get, Reg.lnkStsState]
  case form => exact (State.wf_iff _).mpr ⟨State.reset_memory_wf, rfl⟩

/-! ### The nanosecond -/

theorem step_of_empty {s : State} (empty : s.pending = []) : step s = .next s.tick := by
  rw [step, empty]

theorem State.launchDue_of_none {s : State} {sl : Nat} (none : (s.seqr sl).launchAt = none) : s.launchDue sl = s := by
  rw [State.launchDue, none]

theorem State.seqStep_of_not_seqRuns {s : State} {sl : Nat} (idle : s.seqRuns sl = false) : s.seqStep sl = s := by
  rw [State.seqStep, if_pos (by simp [idle])]

/-- TIME going out adds to what has left the module alone. -/
theorem State.strokeTime_eq (s : State) : ∃ o, s.strokeTime = { s with out := o } := by
  have sent (valid : Bool) (hops root except : Nat) : ∃ o, s.sendTime valid hops root except = { s with out := o } := by
    unfold State.sendTime
    generalize (s.openPorts.filter fun n => decide (n ≠ except)) = ports
    suffices ∀ out, ∃ o, ports.foldl (fun t n => t.emit (.control n 0x01 ((if valid = true then 0x80 else 0) + hops % 64) root
        (BitVec.ofNat 64 (t.now / 1000 * 1000)))) { s with out := out } = { s with out := o } from this s.out
    induction ports with
    | nil => exact fun out => ⟨out, rfl⟩
    | cons n ports ih => exact fun out => ih _
  unfold State.strokeTime
  split
  · exact sent ..
  · exact ⟨s.out, rfl⟩

theorem foldl_fixed_of_mem {α β : Type} {f : β → α → β} {b : β} {l : List α} (fixed : ∀ x ∈ l, f b x = b) :
    l.foldl f b = b := by
  induction l with
  | nil => rfl
  | cons x l ih =>
    rw [List.foldl_cons, fixed x List.mem_cons_self]
    exact ih fun y hy => fixed y (List.mem_cons_of_mem x hy)

theorem State.tick_of_no_sequencer {s : State}
    (none : ∀ sl < 64, s.idle.seqRuns sl = false ∧ (s.idle.seqr sl).launchAt = none) : s.tick = s.idle.strokeTime := by
  obtain ⟨o, sent⟩ := s.idle.strokeTime_eq
  refine foldl_fixed_of_mem fun sl hsl => ?_
  obtain ⟨stands, noLaunch⟩ := none sl (List.mem_range.mp hsl)
  have launch : s.idle.strokeTime.launchDue sl = s.idle.strokeTime := State.launchDue_of_none (sent ▸ noLaunch)
  rw [launch]
  exact State.seqStep_of_not_seqRuns (sent ▸ stands)

/-! ### What passes in it -/

theorem foldl_keeps {α β γ : Type} {P : β → γ} {f : β → α → β} {l : List α} (keeps : ∀ b, ∀ x ∈ l, P (f b x) = P b) (b : β) :
    P (l.foldl f b) = P b := by
  induction l generalizing b with
  | nil => rfl
  | cons x l ih => exact (ih (fun b y hy => keeps b y (List.mem_cons_of_mem x hy)) _).trans (keeps b x List.mem_cons_self)

theorem State.startAssay_of_phase {s : State} (other : s.get Reg.rstBootPhase 0 ≠ 1) : s.startAssay = s :=
  if_neg fun h => other h.1

theorem State.startAssay_plant (s : State) : s.startAssay.plant = s.plant := by
  unfold State.startAssay
  split <;> rfl

/-- The start of the self test writes four fields of the RST and AST pages. -/
theorem State.startAssay_get {s : State} {f : Field} {i : Nat} (phase : f.key i ≠ Reg.rstBootPhase.key 0)
    (running : f.key i ≠ Reg.astStsRunning.key 0) (kind : f.key i ≠ Reg.astStsKind.key 0)
    (target : f.key i ≠ Reg.astStsTarget.key 0) : s.startAssay.get f i = s.get f i := by
  unfold State.startAssay
  split
  · rw [State.get_set_ne _ _ target, State.get_set_ne _ _ kind, State.get_set_ne _ _ running, State.get_set_ne _ _ phase]
  · rfl

/-- Of the registers, ticks passing write the die clocks alone. -/
theorem State.passTicks_get {s : State} {f : Field} {i : Nat} (other : ∀ die < 4, f.key i ≠ Reg.dieTickTick.key die) (d : Int) :
    (s.passTicks d).get f i = s.get f i := by
  unfold State.passTicks
  split_ifs
  · rfl
  · extract_lets frac at_
    split_ifs
    · rfl
    · refine foldl_keeps (P := fun t : State => t.get f i) (fun t die hdie => ?_) _
      exact State.get_set_ne t _ (other die (List.mem_range.mp hdie))

/-- Of the plant, ticks passing move the clock alone. -/
theorem State.passTicks_plant (s : State) (d : Int) :
    (s.passTicks d).plant = { s.plant with clock := (s.passTicks d).plant.clock } := by
  unfold State.passTicks
  split_ifs
  · rfl
  · extract_lets frac at_
    split_ifs
    · rfl
    · have kept : ∀ t : State, ((List.range 4).foldl (fun t die => t.set Reg.dieTickTick die
          (t.get Reg.dieTickTick die + (frac / tickPhase).toNat)) t).plant = t.plant :=
        foldl_keeps (P := State.plant) fun _ _ _ => rfl
      rw [kept]

/-- No tick falls in a nanosecond while the tick is stopped, or where the phase stays below a whole tick. -/
theorem State.passTicks_regs_of_none {s : State}
    (none : s.plant.clock.stopped = true ∨ s.plant.clock.frac < 19660800) : (s.passTicks 65536).regs = s.regs := by
  unfold State.passTicks
  split_ifs with stopped
  · rfl
  · extract_lets frac at_
    have short : frac < tickPhase := by
      have low : s.plant.clock.frac < 19660800 := none.resolve_left stopped
      unfold frac tickPhase
      omega
    rw [if_pos short]

theorem State.idle_eq (s : State) :
    s.idle = ({ s with now := s.now + 1 } : State).startAssay.passTicks 65536 := rfl

theorem State.idle_plant (s : State) : s.idle.plant = { s.plant with clock := s.idle.plant.clock } := by
  have assay := State.startAssay_plant { s with now := s.now + 1 }
  rw [s.idle_eq, State.passTicks_plant, assay]

/-- A field that neither the self test nor the die clocks write reads as before. -/
theorem State.idle_get_of_other_id (s : State) {f : Field} (phase : f.id ≠ Reg.rstBootPhase.id)
    (running : f.id ≠ Reg.astStsRunning.id) (kind : f.id ≠ Reg.astStsKind.id) (target : f.id ≠ Reg.astStsTarget.id)
    (tick : f.id ≠ Reg.dieTickTick.id) : s.idle.get f 0 = s.get f 0 := by
  have key {g : Field} (other : f.id ≠ g.id) (j : Nat) (hj : j < 4) : f.key 0 ≠ g.key j :=
    Field.key_ne_of_id other (Nat.lt_trans hj (by decide)) (by decide)
  have stay := State.startAssay_get (s := { s with now := s.now + 1 }) (key phase 0 (by decide)) (key running 0 (by decide))
    (key kind 0 (by decide)) (key target 0 (by decide))
  rw [s.idle_eq, State.passTicks_get (key tick), stay]
  rfl

theorem State.idle_strokeTime (s : State) : s.idle.strokeTime =
    if (s.now + 1) % 1000 = 0 ∧ s.get Reg.ftmStsLstate 0 = Ts.root then s.idle.sendTime true 0 s.deviceId 6 else s.idle := by
  have now : s.idle.now = s.now + 1 := State.pass_now s 1
  have lstate : s.idle.get Reg.ftmStsLstate 0 = s.get Reg.ftmStsLstate 0 :=
    s.idle_get_of_other_id (by decide) (by decide) (by decide) (by decide) (by decide)
  have device : s.idle.deviceId = s.deviceId :=
    s.idle_get_of_other_id (by decide) (by decide) (by decide) (by decide) (by decide)
  rw [State.strokeTime, now, lstate, device]

/-- Settles O51: the nanosecond moves the clock, the die counts and, where start-up waits for it, the self test. -/
theorem emptyQueueIdles : Obligations.EmptyQueueIdles := by
  unfold Obligations.EmptyQueueIdles
  intro s empty
  extract_lets t
  refine ⟨step_of_empty empty, fun none => (step_of_empty empty).trans (congrArg _ (State.tick_of_no_sequencer none)),
    s.idle_strokeTime, s.pass_now 1, (s.pass_pending 1).trans empty, s.pass_out 1, s.pass_freeCtr 1, s.pass_host 1, s.pass_mem 1,
    s.pass_net 1, s.pass_tiles 1, s.pass_clusters 1, s.pass_engines 1, s.pass_evcs 1, s.pass_msgs 1, s.idle_plant,
    fun phase => ?registers⟩
  have idle : t = ({ s with now := s.now + 1 } : State).passTicks 65536 := by
    rw [← State.startAssay_of_phase (s := { s with now := s.now + 1 }) phase]
    rfl
  rw [idle]
  refine ⟨fun none => State.passTicks_regs_of_none none, fun f i other range => State.passTicks_get ?_ 65536⟩
  exact fun die hdie => Field.key_ne_of_id other (Nat.lt_trans hdie (by decide)) range

end Sys2Proof.Machine
end

section
/-! The vector slots of a graver tile at the issue of a bundle (R84, R118 to R123): what each operation puts in flight. -/

namespace Sys2Proof.Machine

open Sys2Proof.Certificates

/-! ### A slot at issue -/

/-- Where a bundle is at issue and may issue, a command that its word spells and whose slot has not started runs. -/
theorem State.issueSlot_of_atSlot {s : State} {t : TileRef} {slot : Nat} {spelled : Nat → BitVec 256 → Bool}
    (go : State → Nat → Nat → Tile → State) (at_ : AtSlot (s.runSlice t.slice.toNat) t slot spelled) :
    s.issueSlot t slot spelled go = go (s.runSlice t.slice.toNat) t.slice.toNat t.tile.toNat
      ((s.runSlice t.slice.toNat).tile t.slice.toNat t.tile.toNat) := by
  obtain ⟨issue, legal, word, fresh⟩ := at_
  simp only [State.issueSlot, issue, legal, word, fresh, not_true_eq_false, if_false, Bool.false_eq_true, not_false_eq_true,
    and_self, if_true]

/-- An operation with a result in flight posts no address register. -/
theorem State.startOp_vec (s : State) (t : TileRef) (slot issue latency : Nat) (writes : List (Nat × VReg)) (flags : VFlags) :
    s.startOp t.slice.toNat t.tile.toNat slot issue (issue + latency - 1)
      (.vec ((s.tile t.slice.toNat t.tile.toNat).tick + issue + latency - 2) writes flags.bits) [] =
    vecIssued s t slot issue latency writes flags := by
  simp only [State.startOp, vecIssued, List.append_nil]

theorem State.startLane_of_atSlot {s : State} {t : TileRef} {spelled : Nat → BitVec 256 → Bool} (issue latency : Nat)
    (g : Tile → Nat → Nat → List (Nat × VReg) × VFlags) (at_ : AtSlot (s.runSlice t.slice.toNat) t 1 spelled) :
    let u := s.runSlice t.slice.toNat
    let r := g (u.tile t.slice.toNat t.tile.toNat) t.slice.toNat t.tile.toNat
    s.startLane t spelled issue latency g = vecIssued u t 1 issue latency r.1 r.2 := by
  rw [State.startLane, State.issueSlot_of_atSlot _ at_]
  exact State.startOp_vec ..

/-! ### Lanes -/

theorem packedAt_eq_laneAt (v : VReg) (l : Nat) : packedAt v.toNat 32 l = (laneAt v l).toNat := by
  simp only [packedAt, laneAt, BitVec.extractLsb'_toNat, Nat.shiftRight_eq_div_pow]

theorem lanesOf_eq_map_laneAt (v : VReg) : lanesOf v = (List.range 512).map fun l => (laneAt v l).toNat := by
  simp only [lanesOf, packedAt_eq_laneAt]

theorem lanesOf_vregAt (s : State) (t : TileRef) (r : BitVec 6) :
    lanesOf ((s.tile t.slice.toNat t.tile.toNat).vregAt t.slice.toNat t.tile.toNat r.toNat) =
      (List.range 512).map fun l => (regLane s t r l).toNat :=
  lanesOf_eq_map_laneAt _

theorem operandB_eq_bLane (s : State) (t : TileRef) (f : LaneSlot) :
    (s.tile t.slice.toNat t.tile.toNat).operandB t.slice.toNat t.tile.toNat f false =
      (List.range 512).map fun l => (bLane s t f l).toNat := by
  unfold Tile.operandB bLane
  split
  · rw [List.map_const', List.length_range]; rfl
  · exact lanesOf_vregAt s t f.sb

/-- An immediate that fills both elements of a lane. -/
theorem toNat_append_setWidth (v : BitVec 32) :
    (v.setWidth 16 ++ v.setWidth 16).toNat = v.toNat % 65536 * 65537 := by
  simp only [BitVec.toNat_append, BitVec.toNat_setWidth]
  rw [Nat.shiftLeft_eq, ← Nat.shiftLeft_eq, ← Nat.shiftLeft_add_eq_or_of_lt (by omega), Nat.shiftLeft_eq]
  omega

theorem operandB_eq_bHalves (s : State) (t : TileRef) (f : LaneSlot) :
    (s.tile t.slice.toNat t.tile.toNat).operandB t.slice.toNat t.tile.toNat f true =
      (List.range 512).map fun l => (bHalves s t f l).toNat := by
  unfold Tile.operandB bHalves
  split
  · simp only [toNat_append_setWidth, if_true, List.map_const', List.length_range]
  · exact lanesOf_vregAt s t f.sb

theorem zipLanes_map {α : Type} (g : Nat → Nat → Nat → VOut) (a b c : α → Nat) (l : List α) :
    zipLanes g (l.map a) (l.map b) (l.map c) = l.map fun x => g (a x) (b x) (c x) := by
  induction l with
  | nil => rfl
  | cons x l ih => simp only [List.map_cons, zipLanes, ih]

theorem flagsOf_of_zero {l : List VOut} (zero : ∀ x ∈ l, x.2 = .zero) : flagsOf l = .zero := by
  refine foldl_fixed_of_mem fun x hx => ?_
  rw [zero x hx]
  rfl

theorem ofLanes_fst_map {α : Type} (g : α → VOut) (l : List α) :
    ofLanes ((l.map g).map Prod.fst) = ofLanes (l.map fun x => (g x).1) := by
  rw [List.map_map]
  rfl

/-! ### Element-wise operations -/

/-- An operation on the lanes of two or three operands, whose results and flags go in flight together. -/
theorem startLane_laneData {s : State} {t : TileRef} {f : LaneSlot} {op : Nat} (half : Bool) (latency : Nat)
    (g : Nat → Nat → Nat → VOut) (b : Nat → BitVec 32)
    (operand : ((s.runSlice t.slice.toNat).tile t.slice.toNat t.tile.toNat).operandB t.slice.toNat t.tile.toNat f half =
      (List.range 512).map fun l => (b l).toNat)
    (at_ : LaneAt (s.runSlice t.slice.toNat) t f op) :
    let u := s.runSlice t.slice.toNat
    s.startLane t (spellsLane op f) 1 latency (laneData f half g) =
      laneIssued u t f latency fun l => g (regLane u t f.sa l).toNat (b l).toNat (regLane u t f.sc l).toNat := by
  rw [State.startLane_of_atSlot 1 latency _ at_]
  simp only [laneData, lanesOf_vregAt, operand, zipLanes_map, laneIssued, vector, ofLanes_fst_map]

theorem intLane_next {s : State} {t : TileRef} {f : LaneSlot} {op : Nat} {g : Nat → Nat → Nat}
    (at_ : LaneAt (s.runSlice t.slice.toNat) t f op) (h : BitVec 32 → BitVec 32 → BitVec 32)
    (same : ∀ a b : BitVec 32, g a.toNat b.toNat % 2 ^ 32 = (h a b).toNat) :
    let u := s.runSlice t.slice.toNat
    intLane t op f g s = .next (intIssued u t f fun l => h (regLane u t f.sa l) (bLane u t f l)) := by
  intro u
  rw [intLane, startLane_laneData false 2 _ _ (operandB_eq_bLane u t f) at_]
  simp only [laneIssued, intIssued, same]
  rw [flagsOf_of_zero fun x hx => ?_]
  obtain ⟨l, -, rfl⟩ := List.mem_map.mp hx
  rfl

theorem fp32Lane_next {s : State} {t : TileRef} {f : LaneSlot} {op : Nat} (g : Nat → Nat → Nat → VOut)
    (at_ : LaneAt (s.runSlice t.slice.toNat) t f op) :
    let u := s.runSlice t.slice.toNat
    fp32Lane t op f g s = .next (laneIssued u t f 4 fun l =>
      g (regLane u t f.sa l).toNat (bLane u t f l).toNat (regLane u t f.sc l).toNat) := by
  intro u
  rw [fp32Lane, startLane_laneData false 4 g _ (operandB_eq_bLane u t f) at_]

theorem perHalf_eq_halves (g : Nat → Nat → Nat → VOut) (a b c : BitVec 32) :
    perHalf g a.toNat b.toNat c.toNat = halves g a b c := by
  have low (v : BitVec 32) : halfAt v 0 = v.toNat % 65536 := by
    simp only [halfAt, BitVec.extractLsb'_toNat, Nat.mul_zero, Nat.shiftRight_zero, Nat.reducePow]
  have high (v : BitVec 32) : halfAt v 1 = v.toNat / 65536 := by
    simp only [halfAt, BitVec.extractLsb'_toNat, Nat.shiftRight_eq_div_pow]
    omega
  simp only [perHalf, halves, low, high]
  rfl

theorem bf16Lane_next {s : State} {t : TileRef} {f : LaneSlot} {op : Nat} (g : Nat → Nat → Nat → VOut)
    (at_ : LaneAt (s.runSlice t.slice.toNat) t f op) :
    let u := s.runSlice t.slice.toNat
    bf16Lane t op f g s = .next (laneIssued u t f 4 fun l =>
      halves g (regLane u t f.sa l) (bHalves u t f l) (regLane u t f.sc l)) := by
  intro u
  rw [bf16Lane, startLane_laneData true 4 _ _ (operandB_eq_bHalves u t f) at_]
  simp only [perHalf_eq_halves, u]

/-! ### Integer functions of R119 on numbers and on 32-bit words -/

theorem intOf_toNat {w : Nat} (pos : 0 < w) (v : BitVec w) : intOf w v.toNat = v.toInt := by
  have double : 2 * 2 ^ (w - 1) = 2 ^ w := by rw [← pow_succ', Nat.sub_add_cancel pos]
  have half : v.toNat < 2 ^ (w - 1) ↔ 2 * v.toNat < 2 ^ w := by omega
  rw [intOf, Nat.mod_eq_of_lt v.isLt, BitVec.toInt_eq_toNat_cond]
  simp only [half, Nat.cast_pow, Nat.cast_ofNat]

theorem intBits_eq_ofInt (w : Nat) (x : Int) : intBits w x = (BitVec.ofInt w x).toNat := by
  rw [BitVec.toNat_ofInt, intBits, Nat.cast_pow, Nat.cast_ofNat]

theorem maskOf_eq_allOnes (b : Bool) : maskOf b % 2 ^ 32 = (allOnes b).toNat := by
  cases b <;> rfl

theorem toNat_sshiftRight_eq_intBits (a : BitVec 32) (k : Nat) :
    intBits 32 (intOf 32 a.toNat / 2 ^ k) = (a.sshiftRight k).toNat := by
  rw [intOf_toNat (by decide), intBits_eq_ofInt, BitVec.sshiftRight, Int.shiftRight_eq_div_pow]
  rfl

theorem toNat_mod (v : BitVec 32) : v.toNat % 2 ^ 32 = v.toNat := Nat.mod_eq_of_lt v.isLt

/-- Settles O1: each operation of R119 on the numbers of two lanes is that on the 32-bit lanes. -/
theorem laneIntegerOperations : Obligations.LaneIntegerOperations := by
  unfold Obligations.LaneIntegerOperations
  intro s t f
  refine ⟨fun at_ => intLane_next at_ (fun a b => a + b) fun a b => (BitVec.toNat_add a b).symm,
    fun at_ => intLane_next at_ (fun a b => a - b) ?sub,
    fun at_ => intLane_next at_ (fun a b => a * b) fun a b => (BitVec.toNat_mul a b).symm,
    fun at_ => intLane_next at_ (fun a b => a &&& b) fun a b => BitVec.toNat_and a b ▸ toNat_mod (a &&& b),
    fun at_ => intLane_next at_ (fun a b => a ||| b) fun a b => BitVec.toNat_or a b ▸ toNat_mod (a ||| b),
    fun at_ => intLane_next at_ (fun a b => a ^^^ b) fun a b => BitVec.toNat_xor a b ▸ toNat_mod (a ^^^ b),
    fun at_ => intLane_next at_ (fun a b => a <<< (b.toNat % 32)) ?shl,
    fun at_ => intLane_next at_ (fun a b => a >>> (b.toNat % 32)) ?shr,
    fun at_ => intLane_next at_ (fun a b => a.sshiftRight (b.toNat % 32)) ?sra,
    fun at_ => intLane_next at_ (fun a b => allOnes (a == b)) ?eq,
    fun at_ => intLane_next at_ (fun a b => allOnes (a.slt b)) ?lt⟩
  case sub =>
    intro a b
    rw [BitVec.toNat_sub]
    omega
  case shl =>
    intro a b
    rw [BitVec.toNat_shiftLeft, Nat.shiftLeft_eq]
  case shr =>
    intro a b
    rw [← Nat.shiftRight_eq_div_pow, ← BitVec.toNat_ushiftRight, toNat_mod]
  case sra =>
    intro a b
    rw [toNat_sshiftRight_eq_intBits, toNat_mod]
  case eq =>
    intro a b
    have same : decide (a.toNat = b.toNat) = (a == b) := decide_eq_decide.mpr BitVec.toNat_inj
    rw [same, maskOf_eq_allOnes]
  case lt =>
    intro a b
    rw [intOf_toNat (by decide), intOf_toNat (by decide), maskOf_eq_allOnes]
    rfl

/-- Settles O2: the FP32 forms take a lane whole, the BF16 forms each of its elements. -/
theorem laneFloatOperations : Obligations.LaneFloatOperations := by
  unfold Obligations.LaneFloatOperations
  intro s t f
  exact ⟨fp32Lane_next _, fp32Lane_next _, fp32Lane_next _, fp32Lane_next _, fp32Lane_next _, fp32Lane_next _,
    fp32Lane_next _, fp32Lane_next _, fp32Lane_next _, fp32Lane_next _, bf16Lane_next _, bf16Lane_next _, bf16Lane_next _,
    bf16Lane_next _, bf16Lane_next _, bf16Lane_next _⟩

/-! ### Conversions (R121) -/

theorem cvtFull_next {s : State} {t : TileRef} {f : LaneSlot} {code : Nat} (g : Nat → VOut)
    (at_ : CvtAt (s.runSlice t.slice.toNat) t f code) :
    let u := s.runSlice t.slice.toNat
    cvtFull t f code g s = .next (laneIssued u t f 4 fun l => g (regLane u t f.sa l).toNat) := by
  intro u
  rw [cvtFull, State.startLane_of_atSlot 1 4 _ at_]
  simp only [lanesOf_vregAt, List.map_map, laneIssued, vector, Function.comp_def, u]

theorem cvtNarrow_next {s : State} {t : TileRef} {f : LaneSlot} {code : Nat} (width : Nat) (g : Nat → VOut)
    (at_ : CvtAt (s.runSlice t.slice.toNat) t f code) :
    let u := s.runSlice t.slice.toNat
    let r := (List.range 512).map fun l => g (regLane u t f.sa l).toNat
    cvtNarrow t f code width g s =
      .next (vecIssued u t 1 1 4 [(f.dst.toNat, BitVec.ofNat 16384 (packAll width (r.map Prod.fst)))] (flagsOf r)) := by
  intro u r
  rw [cvtNarrow, State.startLane_of_atSlot 1 4 _ at_]
  simp only [lanesOf_vregAt, List.map_map, Function.comp_def, u, r]

/-- Element `n` of a packed image whose lowest `m` elements are cut off. -/
theorem packedAt_drop (image width m n : Nat) :
    packedAt (image / 2 ^ (m * width)) width n = packedAt image width (m + n) := by
  rw [packedAt, packedAt, Nat.div_div_eq_div_mul, ← pow_add, Nat.mul_add, Nat.mul_comm m width]

theorem cvtWiden_next {s : State} {t : TileRef} {f : LaneSlot} {code : Nat} (width : Nat) (g : Nat → VOut)
    (at_ : CvtAt (s.runSlice t.slice.toNat) t f code) :
    let u := s.runSlice t.slice.toNat
    let src := ((u.tile t.slice.toNat t.tile.toNat).vregAt t.slice.toNat t.tile.toNat f.sa.toNat).toNat
    cvtWiden t f code width g s =
      .next (laneIssued u t f 4 fun l => g (packedAt src width (512 * (f.imm.toNat / 256) + l))) := by
  intro u src
  have cut : 512 * width * (f.imm.toNat / 256) = 512 * (f.imm.toNat / 256) * width := Nat.mul_right_comm ..
  rw [cvtWiden, State.startLane_of_atSlot 1 4 _ at_]
  simp only [cut, packedAt_drop, ofLanes_fst_map, laneIssued, vector, u, src]

/-- Settles O3: each code of R121 converts every lane, packs its results, or takes its part of a packed source. -/
theorem laneConversions : Obligations.LaneConversions := by
  unfold Obligations.LaneConversions
  intro s t f
  refine ⟨cvtFull_next _, fun at_ => ?fromInt32, cvtNarrow_next 16 _, cvtWiden_next 16 _, cvtNarrow_next 16 _, cvtWiden_next 16 _,
    cvtNarrow_next 8 _, cvtWiden_next 8 _, cvtNarrow_next 8 _, cvtWiden_next 8 _, cvtNarrow_next 8 _, fun at_ => ?fromInt8⟩
  case fromInt32 =>
    rw [exec_cvtInt32ToFp32, execCvtInt32ToFp32, cvtFull_next _ at_]
    simp only [intOf_toNat (w := 32) (by decide)]
  case fromInt8 =>
    have small (image n : Nat) : intOf 8 (packedAt image 8 n) = (BitVec.ofNat 8 (packedAt image 8 n)).toInt := by
      rw [← intOf_toNat (by decide), BitVec.toNat_ofNat, intOf, intOf, Nat.mod_mod]
    rw [exec_cvtInt8ToFp32, execCvtInt8ToFp32, cvtWiden_next 8 _ at_]
    simp only [small]

/-! ### Permute, broadcast, reductions and quantisation (R81, R82, R119, R122) -/

theorem vector_const (x : Nat) : ofLanes (List.replicate 512 x) = vector fun _ => x := by
  rw [vector, List.map_const', List.length_range]

theorem execPerm_next {s : State} {t : TileRef} {f : LaneSlot} (at_ : LaneAt (s.runSlice t.slice.toNat) t f 0x31) :
    let u := s.runSlice t.slice.toNat
    execPerm t f s = .next (vecIssued u t 1 1 4
      [(f.dst.toNat, vector fun l => (regLane u t f.sa ((regLane u t f.sb l).toNat % 512)).toNat)] .zero) := by
  intro u
  rw [execPerm, State.startLane_of_atSlot 1 4 _ at_]
  simp only [lanesOf_vregAt, packedAt_eq_laneAt, List.map_map, vector, Function.comp_def, regLane, u]

theorem execBcast_next {s : State} {t : TileRef} {f : LaneSlot} (at_ : LaneAt (s.runSlice t.slice.toNat) t f 0x32) :
    let u := s.runSlice t.slice.toNat
    execBcast t f s = .next (vecIssued u t 1 1 4
      [(f.dst.toNat, vector fun _ => (regLane u t f.sa f.imm.toNat).toNat)] .zero) := by
  intro u
  rw [execBcast, State.startLane_of_atSlot 1 4 _ at_]
  simp only [vector_const, packedAt_eq_laneAt, regLane, u]

theorem reduceLane_next {s : State} {t : TileRef} {f : LaneSlot} {op : Nat} (g : Nat → Nat → VOut)
    (at_ : LaneAt (s.runSlice t.slice.toNat) t f op) :
    let u := s.runSlice t.slice.toNat
    let r := reduceLevels g 9 (lanesOf ((u.tile t.slice.toNat t.tile.toNat).vregAt t.slice.toNat t.tile.toNat f.sa.toNat))
    reduceLane t op f g s = .next (vecIssued u t 1 1 12 [(f.dst.toNat, vector fun _ => r.1.headD 0)] r.2) := by
  intro u r
  rw [reduceLane, State.startLane_of_atSlot 1 12 _ at_]
  simp only [vector_const, u, r]

theorem execMxq_next {s : State} {t : TileRef} {f : LaneSlot} (at_ : LaneAt (s.runSlice t.slice.toNat) t f 0x3C) :
    let u := s.runSlice t.slice.toNat
    let fm := (fmtOfCode f.imm.toNat).getD .e2m1
    let lanes := lanesOf ((u.tile t.slice.toNat t.tile.toNat).vregAt t.slice.toNat t.tile.toNat f.sa.toNat)
    let blocks := (List.range 16).map fun b => mxBlock f.imm.toNat fm ((lanes.drop (32 * b)).take 32)
    execMxq t f s = .next (vecIssued u t 1 2 8
      [(f.dst.toNat, BitVec.ofNat 16384 (packAll (codeBits f.imm.toNat) (blocks.flatMap Prod.snd))),
        (f.sc.toNat, BitVec.ofNat 16384 (packAll 8 (blocks.map Prod.fst)))] .zero) := by
  intro u fm lanes blocks
  rw [execMxq, State.startLane_of_atSlot 2 8 _ at_]

/-! ### The transcendental slot (R83, R123) -/

theorem transOp_next {s : State} {t : TileRef} {f : TransSlot} {op : Nat} (g : Nat → VOut)
    (at_ : TransAt (s.runSlice t.slice.toNat) t f op) :
    let u := s.runSlice t.slice.toNat
    let r := (List.range 512).map fun l => g (regLane u t f.src l).toNat
    transOp t op f g s = .next (vecIssued u t 2 4 16 [(f.dst.toNat, ofLanes (r.map Prod.fst))] (flagsOf r)) := by
  intro u r
  have lanes : (lanesOf ((u.tile t.slice.toNat t.tile.toNat).vregAt t.slice.toNat t.tile.toNat f.src.toNat)).map g = r := by
    rw [lanesOf_vregAt, List.map_map]
    rfl
  rw [transOp, State.issueSlot_of_atSlot _ at_, lanes]
  exact congrArg _ (u.startOp_vec t 2 4 16 [(f.dst.toNat, ofLanes (r.map Prod.fst))] (flagsOf r))

/-- Settles O4: what each operation computes from the lanes that it reads at issue. -/
theorem laneShufflesReductionsAndTrans : Obligations.LaneShufflesReductionsAndTrans := by
  unfold Obligations.LaneShufflesReductionsAndTrans
  exact fun s t => ⟨fun f => ⟨execPerm_next, execBcast_next, reduceLane_next _, reduceLane_next _, reduceLane_next _, execMxq_next⟩,
    fun f => ⟨transOp_next _, transOp_next _, transOp_next _, transOp_next _, transOp_next _, transOp_next _, transOp_next _⟩⟩

end Sys2Proof.Machine
end

section
/-! The control slot of a tile's bundle, and the matrix, accumulator, transfer and load or store slots (R99 to R124). -/

namespace Sys2Proof.Machine

open Sys2Proof.Certificates

/-! ### The control slot -/

/-- Once every other slot has come, the control slot that the word spells closes the bundle. -/
theorem State.control_of_spelled {s : State} {t : TileRef} {spelled : BitVec 256 → Bool} (f : Tile → TileCtl)
    (issue : (s.runSlice t.slice.toNat).atIssue t.slice.toNat t.tile.toNat = true)
    (legal : ((s.runSlice t.slice.toNat).tile t.slice.toNat t.tile.toNat).breach (isGraver t.tile.toNat) = none)
    (come : (Machine.slotsOf (isGraver t.tile.toNat) ((s.runSlice t.slice.toNat).tile t.slice.toNat t.tile.toNat).word).all
      ((s.runSlice t.slice.toNat).tile t.slice.toNat t.tile.toNat).started.contains = true)
    (word : spelled ((s.runSlice t.slice.toNat).tile t.slice.toNat t.tile.toNat).word = true) :
    let u := s.runSlice t.slice.toNat
    let x := u.tile t.slice.toNat t.tile.toNat
    s.control t spelled f =
      (u.setTile t.slice.toNat t.tile.toNat { x with ctl := some (f x) }).runSlice t.slice.toNat := by
  simp only [State.control, issue, legal, word, come, not_true_eq_false, if_false, and_self, if_true]

/-- A bundle with a breach is aborted by whichever of its commands comes. -/
theorem State.control_of_breach {s : State} {t : TileRef} {k cause : Nat}
    (issue : (s.runSlice t.slice.toNat).atIssue t.slice.toNat t.tile.toNat = true)
    (breach : ((s.runSlice t.slice.toNat).tile t.slice.toNat t.tile.toNat).breach (isGraver t.tile.toNat) = some (k, cause))
    (spelled : BitVec 256 → Bool) (f : Tile → TileCtl) :
    s.control t spelled f = (s.runSlice t.slice.toNat).bundleAbort t.slice.toNat t.tile.toNat k cause := by
  simp only [State.control, issue, breach, not_true_eq_false, if_false]

theorem getElem?_withIdx {α : Type} {l : List α} {n : Nat} (inRange : n < l.length) : (withIdx l)[n]? = some (n, l[n]) := by
  have long : n < (withIdx l).length := by rw [withIdx, List.length_zip, List.length_range, min_self]; exact inRange
  rw [List.getElem?_eq_getElem long]
  simp only [withIdx, List.getElem_zip, List.getElem_range]

/-- SETAR overrides what a post of the same register gives (R103). -/
theorem Tile.advance_setar (y : Tile) {c : TileCtl} {n : Nat} {r : AddrReg} (set : c.setar = some (n, r))
    (inRange : n < y.ars.length) : (y.advance c).ar n = r := by
  simp only [Tile.advance, Tile.ar, set, List.getD_eq_getElem?_getD, List.getElem?_map, getElem?_withIdx inRange,
    Option.map_some, if_true, Option.getD_some]

/-- Settles O5: the four control slots are one operation, with what each names. -/
theorem tileControlSlots : Obligations.TileControlSlots := by
  unfold Obligations.TileControlSlots
  intro s t sl ti u x closed
  refine ⟨fun issue legal come => ?closes, fun k cause issue breach => ?aborts,
    fun y c => ⟨rfl, rfl, fun n r set inRange => y.advance_setar set inRange⟩⟩
  case closes =>
    exact ⟨fun wait bits word => congrArg _ (State.control_of_spelled _ issue legal come word),
      fun wait ar value stride zero bits word => congrArg _ (State.control_of_spelled _ issue legal come word),
      fun wait count halfLen zero bits word => congrArg _ (State.control_of_spelled _ issue legal come word),
      fun wait bits word => congrArg _ (State.control_of_spelled _ issue legal come word)⟩
  case aborts =>
    have aborted := fun spelled f => congrArg (Host.Outcome.next (φ := Fault) (ρ := Refusal)) (State.control_of_breach issue breach spelled f)
    exact ⟨fun wait bits => aborted _ _, fun wait ar value stride zero bits => aborted _ _,
      fun wait count halfLen zero bits => aborted _ _, fun wait bits => aborted _ _⟩

/-! ### The other slots -/

theorem issueSlot_next {s : State} {t : TileRef} {slot : Nat} {spelled : Nat → BitVec 256 → Bool} {v : State}
    (go : State → Nat → Nat → Tile → State) (at_ : AtSlot (s.runSlice t.slice.toNat) t slot spelled)
    (result : go (s.runSlice t.slice.toNat) t.slice.toNat t.tile.toNat
      ((s.runSlice t.slice.toNat).tile t.slice.toNat t.tile.toNat) = v) :
    (.next (s.issueSlot t slot spelled go) : StepOut) = .next v :=
  congrArg _ ((State.issueSlot_of_atSlot go at_).trans result)

theorem startXfer_next {s : State} {t : TileRef} {op : Nat} {f : XferSlot} (kind : Nat → Nat → Nat → OpKind)
    (at_ : AtSlot (s.runSlice t.slice.toNat) t (xferSlot t.tile.toNat) (fun _ b => spellsXfer op f b)) :
    let u := s.runSlice t.slice.toNat
    let x := u.tile t.slice.toNat t.tile.toNat
    let first := (x.ar f.arC.toNat).value
    (.next (s.startXfer t op f kind) : StepOut) = .next (if first + f.len.toNat ≤ 98304 then
      u.startOp t.slice.toNat t.tile.toNat (xferSlot t.tile.toNat) f.len.toNat (f.len.toNat + 7)
        (kind ((x.ar f.arT.toNat).value / 4 * 4) first f.len.toNat) (postIf f.postT f.arT ++ postIf f.postC f.arC)
      else u.operationAbort t.slice.toNat t.tile.toNat (xferSlot t.tile.toNat) Bf.addrRange) := by
  intro u x first
  have swap : first + f.len.toNat > csLines ↔ ¬ first + f.len.toNat ≤ 98304 := Nat.not_le.symm
  refine issueSlot_next _ at_ ?_
  dsimp only
  rw [if_congr swap rfl rfl, ite_not]

/-- Settles O6: each slot's command starts its operation from the address registers at issue, or stops at its breach. -/
theorem tileMatrixTransferAndLoadStoreSlots : Obligations.TileMatrixTransferAndLoadStoreSlots := by
  unfold Obligations.TileMatrixTransferAndLoadStoreSlots
  intro s t sl ti u x
  refine ⟨fun f at_ => issueSlot_next _ at_ ?mma, fun f => ⟨fun at_ => issueSlot_next _ at_ rfl, fun at_ => issueSlot_next _ at_ rfl,
    fun at_ => issueSlot_next _ at_ rfl⟩, fun f => ⟨fun at_ => startXfer_next _ at_, fun at_ => startXfer_next _ at_⟩,
    fun f => ⟨fun at_ => issueSlot_next _ at_ rfl, fun at_ => issueSlot_next _ at_ rfl⟩⟩
  case mma => exact ite_not ..

end Sys2Proof.Machine
end

section
/-! The head of a partition's line (R34, R43 to R48, R165, R254, R285, R393): launch, translation, commit, release, items. -/

namespace Sys2Proof.Machine

/-! ### Commands that the hub takes from a pair -/

open Sys2Proof.Certificates

/-- A command whose ring gives it, laid out as R357 asks and with every DMA done, has its effect. -/
theorem State.admin_of_taken {s : State} {fm : Bool} {a : Adm} {ok : Bool} (go : State → State) (taken : AdmTaken s fm a)
    (values : ok = true) : s.admin fm a ok go = go (s.takeAdm fm) := by
  obtain ⟨ring, layout, dma⟩ := taken
  simp only [State.admin, State.takeAnd, ring, layout, dma, values, if_true, not_true_eq_false, or_self, if_false,
    Bool.false_eq_true]

/-! ### The command at the head -/

theorem State.translating_eq_some {s : State} {p : Nat} {c : Cmd} (head : s.headCmd p = some c) (phase : c.phase = .translating) :
    s.translating p = some c := by
  simp only [State.translating, head, Option.bind_some, phase, if_true]

/-- Settles O7: each row is a branch of its command's meaning, taken where its occasion holds. -/
theorem commandLaunchAndTranslation : Obligations.CommandLaunchAndTranslation := by
  unfold Obligations.CommandLaunchAndTranslation
  intro s p q
  refine ⟨fun c head phase seam start => ?launch, fun c ts head instant phase => ?translated,
    fun c ts head instant phase seam start => ?fresh, fun c chain ue translating => ?walk, fun c die pc va sound => ?tableUe,
    fun c translating => ?phaseEnd, fun c im head phase idle image => ?loadEnd,
    fun it rest i k d items kind seam start => ?direct⟩
  case launch =>
    rw [exec_commandLaunch, execCommandLaunch]
    simp only [q, head, phase, seam, start, and_self, if_true]
  case translated =>
    rw [exec_alloyLaunchInstant, execAlloyLaunchInstant]
    simp only [q, head, instant, phase, reduceCtorEq, decide_false, Bool.false_and, Bool.false_eq_true, false_or, if_true, if_false]
  case fresh =>
    rw [exec_alloyLaunchInstant, execAlloyLaunchInstant]
    simp only [q, head, instant, phase, seam, start, decide_true, Bool.and_self, true_or, if_true]
  case walk =>
    have stepped : exec (.walk p chain ue) s = .next (s.stepChain q c chain.toNat ue) := by
      rw [exec_walk, execWalk]
      simp only [q, translating]
    refine ⟨fun pc va next => ?_, fun st va next => ?_, fun next => ?_⟩
    all_goals
      rw [stepped]
      unfold State.stepChain
      dsimp only
      rw [next]
  case tableUe => simp only [State.walkPiece, sound, true_or, if_true]
  case phaseEnd =>
    rw [exec_translationPhaseEnd, execTranslationPhaseEnd]
    simp only [q, translating]
  case loadEnd =>
    rw [exec_loadSegmentEnd, execLoadSegmentEnd]
    simp only [q, head, phase, idle, image, and_self, if_true]
  case direct =>
    obtain ⟨_, tNow, duration, tEnd, started, step⟩ := it
    cases kind
    rw [exec_directLaunch, execDirectLaunch]
    simp only [q, items, seam, start, and_self, if_true]

/-- Settles O8: as O7, for what ends a command, an item or a seam. -/
theorem commitReleaseOverrunAndSeam : Obligations.CommitReleaseOverrunAndSeam := by
  unfold Obligations.CommitReleaseOverrunAndSeam
  intro s p q
  refine ⟨fun c head done op => ?commit, fun c head done op => ?member, fun c rest held => ?paced, fun x rest due => ?overrun,
    fun it t head started other item => ?itemOverrun, fun it t head started => ?itemEnd, fun killed => ?kills,
    fun killed stands bits => ?seam⟩
  case commit =>
    rw [exec_internalCommit, execInternalCommit]
    simp only [q, head, done, op, if_true, if_false]
  case member =>
    rw [exec_internalCommit, execInternalCommit]
    simp only [q, head, done, op, if_true]
  case paced =>
    rw [exec_pacedRelease, execPacedRelease]
    simp only [q, held]
  case overrun =>
    rw [exec_promiseOverrun, execPromiseOverrun]
    simp only [q, due]
  case itemOverrun =>
    rw [exec_lineItemOverrun, execLineItemOverrun]
    simp only [q, head, started, other, item, Bool.false_eq_true, if_false]
  case itemEnd =>
    rw [exec_lineItemEnd, execLineItemEnd]
    simp only [q, head, started]
  case kills =>
    intro e bits
    rw [exec_seam, execSeam]
    simp only [q, e, killed, if_true, ne_eq, not_false_eq_true]
  case seam =>
    rw [exec_seam, execSeam]
    simp only [q, killed, ne_eq, not_true_eq_false, if_false]
    split
    · rename_i it rest items
      simp only [stands it rest items, Option.isSome_none, Bool.false_eq_true, if_false]
    · simp only [Bool.false_eq_true, if_false]

/-- Settles O9: each item's command takes the branch of its item's kind. -/
theorem lineItemsStart : Obligations.LineItemsStart := by
  unfold Obligations.LineItemsStart
  intro s p it q head
  obtain ⟨kind, tNow, duration, tEnd, started, step⟩ := it
  refine ⟨fun ready => ⟨fun k a im ofKind image => ?bind, fun k a ofKind => ?unbind, fun rec a ofKind => ?update,
    fun profile slices sets plan a ofKind fresh errs => ?reshape, fun st a ofKind => ?park, fun a ofKind => ?wake,
    fun a ofKind => ?debug, fun leaving tl a tr ofKind tree => ?leave⟩,
    fun profile slices sets plan a ofKind running unquenched errs => ?step⟩
  all_goals
    dsimp only at ofKind
    subst ofKind
  case bind =>
    rw [exec_bindItem, execBindItem]
    simp only [q, head, ready, image, if_true]
  case unbind =>
    rw [exec_unbindItem, execUnbindItem]
    simp only [q, head, ready, if_true]
  case update =>
    rw [exec_translationUpdate, execTranslationUpdate]
    simp only [q, head, ready, if_true]
  case reshape =>
    have unquenched : s.quenched = false := by
      unfold State.itemReady at ready
      simp only [Bool.and_eq_true, Bool.not_eq_true'] at ready
      exact ready.1.2
    dsimp only at fresh
    rw [exec_rebindingItem, execRebindingItem]
    simp only [q, head, ready, unquenched, fresh, Option.isNone_none, if_true, Bool.false_eq_true, if_false]
  case park =>
    rw [exec_parkItem, execParkItem]
    simp only [q, head, ready, if_true]
  case wake =>
    rw [exec_wakeItem, execWakeItem]
    simp only [q, head, ready, if_true]
  case debug =>
    rw [exec_debugItem, execDebugItem]
    simp only [q, head, ready, if_true]
  case leave =>
    rw [exec_leaveItem, execLeaveItem]
    simp only [q, head, ready, tree, if_true]
  case step =>
    rw [exec_rebindingItem, execRebindingItem]
    have begun : started.isNone = false := Option.isNone_eq_false_iff.mpr (Option.isSome_iff_ne_none.mpr running)
    simp only [q, head, unquenched, begun, Bool.false_eq_true, if_false]

/-- The order of a switch to the source in force completes at once. -/
theorem State.orderSwitch_of_inForce {t : State} {fabric : Bool} (a : Adm) (inForce : t.flag Reg.clkTickSource 0 = fabric) :
    t.orderSwitch a fabric = t.complete false a St.success := by
  unfold State.orderSwitch
  rw [if_pos inForce]

/-- The order of a switch to the other source, which fabric lock asks a parent for. -/
theorem State.orderSwitch_of_other {t : State} {fabric : Bool} (a : Adm) (other : ¬ t.flag Reg.clkTickSource 0 = fabric) :
    t.orderSwitch a fabric = if (fabric = true → t.parentUsable = true) ∧ t.plant.clock.switch = none then
      t.beginSwitch fabric (some a) else t.complete false a St.admState := by
  have refused : ((fabric = true ∧ ¬ t.parentUsable = true) ∨ t.plant.clock.switch.isSome = true) ↔
      ¬ ((fabric = true → t.parentUsable = true) ∧ t.plant.clock.switch = none) := by
    rw [Option.isSome_iff_ne_none, not_and_or, Classical.not_imp]
  unfold State.orderSwitch
  rw [if_neg other, if_congr refused rfl rfl, ite_not]

/-- Settles O10: each row of the order of R438 is a branch of its command. -/
theorem tickSourceSwitch : Obligations.TickSourceSwitch := by
  unfold Obligations.TickSourceSwitch
  intro s
  refine ⟨fun a taken => ⟨fun inForce => ?onLocal, fun inForce => ?onFabric⟩, fun w a switch unplaced order => ?lock,
    fun w switch placed running unquenched ready usable => ?item, fun w switch placed running unquenched ready fabric lost => ?drop,
    fun w t0 switch stopped => ?restart, fun released source idle usable lstate => ?auto⟩
  case onLocal =>
    have other : ¬ (s.takeAdm false).flag Reg.clkTickSource 0 = true :=
      Bool.eq_false_iff.mp inForce
    rw [exec_tickSourceLocal, execTickSourceLocal, State.admin_of_taken _ taken rfl, State.orderSwitch_of_inForce a inForce,
      exec_tickSourceFabric, execTickSourceFabric, State.admin_of_taken _ taken rfl, State.orderSwitch_of_other a other]
    simp only [true_imp_iff, and_self]
  case onFabric =>
    have other : ¬ (s.takeAdm false).flag Reg.clkTickSource 0 = false :=
      fun h => Bool.false_ne_true (h.symm.trans inForce)
    rw [exec_tickSourceFabric, execTickSourceFabric, State.admin_of_taken _ taken rfl, State.orderSwitch_of_inForce a inForce,
      exec_tickSourceLocal, execTickSourceLocal, State.admin_of_taken _ taken rfl, State.orderSwitch_of_other a other]
    simp only [Bool.false_eq_true, false_imp_iff, true_and, and_self]
  case lock =>
    rw [exec_standbyPllLock, execStandbyPllLock]
    simp only [switch, unplaced, order, Bool.false_eq_true, if_false]
    rfl
  case item =>
    have keeps : ¬ (w.fabric = true ∧ ¬ s.parentUsable = true) := fun h => h.2 (usable h.1)
    rw [exec_tickSwitchItem, execTickSwitchItem]
    simp only [switch, placed, running, ready, unquenched, keeps, not_true_eq_false, Option.isSome_none, Bool.false_eq_true,
      or_self, if_false]
  case drop =>
    rw [exec_tickSwitchItem, execTickSwitchItem]
    simp only [switch, placed, running, ready, unquenched, fabric, lost, not_true_eq_false, Option.isSome_none,
      Bool.false_eq_true, or_self, not_false_eq_true, and_self, if_false, if_true]
  case restart =>
    rw [exec_tickRestart, execTickRestart]
    simp only [switch, stopped]
    rfl
  case auto =>
    rw [exec_autoTickSwitch, execAutoTickSwitch]
    simp only [released, source, idle, usable, lstate, Option.isNone_none, Bool.false_eq_true, not_false_eq_true, and_self, if_true]

end Sys2Proof.Machine
end

section
/-! Planish descriptors and the open queue (R170 to R195, R383, R409 to R414). -/

namespace Sys2Proof.Machine

open Sys2Proof.Certificates

/-! ### Scheduled descriptors -/

/-- A descriptor whose START has come starts where the row is of its operation, and the row changes nothing where it is not. -/
theorem State.startDesc_of_due {s : State} {e : BitVec 5} {p : PtnNo} {d : Line} {g : SegRun} {k : Nat} (ecc : ReadOutcome)
    (is : Line → Bool) (seg : (s.runSeg p.toNat).seg p.toNat = some g)
    (place : (s.runSeg p.toNat).progPlace e.toNat p.toNat d = some k) (ticking : (s.runSeg p.toNat).ticking p.toNat = true)
    (free : ((s.runSeg p.toNat).engine e.toNat).running.has p.toNat = false) :
    s.startDesc e p d ecc is =
      if is d = true then descStarted (s.runSeg p.toNat) e.toNat p.toNat k g d ecc else s.runSeg p.toNat := by
  unfold State.startDesc
  simp only [seg, place, ticking, free, Bool.false_eq_true, not_false_eq_true, and_true]
  rfl

/-- Settles O11: every row of an operation is one start, told apart by the descriptor's operation and mode. -/
theorem planishDescriptorsStartAndEnd : Obligations.PlanishDescriptorsStartAndEnd := by
  unfold Obligations.PlanishDescriptorsStartAndEnd
  intro s e p d ecc
  refine ⟨fun g k seg place ticking free => ?starts, fun r g running seg end_ ticking => ?ends⟩
  case starts =>
    have started (c : Prop) [Decidable c] (is : Line → Bool) (same : is d = decide c) :
        (.next (s.startDesc e p d ecc is) : StepOut) =
          .next (if c then descStarted (s.runSeg p.toNat) e.toNat p.toNat k g d ecc else s.runSeg p.toNat) := by
      rw [State.startDesc_of_due ecc is seg place ticking free, same, if_congr decide_eq_true_iff rfl rfl]
    exact ⟨started _ _ rfl, started _ _ rfl, started _ _ rfl, started _ _ rfl, started _ _ rfl, started _ _ rfl,
      started _ _ rfl, started _ _ rfl, started _ _ rfl, started _ _ rfl, started _ _ rfl⟩
  case ends =>
    have due : ¬ (g.tick < descEnd r.desc ∨ ¬ (s.runSeg p.toNat).ticking p.toNat = true) :=
      fun h => h.elim (Nat.not_lt.mpr end_) fun stands => stands ticking
    rw [exec_descriptorEnd, execDescriptorEnd]
    simp only [running, seg, due, if_false]

/-! ### The open queue -/

/-- What the end of an entry does by its origin, once it has left its queue. -/
def State.entryEffect (t : State) (e : Nat) (o : OpenEntry) (errs : List LineError) : State :=
  match o.origin with
  | .fill sl =>
    let chans := (sliceChannels sl).filter fun ch => decide (ch / 32 = e)
    (t.overwrite chans).count (nmePage e) 1 (sumOver chans t.offeredRows)
  | .move n => t.endMove o.ptn n errs
  | _ => t.endOrder e o errs

theorem exec_openEntryEnd_of_started {s : State} {e : BitVec 5} {k : BitVec 6} {o : OpenEntry} (errs : List LineError)
    (entry : (s.engine e.toNat).queue.find k.toNat = some o) (started : o.started = true) :
    exec (.openEntryEnd e k errs) s =
      .next ((((entryLeft s e.toNat k.toNat errs).entryEffect e.toNat o errs).unuseRegions o.desc).grantQueue e.toNat) := by
  rw [exec_openEntryEnd, execOpenEntryEnd]
  simp only [entry, started, not_true_eq_false, if_false]
  unfold State.entryEffect
  cases o.origin <;> rfl

/-- An order none of whose lines is uncorrectable has its results written, and completes. -/
theorem State.entryEffect_of_order {t : State} {e : Nat} {o : OpenEntry} {errs : List LineError} {a : Adm}
    (origin : o.origin = .order a) (sound : t.badLine errs (t.descReads o.desc) = none) :
    t.entryEffect e o errs = (entryWritten t e o errs).complete false a St.success := by
  simp only [State.entryEffect, State.endOrder, entryWritten, origin, sound, Option.isSome_none, Bool.false_eq_true, if_false]

/-- A group none of whose lines is uncorrectable has its results written, and ends. -/
theorem State.entryEffect_of_group {t : State} {e : Nat} {o : OpenEntry} {errs : List LineError} {seq g : Nat}
    (origin : o.origin = .group seq g) (sound : t.badLine errs (t.descReads o.desc) = none) :
    t.entryEffect e o errs = (entryWritten t e o errs).endGroup o.ptn seq g := by
  simp only [State.entryEffect, State.endOrder, entryWritten, origin, sound, Option.isSome_none, Bool.false_eq_true, if_false]

/-- What an entry that meets an uncorrectable line leaves: its channels touched and its lines noted. -/
def State.entryNoted (t : State) (o : OpenEntry) (errs : List LineError) : State :=
  let dpas := t.descReads o.desc
  ((dpas ++ ((t.asRead errs dpas).descOut o.desc).1.map Prod.fst).foldl
    (fun (s : State) d => s.touchChannel (dpaChannel d)) t).noteLines errs dpas

theorem State.entryEffect_of_bad_order {t : State} {e : Nat} {o : OpenEntry} {errs : List LineError} {a : Adm} {x : Nat}
    (origin : o.origin = .order a) (bad : t.badLine errs (t.descReads o.desc) = some x) :
    t.entryEffect e o errs =
      ((t.entryNoted o errs).complete false a St.admState).faultPtn o.ptn Fc.memUe (.channel (dpaChannel x)) := by
  simp only [State.entryEffect, State.endOrder, State.entryNoted, origin, bad, Option.isSome_some, if_true]

theorem State.entryEffect_of_bad_group {t : State} {e : Nat} {o : OpenEntry} {errs : List LineError} {seq g x : Nat}
    (origin : o.origin = .group seq g) (bad : t.badLine errs (t.descReads o.desc) = some x) :
    t.entryEffect e o errs = (t.entryNoted o errs).faultPtn o.ptn Fc.memUe (.channel (dpaChannel x)) := by
  simp only [State.entryEffect, State.endOrder, State.entryNoted, origin, bad, Option.isSome_some, if_true]

/-! ### Calls of the allocator and groups -/

theorem State.headOf_owner {s : State} {slice : SliceNo} {p : Nat} {c : Cmd} (owner : s.sliceOwner slice.toNat = some p)
    (head : s.headCmd p = some c) :
    ((s.sliceOwner slice.toNat).bind fun p => (s.headCmd p).map fun c => (p, c)) = some (p, c) := by
  rw [owner, Option.bind_some, head, Option.map_some]

/-- Settles O12: an entry by its origin and its lines, a call by what the heap has, a group by its tick, a grant by its point. -/
theorem openQueueRows : Obligations.OpenQueueRows := by
  unfold Obligations.OpenQueueRows
  refine fun s => ⟨fun e k o entry => ⟨fun ecc waits first share unquenched => ?start, fun started errs => ?ends⟩,
    fun slice p c owner head phase => ⟨fun cls hp o va heap obj small place => ?alloc, fun cls hp o heap obj none => ?noMem,
      fun va hp heap held fresh => ?free⟩,
    fun p g c im r head rec phase => ⟨fun fresh due copies => ?copy, fun fresh due order => ?order, fun undone due unheld => ?need⟩,
    fun unquenched n => ⟨?channel, fun k opened slot => ?port, ?queue⟩⟩
  case start =>
    rw [exec_openEntryStart, execOpenEntryStart]
    simp only [entry, waits, first, share, unquenched, Bool.false_eq_true, not_false_eq_true, and_self, if_true]
  case ends =>
    rw [exec_openEntryEnd_of_started errs entry started]
    refine ⟨fun a origin sound => ?_, fun seq g origin sound => ?_, fun a x origin bad => ?_, fun seq g x origin bad => ?_,
      fun sl origin => ?_, fun n origin => ?_⟩
    · rw [State.entryEffect_of_order origin sound]
    · rw [State.entryEffect_of_group origin sound]
    · rw [State.entryEffect_of_bad_order origin bad, State.entryNoted]
    · rw [State.entryEffect_of_bad_group origin bad, State.entryNoted]
    · simp only [State.entryEffect, origin]
    · simp only [State.entryEffect, origin]
  case alloc =>
    have runs : ¬ (c.phase ≠ .running ∧ c.phase ≠ .loading) := fun h => phase.elim h.1 h.2
    rw [exec_alloc, execAlloc]
    simp only [State.headOf_owner owner head, runs, heap, obj, small, place, Option.bind_some, Option.map_some, if_true, if_false]
  case noMem =>
    have runs : ¬ (c.phase ≠ .running ∧ c.phase ≠ .loading) := fun h => phase.elim h.1 h.2
    rw [exec_alloc, execAlloc]
    simp only [State.headOf_owner owner head, runs, heap, obj, Option.bind_some, if_false]
    rcases none with large | full
    · simp only [Nat.not_le.mpr large, if_false]
    · simp only [full, Option.map_none, ite_self]
  case free =>
    rw [exec_free, execFree]
    simp only [State.headOf_owner owner head, phase, heap, held, fresh, Option.map_some, Option.getD_some, Bool.false_eq_true,
      not_false_eq_true, and_self, if_true]
  case copy =>
    rw [exec_openGroupStart, execOpenGroupStart]
    simp only [head, rec, phase, fresh, due, copies, ne_eq, not_true_eq_false, Bool.false_eq_true, or_self, if_false, if_true]
  case order =>
    rw [exec_openGroupStart, execOpenGroupStart]
    simp only [head, rec, phase, fresh, due, order, ne_eq, not_true_eq_false, Bool.false_eq_true, or_self, if_false]
  case need =>
    rw [exec_openGroupNeed, execOpenGroupNeed]
    simp only [head, rec, phase, undone, due, unheld, Option.any_some, Option.isNone_none, Bool.false_eq_true, not_false_eq_true,
      and_self, if_true]
  case channel =>
    rw [exec_grant, execGrant]
    simp only [unquenched, Bool.false_eq_true, if_false, if_true]
  case port =>
    have other : ¬ (1 : BitVec 2) = 0 := by decide
    rw [exec_grant, execGrant]
    simp only [unquenched, other, opened, slot, Bool.false_eq_true, if_false, if_true]
  case queue =>
    have other : ¬ (3 : BitVec 2) = 0 := by decide
    have another : ¬ (3 : BitVec 2) = 1 := by decide
    rw [exec_grant, execGrant]
    simp only [unquenched, other, another, Bool.false_eq_true, if_false, if_true]

end Sys2Proof.Machine
end

section
/-! The on-die network, memory streams and the windows of channels (R146, R215 to R218, R244, R250, R315). -/

namespace Sys2Proof.Machine

open Sys2Proof.Certificates

/-! ### Flow ticks -/

/-- Units of another input that are missing, marked bad or another partition's raise the node's fault and go no further. -/
theorem State.runFlow_of_bad_units {s : State} (old : State) (us : List BankUse) {p tick : Nat} {e : RunEntry} {f : FlowTick}
    (port : hopPort e.node e.word ≠ 4) (noLocal : Nat.testBit (hopOut e.word) 4 = false)
    (bad : f.fail = true ∨ (s.takeUnits p e.node (hopPort e.node e.word) tick (hopW e.word)).1.length < hopW e.word ∨
      ((s.takeUnits p e.node (hopPort e.node e.word) tick (hopW e.word)).1.all fun u => u.ok && decide (u.ptn = p)) = false) :
    s.runFlow old us p tick e f =
      (⟨[], [e.node]⟩, (s.takeUnits p e.node (hopPort e.node e.word) tick (hopW e.word)).2) := by
  have units : s.flowUnits old us p tick e f =
      ((none, ⟨[], [e.node]⟩), (s.takeUnits p e.node (hopPort e.node e.word) tick (hopW e.word)).2) := by
    unfold State.flowUnits
    simp only [port, noLocal, bad, Bool.not_eq_true, Bool.false_eq_true, false_and, or_self, and_false, if_true, if_false]
  rw [State.runFlow, units]

/-! ### The lane check -/

theorem State.laneCheck_of_clean {s : State} {ch : Nat} (m : Option Nat) {fails : LaneFails}
    (clean : failingLanes fails.toNat = []) :
    s.laneCheck ch m fails = (if fails = 0 then s else s.bump Reg.mchLaneCheckFails ch).takeSpares ch
      ((List.range 2).filter fun k => fails.getLsbD (72 + k)) := by
  simp only [State.laneCheck, clean]

theorem State.laneCheck_of_one {s : State} {ch l : Nat} {fails : LaneFails} (one : failingLanes fails.toNat = [l]) :
    let u := if fails = 0 then s else s.bump Reg.mchLaneCheckFails ch
    s.laneCheck ch none fails = ((u.raise Reg.mchEccStsMarked ch).set Reg.mchEccStsMarkLane ch l).setChannel ch
      { u.channel ch with failing := fails.toNat / 2 ^ (8 * l) % 256 } := by
  simp only [State.laneCheck, one]

theorem State.laneCheck_of_more {s : State} {ch a b : Nat} {rest : List Nat} {fails : LaneFails}
    (more : failingLanes fails.toNat = a :: b :: rest) :
    s.laneCheck ch none fails = (if fails = 0 then s else s.bump Reg.mchLaneCheckFails ch).exhaust ch := by
  simp only [State.laneCheck, more]

theorem State.laneCheck_of_other {s : State} {ch l a : Nat} {rest : List Nat} {fails : LaneFails}
    (failing : failingLanes fails.toNat = a :: rest) (other : a ≠ l) :
    s.laneCheck ch (some l) fails = (if fails = 0 then s else s.bump Reg.mchLaneCheckFails ch).exhaust ch := by
  have beyond : ((a :: rest).any fun x => decide (x ≠ l)) = true := by
    rw [List.any_cons, decide_eq_true other, Bool.true_or]
  simp only [State.laneCheck, failing, beyond, if_true]

/-! ### Refresh windows -/

/-- The state in which a refresh window of a channel has counted its round. -/
def State.windowBegun (s : State) (ch : Nat) (errs : List LineError) : State :=
  let t := (s.meetErrors errs).refreshRound ch 2
  t.setChannel ch { t.channel ch with window := some (t.frameTick ch / 64) }

/-- A window in which the hub reads no line of the device reserve steers, checks its lanes, and scrubs. -/
theorem exec_refreshWindow_of_unit {s : State} {channel : BitVec 10} (fails : LaneFails) (errs : List LineError)
    (range : channel.toNat < 768) (awake : (s.channel channel.toNat).selfRefresh = false)
    (runs : s.framePaused channel.toNat = false) (unit : Nat.testBit refreshMask (s.frameUnit channel.toNat) = true)
    (fresh : (s.channel channel.toNat).window ≠ some (s.frameTick channel.toNat / 64)) :
    let t := s.windowBegun channel.toNat errs
    exec (.refreshWindow channel fails ⟨errs, []⟩) s =
      .next ((((if (t.markedLane channel.toNat).isSome = true ∧ ¬ t.flag Reg.mchEccStsLaneExhausted channel.toNat = true then
        t.steerMarked channel.toNat else t).laneCheck channel.toNat (t.markedLane channel.toNat) fails).scrub channel.toNat
          errs).reserveReads channel.toNat errs []) := by
  have unread : s.reserveLines channel.toNat [] = [] := rfl
  rw [exec_refreshWindow, execRefreshWindow]
  simp only [unread, if_true, Nat.not_le.mpr range, awake, runs, unit, fresh, Bool.false_eq_true, not_true_eq_false, or_self,
    if_false]
  rfl

theorem State.markedLane_of_unmarked {s : State} {ch : Nat} (unmarked : s.flag Reg.mchEccStsMarked ch = false) :
    s.markedLane ch = none := by
  simp only [State.markedLane, unmarked, Bool.false_eq_true, if_false]

theorem State.markedLane_of_marked {s : State} {ch : Nat} (marked : s.flag Reg.mchEccStsMarked ch = true) :
    s.markedLane ch = some (s.get Reg.mchEccStsMarkLane ch) := by
  simp only [State.markedLane, marked, if_true]

section
variable {s : State} {channel : BitVec 10} (range : channel.toNat < 768)
  (awake : (s.channel channel.toNat).selfRefresh = false) (runs : s.framePaused channel.toNat = false)
  (unit : Nat.testBit refreshMask (s.frameUnit channel.toNat) = true)
  (fresh : (s.channel channel.toNat).window ≠ some (s.frameTick channel.toNat / 64))
include range awake runs unit fresh

theorem exec_refreshWindow_of_unmarked (fails : LaneFails) (errs : List LineError)
    (unmarked : (s.windowBegun channel.toNat errs).flag Reg.mchEccStsMarked channel.toNat = false) :
    exec (.refreshWindow channel fails ⟨errs, []⟩) s =
      .next ((((s.windowBegun channel.toNat errs).laneCheck channel.toNat none fails).scrub channel.toNat
        errs).reserveReads channel.toNat errs []) := by
  rw [exec_refreshWindow_of_unit fails errs range awake runs unit fresh, State.markedLane_of_unmarked unmarked]
  simp only [Option.isSome_none, Bool.false_eq_true, false_and, if_false]

theorem exec_refreshWindow_of_marked (fails : LaneFails) (errs : List LineError)
    (marked : (s.windowBegun channel.toNat errs).flag Reg.mchEccStsMarked channel.toNat = true)
    (spare : (s.windowBegun channel.toNat errs).flag Reg.mchEccStsLaneExhausted channel.toNat = false) :
    let t := s.windowBegun channel.toNat errs
    exec (.refreshWindow channel fails ⟨errs, []⟩) s =
      .next ((((t.steerMarked channel.toNat).laneCheck channel.toNat (some (t.get Reg.mchEccStsMarkLane channel.toNat))
        fails).scrub channel.toNat errs).reserveReads channel.toNat errs []) := by
  rw [exec_refreshWindow_of_unit fails errs range awake runs unit fresh, State.markedLane_of_marked marked]
  simp only [Option.isSome_some, spare, Bool.false_eq_true, not_false_eq_true, and_self, if_true]

end

/-! ### Stream accesses -/

/-- The head of a stream's access in its scheduled unit, of a line that its translations cover and no granule bars. -/
theorem exec_streamAccess_of_covered {s : State} {slice : SliceNo} {stream : BitVec 6} {tick : BitVec 24} {st : Stream} {tr : Trans}
    (errs : List LineError) (listed : (s.runSlice slice.toNat).mem.streams.find (64 * slice.toNat + stream.toNat) = some st)
    (ready : (s.runSlice slice.toNat).streamReady slice.toNat st tick.toNat = true)
    (covered : coverOf st.tlb (srVa st.record st.base st.next) = some tr)
    (free : (s.runSlice slice.toNat).heapBars st.ptn (srWrite st.record) (srVa st.record st.base st.next) = false) :
    exec (.streamAccess slice stream tick errs) s =
      .next (((s.runSlice slice.toNat).accessLine (64 * slice.toNat + stream.toNat) st
        (tr.dpa (srVa st.record st.base st.next)) (tick.toNat / 64 * 64) errs).runSeg st.ptn) := by
  rw [exec_streamAccess, execStreamAccess]
  simp only [listed, ready, covered, free, not_true_eq_false, Bool.false_eq_true, if_false]

/-- Settles O13: each row's occasion, and what the network, the stream or the channel then does. -/
theorem networkStreamsAndRefresh : Obligations.NetworkStreamsAndRefresh := by
  unfold Obligations.NetworkStreamsAndRefresh
  refine fun s => ⟨fun node entry rep i run e g fail bits hasRun stored seg reps steps due fresh => ?flow,
    fun old us p tick e f node port noLocal bad => State.runFlow_of_bad_units old us port noLocal bad,
    fun slice stream tick errs st listed ready => ⟨fun uncovered => ?late, fun tr covered free => ⟨fun l at_ rest write buffer
      old => ?write, fun read => ?read⟩⟩,
    fun slice stream line st e listed uncovered held => ?tlb,
    fun channel range awake => ⟨fun paused due => ?hold, fun fails errs runs unit fresh => ⟨fun unmarked => ?unmarked,
      fun marked open_ => ?marked⟩⟩,
    fun ch fails => ⟨fun clean m => State.laneCheck_of_clean m clean, fun l one => State.laneCheck_of_one one,
      fun a b rest more => State.laneCheck_of_more more, fun l a rest failing other => State.laneCheck_of_other failing other⟩⟩
  case flow =>
    rw [exec_flowTick, execFlowTick]
    simp only [hasRun, stored, seg, Nat.not_lt.mpr reps, Nat.not_lt.mpr steps, Nat.not_lt.mpr due, fresh, Option.isSome_none,
      Bool.false_eq_true, or_self, if_false]
  case late =>
    rw [exec_streamAccess, execStreamAccess]
    simp only [listed, ready, uncovered, not_true_eq_false, if_false]
  case write =>
    rw [exec_streamAccess_of_covered errs listed ready covered free]
    simp only [State.accessLine, write, buffer, old, if_true]
  case read =>
    rw [exec_streamAccess_of_covered errs listed ready covered free]
    simp only [State.accessLine, read, Bool.false_eq_true, if_false]
  case tlb =>
    rw [exec_microTlbRequest, execMicroTlbRequest]
    simp only [listed, uncovered, held, Option.isSome_none, Bool.false_eq_true, if_false]
  case hold =>
    rw [exec_holdRefresh, execHoldRefresh]
    simp only [range, awake, paused, due, Bool.false_eq_true, not_false_eq_true, and_self, if_true]
  case unmarked => exact exec_refreshWindow_of_unmarked range awake runs unit fresh fails errs unmarked
  case marked => exact exec_refreshWindow_of_marked range awake runs unit fresh fails errs marked open_

end Sys2Proof.Machine
end

section
/-! Sequencers and event controllers (R89 to R92, R420 to R428). -/

namespace Sys2Proof.Machine

/-! ### Sequencers -/

theorem State.mayLaunch_of_direct {s : State} {sl p i k d : Nat} {im : Nat × Image} (direct : s.directOn sl = some (p, i, k, d))
    (compat : s.compat = true) (idle : s.get Reg.schStsState sl = 0) (unasked : (s.seqr sl).launchAt = none)
    (image : s.imageOf i = some im) : s.mayLaunch sl k d = true := by
  simp only [State.mayLaunch, compat, idle, unasked, direct, image, Option.isNone_none, Option.isSome_some, decide_true,
    Bool.and_self, and_self]

theorem State.mayLaunch_of_other {s : State} {sl k d : Nat}
    (other : (∀ p i k' d', s.directOn sl = some (p, i, k', d') → ¬ (k' = k ∧ d' = d)) ∨ s.compat = false ∨
      s.get Reg.schStsState sl ≠ 0) : s.mayLaunch sl k d = false := by
  rcases other with differs | host | runs
  · have mismatch : (match s.directOn sl with
        | some (_, i, k', d') => decide (k = k' ∧ d = d') && (s.imageOf i).isSome
        | none => false) = false := by
      split
      · next p i k' d' direct =>
        rw [decide_eq_false fun h => differs p i k' d' direct ⟨h.1.symm, h.2.symm⟩, Bool.false_and]
      · rfl
    unfold State.mayLaunch
    rw [Bool.and_eq_false_iff]
    exact .inr mismatch
  · simp only [State.mayLaunch, host, Bool.false_and]
  · simp only [State.mayLaunch, runs, decide_false, Bool.and_false, Bool.false_and]

/-! ### Event controllers -/

theorem State.evcMessage_of_live {s : State} {n : Nat} (k : Nat) (live : s.evcLive n = true) :
    s.evcMessage n k = (s.setEvc n ((s.evc n).setSource k (((s.evc n).source k).message s.now))).wakeEvc n := by
  unfold State.evcMessage
  rw [if_pos live]

/-- A window that has passed makes an enabled source with a count pending. -/
theorem EvcSource.test_of_expired {x : EvcSource} {now : Nat} (enabled : x.enable = true) (counted : 1 ≤ x.acc)
    (window : x.window ≠ 0) (passed : x.since + 1000 * x.window ≤ now) : x.test now = { x with pending := true } := by
  unfold EvcSource.test
  rw [if_pos ⟨enabled, counted, .inr ⟨window, passed⟩⟩]

theorem State.claim_of_best {s : State} {n : Nat} {b : Nat × Nat} (live : s.evcLive n = true) (line : (s.evc n).line = true)
    (best : (s.evc n).best = some b) :
    let x := (s.evc n).source b.1
    s.claim n = (x.acc * 2 ^ 32 + b.1, s.setEvc n
      (((s.evc n).setSource b.1 { x with pending := false, acc := 0 }).withStack (b :: (s.evc n).stack))) := by
  simp only [State.claim, live, line, best, and_self, if_true]

theorem State.claim_of_no_line {s : State} {n : Nat} (line : (s.evc n).line = false) : s.claim n = (2 ^ 63, s) := by
  simp only [State.claim, line, Bool.false_eq_true, and_false, if_false]

/-- Settles O14: each row's occasion, and what the sequencer or the controller then does. -/
theorem sequencersAndEventControllers : Obligations.SequencersAndEventControllers := by
  unfold Obligations.SequencersAndEventControllers
  refine fun s => ⟨fun slice running => ⟨fun awake stood => ?missed, fun awake counted => ?beats, fun mcause => ?trap⟩,
    fun slice => ⟨fun powered => ⟨?halt, fun halted => ?start, fun running => ?runs⟩,
      fun v p i k d im direct segment delay compat idle unasked image => ?launch, fun v other => ?ignored,
      fun v order runs => ?kill⟩,
    fun evc source live => ⟨?doorbell, ?message, fun enabled counted window unset => ?expiry,
      fun origin b own line best => ?claim, fun origin none => ?noClaim, ?complete, fun origin may => ?clear⟩⟩
  case missed =>
    rw [exec_heartbeatMissed, execHeartbeatMissed]
    simp only [running, Nat.not_le.mpr awake, stood, ne_eq, not_true_eq_false, or_self, if_false]
  case beats =>
    rw [exec_heartbeatMissed, execHeartbeatMissed]
    simp only [running, Nat.not_le.mpr awake, counted, ne_eq, not_true_eq_false, not_false_eq_true, or_self, if_false, if_true]
  case trap =>
    rw [exec_seqTrap, execSeqTrap]
    simp only [running, if_true]
  case halt =>
    rw [exec_halt, execHalt, State.haltSeq]
    simp only [powered, if_true]
  case start =>
    rw [exec_halt, execHalt, State.haltSeq]
    simp only [powered, halted, Bool.false_eq_true, if_true, if_false]
    rfl
  case runs =>
    rw [exec_halt, execHalt, State.haltSeq]
    simp only [powered, running, Bool.false_eq_true, if_true, if_false]
  case launch =>
    subst segment delay
    rw [exec_sxlaunch, execSxlaunch, State.sxlaunch]
    simp only [State.mayLaunch_of_direct direct compat idle unasked image, if_true]
  case ignored =>
    rw [exec_sxlaunch, execSxlaunch, State.sxlaunch]
    simp only [State.mayLaunch_of_other other, Bool.false_eq_true, if_false]
  case kill =>
    rw [exec_sxkill, execSxkill, State.sxkill]
    simp only [order, runs, ne_eq, not_false_eq_true, and_self, if_true]
  case doorbell => rw [exec_evcDoorbell, execEvcDoorbell, State.evcMessage_of_live _ live]
  case message =>
    rw [exec_evcMessage, execEvcMessage]
    exact congrArg _ (State.evcMessage_of_live (s := { s with msgs := dropMsg evc.toNat source.toNat s.msgs }) _ live)
  case expiry =>
    have passed : ((s.evc evc.toNat).source source.toNat).since + 1000 * ((s.evc evc.toNat).source source.toNat).window ≤
        (s.atLeast (((s.evc evc.toNat).source source.toNat).since +
          1000 * ((s.evc evc.toNat).source source.toNat).window)).now := by
      rw [State.atLeast_now]
      exact le_max_right ..
    rw [exec_evcTimeExpiry, execEvcTimeExpiry]
    simp only [live, enabled, counted, window, unset, ne_eq, not_false_eq_true, Bool.false_eq_true, and_self, if_true,
      EvcSource.test_of_expired enabled counted window passed]
  case claim =>
    rw [exec_evcClaim, execEvcClaim]
    simp only [own, if_true, State.claim_of_best live line best]
  case noClaim =>
    rw [exec_evcClaim, execEvcClaim]
    rcases none with stranger | low
    · simp only [stranger, if_false]
    · simp only [State.claim_of_no_line low, ite_self]
  case complete => rw [exec_evcComplete, execEvcComplete]
  case clear =>
    rw [exec_stackClr, execStackClr]
    simp only [may, live, and_self, if_true]

end Sys2Proof.Machine
end

-- ==== Registers, rings and submission: register writes, header strobes, clock and pool registers, doorbells, descriptors ====
section

namespace Sys2Proof.Machine
open Sys2Proof.Certificates

/-! ### The bus header -/

theorem State.softReset_of_page {s : State} {p i : Nat} {t : Page} {d : Nat} (info : pageInfo p = some (t, d, i)) :
    s.softReset p = if s.blockIdle p = true then
      s.dropFields fun pg k f => f.kept.upToC && (decide (pg = t ∧ k = i) || decide (pg = .hdr ∧ k = p)) else s := by
  unfold State.softReset
  rw [info]

theorem State.freezePage_true_of_frozen {s : State} {p : Nat} (frozen : s.flag Reg.blkCtlFreeze p = true) :
    s.freezePage p true = s.set Reg.blkCtlFreeze p 1 := by
  unfold State.freezePage
  simp only [frozen, not_true_eq_false, and_false, if_true, if_false]

theorem State.freezePage_true_of_running {s : State} {p : Nat} (running : s.flag Reg.blkCtlFreeze p = false) :
    s.freezePage p true = (s.onBus fun b => { b with shown := heldCounts s p b.shown }).raise Reg.blkCtlFreeze p := by
  unfold State.freezePage
  simp only [running, Bool.false_eq_true, not_false_eq_true, and_self, if_true, heldCounts]

theorem State.freezePage_false (s : State) (p : Nat) : s.freezePage p false = s.set Reg.blkCtlFreeze p 0 := by
  unfold State.freezePage
  simp only [Bool.false_eq_true, false_and, if_false]

theorem State.writeLockReg_of_none {s : State} {p : Nat} (mask value : Nat) (none : lockReg p = none) :
    s.writeLockReg p mask value = s := by
  unfold State.writeLockReg
  rw [none]

/-- Settles O17: the vector table and the register pages are the two places of a write; a header strobe acts where the
header is open, and a page without a LOCK register has nothing to write. -/
theorem busHeaderAndRegisterWrites : Obligations.BusHeaderAndRegisterWrites := by
  unfold Obligations.BusHeaderAndRegisterWrites
  refine fun s => ⟨fun origin offset size value aligned => ⟨fun low high => ?table, fun outside =>
    ⟨fun barred => ?barred, fun free => ?page⟩⟩, fun page => ⟨fun c pg t d i opened info => ⟨?reset, ?bar, ?sequencer⟩,
    fun opened => ⟨fun frozen => ?refreeze, fun running => ?freeze, ?thaw⟩, fun value closed => ?keeps,
    fun value free => ?lock⟩⟩
  case table =>
    rw [exec_registerWrite, execRegisterWrite]
    simp only [aligned, low, high, not_true_eq_false, and_self, if_true, if_false]
  case barred =>
    have beyond : ¬ (0x2000000 ≤ offset.toNat / 8 * 8 ∧ offset.toNat / 8 * 8 < 0x2008000) := by omega
    rw [exec_registerWrite, execRegisterWrite]
    simp only [aligned, beyond, barred, not_true_eq_false, Bool.false_eq_true, if_false]
  case page =>
    have beyond : ¬ (0x2000000 ≤ offset.toNat / 8 * 8 ∧ offset.toNat / 8 * 8 < 0x2008000) := by omega
    rw [exec_registerWrite, execRegisterWrite]
    simp only [aligned, beyond, free, not_true_eq_false, if_true, if_false]
  case reset =>
    rw [exec_softRst, execSoftRst]
    simp only [opened, if_true, State.softReset_of_page info]
  case bar => exact exec_softRst s page .bar0
  case sequencer => exact exec_softRst s page (.sequencer pg)
  case refreeze =>
    rw [exec_freeze, execFreeze]
    simp only [opened, if_true, State.freezePage_true_of_frozen frozen]
  case freeze =>
    rw [exec_freeze, execFreeze]
    simp only [opened, if_true, State.freezePage_true_of_running running]
  case thaw =>
    rw [exec_freeze, execFreeze]
    simp only [opened, if_true, State.freezePage_false]
  case keeps =>
    rw [exec_lock, execLock]
    rcases closed with barred | none
    · simp only [barred, Bool.false_eq_true, if_false]
    · simp only [State.writeLockReg_of_none _ _ none, ite_self]
  case lock =>
    rw [exec_lock, execLock]
    simp only [free, if_true]

/-! ### Clock, pool and network registers -/

theorem windowsBelow_eq_true_iff {ims : List Image} {ch v : Nat} :
    (ims.any fun im => im.content.windows.any fun w => decide (w.1 = ch) && decide (popcount 64 w.2.toNat < v)) = true ↔
      ∃ im ∈ ims, ∃ w ∈ im.content.windows, w.1 = ch ∧ popcount 64 w.2.toNat < v := by
  simp only [List.any_eq_true, Bool.and_eq_true, decide_eq_true_eq]

/-- Settles O18: each register's write is the effect that its rule gives where its condition holds, and its refusal
otherwise. -/
theorem networkClockAndPoolRegisters : Obligations.NetworkClockAndPoolRegisters := by
  unfold Obligations.NetworkClockAndPoolRegisters
  refine fun s => ⟨fun p v => ⟨fun ⟨empty, bare⟩ => ?root, fun used => ?rootRefused⟩,
    fun p v => ⟨fun above => ?quotaRefused, fun fits => ?quota⟩, fun slice v => ?rtrOwn, fun port v => ?lnkOwn,
    fun ch v channel => ⟨fun bad => ?maskRefused, fun free few enough => ?mask⟩,
    fun ch v channel => ⟨fun bad => ?minRefused, fun few enough unbound => ?min⟩, fun v => ?pool,
    fun port v real => ⟨fun above => ?reserveRefused, fun fits => ?reserve⟩, fun reg v => ?gates,
    fun port real => ⟨?retrain, ?up, ?down⟩⟩
  case root =>
    rw [exec_ptnpXltRoot, execPtnpXltRoot, State.writeRoot]
    simp only [empty, bare, Option.isNone_none, and_self, if_true]
  case rootRefused =>
    rw [exec_ptnpXltRoot, execPtnpXltRoot, State.writeRoot]
    refine congrArg _ (if_neg fun both => ?_)
    rcases used with full | resident
    · exact Bool.eq_false_iff.mp full both.1
    · exact resident (Option.isNone_iff_eq_none.mp both.2)
  case quotaRefused =>
    rw [exec_quota, execQuota, State.writeQuota]
    simp only [above, or_true, if_true]
  case quota =>
    have alone : ¬ quarterEntries < v.toNat := Nat.not_lt.mpr ((Nat.le_add_left ..).trans fits)
    rw [exec_quota, execQuota, State.writeQuota]
    simp only [alone, Nat.not_lt.mpr fits, or_self, if_false]
  case rtrOwn => rw [exec_rtrOwn, execRtrOwn]
  case lnkOwn =>
    have hubPort : (port.toNat = 4 ∨ port.toNat = 5) = (port = 4 ∨ port = 5) :=
      propext (or_congr (BitVec.toNat_inj (y := 4)) (BitVec.toNat_inj (y := 5)))
    rw [exec_lnkOwn, execLnkOwn]
    simp only [hubPort]
  case maskRefused =>
    rw [exec_openMask, execOpenMask, State.writeOpenMask]
    simp only [channel, bad, if_true]
  case mask =>
    rw [exec_openMask, execOpenMask, State.writeOpenMask]
    simp only [channel, free, ne_eq, not_true_eq_false, Nat.not_lt.mpr few, Nat.not_lt.mpr enough, or_self, if_true, if_false]
  case minRefused =>
    rw [exec_openMin, execOpenMin, State.writeOpenMin]
    simp only [channel, windowsBelow_eq_true_iff, bad, if_true]
  case min =>
    rw [exec_openMin, execOpenMin, State.writeOpenMin]
    simp only [channel, windowsBelow_eq_true_iff, unbound, Nat.not_lt.mpr few, Nat.not_lt.mpr enough, or_self, if_true, if_false]
  case pool => rw [exec_poolState, execPoolState, State.writePoolState]
  case reserveRefused =>
    rw [exec_openReserve, execOpenReserve, if_pos real, State.writeOpenReserve]
    exact congrArg _ (if_pos above)
  case reserve =>
    rw [exec_openReserve, execOpenReserve, if_pos real, State.writeOpenReserve]
    exact congrArg _ (if_neg (Nat.not_lt.mpr fits))
  case gates => rw [exec_clkGate, execClkGate]
  case retrain => rw [exec_retrain, execRetrain]
  case up =>
    rw [exec_enable, execEnable, if_pos real, State.enablePort]
    simp only [if_true]
  case down =>
    rw [exec_enable, execEnable, if_pos real, State.enablePort]
    simp only [Bool.false_eq_true, if_false]

/-! ### Rings, vectors and notices -/

theorem State.drainNotice_of_cons {s : State} {n : Notice} {rest : List Notice} (waits : s.host.fmPair.notices = n :: rest) :
    s.drainNotice = if s.flag Reg.mbxStsEnable 1 = true ∧ s.host.fmPair.taken < s.ringFree true then
      (s.setPair true { s.host.fmPair with notices := rest }).writeNotice n else s := by
  unfold State.drainNotice State.noticeRoom
  rw [waits]
  simp only [Bool.and_eq_true, decide_eq_true_iff, gt_iff_lt]

theorem State.drainNotice_of_nil {s : State} (none : s.host.fmPair.notices = []) : s.drainNotice = s := by
  unfold State.drainNotice
  rw [none]

/-- Settles O19: each doorbell acts inside its ring while its device answers, and a vector's unmasking sends what is
pending. -/
theorem ringRegistersAndVectors : Obligations.RingRegistersAndVectors := by
  unfold Obligations.RingRegistersAndVectors
  refine fun s => ⟨fun inst q v x queue opened => ⟨fun inside => ?tail, fun beyond => ?tailBeyond, fun inside => ?head,
      fun beyond => ?headBeyond⟩,
    fun inst q v closed => ⟨?tailClosed, ?headClosed⟩,
    fun released fm => ⟨fun runs => ⟨?enabled, fun w => ⟨?sqBaseKept, ?cqBaseKept⟩⟩,
      fun stopped => ⟨?enable, fun w => ⟨?sqBase, ?cqBase⟩⟩,
      fun v => ⟨fun inside => ?sqTail, fun beyond => ?sqTailBeyond, fun inside => ?cqHead, fun beyond => ?cqHeadBeyond⟩⟩,
    fun opened fn vector present => ?unmask, fun none => ?noNotice, fun n rest waits => ?notice⟩
  case tail =>
    rw [exec_qSqTail, execQSqTail]
    simp only [queue, opened, inside, and_self, if_true]
  case tailBeyond =>
    rw [exec_qSqTail, execQSqTail]
    simp only [queue, Nat.not_lt.mpr beyond, and_false, if_false]
  case head =>
    rw [exec_qCqHead, execQCqHead]
    simp only [queue, opened, inside, and_self, if_true]
  case headBeyond =>
    rw [exec_qCqHead, execQCqHead]
    simp only [queue, Nat.not_lt.mpr beyond, and_false, if_false]
  case tailClosed =>
    rw [exec_qSqTail, execQSqTail]
    rcases closed with none | shut
    · simp only [none]
    · cases s.queue inst.toNat q.toNat <;> simp only [shut, Bool.false_eq_true, false_and, if_false]
  case headClosed =>
    rw [exec_qCqHead, execQCqHead]
    rcases closed with none | shut
    · simp only [none]
    · cases s.queue inst.toNat q.toNat <;> simp only [shut, Bool.false_eq_true, false_and, if_false]
  case enabled =>
    rw [exec_mbxEnable, execMbxEnable, State.writeMbxEnable]
    simp only [released, runs, not_true_eq_false, and_false, if_true, if_false]
  case sqBaseKept =>
    rw [exec_mbxSqBase, execMbxSqBase, State.writeSqBase]
    simp only [runs, true_or, if_true]
  case cqBaseKept =>
    rw [exec_mbxCqBase, execMbxCqBase, State.writeCqBase]
    simp only [runs, true_or, if_true]
  case enable =>
    rw [exec_mbxEnable, execMbxEnable, State.writeMbxEnable]
    simp only [released, stopped, Bool.false_eq_true, not_false_eq_true, and_self, if_true]
  case sqBase =>
    rw [exec_mbxSqBase, execMbxSqBase, State.writeSqBase]
    simp only [released, stopped, Bool.false_eq_true, not_true_eq_false, or_self, if_false, Nat.add_zero]
  case cqBase =>
    rw [exec_mbxCqBase, execMbxCqBase, State.writeCqBase]
    simp only [released, stopped, Bool.false_eq_true, not_true_eq_false, or_self, if_false]
  case sqTail =>
    rw [exec_sqTail, execSqTail, State.writeSqTail]
    simp only [released, inside, and_self, if_true]
  case sqTailBeyond =>
    rw [exec_sqTail, execSqTail, State.writeSqTail]
    simp only [Nat.not_lt.mpr beyond, false_and, if_false]
  case cqHead =>
    rw [exec_cqHead, execCqHead, State.writeCqHead]
    simp only [released, inside, and_self, if_true]
  case cqHeadBeyond =>
    rw [exec_cqHead, execCqHead, State.writeCqHead]
    simp only [Nat.not_lt.mpr beyond, false_and, if_false]
  case unmask =>
    have there : fn = false ∨ s.flag Reg.hifCfgBifurcated 0 = true := by
      cases fn with
      | false => exact .inl rfl
      | true => exact .inr (present rfl)
    rw [exec_vectorUnmask, execVectorUnmask]
    simp only [opened, there, and_self, if_true, State.setVector, Bool.false_eq_true, not_false_eq_true, true_and,
      State.onHost_host]
  case noNotice => rw [exec_noticePost, execNoticePost, State.drainNotice_of_nil none]
  case notice => rw [exec_noticePost, execNoticePost, State.drainNotice_of_cons waits]

/-! ### Errors on the bus, and commands that a pair may not give -/

/-- Settles O20: the first two places are a queue's rings, the next four the rings of the two pairs, the writes among them
odd, and the rest host buffers. -/
theorem dmaErrorsAndRefusedAdmin : Obligations.DmaErrorsAndRefusedAdmin := by
  unfold Obligations.DmaErrorsAndRefusedAdmin
  refine fun s => ⟨⟨fun w inst q ring x queue => ?queue, fun inst q => ⟨?_, ?_, ?_, ?_, ?_, ?_⟩⟩,
    fun fm a op => ⟨fun waits => ⟨?opcode, ?denied⟩, fun idle => ⟨?noOpcode, ?noDenied⟩⟩⟩
  case queue =>
    have kept : (s.raise Reg.hifStsDmaErr 0).queue inst.toNat q.toNat = some x := queue
    rw [exec_dmaError, execDmaError]
    simp only [ring, kept, if_true]
  case opcode =>
    rw [exec_admOpcode, execAdmOpcode]
    simp only [waits, if_true]
  case denied =>
    rw [exec_admDenied, execAdmDenied]
    simp only [waits, if_true]
  case noOpcode =>
    rw [exec_admOpcode, execAdmOpcode]
    simp only [idle, Bool.false_eq_true, if_false]
  case noDenied =>
    rw [exec_admDenied, execAdmDenied]
    simp only [idle, Bool.false_eq_true, if_false]
  all_goals rw [exec_dmaError]; rfl

/-! ### Descriptors -/

theorem State.takeDesc_of_waits {s : State} {i q : Nat} {d : Desc} {x : Inst} {y : HostQueue} (inst : s.inst i = some x)
    (queue : s.queue i q = some y) (may : s.mayTake x y = true) (waits : s.waits x.ptn d = true) :
    s.takeDesc i q d = s.setQueue i q { y with waiting := some (d.waitFence, d.waitValue) } := by
  unfold State.takeDesc
  simp only [inst, queue, may, waits, not_true_eq_false, if_true, if_false]

/-- The state in which a descriptor of a queue is judged: its queue's head moved on, its partition out of the idle states,
the free values for the other members drawn. -/
def State.descTaken (s : State) (p i q : Nat) (y : HostQueue) (d : Desc) : (Nat × List Word) × State :=
  (((s.setQueue i q (y.take ((y.sqHead + 1) % 2 ^ (y.sqLog2 + 4)))).count qmgPage 0 1).exitIdle p).otherMembers p d

/-- The line with the wake item that a new command needs ahead of it. -/
def State.woken (s : State) (p : Nat) : State :=
  if s.wakeAhead p = 0 then s else s.placeItem p (.wake none) (s.wakeAhead p)

/-- What becomes of a judged descriptor: its command placed and recorded, or its refusal recorded and the queue's count
given back. -/
def State.settleDesc (t r : State) (p i q head : Nat) (d : Desc) (j : Judged) : State :=
  match j.cmd with
  | some c => ((t.placeCmd p (t.line p).items.length c).postAdmission p i q head d j).sendLaunch p c d.imgIndex
  | none => match (r.postAdmission p i q head d j).queue i q with
    | some z => (r.postAdmission p i q head d j).setQueue i q { z with taken := z.taken - 1 }
    | none => r.postAdmission p i q head d j

theorem State.takeDesc_of_next {s : State} {i q : Nat} {d : Desc} {x : Inst} {y : HostQueue} (inst : s.inst i = some x)
    (queue : s.queue i q = some y) (may : s.mayTake x y = true) (ready : s.waits x.ptn d = false)
    (next : s.isNext x.ptn i q y = true) :
    s.takeDesc i q d =
      let head := (y.sqHead + 1) % 2 ^ (y.sqLog2 + 4)
      let r := s.descTaken x.ptn i q y d
      let t := r.2.woken x.ptn
      t.settleDesc r.2 x.ptn i q head d
        (t.judge x.ptn i q head x d (t.line x.ptn).items ((t.line x.ptn).queueFree r.2.now) r.1) := by
  unfold State.takeDesc
  simp only [inst, queue, may, ready, next, not_true_eq_false, Bool.false_eq_true, if_false]
  rfl

theorem State.settleDesc_of_accepted {t r : State} {p i q head : Nat} {d : Desc} {j : Judged} {c : Cmd}
    (accepted : j.cmd = some c) : t.settleDesc r p i q head d j =
      ((t.placeCmd p (t.line p).items.length c).postAdmission p i q head d j).sendLaunch p c d.imgIndex := by
  unfold State.settleDesc
  rw [accepted]

theorem State.settleDesc_of_refused {t r : State} {p i q head : Nat} {d : Desc} {j : Judged} {z : HostQueue}
    (refused : j.cmd = none) (left : (r.postAdmission p i q head d j).queue i q = some z) : t.settleDesc r p i q head d j =
      (r.postAdmission p i q head d j).setQueue i q { z with taken := z.taken - 1 } := by
  unfold State.settleDesc
  rw [refused]
  simp only [left]

/-- Settles O21: the three operations take the head descriptor alike, and INST_LAUNCH goes by the segment that its image
lists. -/
theorem submissionTakesADescriptor : Obligations.SubmissionTakesADescriptor := by
  unfold Obligations.SubmissionTakesADescriptor
  intro s inst q desc x y live queue may d i k p head r t j after
  have taken : after (s.takeDesc i k d) := by
    refine ⟨fun waits => State.takeDesc_of_waits live queue may waits, fun ready next =>
      ⟨fun c accepted => ?_, fun refused z left => ?_⟩⟩
    · exact (State.takeDesc_of_next live queue may ready next).trans (State.settleDesc_of_accepted accepted)
    · exact (State.takeDesc_of_next live queue may ready next).trans (State.settleDesc_of_refused refused left)
  refine ⟨fun other none => ⟨_, ?run, taken⟩, fun alloy => ⟨_, ?alloyRun, taken⟩, fun signal => ⟨_, ?signal, taken⟩,
    fun compat segment delay => ⟨fun sg segments active => ?launch, fun lacks => ?lacks⟩⟩
  case run =>
    rw [exec_run, execRun]
    exact congrArg _ (if_neg (not_or.mpr ⟨other, none⟩))
  case alloyRun =>
    rw [exec_alloyRun, execAlloyRun]
    exact congrArg _ (if_pos alloy)
  case signal =>
    rw [exec_signal, execSignal]
    exact congrArg _ (if_pos signal)
  case launch =>
    rw [exec_instLaunch, execInstLaunch]
    simp only [compat, live, segments, active, not_true_eq_false, if_true, if_false, i, p]
  case lacks =>
    rw [exec_instLaunch, execInstLaunch]
    simp only [compat, live, lacks, not_true_eq_false, if_false, i, p]

end Sys2Proof.Machine
end

-- ==== Objects of the driver pair: instances, queues, vectors, memory objects, fences, argument sets, tables, regions, images, heaps ====
section

namespace Sys2Proof.Machine
open Sys2Proof.Certificates

/-! ### Instances and their queues -/

theorem State.onInstance_of_some {s : State} {a : Adm} {inst : BitVec 16} {x : Inst} (go : Nat → Inst → State → State)
    (live : s.inst inst.toNat = some x) : s.onInstance a inst go = go inst.toNat x s := by
  unfold State.onInstance
  rw [live]

/-- Settles O23: the command is taken, its operands are in range, and what it does goes by what its handle or index names. -/
theorem instancesAndTheirQueues : Obligations.InstancesAndTheirQueues := by
  unfold Obligations.InstancesAndTheirQueues
  refine fun s a inst taken inRange => ⟨fun p fn image ptn => ⟨fun full => ?createState, fun active few used => ?createBusy,
      fun active few free => ⟨fun bad => ?createHandle, fun k usable function => ?create⟩⟩,
    fun free => ⟨?drainFree, ?squashFree, ?resetFree, ?queryFree⟩,
    fun x live => ⟨fun settled => ⟨?drain, ?squash, ?reset⟩, fun moving => ⟨?drainMoving, ?squashMoving, ?resetMoving⟩,
      ?suspend, ?resume, fun image k usable => ⟨fun empty none => ?imageNow, fun waits => ?imageNext⟩, ?query,
      fun n size none v lowest => ?vectors, ?vecFree, fun q sqLog2 cqLog2 sqBase cqBase real sqFits cqFits sqAt cqAt => ?create_queue⟩,
    fun q y real queue => ?destroy_queue⟩
  case createState =>
    rw [exec_instCreate, execInstCreate, State.admin_of_taken _ taken (Bool.and_eq_true_iff.mpr ⟨inRange, ptn⟩)]
    simp only [full, if_true]
  case createBusy =>
    rw [exec_instCreate, execInstCreate, State.admin_of_taken _ taken (Bool.and_eq_true_iff.mpr ⟨inRange, ptn⟩)]
    simp only [active, Nat.not_le.mpr few, used, ne_eq, not_true_eq_false, or_self, if_true, if_false]
  case createHandle =>
    rw [exec_instCreate, execInstCreate, State.admin_of_taken _ taken (Bool.and_eq_true_iff.mpr ⟨inRange, ptn⟩)]
    simp only [active, Nat.not_le.mpr few, free, bad, ne_eq, not_true_eq_false, or_self, if_false, Option.isSome_none,
      Bool.false_eq_true]
  case create =>
    rw [exec_instCreate, execInstCreate, State.admin_of_taken _ taken (Bool.and_eq_true_iff.mpr ⟨inRange, ptn⟩)]
    simp only [active, Nat.not_le.mpr few, free, usable, function, ne_eq, not_true_eq_false, or_self, if_true, if_false,
      Option.isSome_none, Bool.false_eq_true]
  case drainFree =>
    rw [exec_instDestroyDrain, execInstDestroyDrain, State.admin_of_taken _ taken inRange]
    simp only [free]
  case squashFree =>
    rw [exec_instDestroySquash, execInstDestroySquash, State.admin_of_taken _ taken inRange]
    simp only [free]
  case resetFree =>
    rw [exec_instReset, execInstReset, State.admin_of_taken _ taken inRange]
    simp only [free]
  case queryFree =>
    rw [exec_instQuery, execInstQuery, State.admin_of_taken _ taken inRange]
    simp only [free]
  case drain =>
    rw [exec_instDestroyDrain, execInstDestroyDrain, State.admin_of_taken _ taken inRange]
    simp only [live, settled, if_true]
  case squash =>
    rw [exec_instDestroySquash, execInstDestroySquash, State.admin_of_taken _ taken inRange]
    simp only [live, settled, if_true]
  case reset =>
    rw [exec_instReset, execInstReset, State.admin_of_taken _ taken inRange]
    simp only [live, settled, if_true]
  case drainMoving =>
    rw [exec_instDestroyDrain, execInstDestroyDrain, State.admin_of_taken _ taken inRange]
    simp only [live, moving, Bool.false_eq_true, if_false]
  case squashMoving =>
    rw [exec_instDestroySquash, execInstDestroySquash, State.admin_of_taken _ taken inRange]
    simp only [live, moving, Bool.false_eq_true, if_false]
  case resetMoving =>
    rw [exec_instReset, execInstReset, State.admin_of_taken _ taken inRange]
    simp only [live, moving, Bool.false_eq_true, if_false]
  case suspend =>
    rw [exec_instSuspend, execInstSuspend, State.admin_of_taken _ taken inRange]
    simp only [live, apply_ite Host.Outcome.next]
  case resume =>
    rw [exec_instResume, execInstResume, State.admin_of_taken _ taken inRange]
    simp only [live, apply_ite Host.Outcome.next]
  case imageNow =>
    rw [exec_instImage, execInstImage, State.admin_of_taken _ taken inRange]
    simp only [live, usable, empty, none, and_self, if_true]
  case imageNext =>
    rw [exec_instImage, execInstImage, State.admin_of_taken _ taken inRange]
    simp only [live, usable, waits, false_and, if_false]
  case query =>
    rw [exec_instQuery, execInstQuery, State.admin_of_taken _ taken inRange]
    simp only [live]
  case vectors =>
    have power : n.toNat = 1 ∨ n.toNat = 2 ∨ n.toNat = 4 ∨ n.toNat = 8 := by
      rcases size with rfl | rfl | rfl | rfl <;> decide
    rw [exec_vecAlloc, execVecAlloc, State.admin_of_taken _ taken (Bool.and_eq_true_iff.mpr ⟨inRange, decide_eq_true power⟩),
      State.onInstance_of_some _ live]
    simp only [none, lowest, Option.isSome_none, Bool.false_eq_true, if_false]
  case vecFree =>
    rw [exec_vecFree, execVecFree, State.admin_of_taken _ taken inRange, State.onInstance_of_some _ live]
    simp only [apply_ite Host.Outcome.next]
  case create_queue =>
    rw [exec_qCreate, execQCreate, State.admin_of_taken _ taken
      (Bool.and_eq_true_iff.mpr ⟨inRange, decide_eq_true ⟨real, sqFits, cqFits, sqAt, cqAt⟩⟩)]
    simp only [live, Option.isNone_some, Bool.false_eq_true, if_false, apply_ite Host.Outcome.next]
  case destroy_queue =>
    rw [exec_qDestroy, execQDestroy, State.admin_of_taken _ taken (Bool.and_eq_true_iff.mpr ⟨inRange, decide_eq_true real⟩)]
    simp only [queue, apply_ite Host.Outcome.next]

end Sys2Proof.Machine
end

-- ==== Memory objects, fences, references and argument sets ====
section

namespace Sys2Proof.Machine
open Sys2Proof.Certificates

/-- OBJ_REF of a live object, fence or image whose new host count is `n`: refused beyond the limits, freed at 0, else counted. -/
def State.hostCounted (s : State) (a : Adm) (n : Int) (free : State) (put : Nat → State) : State :=
  if n < 0 ∨ (hostLimit : Int) < n then s.complete false a St.objLimit
  else if n = 0 then free
  else (put n.toNat).complete false a St.success 0 n.toNat

section
variable {s : State} {a : Adm} {n : Int} {free : State} {put : Nat → State}

theorem State.hostCounted_of_beyond (beyond : n < 0 ∨ (hostLimit : Int) < n) :
    s.hostCounted a n free put = s.complete false a St.objLimit := if_pos beyond

theorem State.hostCounted_of_zero (zero : n = 0) : s.hostCounted a n free put = free := by
  have inside : ¬ (n < 0 ∨ (hostLimit : Int) < n) := by
    subst zero
    decide
  rw [State.hostCounted, if_neg inside, if_pos zero]

theorem State.hostCounted_of_count (some : 0 < n) (within : n ≤ (hostLimit : Int)) :
    s.hostCounted a n free put = (put n.toNat).complete false a St.success 0 n.toNat := by
  rw [State.hostCounted, if_neg (by omega), if_neg (by omega)]

end

section
variable {s : State} {a : Adm} {h : Handle} {k : Nat}

theorem exec_objRef_of_object (taken : AdmTaken s false a) (delta : BitVec 32) {o : MemObj}
    (found : (s.takeAdm false).findObj h = some (k, o)) (live : o.freeing = false) :
    exec (.objRef a 0 h delta) s = .next ((s.takeAdm false).hostCounted a (o.host + delta.toInt)
      ((s.takeAdm false).moFree a h) fun n => (s.takeAdm false).setObj k { o with host := n }) := by
  rw [exec_objRef, execObjRef, State.admin_of_taken _ taken (by decide)]
  simp only [found, live, Bool.false_eq_true, if_true, if_false]
  rfl

theorem exec_objRef_of_fence (taken : AdmTaken s false a) (delta : BitVec 32) {f : Fence}
    (found : (s.takeAdm false).findFence h = some (k, f)) (live : f.freeing = false) :
    exec (.objRef a 1 h delta) s = .next ((s.takeAdm false).hostCounted a (f.host + delta.toInt)
      ((s.takeAdm false).fenceFree a h) fun n => (s.takeAdm false).setFence k { f with host := n }) := by
  have other : ¬ (1 : Byte) = 0 := by decide
  rw [exec_objRef, execObjRef, State.admin_of_taken _ taken (by decide)]
  simp only [found, live, other, Bool.false_eq_true, if_true, if_false]
  rfl

theorem exec_objRef_of_image (taken : AdmTaken s false a) (delta : BitVec 32) {i : Image}
    (found : (s.takeAdm false).findImage h = some (k, i)) (live : i.freeing = false) :
    exec (.objRef a 2 h delta) s = .next ((s.takeAdm false).hostCounted a (i.host + delta.toInt)
      ((s.takeAdm false).imageFree a h) fun n => (s.takeAdm false).setImage k { i with host := n }) := by
  have object : ¬ (2 : Byte) = 0 := by decide
  have fence : ¬ (2 : Byte) = 1 := by decide
  rw [exec_objRef, execObjRef, State.admin_of_taken _ taken (by decide)]
  simp only [found, live, object, fence, Bool.false_eq_true, if_false]
  rfl

end

/-- Settles O24: a command taken in order with its operands in range does what its rule gives of the objects it names. -/
theorem memoryObjectsAndReferences : Obligations.MemoryObjectsAndReferences := by
  unfold Obligations.MemoryObjectsAndReferences
  refine fun s a taken => ⟨fun p kind flags owner va bytes ptn kinds bits may owned => ⟨fun bad => ?badRange, fun free k gap => ?create⟩,
    fun h => ⟨?moFree, ?fenceFree⟩, fun h delta k o found live => ?objectRef, fun h delta k f found live => ?fenceRef,
    fun h delta k i found live => ?imageRef, fun obj extent k o lines found live append => ?extent,
    fun p value ptn may k gap => ?fence,
    fun fence k f found live => ⟨fun value => ?signal, fun inst x view inRange held named => ?view⟩,
    fun inst x view inRange held => ?unview, fun p set data ptn named room => ?arguments⟩
  case badRange =>
    rw [exec_moCreate, execMoCreate, State.admin_of_taken _ taken (Bool.and_eq_true_iff.mpr ⟨ptn, decide_eq_true ⟨kinds, bits⟩⟩)]
    simp only [may, owned, not_true_eq_false, if_false]
    refine congrArg _ (if_pos (by_contra fun fits => bad ?_))
    simp only [List.any_eq_true, Bool.and_eq_true, decide_eq_true_eq, not_or, not_exists, not_and, ne_eq, not_not,
      Bool.not_eq_true, not_lt] at fits
    exact fits
  case create =>
    obtain ⟨vaAligned, bytesAligned, some, fits, apart⟩ := free
    have none : ((s.takeAdm false).host.objs.vals.any fun o =>
        decide (o.ptn = p.toNat) && rangesMeet va.toNat bytes.toNat o.va o.bytes) = false := by
      refine List.any_eq_false.mpr fun o listed => ?_
      rw [Bool.and_eq_true, decide_eq_true_eq]
      exact fun ⟨same, meets⟩ => Bool.false_ne_true ((apart o listed same).symm.trans meets)
    have append : decide (kind = 1) = decide (kind.toNat = 1) := decide_eq_decide.mpr (BitVec.toNat_inj (y := 1)).symm
    rw [exec_moCreate, execMoCreate, State.admin_of_taken _ taken (Bool.and_eq_true_iff.mpr ⟨ptn, decide_eq_true ⟨kinds, bits⟩⟩)]
    simp only [may, owned, vaAligned, bytesAligned, some, Nat.not_lt.mpr fits, none, gap, append, ne_eq, not_true_eq_false,
      Bool.false_eq_true, or_self, if_false]
  case moFree => rw [exec_moFree, execMoFree, State.admin_of_taken _ taken rfl]
  case fenceFree => rw [exec_fenceFree, execFenceFree, State.admin_of_taken _ taken rfl]
  case objectRef =>
    rw [exec_objRef_of_object taken delta found live]
    exact ⟨fun beyond => congrArg _ (State.hostCounted_of_beyond beyond),
      fun zero => congrArg _ (State.hostCounted_of_zero zero),
      fun some within => congrArg _ (State.hostCounted_of_count some within)⟩
  case fenceRef =>
    rw [exec_objRef_of_fence taken delta found live]
    exact ⟨fun beyond => congrArg _ (State.hostCounted_of_beyond beyond),
      fun zero => congrArg _ (State.hostCounted_of_zero zero),
      fun some within => congrArg _ (State.hostCounted_of_count some within)⟩
  case imageRef =>
    rw [exec_objRef_of_image taken delta found live]
    exact ⟨fun beyond => congrArg _ (State.hostCounted_of_beyond beyond),
      fun zero => congrArg _ (State.hostCounted_of_zero zero),
      fun some within => congrArg _ (State.hostCounted_of_count some within)⟩
  case extent =>
    rw [exec_appendSet, execAppendSet, State.admin_of_taken _ taken (decide_eq_true lines)]
    simp only [found, live, append, Bool.false_eq_true, not_true_eq_false, or_self, if_false, apply_ite Host.Outcome.next]
  case fence =>
    rw [exec_fenceCreate, execFenceCreate, State.admin_of_taken _ taken ptn]
    simp only [may, gap, not_true_eq_false, if_false]
  case signal =>
    rw [exec_fenceSignal, execFenceSignal, State.admin_of_taken _ taken rfl]
    simp only [found, live, Bool.false_eq_true, if_false]
  case view =>
    rw [exec_fenceView, execFenceView, State.admin_of_taken _ taken inRange]
    simp only [held, named, found, live, Bool.false_eq_true, false_or, if_false, apply_ite Host.Outcome.next]
  case unview =>
    rw [exec_fenceView, execFenceView, State.admin_of_taken _ taken inRange]
    simp only [held, if_true]
  case arguments =>
    have fit : ((argObjs data).any fun e => match (s.takeAdm false).findObj e.handle with
        | some (_, o) => o.freeing || decide (o.ptn ≠ p.toNat)
        | none => true) = false := by
      refine List.any_eq_false.mpr fun e listed => ?_
      obtain ⟨k, o, found, live, own⟩ := named e listed
      simp only [found, live, own, ne_eq, not_true_eq_false, decide_false, Bool.or_self, Bool.false_eq_true, not_false_eq_true]
    rw [exec_argsetWrite, execArgsetWrite, State.admin_of_taken _ taken ptn]
    refine congrArg _ ((if_neg (Bool.eq_false_iff.mp fit)).trans (if_neg ?_))
    rw [List.any_eq_true]
    rintro ⟨k, listed, exceeds⟩
    cases held : (s.takeAdm false).host.objs.find k with
    | none => simp only [held, Bool.false_eq_true] at exceeds
    | some o =>
      simp only [held, decide_eq_true_eq] at exceeds
      exact Nat.not_lt.mpr (room k listed o held) exceeds

end Sys2Proof.Machine
end

-- ==== Tables, regions, orders, images and heaps; partitions; pre-emption ====
section

namespace Sys2Proof.Machine
open Sys2Proof.Certificates

/-! ### Tables, regions, orders, images and heaps -/

theorem State.reading_of_badLine {s : State} {p x : Nat} {dpas : List Nat} (bad good : State → State)
    (uncorrectable : s.badLine [] dpas = some x) :
    s.reading p dpas bad good = bad ((s.noteLines [] dpas).faultPtn p Fc.memUe (.channel (dpaChannel x))) := by
  unfold State.reading
  rw [uncorrectable]

theorem State.reading_of_none {s : State} {p : Nat} {dpas : List Nat} (bad good : State → State)
    (clean : s.badLine [] dpas = none) : s.reading p dpas bad good = good (s.noteLines [] dpas) := by
  unfold State.reading
  rw [clean]

/-- Settles O25: a command taken in order with its operands in range does what its rule gives of what it names. -/
theorem tablesRegionsOrdersImagesAndHeaps : Obligations.TablesRegionsOrdersImagesAndHeaps := by
  unfold Obligations.TablesRegionsOrdersImagesAndHeaps
  refine fun s a taken => ⟨fun p rec ptn inRange => ⟨fun free => ?tableFree, fun used other => ?tableOther,
      fun used own => ⟨fun now => ?tableNow, fun later active => ?tableLater⟩⟩,
    fun engine flags kind region obj base lines k o real bits slot based lined kinds found live new works => ?region,
    fun engine region g real slot held live => ?unregion,
    fun engine p d real ptn active layout start finish plain ops => ?order,
    fun p flags index obj ok o ptn bits active found live own member => ?bind,
    fun h => ?unbind,
    fun p ptn => ⟨fun used standing obj k o named found live own plain size aligned free room none => ?heap,
      fun hp held => ⟨fun used standing => ?noHeap, ?heapReset⟩⟩⟩
  case tableFree =>
    rw [exec_ptWrite, execPtWrite, State.admin_of_taken _ taken (Bool.and_eq_true_iff.mpr ⟨ptn, inRange⟩)]
    simp only [free, if_true]
  case tableOther =>
    rw [exec_ptWrite, execPtWrite, State.admin_of_taken _ taken (Bool.and_eq_true_iff.mpr ⟨ptn, inRange⟩)]
    simp only [used, other, Bool.false_eq_true, not_false_eq_true, if_true, if_false]
  case tableNow =>
    rw [exec_ptWrite, execPtWrite, State.admin_of_taken _ taken (Bool.and_eq_true_iff.mpr ⟨ptn, inRange⟩)]
    simp only [used, own, now, not_true_eq_false, if_true, if_false]
  case tableLater =>
    rw [exec_ptWrite, execPtWrite, State.admin_of_taken _ taken (Bool.and_eq_true_iff.mpr ⟨ptn, inRange⟩), if_neg used]
    simp only [own, later, active, ne_eq, not_true_eq_false, Bool.false_eq_true, if_false]
  case region =>
    rw [exec_regionCreate, execRegionCreate,
      State.admin_of_taken _ taken (decide_eq_true ⟨real, bits, slot, based, lined, kinds⟩)]
    simp only [found, live, new, works, Bool.false_eq_true, Bool.not_eq_true, if_false, apply_ite Host.Outcome.next]
  case unregion =>
    rw [exec_regionDestroy, execRegionDestroy, State.admin_of_taken _ taken (decide_eq_true ⟨real, slot⟩)]
    simp only [held, live, Bool.false_eq_true, if_false, apply_ite Host.Outcome.next]
  case order =>
    rw [exec_openOrder, execOpenOrder, State.admin_of_taken _ taken (Bool.and_eq_true_iff.mpr ⟨decide_eq_true real, ptn⟩)]
    simp only [active, layout, start, finish, plain, ops, ne_eq, not_true_eq_false, Bool.false_eq_true, not_false_eq_true,
      and_self, or_self, if_false, Bool.not_eq_true, apply_ite Host.Outcome.next]
  case bind =>
    have numbered : index.toNat ≤ 15 ∨ index.toNat = 255 := by
      rcases member with rfl | ⟨low, joined⟩
      · exact .inr rfl
      · exact .inl low
    have joined : ¬ (index.toNat ≤ 15 ∧
        ¬ ((s.takeAdm false).mstate p.toNat = Ms.joining ∨ (s.takeAdm false).mstate p.toNat = Ms.active)) := by
      rcases member with rfl | ⟨low, joined⟩
      · exact fun high => absurd high.1 (by decide)
      · exact fun outside => outside.2 joined
    have inRange : (ptnOk p && decide (flags.toNat ≤ 1 ∧ (index.toNat ≤ 15 ∨ index.toNat = 255))) = true :=
      Bool.and_eq_true_iff.mpr ⟨ptn, decide_eq_true ⟨bits, numbered⟩⟩
    rw [exec_imgBind, execImgBind, State.admin_of_taken _ taken inRange]
    simp only [active, found, live, own, joined, ne_eq, not_true_eq_false, Bool.false_eq_true, or_self, if_false,
      decide_eq_true_eq]
    refine ⟨fun x uncorrectable => ?_, fun clean status => ?_, fun clean status room k gap => ?_⟩
    · exact congrArg _ (State.reading_of_badLine _ _ uncorrectable)
    · exact congrArg _ ((State.reading_of_none _ _ clean).trans (if_pos status))
    · refine (congrArg _ (State.reading_of_none _ _ clean)).trans ?_
      refine (congrArg _ (if_neg (not_not.mpr status))).trans ?_
      refine (congrArg _ (if_neg (Nat.not_le.mpr room))).trans ?_
      rw [gap]
      exact apply_ite Host.Outcome.next _ _ _
  case unbind => rw [exec_imgUnbind, execImgUnbind, State.admin_of_taken _ taken rfl]
  case heap =>
    rw [exec_heapSet, execHeapSet, State.admin_of_taken _ taken ptn]
    simp only [used, standing, named, found, live, own, plain, size, aligned, free, Nat.not_le.mpr room, none, Option.map_none,
      Option.getD_none, ne_eq, not_true_eq_false, Bool.false_eq_true, or_self, if_false]
  case noHeap =>
    rw [exec_heapSet, execHeapSet, State.admin_of_taken _ taken ptn]
    simp only [used, standing, held, Option.map_some, Option.getD_some, or_self, if_true, if_false,
      apply_ite Host.Outcome.next]
  case heapReset =>
    rw [exec_heapReset, execHeapReset, State.admin_of_taken _ taken ptn]
    simp only [held, apply_ite Host.Outcome.next]

end Sys2Proof.Machine
end

-- ==== Partitions created, destroyed, reset and reshaped; pre-emption ====
section

namespace Sys2Proof.Machine
open Sys2Proof.Certificates

/-! ### Partitions -/

/-- Settles O26: each check of a command refuses in its order, and past them all the command has its effect. -/
theorem partitionsCreatedDestroyedAndReshaped : Obligations.PartitionsCreatedDestroyedAndReshaped := by
  unfold Obligations.PartitionsCreatedDestroyedAndReshaped
  refine fun s a p taken ptn => ⟨fun compat => ⟨fun pr qu sl se profiles => ?createCompat, ?destroyCompat⟩,
    fun single profile quota slices sets profiles => ⟨fun used => ?inUse, fun free empty =>
      ⟨fun taken => ?notFree, fun room full => ?noQuota, fun room fits none => ?noProfile, fun room fits known => ?create⟩⟩,
    fun single => ⟨fun still whole => ?destroyState, fun state => ⟨fun full => ?destroyInstances, fun empty => ?destroy⟩⟩,
    ⟨fun still whole => ?resetState, fun state => ?reset⟩, fun r resetting real filled => ?anneal,
    fun single profile slices sets plan profiles laid => ⟨fun still => ?reshapeState, fun active none => ?reshapeProfile,
      fun active known pool setPool some entries tables moves stages quota grants => ?reshape⟩,
    fun n slice tiles ptn real => ?engines⟩
  case createCompat =>
    rw [exec_ptnCreate, execPtnCreate, State.admin_of_taken _ taken (Bool.and_eq_true_iff.mpr ⟨ptn, decide_eq_true profiles⟩)]
    simp only [compat, if_true]
  case destroyCompat =>
    rw [exec_ptnDestroy, execPtnDestroy, State.admin_of_taken _ taken ptn]
    simp only [compat, if_true]
  case inUse =>
    rw [exec_ptnCreate, execPtnCreate, State.admin_of_taken _ taken (Bool.and_eq_true_iff.mpr ⟨ptn, decide_eq_true profiles⟩)]
    simp only [single, used, Bool.false_eq_true, if_true, if_false]
  case notFree =>
    rename_i adm
    rw [exec_ptnCreate, execPtnCreate, State.admin_of_taken _ adm (Bool.and_eq_true_iff.mpr ⟨ptn, decide_eq_true profiles⟩)]
    simp only [single, free, empty, Bool.false_eq_true, ne_eq, not_true_eq_false, or_self, if_false]
    refine congrArg _ (if_pos (by_contra fun fits => taken ?_))
    simpa only [not_or, not_not, ne_eq] using fits
  case noQuota =>
    obtain ⟨some, slicesFree, setsFree⟩ := room
    rw [exec_ptnCreate, execPtnCreate, State.admin_of_taken _ taken (Bool.and_eq_true_iff.mpr ⟨ptn, decide_eq_true profiles⟩)]
    simp only [single, free, empty, some, slicesFree, setsFree, Nat.not_le.mp full, Bool.false_eq_true, ne_eq,
      not_true_eq_false, or_self, if_true, if_false]
  case noProfile =>
    obtain ⟨some, slicesFree, setsFree⟩ := room
    rw [exec_ptnCreate, execPtnCreate, State.admin_of_taken _ taken (Bool.and_eq_true_iff.mpr ⟨ptn, decide_eq_true profiles⟩)]
    simp only [single, free, empty, some, slicesFree, setsFree, Nat.not_lt.mpr fits, none, Bool.false_eq_true, ne_eq,
      not_true_eq_false, or_self, if_true, if_false]
  case create =>
    obtain ⟨some, slicesFree, setsFree⟩ := room
    rw [exec_ptnCreate, execPtnCreate, State.admin_of_taken _ taken (Bool.and_eq_true_iff.mpr ⟨ptn, decide_eq_true profiles⟩)]
    simp only [single, free, empty, some, slicesFree, setsFree, Nat.not_lt.mpr fits, known, Bool.false_eq_true, ne_eq,
      not_true_eq_false, or_self, if_false]
  case destroyState =>
    rw [exec_ptnDestroy, execPtnDestroy, State.admin_of_taken _ taken ptn]
    simp only [single, still, whole, Bool.false_eq_true, or_self, not_false_eq_true, if_true, if_false]
  case destroyInstances =>
    rw [exec_ptnDestroy, execPtnDestroy, State.admin_of_taken _ taken ptn]
    simp only [single, state, full, Bool.false_eq_true, not_true_eq_false, if_true, if_false]
  case destroy =>
    rw [exec_ptnDestroy, execPtnDestroy, State.admin_of_taken _ taken ptn]
    simp only [single, state, empty, Nat.lt_irrefl, Bool.false_eq_true, not_true_eq_false, if_false,
      apply_ite Host.Outcome.next]
  case resetState =>
    rw [exec_ptnReset, execPtnReset, State.admin_of_taken _ taken ptn]
    simp only [still, whole, or_self, not_false_eq_true, if_true]
  case reset =>
    rw [exec_ptnReset, execPtnReset, State.admin_of_taken _ taken ptn]
    simp only [state, not_true_eq_false, if_false, Bool.not_eq_true]
    exact congrArg _ (apply_ite (fun t => State.resetPtn t p.toNat false (some a)) _ _ _).symm
  case anneal =>
    have same : (BitVec.ofNat 6 p.toNat).toNat = p.toNat := BitVec.toNat_ofNat .. |>.trans (Nat.mod_eq_of_lt real)
    rw [exec_annealOverwriteEnd, execAnnealOverwriteEnd]
    simp only [same, resetting, filled, Bool.false_eq_true, if_false]
  case reshapeState =>
    rw [exec_ptnReshape, execPtnReshape, State.admin_of_taken _ taken
      (Bool.and_eq_true_iff.mpr ⟨Bool.and_eq_true_iff.mpr ⟨ptn, decide_eq_true profiles⟩, laid⟩)]
    simp only [single, still, Bool.false_eq_true, ne_eq, not_false_eq_true, if_true, if_false]
  case reshapeProfile =>
    rw [exec_ptnReshape, execPtnReshape, State.admin_of_taken _ taken
      (Bool.and_eq_true_iff.mpr ⟨Bool.and_eq_true_iff.mpr ⟨ptn, decide_eq_true profiles⟩, laid⟩)]
    simp only [single, active, none, Bool.false_eq_true, ne_eq, not_true_eq_false, if_true, if_false]
  case reshape =>
    have quotaFits : ¬ (4 < (bitsSet slices.toNat).length ∧ (s.takeAdm false).get Reg.ptnpXltQuotaQuota p.toNat = 0) :=
      fun ⟨many, zero⟩ => quota.elim (fun few => Nat.not_le.mpr many few) fun given => given zero
    rw [exec_ptnReshape, execPtnReshape, State.admin_of_taken _ taken
      (Bool.and_eq_true_iff.mpr ⟨Bool.and_eq_true_iff.mpr ⟨ptn, decide_eq_true profiles⟩, laid⟩)]
    simp only [single, active, known, pool, setPool, some, entries, tables, moves, stages, quotaFits, grants,
      Bool.false_eq_true, ne_eq, not_true_eq_false, or_self, if_false]
  case engines =>
    rw [exec_engineReset, execEngineReset, State.admin_of_taken _ taken (Bool.and_eq_true_iff.mpr ⟨ptn, decide_eq_true real⟩)]
    simp only [apply_ite Host.Outcome.next]

/-! ### Pre-emption -/

/-- The partition follows an alloy: a member of it that does not lead. -/
def State.follows (s : State) (p : Nat) : Prop :=
  (s.mstate p = Ms.joining ∨ s.mstate p = Ms.active ∨ s.mstate p = Ms.leaving) ∧ s.flag Reg.ptnpCfgLead p = false

section
variable {s : State} {a : Adm} {mode p i q : Nat} {d : Desc} {x : Inst} {y : HostQueue}

theorem State.preempt_of_absent (absent : s.inst i = none ∨ ∃ x, s.inst i = some x ∧ (x.state ≠ Is.active ∨ x.ptn ≠ p)) :
    s.preempt a mode p i q d = s.complete false a St.admState := by
  unfold State.preempt
  rcases absent with free | ⟨x, live, unfit⟩
  · rw [free]
  · rw [live]
    exact if_pos unfit

theorem State.preempt_of_closed (live : s.inst i = some x) (active : x.state = Is.active) (own : x.ptn = p)
    (single : ¬ s.follows p) (queue : s.queue i q = some y) (closed : s.mayTake x y = false ∨ s.waits p d = true) :
    s.preempt a mode p i q d = s.complete false a St.admState := by
  have fit : ¬ (x.state ≠ Is.active ∨ x.ptn ≠ p) := fun unfit => unfit.elim (· active) (· own)
  have lone : ¬ ((s.mstate p = Ms.joining ∨ s.mstate p = Ms.active ∨ s.mstate p = Ms.leaving) ∧
      ¬ s.flag Reg.ptnpCfgLead p = true) := fun ⟨member, low⟩ => single ⟨member, Bool.eq_false_iff.mpr low⟩
  unfold State.preempt
  rw [live]
  refine (if_neg fit).trans ((if_neg lone).trans ?_)
  rw [queue]
  exact if_pos (closed.imp_left Bool.eq_false_iff.mp)

/-- The instant from which a pre-emptor's promise counts: the kill of the running victim, or the end of the items ahead. -/
def State.preemptFrom (t r : State) (mode p : Nat) : Nat :=
  let items := (t.line p).items
  match (if mode = 2 then runningVictim items else none) with
  | some _ => r.now + Config.admitNs + (if decide (r.mstate p ≠ Ms.none) then (r.member p).launchNs else 0) + Config.killNs
  | none => (boundEnds 0 (items.take (insertionPoint items))).getLastD 0

/-- The walk of an accepted pre-emptor over what it displaces. -/
def State.preemptWalk (t r : State) (mode p : Nat) (c : Cmd) : Walk :=
  let items := (t.line p).items
  let run := if mode = 2 then runningVictim items else none
  ((items.drop (insertionPoint items)).filterMap Item.cmd).foldl
    (fun w c => t.walkOne p (decide (r.mstate p ≠ Ms.none)) w c)
    ⟨match run with | some v => [(v, none)] | none => [], [], c.tPromise, c.inst, c.reserved⟩

/-- What becomes of a judged pre-emptor: refused, BUSY in ABSORB for its victims, or applied. -/
def State.settlePreempt (s t r : State) (a : Adm) (mode p i q head : Nat) (d : Desc) (j : Judged) : State :=
  let l := t.line p
  match j.cmd with
  | none =>
    let u := r.postAdmission p i q head d j
    (match u.queue i q with
      | some z => u.setQueue i q { z with taken := z.taken - 1 }
      | none => u).complete false a j.status 0 ((if d.op = 2 then l.cmdSeq else l.seq) * 2 ^ 32)
  | some c =>
    let w := t.preemptWalk r mode p c
    if mode = 0 ∧ w.victims ≠ [] then s.complete false a St.busy
    else (t.applyPreempt p i q head (insertionPoint l.items) d.imgIndex d j c w).complete false a St.accepted 0
      (w.victims.length + (if d.op = 2 then c.cmdSeq else c.seq) * 2 ^ 32)

theorem State.preempt_of_taken (live : s.inst i = some x) (active : x.state = Is.active) (own : x.ptn = p)
    (single : ¬ s.follows p) (queue : s.queue i q = some y) (may : s.mayTake x y = true) (ready : s.waits p d = false) :
    s.preempt a mode p i q d =
      let head := (y.sqHead + 1) % 2 ^ (y.sqLog2 + 4)
      let r := s.descTaken p i q y d
      let t := r.2.woken p
      let items := (t.line p).items
      s.settlePreempt t r.2 a mode p i q head d
        (t.judge p i q head x d (items.take (insertionPoint items)) (t.preemptFrom r.2 mode p) r.1) := by
  have fit : ¬ (x.state ≠ Is.active ∨ x.ptn ≠ p) := fun unfit => unfit.elim (· active) (· own)
  have lone : ¬ ((s.mstate p = Ms.joining ∨ s.mstate p = Ms.active ∨ s.mstate p = Ms.leaving) ∧
      ¬ s.flag Reg.ptnpCfgLead p = true) := fun ⟨member, low⟩ => single ⟨member, Bool.eq_false_iff.mpr low⟩
  have opened : ¬ (¬ s.mayTake x y = true ∨ s.waits p d = true) :=
    fun closed => closed.elim (· may) fun waits => Bool.false_ne_true (ready.symm.trans waits)
  unfold State.preempt
  rw [live]
  refine (if_neg fit).trans ((if_neg lone).trans ?_)
  rw [queue]
  exact if_neg opened

theorem State.settlePreempt_of_refused {t r : State} {head : Nat} {j : Judged} {z : HostQueue} (refused : j.cmd = none)
    (left : (r.postAdmission p i q head d j).queue i q = some z) :
    s.settlePreempt t r a mode p i q head d j =
      ((r.postAdmission p i q head d j).setQueue i q { z with taken := z.taken - 1 }).complete false a j.status 0
        ((if d.op = 2 then (t.line p).cmdSeq else (t.line p).seq) * 2 ^ 32) := by
  unfold State.settlePreempt
  rw [refused]
  dsimp only
  rw [left]

theorem State.settlePreempt_of_accepted {t r : State} {head : Nat} {j : Judged} {c : Cmd} (accepted : j.cmd = some c) :
    s.settlePreempt t r a mode p i q head d j =
      let w := t.preemptWalk r mode p c
      if mode = 0 ∧ w.victims ≠ [] then s.complete false a St.busy
      else (t.applyPreempt p i q head (insertionPoint (t.line p).items) d.imgIndex d j c w).complete false a St.accepted 0
        (w.victims.length + (if d.op = 2 then c.cmdSeq else c.seq) * 2 ^ 32) := by
  unfold State.settlePreempt
  rw [accepted]

end

theorem State.preemptFrom_eq (t r : State) (mode p : Nat) :
    t.preemptFrom r mode p = match (if mode = 2 then runningVictim (t.line p).items else none) with
      | some _ => r.now + Config.admitNs + (if r.mstate p ≠ Ms.none then (r.member p).launchNs else 0) + Config.killNs
      | none => (boundEnds 0 ((t.line p).items.take (insertionPoint (t.line p).items))).getLastD 0 := by
  unfold State.preemptFrom
  simp only [decide_eq_true_eq]

/-- Settles O27: the three modes take the head descriptor alike, and part where the judged pre-emptor has victims. -/
theorem preemptJudgesTheHeadDescriptor : Obligations.PreemptJudgesTheHeadDescriptor := by
  unfold Obligations.PreemptJudgesTheHeadDescriptor
  intro s a p q inst desc taken ptn inRange real t pn i k d after
  have operands : (ptnOk p && instOk inst && decide (q.toNat < 8)) = true :=
    Bool.and_eq_true_iff.mpr ⟨Bool.and_eq_true_iff.mpr ⟨ptn, inRange⟩, decide_eq_true real⟩
  have judged : ∀ mode, after mode (t.preempt a mode pn i k d) := by
    refine fun mode => ⟨State.preempt_of_absent, fun x y live active own single queue =>
      ⟨State.preempt_of_closed live active own single queue, fun may ready => ?_⟩⟩
    have settled := State.preempt_of_taken (a := a) (mode := mode) live active own single queue may ready
    dsimp only at settled
    rw [State.preemptFrom_eq] at settled
    refine ⟨fun refused z left => settled.trans (State.settlePreempt_of_refused refused left), fun c accepted => ?_⟩
    have placed := settled.trans (State.settlePreempt_of_accepted accepted)
    dsimp only [State.preemptWalk] at placed
    exact placed
  refine ⟨⟨_, ?absorb, judged 0⟩, ⟨_, ?withdraw, judged 1⟩, ⟨_, ?kill, judged 2⟩⟩
  case absorb => rw [exec_preemptAbsorb, execPreemptAbsorb, State.admin_of_taken _ taken operands]
  case withdraw => rw [exec_preemptWithdraw, execPreemptWithdraw, State.admin_of_taken _ taken operands]
  case kill => rw [exec_preemptKill, execPreemptKill, State.admin_of_taken _ taken operands]

end Sys2Proof.Machine
end

-- ==== Handoff commands; the write log, the aperture and PASIDs ====
section

namespace Sys2Proof.Machine
open Sys2Proof.Certificates

/-! ### Handoff commands -/

/-- A handoff command whose ring gives it has its effect outside compatibility mode. -/
theorem State.hoAdmin_of_taken {s : State} {fm : Bool} {a : Adm} {ok : Bool} (go : State → State) (taken : AdmTaken s fm a)
    (native : (s.takeAdm fm).compat = false) (values : ok = true) : s.hoAdmin fm a ok go = go (s.takeAdm fm) := by
  rw [State.hoAdmin, State.admin_of_taken _ taken values]
  exact if_neg (Bool.eq_false_iff.mp native)

section
variable {s : State} {a : Adm} {st : Byte} {h : Handle} {ep : BitVec 32}

theorem State.hoRule_of_none (admits : HoRecord → Bool) (go : State → Nat → HoRecord → State) (taken : AdmTaken s true a)
    (native : (s.takeAdm true).compat = false) (known : st.toNat ≤ 6) (none : (s.takeAdm true).findRecord h.toNat = none) :
    s.hoRule a st h ep admits go = (s.takeAdm true).complete true a St.hoEpoch := by
  rw [State.hoRule, State.hoAdmin_of_taken _ taken native (decide_eq_true known)]
  simp only [none]

theorem State.hoRule_of_stale (admits : HoRecord → Bool) (go : State → Nat → HoRecord → State) (taken : AdmTaken s true a)
    (native : (s.takeAdm true).compat = false) (known : st.toNat ≤ 6) {k : Nat} {r : HoRecord}
    (found : (s.takeAdm true).findRecord h.toNat = some (k, r)) (stale : r.state ≠ st.toNat ∨ r.epoch ≠ ep.toNat) :
    s.hoRule a st h ep admits go = (s.takeAdm true).complete true a St.hoEpoch := by
  rw [State.hoRule, State.hoAdmin_of_taken _ taken native (decide_eq_true known)]
  simp only [found, stale, if_true]

theorem State.hoRule_of_admitted {admits : HoRecord → Bool} (go : State → Nat → HoRecord → State) (taken : AdmTaken s true a)
    (native : (s.takeAdm true).compat = false) (known : st.toNat ≤ 6) {k : Nat} {r : HoRecord}
    (found : (s.takeAdm true).findRecord h.toNat = some (k, r)) (state : r.state = st.toNat) (epoch : r.epoch = ep.toNat)
    (admitted : admits r = true) :
    s.hoRule a st h ep admits go = ((go (s.takeAdm true) k r).beginStreams).complete true a St.success := by
  rw [State.hoRule, State.hoAdmin_of_taken _ taken native (decide_eq_true known)]
  simp only [found, state, epoch, admitted, ne_eq, not_true_eq_false, or_self, if_false]

/-- What a ruling answers whatever it rules, each of the five answers. -/
theorem exec_hoRules_of_answer {u : State} (answer : ∀ admits go, s.hoRule a st h ep admits go = u) :
    exec (.hoRuleSource a st h ep) s = .next u ∧ exec (.hoRuleDestination a st h ep) s = .next u ∧
      exec (.hoRuleLost a st h ep) s = .next u ∧ exec (.hoRuleKeep a st h ep) s = .next u ∧
      exec (.hoRuleDrop a st h ep) s = .next u := by
  refine ⟨?_, ?_, ?_, ?_, ?_⟩
  · rw [exec_hoRuleSource, execHoRuleSource, answer]
  · rw [exec_hoRuleDestination, execHoRuleDestination, answer]
  · rw [exec_hoRuleLost, execHoRuleLost, answer]
  · rw [exec_hoRuleKeep, execHoRuleKeep, answer]
  · rw [exec_hoRuleDrop, execHoRuleDrop, answer]

end

/-- Settles O28: outside compatibility mode a command taken in order goes by the record, or the object, that it names; a
ruling goes by the state and epoch that it names too. -/
theorem handoffCommands : Obligations.HandoffCommands := by
  unfold Obligations.HandoffCommands
  refine fun s a => ⟨fun taken native => ⟨fun p cls count extents inline ptn classes some few full whole =>
      ⟨fun none => ?createFull, fun k slot => ?create⟩,
    fun p dev src obj cap ok o k ptn device found => ⟨fun unfit => ?armExtent, fun fits slot => ?arm⟩,
    fun h none => ⟨fun dev dst device => ?offerNone, ?freeNone, fun dst => ?readNone⟩,
    fun h k r found => ⟨fun dev dst device owned reachable young x held => ?offer, ?free, fun dst => ?read⟩⟩,
    fun taken native st h ep known => ⟨fun none => ?ruleNone, fun k r found => ⟨fun stale => ?ruleStale,
      fun state epoch => ⟨fun offered => ⟨?source, ?destination, fun lost => ?lost⟩, fun unconfirmed => ⟨?keep, ?drop⟩⟩⟩⟩⟩
  case createFull =>
    rw [exec_hoCreate, execHoCreate, State.hoAdmin_of_taken _ taken native
      (Bool.and_eq_true_iff.mpr ⟨ptn, decide_eq_true ⟨classes, some, few⟩⟩)]
    simp only [full, whole, none, ne_eq, not_true_eq_false, or_self, if_false]
  case create =>
    rw [exec_hoCreate, execHoCreate, State.hoAdmin_of_taken _ taken native
      (Bool.and_eq_true_iff.mpr ⟨ptn, decide_eq_true ⟨classes, some, few⟩⟩)]
    simp only [full, whole, slot, ne_eq, not_true_eq_false, or_self, if_false]
  case armExtent =>
    rw [exec_hoArm, execHoArm, State.hoAdmin_of_taken _ taken native (Bool.and_eq_true_iff.mpr ⟨ptn, decide_eq_true device⟩)]
    simp only [found]
    exact congrArg _ (if_pos (Bool.eq_false_iff.mp unfit))
  case arm =>
    rw [exec_hoArm, execHoArm, State.hoAdmin_of_taken _ taken native (Bool.and_eq_true_iff.mpr ⟨ptn, decide_eq_true device⟩)]
    simp only [found]
    refine (congrArg _ (if_neg (not_not.mpr fits))).trans ?_
    rw [slot]
  case offerNone =>
    rw [exec_hoOffer, execHoOffer, State.hoAdmin_of_taken _ taken native (decide_eq_true device)]
    simp only [none]
  case freeNone =>
    rw [exec_hoFree, execHoFree, State.hoAdmin_of_taken _ taken native rfl]
    simp only [none]
  case readNone =>
    rw [exec_hoRead, execHoRead, State.hoAdmin_of_taken _ taken native rfl]
    simp only [none, apply_ite Host.Outcome.next]
  case offer =>
    rw [exec_hoOffer, execHoOffer, State.hoAdmin_of_taken _ taken native (decide_eq_true device)]
    simp only [found, owned, reachable, Nat.not_lt.mpr young, held, not_true_eq_false, if_false]
  case free =>
    rw [exec_hoFree, execHoFree, State.hoAdmin_of_taken _ taken native rfl]
    simp only [found, apply_ite Host.Outcome.next]
  case read =>
    rw [exec_hoRead, execHoRead, State.hoAdmin_of_taken _ taken native rfl]
    simp only [found]
  case ruleNone => exact exec_hoRules_of_answer fun admits go => State.hoRule_of_none admits go taken native known none
  case ruleStale =>
    exact exec_hoRules_of_answer fun admits go => State.hoRule_of_stale admits go taken native known found stale
  case source =>
    rw [exec_hoRuleSource, execHoRuleSource, State.hoRule_of_admitted _ taken native known found state epoch offered]
  case destination =>
    rw [exec_hoRuleDestination, execHoRuleDestination,
      State.hoRule_of_admitted _ taken native known found state epoch offered]
  case lost =>
    rw [exec_hoRuleLost, execHoRuleLost, State.hoRule_of_admitted _ taken native known found state epoch
      (Bool.and_eq_true_iff.mpr ⟨offered, lost⟩)]
  case keep =>
    rw [exec_hoRuleKeep, execHoRuleKeep, State.hoRule_of_admitted _ taken native known found state epoch unconfirmed]
  case drop =>
    rw [exec_hoRuleDrop, execHoRuleDrop, State.hoRule_of_admitted _ taken native known found state epoch unconfirmed]

/-! ### The write log, the aperture and PASIDs -/

theorem State.takeAnd_of_taken {s : State} {fm : Bool} {a : Adm} {ok : Bool} (go : State → State) (taken : AdmTaken s fm a)
    (values : ok = true) : s.takeAnd fm a ok go = go (s.takeAdm fm) := by
  obtain ⟨ring, layout, dma⟩ := taken
  simp only [State.takeAnd, ring, layout, values, if_true, not_true_eq_false, or_self, if_false]

/-- A window serves in the states ACTIVE and SUSPENDED alone. -/
theorem Inst.not_resetting_of_windowOpen {x : Inst} (opened : x.windowOpen = true) : x.state ≠ Is.resetting := by
  obtain ⟨active | suspended, mapped⟩ := of_decide_eq_true opened
  · exact fun resetting => absurd (active.symm.trans resetting) (by decide)
  · exact fun resetting => absurd (suspended.symm.trans resetting) (by decide)

/-- Settles O29: a command goes by the slot that it names; an access from the host by that slot's state, its window and the lines
that it finds. -/
theorem logsApertureAndPasid : Obligations.LogsApertureAndPasid := by
  unfold Obligations.LogsApertureAndPasid
  refine fun s => ⟨fun a inst x taken inRange live => ⟨?enable, ?disable, fun first count dst => ⟨fun beyond => ?fetchRange,
      fun within => ?fetch⟩, fun base aligned => ?map, fun pasid fits => ?pasid⟩,
    fun opened inst offset x live => ⟨fun shut size errs => ?readShut, fun window size errs ls lines =>
      ⟨fun clean => ?read, fun d uncorrectable => ?readBad⟩, fun resetting data errs => ?writeResetting,
      fun shut awake still data errs => ?writeShut, fun window still data errs ls lines => ?write⟩⟩
  case enable =>
    rw [exec_logCtlEnable, execLogCtlEnable, State.admin_of_taken _ taken inRange, State.onInstance_of_some _ live]
  case disable =>
    rw [exec_logCtlDisable, execLogCtlDisable, State.admin_of_taken _ taken inRange, State.onInstance_of_some _ live]
  case fetchRange =>
    rw [exec_logFetch, execLogFetch, State.takeAnd_of_taken _ taken inRange, State.onInstance_of_some _ live]
    simp only [beyond, if_true]
  case fetch =>
    obtain ⟨ring, layout, dma⟩ := taken
    rw [exec_logFetch, execLogFetch, State.takeAnd_of_taken _ ⟨ring, layout, dma⟩ inRange, State.onInstance_of_some _ live]
    simp only [Nat.not_lt.mpr within, dma, Bool.false_eq_true, if_false, State.moveLog]
  case map =>
    rw [exec_apertureMap, execApertureMap, State.admin_of_taken _ taken
      (Bool.and_eq_true_iff.mpr ⟨inRange, decide_eq_true aligned⟩), State.onInstance_of_some _ live]
  case pasid =>
    rw [exec_pasidBind, execPasidBind, State.admin_of_taken _ taken
      (Bool.and_eq_true_iff.mpr ⟨inRange, decide_eq_true fits⟩), State.onInstance_of_some _ live]
  case readShut =>
    rw [exec_apertureRead, execApertureRead]
    simp only [opened, live, shut, not_true_eq_false, Bool.false_eq_true, not_false_eq_true, if_true, if_false]
  case read =>
    rw [exec_apertureRead, execApertureRead]
    simp only [opened, live, window, lines, clean, not_true_eq_false, if_false]
  case readBad =>
    rw [exec_apertureRead, execApertureRead]
    simp only [opened, live, window, lines, uncorrectable, not_true_eq_false, if_false]
  case writeResetting =>
    rw [exec_apertureWrite, execApertureWrite]
    simp only [opened, live, resetting, not_true_eq_false, decide_true, Bool.true_or, if_true, if_false]
  case writeShut =>
    rw [exec_apertureWrite, execApertureWrite]
    simp only [opened, live, awake, still, shut, not_true_eq_false, decide_false, Bool.false_and, Bool.or_self,
      Bool.false_eq_true, not_false_eq_true, if_true, if_false]
  case write =>
    rw [exec_apertureWrite, execApertureWrite]
    simp only [opened, live, Inst.not_resetting_of_windowOpen window, still, window, lines, not_true_eq_false, decide_false,
      Bool.false_and, Bool.or_self, Bool.false_eq_true, if_false]

end Sys2Proof.Machine
end

-- ==== Alloys: commands, instants and messages ====
section

namespace Sys2Proof.Machine
open Sys2Proof.Certificates

/-! ### Commands -/

theorem treeFull_iff {s : State} {alloy others : Nat} {e : TreeEntry} :
    (256 ≤ others ∨ ((List.range 6).any fun n => e.uses n && decide (11 ≤ s.treesOn alloy n)) = true) ↔
      (256 ≤ others ∨ ∃ n, n < 6 ∧ e.uses n = true ∧ 11 ≤ s.treesOn alloy n) := by
  simp only [List.any_eq_true, List.mem_range, Bool.and_eq_true, decide_eq_true_eq]

theorem leaveListBad_iff {ds members : List Nat} :
    (ds = [] ∨ ¬ distinct ds = true ∨ (ds.any fun d => !members.contains d) = true) ↔
      (ds = [] ∨ distinct ds = false ∨ ∃ d ∈ ds, members.contains d = false) := by
  simp only [List.any_eq_true, Bool.not_eq_true, Bool.not_eq_true']

/-- Settles O30: outside compatibility mode each command goes by the membership, the tree or the lists that it names. -/
theorem alloyCommands : Obligations.AlloyCommands := by
  unfold Obligations.AlloyCommands
  refine fun s a taken => ⟨fun p lead alloy windowUs tJoin plan ptn device laid => ⟨fun st bad => ?joinBad, fun fits => ?join⟩,
    fun compat => ⟨fun up down member alloy args => ⟨?installCompat, ?removeCompat⟩, fun p ptn =>
      ⟨?dissolveCompat, ?resumeCompat, ?noneCompat, ?activeCompat, fun l => ?leaveCompat⟩⟩,
    fun native p ptn => ⟨fun leaving active leads whole => ?leave, ?dissolve, fun faulted leads => ?resume, ?ruleNone, ?ruleActive⟩,
    fun native up down member alloy args => ⟨fun full => ?full, fun room => ?install, ?remove⟩,
    fun first count entries fits listed codes => ?routes, fun p gap epoch ptn few whole => ?gap⟩
  case joinBad =>
    rw [exec_alloyJoin, execAlloyJoin, State.admin_of_taken _ taken
      (Bool.and_eq_true_iff.mpr ⟨Bool.and_eq_true_iff.mpr ⟨ptn, decide_eq_true device⟩, laid⟩)]
    simp only [bad]
  case join =>
    rw [exec_alloyJoin, execAlloyJoin, State.admin_of_taken _ taken
      (Bool.and_eq_true_iff.mpr ⟨Bool.and_eq_true_iff.mpr ⟨ptn, decide_eq_true device⟩, laid⟩)]
    dsimp only
    rw [fits]
    rfl
  case installCompat =>
    rw [exec_alloyTreeInstall, execAlloyTreeInstall, State.admin_of_taken _ taken args]
    exact congrArg _ (if_pos compat)
  case removeCompat =>
    rw [exec_alloyTreeRemove, execAlloyTreeRemove, State.admin_of_taken _ taken args]
    exact congrArg _ (if_pos compat)
  case dissolveCompat =>
    rw [exec_alloyDissolve, execAlloyDissolve, State.admin_of_taken _ taken ptn]
    exact congrArg _ (if_pos compat)
  case resumeCompat =>
    rw [exec_alloyResume, execAlloyResume, State.admin_of_taken _ taken ptn]
    exact congrArg _ (if_pos compat)
  case noneCompat =>
    rw [exec_alloyRuleNone, execAlloyRuleNone, State.admin_of_taken _ taken ptn]
    exact congrArg _ (if_pos compat)
  case activeCompat =>
    rw [exec_alloyRuleActive, execAlloyRuleActive, State.admin_of_taken _ taken ptn]
    exact congrArg _ (if_pos compat)
  case leaveCompat =>
    rw [exec_alloyLeave, execAlloyLeave, State.admin_of_taken _ taken ptn]
    exact congrArg _ (if_pos compat)
  case leave =>
    rw [exec_alloyLeave, execAlloyLeave, State.admin_of_taken _ taken ptn]
    simp only [native, active, leads, whole, Bool.false_eq_true, ne_eq, not_true_eq_false, or_self, if_false]
    exact (apply_ite Host.Outcome.next _ _ _).trans (if_congr leaveListBad_iff rfl rfl)
  case dissolve =>
    rw [exec_alloyDissolve, execAlloyDissolve, State.admin_of_taken _ taken ptn]
    simp only [native, Bool.false_eq_true, if_false, apply_ite Host.Outcome.next]
  case resume =>
    rw [exec_alloyResume, execAlloyResume, State.admin_of_taken _ taken ptn]
    simp only [native, faulted, leads, Bool.false_eq_true, ne_eq, not_true_eq_false, or_self, if_false, ite_not]
    exact (apply_ite Host.Outcome.next _ _ _).trans (if_congr List.all_eq_true rfl rfl)
  case ruleNone =>
    rw [exec_alloyRuleNone, execAlloyRuleNone, State.admin_of_taken _ taken ptn]
    simp only [native, Bool.false_eq_true, if_false, ite_not, ne_eq, apply_ite Host.Outcome.next]
  case ruleActive =>
    rw [exec_alloyRuleActive, execAlloyRuleActive, State.admin_of_taken _ taken ptn]
    simp only [native, Bool.false_eq_true, if_false, ite_not, ne_eq, apply_ite Host.Outcome.next]
  case full =>
    rw [exec_alloyTreeInstall, execAlloyTreeInstall, State.admin_of_taken _ taken args]
    exact congrArg _ ((if_neg (Bool.eq_false_iff.mp native)).trans (if_pos (treeFull_iff.mpr full)))
  case install =>
    rw [exec_alloyTreeInstall, execAlloyTreeInstall, State.admin_of_taken _ taken args]
    exact congrArg _ ((if_neg (Bool.eq_false_iff.mp native)).trans (if_neg (mt treeFull_iff.mp room)))
  case remove =>
    rw [exec_alloyTreeRemove, execAlloyTreeRemove, State.admin_of_taken _ taken args]
    simp only [native, Bool.false_eq_true, if_false, Option.isNone_iff_eq_none]
    exact apply_ite Host.Outcome.next _ _ _
  case routes =>
    rw [exec_routeWrite, execRouteWrite, State.admin_of_taken _ taken
      (Bool.and_eq_true_iff.mpr ⟨decide_eq_true ⟨fits, listed⟩, codes⟩)]
  case gap =>
    rw [exec_alloyGap, execAlloyGap, State.admin_of_taken _ taken (Bool.and_eq_true_iff.mpr
      ⟨Bool.and_eq_true_iff.mpr ⟨ptn, decide_eq_true few⟩, decide_eq_true whole⟩)]
    simp only [apply_ite Host.Outcome.next]

/-! ### Instants -/

theorem State.applyGap_of_next {s : State} {p g epoch : Nat} (next : (s.member p).gapNext = some (g, epoch)) :
    s.applyGap p = if s.now < epoch then s
      else (s.setMember p { s.member p with gapNext := none }).set Reg.ptnpPwrAlloyG p g := by
  unfold State.applyGap
  rw [next]
  simp only [← Nat.not_lt, ite_not]

theorem barrierHere_iff {f : Image} {segment index tick : Nat} :
    (f.content.linkSlots.any fun r => barrierRec r segment index && decide (recField r 8 4 = tick)) = true ↔
      ∃ x ∈ f.content.linkSlots, barrierRec x segment index = true ∧ recField x 8 4 = tick := by
  simp only [List.any_eq_true, Bool.and_eq_true, decide_eq_true_eq]

/-- Settles O31: each instant takes time to its own, and acts where the member is in the state that it is of. -/
theorem alloyInstants : Obligations.AlloyInstants := by
  unfold Obligations.AlloyInstants
  refine fun s p => ⟨fun joining apart empty seam inside => ?join, fun joining leads => ?windowEnd,
    fun joining fresh => ?undecided, fun joining told => ?told, fun at_ leave => ⟨fun leaves => ?leaves, fun stays => ?stays⟩,
    fun g epoch next => ?gap, fun none => ?noGap,
    fun c g im index head seg image alloy running ticking fresh here => ?barrier⟩
  case join =>
    rw [exec_joinInstant, execJoinInstant]
    refine if_pos ⟨joining, Bool.eq_false_iff.mp apart, empty, seam, inside⟩
  case windowEnd =>
    rw [exec_joinWindowEnd, execJoinWindowEnd]
    exact if_pos ⟨joining, leads⟩
  case undecided =>
    rw [exec_alloyUndecided, execAlloyUndecided]
    exact if_pos ⟨joining, Bool.eq_false_iff.mp fresh⟩
  case told =>
    rw [exec_alloyUndecided, execAlloyUndecided]
    exact if_neg fun undecided => undecided.2 told
  case leaves =>
    rw [exec_leaveInstant, execLeaveInstant]
    dsimp only
    rw [leave]
    exact congrArg _ (if_pos leaves)
  case stays =>
    rw [exec_leaveInstant, execLeaveInstant]
    dsimp only
    rw [leave]
    exact congrArg _ (if_neg (Bool.eq_false_iff.mp stays))
  case gap =>
    have kept : ((s.atLeast epoch).member p.toNat).gapNext = some (g, epoch) := by
      rw [State.member, State.atLeast_net]
      exact next
    rw [exec_alloyGapEpoch, execAlloyGapEpoch]
    dsimp only
    rw [next]
    dsimp only
    rw [State.applyGap_of_next kept]
    simp only [ite_or]
  case noGap =>
    rw [exec_alloyGapEpoch, execAlloyGapEpoch]
    dsimp only
    rw [none]
  case barrier =>
    rw [exec_barrierTick, execBarrierTick]
    dsimp only
    rw [head, seg]
    dsimp only
    rw [image]
    exact congrArg _ (if_pos ⟨alloy, running, ticking, Bool.eq_false_iff.mp fresh, barrierHere_iff.mpr here⟩)

/-! ### Messages -/

section
variable {s : State} {m : AlloyMsg} {op p : Nat} (deliver : State → Nat → State)

theorem State.downMsg_of_member (up : s.fromUp m = true) (member : s.localMember (alloyId m) = some p) :
    s.downMsg op m deliver = deliver (s.sendDown (alloyId m) op (alloySeq m) m.arg) p := by
  unfold State.downMsg
  simp only [up, member, if_true]

theorem State.downMsg_of_no_member (up : s.fromUp m = true) (none : s.localMember (alloyId m) = none) :
    s.downMsg op m deliver = s.sendDown (alloyId m) op (alloySeq m) m.arg := by
  unfold State.downMsg
  simp only [up, none, if_true]

theorem State.downMsg_of_stray (stray : s.fromUp m = false) : s.downMsg op m deliver = s.strayMsg m :=
  if_neg (Bool.eq_false_iff.mp stray)

end

theorem State.tree_of_fromDown {s : State} {m : AlloyMsg} {n : Nat} (port : s.fromDown m = some n) :
    ∃ t, s.tree (alloyId m) = some t := by
  unfold State.fromDown at port
  split at port
  · exact ⟨_, ‹_›⟩
  · exact absurd port (by simp)

section
variable {s : State} {m : AlloyMsg} {device : DeviceId} {n p : Nat} {t : TreeEntry}

theorem exec_joinSync_of_joining (port : s.fromDown m = some n) (tree : s.tree (alloyId m) = some t) (member : t.member = some p)
    (joining : s.mstate p = Ms.joining) :
    let r := (s.setMember p { s.member p with syncs := device.toNat :: (s.member p).syncs }).arrive (alloyId m) 0x17
      (alloySeq m) 0 n
    exec (.joinSync m device) s = .next (if r.1 = true then r.2.joinComplete (alloyId m) p else r.2) := by
  have kept : ¬ (s.setMember p { s.member p with syncs := device.toNat :: (s.member p).syncs }).mstate p = Ms.active :=
    fun active => absurd (joining.symm.trans active) (by decide)
  have apart : ¬ Ms.joining = Ms.active := by decide
  rw [exec_joinSync, execJoinSync]
  simp only [port, tree, member, joining, apart, kept, ne_eq, not_true_eq_false, and_false, if_false]

theorem exec_joinSync_of_active (port : s.fromDown m = some n) (tree : s.tree (alloyId m) = some t) (member : t.member = some p)
    (root : t.up = none) (active : s.mstate p = Ms.active) :
    exec (.joinSync m device) s = .next (s.addMember (alloyId m) p device.toNat) := by
  rw [exec_joinSync, execJoinSync]
  simp only [port, tree, member, root, active, Option.isNone_none, and_self, if_true]

theorem exec_joinSync_of_neither (port : s.fromDown m = some n) (tree : s.tree (alloyId m) = some t) (member : t.member = some p)
    (root : t.up = none) (active : s.mstate p ≠ Ms.active) (joining : s.mstate p ≠ Ms.joining) :
    exec (.joinSync m device) s = .next s := by
  rw [exec_joinSync, execJoinSync]
  simp only [port, tree, member, root, active, joining, Option.isNone_none, ne_eq, not_false_eq_true, and_self, and_false,
    if_true, if_false]

theorem exec_joinSync_of_no_member (port : s.fromDown m = some n) (none : s.localMember (alloyId m) = none) :
    exec (.joinSync m device) s = .next (s.arrive (alloyId m) 0x17 (alloySeq m) 0 n).2 := by
  obtain ⟨t, tree⟩ := State.tree_of_fromDown port
  have bare : t.member = Option.none := by
    rw [State.localMember, tree] at none
    exact none
  rw [exec_joinSync, execJoinSync]
  simp only [port, tree, bare]

end

/-- Settles O32: a message acts where it comes by its tree, down from the upper port or up from a lower one, and is stray
elsewhere. -/
theorem alloyMessages : Obligations.AlloyMessages := by
  unfold Obligations.AlloyMessages
  refine fun s m => ⟨fun up => ⟨fun p member => ⟨?go, ?launch, ?release, ?abort, ?active, ?abandon, fun leaving => ?leave⟩,
      fun none => ⟨?goOn, ?launchOn, ?releaseOn, ?abortOn, ?activeOn, ?abandonOn, fun leaving => ?leaveOn⟩⟩,
    fun stray leaving => ⟨?goStray, ?launchStray, ?releaseStray, ?abortStray, ?activeStray, ?abandonStray, ?leaveStray⟩,
    fun n port => ⟨⟨fun p last member => ?arrived, fun more => ?arrives⟩, ⟨fun p last member => ?committed, fun more => ?commits⟩,
      fun device t p tree member joining => exec_joinSync_of_joining port tree member joining,
      fun device t p tree member root => ⟨exec_joinSync_of_active port tree member root,
        exec_joinSync_of_neither port tree member root⟩,
      fun device none => exec_joinSync_of_no_member port none⟩,
    fun stray device => ⟨?arriveStray, ?commitStray, ?syncStray⟩,
    fun t n tree port uses opened => ⟨fun sent => ?voidSent, fun fresh => ?void⟩,
    fun p device => ⟨fun leads => ⟨fun hops => ?hops, fun i g => ?digest, ?resumed⟩,
      fun apart => ⟨fun h => ?noHops, fun i g => ?noDigest, ?noResume⟩⟩⟩
  case go => rw [exec_barrierGo, execBarrierGo, State.downMsg_of_member _ up member]
  case launch => rw [exec_launch, execLaunch, State.downMsg_of_member _ up member]
  case release => rw [exec_release, execRelease, State.downMsg_of_member _ up member]
  case abort => rw [exec_abort, execAbort, State.downMsg_of_member _ up member]
  case active => rw [exec_active, execActive, State.downMsg_of_member _ up member]
  case abandon => rw [exec_abandon, execAbandon, State.downMsg_of_member _ up member]
  case leave => rw [exec_leave, execLeave, State.downMsg_of_member _ up member]
  case goOn => rw [exec_barrierGo, execBarrierGo, State.downMsg_of_no_member _ up none]
  case launchOn => rw [exec_launch, execLaunch, State.downMsg_of_no_member _ up none]
  case releaseOn => rw [exec_release, execRelease, State.downMsg_of_no_member _ up none]
  case abortOn => rw [exec_abort, execAbort, State.downMsg_of_no_member _ up none]
  case activeOn => rw [exec_active, execActive, State.downMsg_of_no_member _ up none]
  case abandonOn => rw [exec_abandon, execAbandon, State.downMsg_of_no_member _ up none]
  case leaveOn => rw [exec_leave, execLeave, State.downMsg_of_no_member _ up none]
  case goStray => rw [exec_barrierGo, execBarrierGo, State.downMsg_of_stray _ stray]
  case launchStray => rw [exec_launch, execLaunch, State.downMsg_of_stray _ stray]
  case releaseStray => rw [exec_release, execRelease, State.downMsg_of_stray _ stray]
  case abortStray => rw [exec_abort, execAbort, State.downMsg_of_stray _ stray]
  case activeStray => rw [exec_active, execActive, State.downMsg_of_stray _ stray]
  case abandonStray => rw [exec_abandon, execAbandon, State.downMsg_of_stray _ stray]
  case leaveStray => rw [exec_leave, execLeave, State.downMsg_of_stray _ stray]
  case arrived =>
    rw [exec_barrierArrive, execBarrierArrive]
    simp only [port, last, member]
  case arrives =>
    rw [exec_barrierArrive, execBarrierArrive]
    rcases more with waits | none
    · simp only [port, waits]
    · cases last : (s.arrive (alloyId m) 0x15 (alloySeq m) (m.arg.toNat % 2 ^ 16) n).1 <;> simp only [port, none, last]
  case committed =>
    rw [exec_commit, execCommit]
    simp only [port, last, member]
  case commits =>
    rw [exec_commit, execCommit]
    rcases more with waits | none
    · simp only [port, waits]
    · cases last : (s.arrive (alloyId m) 0x11 (alloySeq m) 0 n).1 <;> simp only [port, none, last]
  case arriveStray =>
    rw [exec_barrierArrive, execBarrierArrive]
    simp only [stray]
  case commitStray =>
    rw [exec_commit, execCommit]
    simp only [stray]
  case syncStray =>
    rw [exec_joinSync, execJoinSync]
    simp only [stray]
  case voidSent =>
    rw [exec_void, execVoid]
    simp only [tree, port, sent, not_true_eq_false, and_false, if_false]
  case void =>
    rw [exec_void, execVoid]
    cases home : t.member <;>
      simp only [tree, port, home, uses, opened, fresh, Bool.false_eq_true, not_false_eq_true, and_self, if_true]
  case hops =>
    rw [exec_hopReport, execHopReport]
    exact if_pos leads
  case digest =>
    rw [exec_wcetDigest, execWcetDigest]
    exact if_pos leads
  case resumed =>
    rw [exec_resumeReport, execResumeReport]
    simp only [leads, true_and, apply_ite Host.Outcome.next]
  case noHops =>
    rw [exec_hopReport, execHopReport]
    exact if_neg (Bool.eq_false_iff.mp apart)
  case noDigest =>
    rw [exec_wcetDigest, execWcetDigest]
    exact if_neg (Bool.eq_false_iff.mp apart)
  case noResume =>
    rw [exec_resumeReport, execResumeReport]
    exact if_neg fun both => Bool.eq_false_iff.mp apart both.1

end Sys2Proof.Machine
end

-- ==== Power states by command; firmware, attestation, consent and sealed packages ====
section

namespace Sys2Proof.Machine
open Sys2Proof.Certificates

/-! ### Power states -/

theorem slicesUp_iff {s : State} {l : List Nat} :
    (l.all fun sl => decide (s.slicePower sl ≤ 2)) = true ↔ ∀ sl ∈ l, s.slicePower sl ≤ 2 := by
  simp only [List.all_eq_true, decide_eq_true_eq]

theorem partitionsAll_iff {f : Nat → Nat} {v : Nat} :
    ((List.range 64).all fun p => decide (f p = v)) = true ↔ ∀ p < 64, f p = v := by
  simp only [List.all_eq_true, List.mem_range, decide_eq_true_eq]

theorem deviceIdle_iff {s : State} :
    ((s.host.lines.vals.all fun l => l.isEmpty) = true ∧ ((List.range 64).all fun p => decide (s.mstate p = Ms.none)) = true ∧
        ¬ s.anyResident = true) ↔
      ((∀ l ∈ s.host.lines.vals, l.isEmpty = true) ∧ (∀ p < 64, s.mstate p = Ms.none) ∧ s.anyResident = false) := by
  rw [List.all_eq_true, partitionsAll_iff, Bool.not_eq_true]

/-- Settles O33: a command of the driver pair goes by the device's state; an idle descent by the state of the slice and an
end of self-refresh by its instant. -/
theorem powerStatesByCommand : Obligations.PowerStatesByCommand := by
  unfold Obligations.PowerStatesByCommand
  refine fun s => ⟨fun a taken => ⟨fun p st ptn => ⟨fun known => ?park, ⟨fun up => ?up, fun down still => ?wakeState,
      fun down active => ?wake⟩⟩, fun deep => ?fromDs3, fun off => ?fromDs2, fun apart shallow => ?fromDs0,
      ⟨fun busy => ?noDs2, fun idle => ?toDs2⟩, ⟨fun busy => ?noDs3, fun clear => ?toDs3⟩⟩,
    fun slice => ⟨fun idle => ⟨fun awake => ?sp1, fun light => ?sp2⟩, fun busy => ⟨?noSp1, ?noSp2⟩⟩,
    fun channel => ⟨fun at_ waits => ?returns, fun none => ?stays⟩⟩
  case park =>
    rw [exec_pwrPark, execPwrPark, State.admin_of_taken _ taken (Bool.and_eq_true_iff.mpr ⟨ptn, decide_eq_true known⟩)]
    exact apply_ite Host.Outcome.next _ _ _
  case up =>
    rw [exec_pwrWake, execPwrWake, State.admin_of_taken _ taken ptn]
    exact congrArg _ (if_pos (slicesUp_iff.mpr up))
  case wakeState =>
    rw [exec_pwrWake, execPwrWake, State.admin_of_taken _ taken ptn]
    exact congrArg _ ((if_neg (mt slicesUp_iff.mp down)).trans (if_pos still))
  case wake =>
    rw [exec_pwrWake, execPwrWake, State.admin_of_taken _ taken ptn]
    exact congrArg _ ((if_neg (mt slicesUp_iff.mp down)).trans (if_neg (not_not.mpr active)))
  case fromDs3 =>
    rw [exec_devStateDs0, execDevStateDs0, State.admin_of_taken _ taken rfl]
    exact congrArg _ (if_pos deep)
  case fromDs2 =>
    have light : ¬ (s.takeAdm false).get Reg.pwrStsDstate 0 = 3 := fun deep => absurd (off.symm.trans deep) (by decide)
    rw [exec_devStateDs0, execDevStateDs0, State.admin_of_taken _ taken rfl]
    exact congrArg _ ((if_neg light).trans (if_pos off))
  case fromDs0 =>
    rw [exec_devStateDs0, execDevStateDs0, State.admin_of_taken _ taken rfl]
    exact congrArg _ ((if_neg shallow).trans (if_neg apart))
  case noDs2 =>
    rw [exec_devStateDs2, execDevStateDs2, State.admin_of_taken _ taken rfl]
    exact congrArg _ (if_neg (mt deviceIdle_iff.mp busy))
  case toDs2 =>
    rw [exec_devStateDs2, execDevStateDs2, State.admin_of_taken _ taken rfl]
    exact congrArg _ (if_pos (deviceIdle_iff.mpr idle))
  case noDs3 =>
    rw [exec_devStateDs3, execDevStateDs3, State.admin_of_taken _ taken rfl]
    exact congrArg _ (if_neg (mt (And.imp_left partitionsAll_iff.mp) busy))
  case toDs3 =>
    rw [exec_devStateDs3, execDevStateDs3, State.admin_of_taken _ taken rfl]
    exact congrArg _ (if_pos (clear.imp_left partitionsAll_iff.mpr))
  case sp1 =>
    rw [exec_idleSp1, execIdleSp1]
    exact congrArg _ (if_pos ⟨awake, idle⟩)
  case sp2 =>
    rw [exec_idleSp2, execIdleSp2]
    exact congrArg _ (if_pos ⟨light, idle⟩)
  case noSp1 =>
    rw [exec_idleSp1, execIdleSp1]
    exact congrArg _ (if_neg fun both => Bool.eq_false_iff.mp busy both.2)
  case noSp2 =>
    rw [exec_idleSp2, execIdleSp2]
    exact congrArg _ (if_neg fun both => Bool.eq_false_iff.mp busy both.2)
  case returns =>
    rw [exec_selfRefreshReturn, execSelfRefreshReturn]
    dsimp only
    rw [waits]
  case stays =>
    rw [exec_selfRefreshReturn, execSelfRefreshReturn]
    dsimp only
    rw [none]

/-! ### Firmware, attestation and consent -/

/-- Settles O34: a command goes by the bank, the partition's consent or the request list; the DOE objects by the mailbox. -/
theorem firmwareAttestationAndConsent : Obligations.FirmwareAttestationAndConsent := by
  unfold Obligations.FirmwareAttestationAndConsent
  refine fun s => ⟨fun a taken => ⟨fun bytes image => ⟨fun ok => ?stage, fun bad => ?unverified⟩, fun svn known => ?svn,
      fun p cap dst nonce ptn => ?attest, fun p flags ptn bits => ⟨fun barred => ?barred, fun free => ?consent⟩,
      fun p ptn => ⟨?dbgOpen, ?dbgClose⟩⟩,
    fun a p cap dst nonce taken ptn => ?attestFm, fun r rest first => ⟨?snapshot, ?noRandom⟩,
    fun opened p cap nonce => ⟨fun ptn => ?identity, ?certificate, ?endorsement,
      fun stream sub rx setGo streams subs known => ⟨?keys, ?noKeys⟩, fun i listed => ?discovery⟩,
    ?trng, fun port real => ?port⟩
  case stage =>
    rw [exec_fwStage, execFwStage, State.admin_of_taken _ taken rfl]
    exact congrArg _ (if_pos ok)
  case unverified =>
    rw [exec_fwStage, execFwStage, State.admin_of_taken _ taken rfl]
    exact congrArg _ (if_neg bad)
  case svn =>
    rw [exec_fwSvnCommit, execFwSvnCommit, State.admin_of_taken _ taken (decide_eq_true known)]
    exact apply_ite Host.Outcome.next _ _ _
  case attest => rw [exec_attest, execAttest, State.admin_of_taken _ taken ptn]
  case barred =>
    rw [exec_consent, execConsent, State.admin_of_taken _ taken (Bool.and_eq_true_iff.mpr ⟨ptn, decide_eq_true bits⟩)]
    exact congrArg _ (if_pos barred)
  case consent =>
    rw [exec_consent, execConsent, State.admin_of_taken _ taken (Bool.and_eq_true_iff.mpr ⟨ptn, decide_eq_true bits⟩)]
    exact congrArg _ (if_neg free)
  case dbgOpen =>
    rw [exec_dbgOpen, execDbgOpen, State.admin_of_taken _ taken ptn]
    simp only [Bool.not_eq_true, apply_ite Host.Outcome.next]
  case dbgClose =>
    rw [exec_dbgClose, execDbgClose, State.admin_of_taken _ taken ptn]
    exact apply_ite Host.Outcome.next _ _ _
  case attestFm => rw [exec_attestFm, execAttestFm, State.admin_of_taken _ taken ptn]
  case snapshot =>
    rw [exec_attestSnapshot, execAttestSnapshot]
    dsimp only
    rw [first]
    dsimp only
    cases r.pair with
    | none => rfl
    | some fm => rfl
  case noRandom =>
    rw [exec_trngTimeout]
    unfold execTrngTimeout
    rw [first]
    rfl
  case identity =>
    rw [exec_attestDoe, execAttestDoe]
    exact congrArg _ ((if_neg (not_not.mpr opened)).trans ((if_pos rfl).trans (if_pos ptn)))
  case certificate =>
    rw [exec_attestDoe, execAttestDoe]
    exact congrArg _ (if_neg (not_not.mpr opened))
  case endorsement =>
    rw [exec_attestDoe, execAttestDoe]
    exact congrArg _ (if_neg (not_not.mpr opened))
  case keys =>
    have ready : ¬ (setGo = true ∧ ¬ s.plant.bus.ideKeys.has
        (16 * stream.toNat + 2 * sub.toNat + (if rx = true then 1 else 0)) = true) := by
      rcases known with rfl | held
      · exact fun both => Bool.false_ne_true both.1
      · exact fun both => both.2 held
    rw [exec_ideKm, execIdeKm]
    simp only [opened, Nat.not_lt.mpr streams, Nat.not_lt.mpr subs, not_true_eq_false, or_self, if_false]
    exact congrArg _ (if_neg ready)
  case noKeys =>
    rw [exec_ideKm, execIdeKm]
    simp only [opened, Bool.false_eq_true, not_true_eq_false, not_false_eq_true, or_true, if_true, if_false]
  case discovery =>
    rw [exec_doeDiscovery, execDoeDiscovery]
    exact congrArg _ ((if_neg (not_not.mpr opened)).trans (if_pos listed))
  case trng => rw [exec_trngFail, execTrngFail]
  case port =>
    rw [exec_trngTimeout]
    exact congrArg Host.Outcome.next ((if_neg (by decide)).trans ((if_pos rfl).trans (if_congr (and_iff_right real) rfl rfl)))

/-! ### Sealed packages -/

/-- Settles O35: past the checks of the two objects a first call goes by the package's header, a later one by the session
that the partition has open. -/
theorem packagesUnseal : Obligations.PackagesUnseal := by
  unfold Obligations.PackagesUnseal
  refine fun s a p src dst first count taken ptn => ⟨fun still => ?state,
    fun sk so dk d active source destination own owned plain writable mapped live apart unnamed => ?_⟩
  case state =>
    rw [exec_pkgUnseal, execPkgUnseal, State.admin_of_taken _ taken ptn]
    exact congrArg _ (if_pos still)
  rw [exec_pkgUnseal, execPkgUnseal, State.admin_of_taken _ taken ptn]
  simp only [active, source, destination, own, owned, plain, writable, mapped, live, apart, unnamed, ne_eq, not_true_eq_false,
    Bool.false_eq_true, or_self, if_false]
  refine ⟨fun zero => ⟨fun l uncorrectable => ?badLine, fun clean => ⟨fun head read => ⟨fun short => ?short,
      fun fits full => ?full, fun fits room k o found => ?unseals⟩, fun unread => ?unread⟩⟩,
    fun later => ⟨fun none => ?noSession, fun u session => ⟨fun same next within => ?continues, fun off => ?offSession⟩⟩⟩
  case badLine => exact congrArg _ ((if_pos zero).trans (State.reading_of_badLine _ _ uncorrectable))
  case short =>
    refine congrArg _ ((if_pos zero).trans ((State.reading_of_none _ _ clean).trans ?_))
    rw [read]
    exact if_pos short
  case full =>
    refine congrArg _ ((if_pos zero).trans ((State.reading_of_none _ _ clean).trans ?_))
    rw [read]
    exact (if_neg (Nat.not_lt.mpr fits)).trans (if_pos full)
  case unseals =>
    refine congrArg _ ((if_pos zero).trans ((State.reading_of_none _ _ clean).trans ?_))
    rw [read]
    refine (if_neg (Nat.not_lt.mpr fits)).trans ((if_neg (Nat.not_le.mpr room)).trans ?_)
    generalize State.openPackage _ head = verdict
    cases verdict with
    | failed c => rfl
    | opened h key =>
      dsimp only
      rewrite [found]
      rfl
  case unread =>
    refine congrArg _ ((if_pos zero).trans ((State.reading_of_none _ _ clean).trans ?_))
    rw [unread]
  case noSession =>
    refine congrArg _ ((if_neg later).trans ?_)
    rw [none]
  case continues =>
    refine congrArg _ ((if_neg later).trans ?_)
    simp only [session, same, next, Nat.not_lt.mpr within, Option.any_some, decide_true, not_true_eq_false, or_self, if_false]
  case offSession =>
    refine congrArg _ ((if_neg later).trans ?_)
    simp only [session, Option.any_some, decide_eq_true_eq, off, if_true]

end Sys2Proof.Machine
end

-- ==== Self test, reset levels, power-up, boot and host resets ====
section

namespace Sys2Proof.Machine
open Sys2Proof.Certificates

/-! ### Self test and reset levels -/

theorem assayBarred_iff {s : State} {k g : Nat} :
    (s.plant.boot.assay.isSome = true ∨ s.plant.clock.stopped = true ∨ ¬ s.assayIdle k g = true) ↔
      (s.plant.boot.assay ≠ none ∨ s.plant.clock.stopped = true ∨ s.assayIdle k g = false) := by
  rw [Option.isSome_iff_ne_none, Bool.not_eq_true]

/-- RESET_OVERRUN of level 2 with its level read. -/
theorem exec_resetOverrun_two (s : State) (p : PtnNo) : exec (.resetOverrun 2 p) s =
    .next (if s.ptnState p.toNat = ptnActive ∨ s.ptnState p.toNat = ptnFaulted then
        (s.escalated.faultPtn p.toNat Fc.resetOverrun .none).resetPtn p.toNat false none
      else if s.ptnState p.toNat = ptnFree then s.escalated.deviceReset true 5 0x62 else s) := rfl

/-- Settles O36: a command of the driver pair has its effect, and each reset that overruns takes the level above. -/
theorem selfTestAndResetLevels : Obligations.SelfTestAndResetLevels := by
  unfold Obligations.SelfTestAndResetLevels
  refine fun s => ⟨fun a taken => ⟨?reset, ?cycle, ?read, ?fuse, fun kind target known => ⟨fun barred => ?barred,
      fun idle ticks free => ?run⟩⟩, fun a taken => ?readFm, fun found => ⟨fun r running => ?ends, fun none => ?powerUp⟩,
    fun p => ⟨rfl, fun state => ?two, fun free => ?gone, rfl, rfl⟩, fun due => ?window,
    fun inc posted booted awake => ?beat⟩
  case reset => rw [exec_devResetDevice, execDevResetDevice, State.admin_of_taken _ taken rfl]
  case cycle => rw [exec_devResetPowerCycle, execDevResetPowerCycle, State.admin_of_taken _ taken rfl]
  case read => rw [exec_assayRead, execAssayRead, State.admin_of_taken _ taken rfl]
  case fuse =>
    rw [exec_assayFuse, execAssayFuse, State.admin_of_taken _ taken rfl]
    exact apply_ite Host.Outcome.next _ _ _
  case barred =>
    rw [exec_assayRun, execAssayRun, State.admin_of_taken _ taken known]
    exact congrArg _ (if_pos (assayBarred_iff.mpr barred))
  case run =>
    have clear : ¬ ((s.takeAdm false).plant.boot.assay ≠ none ∨ (s.takeAdm false).plant.clock.stopped = true ∨
        (s.takeAdm false).assayIdle kind.toNat target.toNat = false) := by
      simp only [idle, ticks, free, ne_eq, not_true_eq_false, Bool.false_eq_true, Bool.true_eq_false, or_self, not_false_eq_true]
    rw [exec_assayRun, execAssayRun, State.admin_of_taken _ taken known]
    exact congrArg _ (if_neg (mt assayBarred_iff.mp clear))
  case readFm => rw [exec_assayReadFm, execAssayReadFm, State.admin_of_taken _ taken rfl]
  case ends =>
    rw [exec_assayEnd, execAssayEnd]
    rw [running]
  case powerUp =>
    rw [exec_assayEnd, execAssayEnd]
    rw [none]
  case two =>
    rw [exec_resetOverrun_two]
    exact congrArg _ (if_pos state)
  case gone =>
    have other : ¬ (s.ptnState p.toNat = ptnActive ∨ s.ptnState p.toNat = ptnFaulted) := by
      rw [free]
      decide
    rw [exec_resetOverrun_two]
    exact congrArg _ ((if_neg other).trans (if_pos free))
  case window =>
    rw [exec_assayOutOfWindow, execAssayOutOfWindow]
    exact congrArg _ (if_pos due)
  case beat =>
    rw [exec_hubHeartbeatCheck, execHubHeartbeatCheck]
    exact congrArg _ (if_neg (not_or.mpr ⟨booted, awake⟩))

/-! ### Power-up, boot and host resets -/

/-- Settles O37: each pin and each request of the host acts by the power, the boot phase and the link that it meets. -/
theorem powerUpBootAndHostReset : Obligations.PowerUpBootAndHostReset := by
  unfold Obligations.PowerUpBootAndHostReset
  refine fun s => ⟨fun off => ⟨fun ok => ?rise, ?fallOff, ?railOff, fun r => ?brownOff⟩,
    fun on => ⟨fun ok => ?riseOn, ?rail, fun r => ?brown, ?fall⟩, ?perst, fun held => ?release, fun high => ?noRelease,
    fun fn offset v => ⟨fun down w => ?linkDown, fun up shut w => ?unready, fun up opened there => ⟨?configRead, ?configWrite⟩⟩,
    fun fn => ?linkReset, fun rom bank mine => ⟨?bankFails, fun image nvm m => ⟨fun i listed => ?verified, fun none => ?noImage⟩⟩,
    fun phase free => ?open_, fun trained other => ?kept, ?untrained, fun held brown => ?recovers⟩
  case rise =>
    rw [exec_pwrEnRise, execPwrEnRise]
    exact congrArg _ (if_neg (Bool.eq_false_iff.mp off))
  case fallOff =>
    rw [exec_pwrEnFall, execPwrEnFall]
    exact congrArg _ (if_pos (Bool.eq_false_iff.mp off))
  case railOff =>
    rw [exec_railOutOfRegulation, execRailOutOfRegulation]
    exact congrArg _ (if_neg (Bool.eq_false_iff.mp off))
  case brownOff =>
    rw [exec_brownout, execBrownout]
    exact congrArg _ (if_neg (Bool.eq_false_iff.mp off))
  case riseOn =>
    rw [exec_pwrEnRise, execPwrEnRise]
    exact congrArg _ (if_pos on)
  case rail =>
    rw [exec_railOutOfRegulation, execRailOutOfRegulation]
    exact congrArg _ (if_pos on)
  case brown =>
    rw [exec_brownout, execBrownout]
    exact congrArg _ (if_pos on)
  case fall =>
    rw [exec_pwrEnFall, execPwrEnFall]
    exact ⟨_, congrArg _ (if_neg (not_not.mpr on)), rfl, rfl, rfl, rfl, rfl, rfl, rfl, rfl, rfl, rfl, rfl, rfl, rfl⟩
  case perst => rw [exec_perstN, execPerstN]
  case release =>
    rw [exec_perstNDeassert, execPerstNDeassert]
    exact congrArg _ (if_pos held)
  case noRelease =>
    rw [exec_perstNDeassert, execPerstNDeassert]
    exact congrArg _ (if_neg (Bool.eq_false_iff.mp high))
  case linkDown =>
    rw [exec_configRequest, execConfigRequest]
    exact congrArg _ (if_pos (Bool.eq_false_iff.mp down))
  case unready =>
    rw [exec_configRequest, execConfigRequest]
    exact congrArg _ ((if_neg (not_not.mpr up)).trans (if_pos (Bool.eq_false_iff.mp shut)))
  case configRead =>
    have present : ¬ (fn = true ∧ ¬ s.flag Reg.hifCfgBifurcated 0 = true) := fun absent =>
      there.elim (fun zero => Bool.false_ne_true (zero.symm.trans absent.1)) absent.2
    rw [exec_configRequest, execConfigRequest]
    exact congrArg _ ((if_neg (not_not.mpr up)).trans ((if_neg (not_not.mpr opened)).trans (if_neg present)))
  case configWrite =>
    have present : ¬ (fn = true ∧ ¬ s.flag Reg.hifCfgBifurcated 0 = true) := fun absent =>
      there.elim (fun zero => Bool.false_ne_true (zero.symm.trans absent.1)) absent.2
    rw [exec_configRequest, execConfigRequest]
    exact congrArg _ ((if_neg (not_not.mpr up)).trans ((if_neg (not_not.mpr opened)).trans (if_neg present)))
  case linkReset => rw [exec_pcieLinkReset, execPcieLinkReset]
  case bankFails =>
    rw [exec_bankVerifyFail, execBankVerifyFail]
    exact congrArg _ (if_pos ⟨rom, mine⟩)
  case verified =>
    rw [exec_firmwareVerified, execFirmwareVerified]
    simp only [rom, mine, listed, not_true_eq_false, ne_eq, or_self, if_false]
  case noImage =>
    rw [exec_firmwareVerified, execFirmwareVerified]
    simp only [rom, mine, none, not_true_eq_false, ne_eq, or_self, if_false]
  case open_ =>
    rw [exec_deviceRelease, execDeviceRelease]
    exact congrArg _ (if_pos ⟨rfl, phase, Bool.eq_false_iff.mp free⟩)
  case kept =>
    rw [exec_deviceRelease, execDeviceRelease]
    exact congrArg _ (if_neg fun ready => other.elim (· ready.2.1) ready.2.2)
  case untrained =>
    rw [exec_deviceRelease, execDeviceRelease]
    exact congrArg _ (if_neg fun ready => Bool.false_ne_true ready.1)
  case recovers =>
    rw [exec_resetLevelRecovery, execResetLevelRecovery]
    exact congrArg _ (if_pos ⟨held, brown⟩)

end Sys2Proof.Machine
end

-- ==== Alert, quench, supply and clamp; the counters' latch; a port's bring-up and fabric time ====
section

namespace Sys2Proof.Machine
open Sys2Proof.Certificates

/-! ### Alert, quench, supply and clamp -/

/-- Settles O38: an assertion acts where the filter recognises it, and an end where its instant stands. -/
theorem alertQuenchSupplyAndClamp : Obligations.AlertQuenchSupplyAndClamp := by
  unfold Obligations.AlertQuenchSupplyAndClamp
  refine fun s => ⟨fun w => ⟨fun short => ?filtered, fun long => ?alert⟩, ?deassert, fun at_ holds => ?holdEnd, fun none => ?noHold,
    fun w => ?cool, ?coolEnd, fun at_ quenched => ?off, fun none => ?noQuench, ?trip, fun rail => ?supply, fun at_ clamps => ?clampEnd⟩
  case filtered =>
    rw [exec_pwrAlertNAssert, execPwrAlertNAssert]
    exact if_pos (Bool.eq_false_iff.mp short)
  case alert =>
    rw [exec_pwrAlertNAssert, execPwrAlertNAssert]
    exact (if_neg (not_not.mpr long)).trans (apply_ite Host.Outcome.next _ _ _).symm
  case deassert => rw [exec_pwrAlertNDeassert, execPwrAlertNDeassert]
  case holdEnd =>
    rw [exec_alertHoldEnd, execAlertHoldEnd, holds]
    rfl
  case noHold => rw [exec_alertHoldEnd, execAlertHoldEnd, none]
  case cool => rw [exec_coolFailNAssert, execCoolFailNAssert]
  case coolEnd => rw [exec_coolFailNDeassert, execCoolFailNDeassert]
  case off => rw [exec_quenchPowerOffRequest, execQuenchPowerOffRequest, quenched]
  case noQuench => rw [exec_quenchPowerOffRequest, execQuenchPowerOffRequest, none]
  case trip =>
    rw [exec_thermTrip, execThermTrip]
    rfl
  case supply => rw [exec_supplyWarning, execSupplyWarning]
  case clampEnd => rw [exec_clampEnd, execClampEnd, clamps]

/-! ### The counters' latch -/

/-- A state in which a page has changed hands since the last latch. -/
def State.movedPage : State := State.reset.onBus fun b => { b with moved := [0] }

/-- Refutes O39: the latch forgets the pages that changed hands since the last one, and the statement keeps them. -/
theorem not_capLoopCalibrationAndThermalFloor : ¬ Obligations.CapLoopCalibrationAndThermalFloor := by
  unfold Obligations.CapLoopCalibrationAndThermalFloor
  intro holds
  obtain ⟨-, -, -, -, -, latch, -⟩ := holds State.movedPage
  rw [exec_counterLatch, execCounterLatch] at latch
  have moved : ([] : List Nat) = (State.movedPage.atMultiple 10000000).plant.bus.moved :=
    congrArg (fun s : State => s.plant.bus.moved) (Host.Outcome.next.inj latch)
  have kept : (State.movedPage.atMultiple 10000000).plant.bus.moved = [0] := rfl
  exact absurd (moved.trans kept) (by decide)

/-! ### A port's bring-up -/

theorem State.received_congr {s : State} {n : Nat} {f g : State → State}
    (same : f (s.setPort n { s.port n with acted := some s.now }) = g (s.setPort n { s.port n with acted := some s.now })) :
    s.received n f = s.received n g := by
  unfold State.received
  rw [same]

/-- Settles O41: each frame and message acts in the state of bring-up that it is of. -/
theorem portBringUp : Obligations.PortBringUp := by
  unfold Obligations.PortBringUp
  refine fun s port real => ⟨fun lanes down enough => ?training, fun ber trains all => ⟨fun good => ?trained, fun bad => ?poor⟩,
    fun aligns => ⟨fun keys => ?opens, fun bare => ?exchanges, fun lanes some => ?aligning⟩,
    fun exchange => ⟨fun device peer nonce => ⟨fun own ok => ?clash, fun other => ⟨?noCert, ?hello⟩⟩, fun greeted => ⟨?encap, ?noEncap⟩⟩,
    rfl, fun measures seq delta => ?request, fun measures seq delta elapsed => ?response, fun b bound => ?timeout,
    fun none => ?noTimeout, fun cause => ?close⟩
  case training =>
    rw [exec_trainingFrame, execTrainingFrame]
    exact congrArg _ ((if_pos ⟨real, down⟩).trans (State.received_congr (if_pos enough)))
  case trained =>
    have all64 : (((sortLanes ber).take 64).all fun e => decide (e.1 < 10000)) = true :=
      List.all_eq_true.mpr fun e listed => decide_eq_true (good e listed)
    rw [exec_trainDone, execTrainDone]
    exact (if_pos ⟨real, trains, all⟩).trans (if_pos all64)
  case poor =>
    have few : ¬ (((sortLanes ber).take 64).all fun e => decide (e.1 < 10000)) = true := fun all64 => by
      obtain ⟨e, listed, errors⟩ := bad
      exact Nat.not_lt.mpr errors (of_decide_eq_true (List.all_eq_true.mp all64 e listed))
    rw [exec_trainDone, execTrainDone]
    exact (if_pos ⟨real, trains, all⟩).trans (if_neg few)
  case opens =>
    rw [exec_alignDone, execAlignDone]
    exact (if_pos ⟨real, aligns⟩).trans ((if_pos rfl).trans (if_pos keys))
  case exchanges =>
    rw [exec_alignDone, execAlignDone]
    exact (if_pos ⟨real, aligns⟩).trans ((if_pos rfl).trans (if_neg (Bool.eq_false_iff.mp bare)))
  case aligning =>
    rw [exec_alignDone, execAlignDone]
    exact (if_pos ⟨real, aligns⟩).trans (if_neg some)
  case clash =>
    rw [exec_hello, execHello]
    exact congrArg _ ((if_pos ⟨real, exchange⟩).trans (State.received_congr (if_pos own)))
  case noCert =>
    rw [exec_hello, execHello]
    exact congrArg _ ((if_pos ⟨real, exchange⟩).trans (State.received_congr ((if_neg other).trans (if_pos Bool.false_ne_true))))
  case hello =>
    rw [exec_hello, execHello]
    exact congrArg _ ((if_pos ⟨real, exchange⟩).trans (State.received_congr ((if_neg other).trans (if_neg (not_not.mpr rfl)))))
  case encap =>
    rw [exec_encap, execEncap]
    exact congrArg _ ((if_pos ⟨real, exchange, greeted⟩).trans (State.received_congr (if_pos rfl)))
  case noEncap =>
    rw [exec_encap, execEncap]
    exact congrArg _ ((if_pos ⟨real, exchange, greeted⟩).trans (State.received_congr (if_neg Bool.false_ne_true)))
  case request =>
    rw [exec_echoReq, execEchoReq]
    exact congrArg _ (if_pos ⟨real, measures⟩)
  case response =>
    rw [exec_echoRsp, execEchoRsp]
    exact (if_pos ⟨real, measures⟩).trans (apply_ite Host.Outcome.next _ _ _).symm
  case timeout =>
    rw [exec_portStateTimeout, execPortStateTimeout]
    rw [bound]
    exact congrArg _ (if_pos real)
  case noTimeout =>
    rw [exec_portStateTimeout, execPortStateTimeout]
    rw [none]
  case close =>
    rw [exec_close, execClose]
    exact congrArg _ (if_congr (and_iff_right real) rfl rfl)

/-! ### Fabric time from the parent -/

/-- Settles O42: a TIME message acts by its port, the parent's or the alternative's, at an open port of a follower. -/
theorem fabricTimeFromTheParent : Obligations.FabricTimeFromTheParent := by
  unfold Obligations.FabricTimeFromTheParent
  refine fun s port valid hops root start arrival => ⟨fun apart => ?stray, fun real opened follows =>
    ⟨fun parent => ⟨fun shallow sound => ?follow, fun missed => ?missed⟩, fun other alternative free => ?alternative,
      fun other stranger => ?ignored⟩, ?lost, fun holdover real opened => ?usable⟩
  case stray =>
    have off : ¬ (port.toNat < 6 ∧ s.portOpen port.toNat = true ∧ s.role = 2) := fun ⟨_, opened, follows⟩ =>
      apart.elim (fun shut => Bool.false_ne_true (shut.symm.trans opened)) fun leads => leads follows
    rw [exec_time, execTime]
    exact if_pos off
  case follow =>
    have good : ¬ (hops = 63 ∨ ¬ valid = true) := not_or.mpr ⟨shallow, not_not.mpr sound⟩
    rw [exec_time, execTime]
    exact (if_neg (not_not.mpr ⟨real, opened, follows⟩)).trans ((if_pos parent).trans (if_neg good))
  case missed =>
    have bad : hops = 63 ∨ ¬ valid = true := missed.imp_right Bool.eq_false_iff.mp
    rw [exec_time, execTime]
    exact (if_neg (not_not.mpr ⟨real, opened, follows⟩)).trans ((if_pos parent).trans (if_pos bad))
  case alternative =>
    rw [exec_time, execTime]
    exact (if_neg (not_not.mpr ⟨real, opened, follows⟩)).trans ((if_neg other).trans
      (if_pos ⟨alternative, Bool.eq_false_iff.mp free⟩))
  case ignored =>
    rw [exec_time, execTime]
    exact (if_neg (not_not.mpr ⟨real, opened, follows⟩)).trans ((if_neg other).trans (if_neg fun both => stranger both.1))
  case lost => rw [exec_parentLost, execParentLost]
  case usable =>
    rw [exec_parentUsable, execParentUsable]
    exact congrArg _ (if_pos ⟨holdover, real, opened⟩)

end Sys2Proof.Machine
end

-- ==== Links: intervals, lanes, holds and flits ====
section

namespace Sys2Proof.Machine
open Sys2Proof.Certificates

/-! ### The instant of a stroke -/

/-- The strokes from now to the next stroke whose number is `k` modulo 2^20. -/
def State.strokesTo (s : State) (k : Nat) : Nat := (k + 2 ^ 20 - s.now / 1000 % 2 ^ 20) % 2 ^ 20

theorem State.strokeAt_eq (s : State) (k : Nat) :
    s.strokeAt k = if s.strokesTo k = 0 ∨ 2 ^ 19 ≤ s.strokesTo k then s.now else (s.now / 1000 + s.strokesTo k) * 1000 := rfl

theorem State.now_le_strokeAt (s : State) (k : Nat) : s.now ≤ s.strokeAt k := by
  rw [State.strokeAt_eq]
  split
  · exact le_rfl
  · omega

theorem State.stroke_of_strokeAt {s : State} {k : Nat} (small : k < 2 ^ 20) (later : s.now < s.strokeAt k) :
    s.strokeAt k / 1000 % 2 ^ 20 = k := by
  rw [State.strokeAt_eq] at later ⊢
  split at later
  · exact absurd later (lt_irrefl _)
  · rw [if_neg ‹_›, Nat.mul_div_cancel _ (by decide)]
    unfold State.strokesTo
    omega

/-- A state that stands at the instant of a stroke has no later instant of it to wait for. -/
theorem State.strokeAt_of_now_eq {s t : State} {k : Nat} (arrived : t.now = s.strokeAt k) : t.strokeAt k = s.strokeAt k := by
  rw [State.strokeAt_eq t, ← arrived]
  refine if_pos ?_
  rw [State.strokeAt_eq] at arrived
  unfold State.strokesTo at *
  split at arrived
  · rwa [arrived]
  · left
    rw [arrived, Nat.mul_div_cancel _ (by decide)]
    omega

theorem State.strokeAt_atLeast (s : State) (k : Nat) : (s.atLeast (s.strokeAt k)).strokeAt k = s.strokeAt k :=
  State.strokeAt_of_now_eq (by rw [State.atLeast_now, Nat.max_eq_right (s.now_le_strokeAt k)])

/-! ### Intervals, lanes and holds -/

theorem State.port_atLeast (s : State) (at_ n : Nat) : (s.atLeast at_).port n = s.port n := by
  rw [State.port, State.atLeast_net]
  rfl

section
variable {s : State} {port : PortNo} {lane sp k : Nat}

theorem exec_laneSwapStroke_of_receiver (real : port.toNat < 6) (opened : s.portOpen port.toNat = true)
    (swap : (s.port port.toNat).swap = some (lane, sp, k)) (none : (s.port port.toNat).txSwap = none) :
    exec (.laneSwapStroke port) s = .next ((s.atLeast (s.strokeAt k)).swapLane port.toNat lane sp) := by
  have arrived := s.strokeAt_atLeast k
  rw [exec_laneSwapStroke, execLaneSwapStroke]
  refine (if_pos ⟨real, opened⟩).trans ?_
  rw [swap, none]
  dsimp only [Option.toList]
  rw [List.append_nil, List.map_singleton]
  dsimp only
  rw [List.foldl_nil, if_pos arrived.le]

theorem exec_laneSwapStroke_of_sender (real : port.toNat < 6) (opened : s.portOpen port.toNat = true)
    (none : (s.port port.toNat).swap = none) (swap : (s.port port.toNat).txSwap = some (lane, sp, k)) :
    exec (.laneSwapStroke port) s = .next ((s.atLeast (s.strokeAt k)).setPort port.toNat { s.port port.toNat with
      txLanes := (s.port port.toNat).txLanes.put lane sp, txSwap := Option.none }) := by
  have arrived := s.strokeAt_atLeast k
  rw [exec_laneSwapStroke, execLaneSwapStroke]
  refine (if_pos ⟨real, opened⟩).trans ?_
  rw [swap, none]
  dsimp only [Option.toList]
  rw [List.nil_append, List.map_singleton]
  dsimp only
  rw [List.foldl_nil, if_pos arrived.le, State.port_atLeast]

end

/-- Settles O43: at a port in MEASURE or OPEN a row counts and acts; a swap waits for its stroke, and a hold for the end of
what it waits for, or its limit. -/
theorem linkIntervalsLanesAndHolds : Obligations.LinkIntervalsLanesAndHolds := by
  unfold Obligations.LinkIntervalsLanesAndHolds
  refine fun s => ⟨fun port real => ⟨fun measures => ⟨fun c errs prbs => ?interval, ?lost⟩,
      fun opened => ⟨fun logical spare stroke => ?swapOrder, fun lane sp k swap none => ?swapIn, fun lane sp k none swap => ?swapOut,
        fun k => ⟨s.now_le_strokeAt k, State.stroke_of_strokeAt⟩, fun set => ?pause, ?marker⟩,
      fun keys => ?refresh, fun shut => ⟨fun a b c => ?swapStray, fun v => ?pauseStray⟩⟩,
    fun p => ⟨fun port real free runs holds => ?begins, fun n at_ held => ⟨?ends, ?limit⟩,
      fun k at_ held => ⟨?barrierStays, ?barrierLimit⟩, fun none => ⟨?noEnd, ?noLimit⟩⟩⟩
  case interval =>
    rw [exec_interval, execInterval]
    exact if_pos ⟨real, measures⟩
  case lost =>
    rw [exec_lostInterval, execLostInterval]
    exact if_pos ⟨real, measures⟩
  case swapOrder =>
    rw [exec_laneSwap, execLaneSwap]
    exact congrArg _ (if_pos ⟨real, opened⟩)
  case swapIn =>
    rw [exec_laneSwapStroke_of_receiver real opened swap none, State.swapLane, State.port_atLeast]
  case swapOut => rw [exec_laneSwapStroke_of_sender real opened none swap]
  case pause =>
    rw [exec_pause, execPause]
    exact congrArg _ (if_pos ⟨real, opened⟩)
  case marker =>
    rw [exec_markerDiscontinuity, execMarkerDiscontinuity]
    exact if_pos ⟨real, opened⟩
  case refresh =>
    rw [exec_keyRefresh, execKeyRefresh]
    exact congrArg _ (if_pos ⟨real, keys⟩)
  case swapStray =>
    rw [exec_laneSwap, execLaneSwap]
    exact congrArg _ (if_neg fun both => Bool.eq_false_iff.mp shut both.2)
  case pauseStray =>
    rw [exec_pause, execPause]
    exact congrArg _ (if_neg fun both => Bool.eq_false_iff.mp shut both.2)
  case begins =>
    rw [exec_holdBegin, execHoldBegin]
    exact congrArg _ (if_pos ⟨Option.isNone_iff_eq_none.mpr free, runs, real, holds⟩)
  case ends =>
    rw [exec_holdEnd, execHoldEnd]
    simp only [held]
  case limit =>
    rw [exec_holdLimitUs, execHoldLimitUs]
    simp only [held]
  case barrierStays =>
    rw [exec_holdEnd, execHoldEnd]
    simp only [held]
  case barrierLimit =>
    rw [exec_holdLimitUs, execHoldLimitUs]
    simp only [held]
  case noEnd =>
    rw [exec_holdEnd, execHoldEnd]
    simp only [none]
  case noLimit =>
    rw [exec_holdLimitUs, execHoldLimitUs]
    simp only [none]

/-! ### Flits -/

section
variable {s : State} {port : PortNo} {slot : BitVec 13}

/-- A scheduled slot of an open port with its holder read. -/
theorem exec_scheduledSlot_of_open (real : port.toNat < 6) (opened : s.portOpen port.toNat = true)
    (data : slot.toNat % 125 ≠ 0) (inside : slot.toNat < 6250) :
    exec (.scheduledSlot port slot) s = match s.slotHolder port.toNat 0 slot.toNat with
      | none => .next s
      | some p =>
        let x := s.port port.toNat
        if Nat.testBit x.paused p = true ∨ s.quenched = true ∨ s.ptnState p ≠ ptnActive then
          .next (s.emit (.flit port.toNat slot.toNat 0 [] []))
        else match x.nextPoint p with
          | none => .next (s.emit (.flit port.toNat slot.toNat 0 [] []))
          | some pt =>
            let r := takeUnits p pt 4 x.tx
            let t := s.setPort port.toNat { x with tx := r.2, lastPoint := x.lastPoint.put p pt }
            .next ((t.emit (.flit port.toNat slot.toNat 2
              [r.1.length - 1, pt, t.runningCmdSeq p % 2 ^ 18, p, t.get Reg.ptnpAlloyAlloyId p] (r.1.map PortUnit.data))).count
                (lnkPage port.toNat) 0 1) := by
  rw [exec_scheduledSlot, execScheduledSlot]
  exact if_neg (not_not.mpr ⟨real, opened, data, inside⟩)

variable {kind : BitVec 4} {pt : BitVec 2} {cmd : BitVec 18} {src : PtnNo} {alloy : BitVec 32} {units : List Line}

/-- A flit of a kind that its slot may carry, with the holder of the slot read. -/
theorem exec_scheduledFlit_of_data (real : port.toNat < 6) (opened : s.portOpen port.toNat = true) (scheduled : kind = 2 ∨ kind = 3)
    (data : slot.toNat % 125 ≠ 0) :
    exec (.scheduledFlit port slot kind pt cmd src alloy units) s = match s.slotHolder port.toNat 1 slot.toNat with
      | none => .next (if kind = 2 then s.bump Reg.lnkCntMisrouted port.toNat else s.count (lnkPage port.toNat) 3 1)
      | some p =>
        if kind = 3 ∨ s.get Reg.ptnpAlloyAlloyId p ≠ alloy.toNat ∨ s.mstate p = Ms.none then
          .next (s.bump Reg.lnkCntMisrouted port.toNat)
        else if (s.line p).killed.any fun k => decide (k.1.op = 2 ∧ k.1.cmdSeq % 2 ^ 18 = cmd.toNat) then
          .next (s.bump Reg.lnkCntKillDiscard port.toNat)
        else .next ((((s.setPort port.toNat { s.port port.toNat with
          rx := (s.port port.toNat).rx ++ units.map fun u => ⟨p, pt.toNat, u⟩ }).count (lnkPage port.toNat) 2 1).settlePause
            port.toNat p).runSeg p) := by
  have known : ¬ 4 ≤ kind.toNat := by rcases scheduled with rfl | rfl <;> decide
  have suits : ¬ (kind = 1 ∧ ¬ slot.toNat % 125 = 0 ∨ kind ≠ 1 ∧ slot.toNat % 125 = 0) := by
    rintro (⟨control, -⟩ | ⟨-, zero⟩)
    · rcases scheduled with rfl | rfl <;> exact absurd control (by decide)
    · exact data zero
  have carries : ¬ (kind = 0 ∨ kind = 1) := by rcases scheduled with rfl | rfl <;> decide
  rw [exec_scheduledFlit, execScheduledFlit]
  exact (if_neg (not_not.mpr real)).trans ((if_neg (not_not.mpr opened)).trans ((if_neg known).trans ((if_neg suits).trans
    (if_neg carries))))

end

theorem killedHere_iff {ks : List (Cmd × Ending)} {n : Nat} :
    (ks.any fun k => decide (k.1.op = 2 ∧ k.1.cmdSeq % 2 ^ 18 = n)) = true ↔
      ∃ k ∈ ks, k.1.op = 2 ∧ k.1.cmdSeq % 2 ^ 18 = n := by
  simp only [List.any_eq_true, decide_eq_true_eq]

/-- Settles O44: a slot goes by its holder, an arriving flit by its kind, its slot and the slot's holder. -/
theorem flitsLeaveAndArrive : Obligations.FlitsLeaveAndArrive := by
  unfold Obligations.FlitsLeaveAndArrive
  refine fun s => ⟨fun port slot real opened data inside => ⟨fun free => ?noHolder, fun p holder =>
      ⟨fun idle => ?filler, fun pt runs powered active next => ?units⟩⟩, fun port slot => ?openSlot,
    fun port slot kind pt cmd src alloy units real => ⟨fun shut => ?shut, fun opened => ⟨fun unknown => ?unknown,
      fun known wrong => ?wrong, fun idle data => ?idle, fun control first => ?control,
      fun data => ⟨fun free => ⟨fun two => ?unheld, fun three => ?foreign⟩, fun p holder => ⟨fun three => ?three,
        fun two => ⟨fun other => ?other, fun same member => ⟨fun dead => ?dead, fun lives => ?joins⟩⟩⟩⟩⟩⟩,
    fun kind index => ?check⟩
  case noHolder => rw [exec_scheduledSlot_of_open real opened data inside, free]
  case filler =>
    rw [exec_scheduledSlot_of_open real opened data inside, holder]
    dsimp only
    by_cases barred : Nat.testBit (s.port port.toNat).paused p = true ∨ s.quenched = true ∨ s.ptnState p ≠ ptnActive
    · exact if_pos barred
    · have none : (s.port port.toNat).nextPoint p = none := by
        simp only [not_or] at barred
        exact ((idle.resolve_left barred.1).resolve_left barred.2.1).resolve_left barred.2.2
      rw [if_neg barred, none]
  case units =>
    have free : ¬ (Nat.testBit (s.port port.toNat).paused p = true ∨ s.quenched = true ∨ s.ptnState p ≠ ptnActive) :=
      not_or.mpr ⟨Bool.eq_false_iff.mp runs, not_or.mpr ⟨Bool.eq_false_iff.mp powered, not_not.mpr active⟩⟩
    rw [exec_scheduledSlot_of_open real opened data inside, holder]
    dsimp only
    rw [if_neg free, next]
  case openSlot =>
    rw [exec_openSlot, execOpenSlot]
    simp only [Bool.not_eq_true]
  case shut =>
    rw [exec_scheduledFlit, execScheduledFlit]
    exact (if_neg (not_not.mpr real)).trans (if_pos (Bool.eq_false_iff.mp shut))
  case unknown =>
    rw [exec_scheduledFlit, execScheduledFlit]
    exact (if_neg (not_not.mpr real)).trans ((if_neg (not_not.mpr opened)).trans (if_pos unknown))
  case wrong =>
    rw [exec_scheduledFlit, execScheduledFlit]
    exact (if_neg (not_not.mpr real)).trans ((if_neg (not_not.mpr opened)).trans ((if_neg (Nat.not_le.mpr known)).trans (if_pos wrong)))
  case idle =>
    subst idle
    have suits : ¬ ((0 : BitVec 4) = 1 ∧ ¬ slot.toNat % 125 = 0 ∨ (0 : BitVec 4) ≠ 1 ∧ slot.toNat % 125 = 0) :=
      fun bad => bad.elim (fun control => absurd control.1 (by decide)) fun control => data control.2
    rw [exec_scheduledFlit, execScheduledFlit]
    exact (if_neg (not_not.mpr real)).trans ((if_neg (not_not.mpr opened)).trans ((if_neg (by decide)).trans ((if_neg suits).trans
      (if_pos (.inl rfl)))))
  case control =>
    subst control
    have suits : ¬ ((1 : BitVec 4) = 1 ∧ ¬ slot.toNat % 125 = 0 ∨ (1 : BitVec 4) ≠ 1 ∧ slot.toNat % 125 = 0) :=
      fun bad => bad.elim (fun late => late.2 first) fun other => other.1 rfl
    rw [exec_scheduledFlit, execScheduledFlit]
    exact (if_neg (not_not.mpr real)).trans ((if_neg (not_not.mpr opened)).trans ((if_neg (by decide)).trans ((if_neg suits).trans
      (if_pos (.inr rfl)))))
  case unheld =>
    rw [exec_scheduledFlit_of_data real opened (.inl two) data, free]
    exact congrArg _ (if_pos two)
  case foreign =>
    rw [exec_scheduledFlit_of_data real opened (.inr three) data, free]
    exact congrArg _ (if_neg fun two => absurd (three.symm.trans two) (by decide))
  case three =>
    rw [exec_scheduledFlit_of_data real opened (.inr three) data, holder]
    exact if_pos (.inl three)
  case other =>
    rw [exec_scheduledFlit_of_data real opened (.inl two) data, holder]
    exact if_pos (.inr other)
  case dead =>
    have held : ¬ (kind = 3 ∨ s.get Reg.ptnpAlloyAlloyId p ≠ alloy.toNat ∨ s.mstate p = Ms.none) :=
      not_or.mpr ⟨fun three => absurd (two.symm.trans three) (by decide), not_or.mpr ⟨not_not.mpr same, member⟩⟩
    rw [exec_scheduledFlit_of_data real opened (.inl two) data, holder]
    exact (if_neg held).trans (if_pos (killedHere_iff.mpr dead))
  case joins =>
    have held : ¬ (kind = 3 ∨ s.get Reg.ptnpAlloyAlloyId p ≠ alloy.toNat ∨ s.mstate p = Ms.none) :=
      not_or.mpr ⟨fun three => absurd (two.symm.trans three) (by decide), not_or.mpr ⟨not_not.mpr same, member⟩⟩
    rw [exec_scheduledFlit_of_data real opened (.inl two) data, holder]
    exact (if_neg held).trans (if_neg (mt killedHere_iff.mp lives))
  case check => rw [exec_guaranteeCheck, execGuaranteeCheck]

end Sys2Proof.Machine
end

-- ==== Handoff messages, streams and timers ====
section

namespace Sys2Proof.Machine
open Sys2Proof.Certificates

/-! ### Messages -/

section
variable {s : State} {m : HoMsg} {type : Nat} (go : State → State)

theorem State.hoMessage_of_destination (here : m.dstDevice.toNat = s.deviceId) : s.hoMessage m type false go = go s :=
  if_pos here

theorem State.hoMessage_of_source (here : m.srcDevice.toNat = s.deviceId) : s.hoMessage m type true go = go s :=
  if_pos here

theorem State.hoMessage_of_transit (away : m.dstDevice.toNat ≠ s.deviceId) :
    s.hoMessage m type false go = s.sendHo m.dstDevice.toNat type m.code.toNat m.epoch.toNat m.srcDevice.toNat
      m.dstDevice.toNat m.srcHandle.toNat m.dstHandle.toNat m.length.toNat := if_neg away

end

theorem State.openFlit_of_here {s : State} {h : OpenHdr} (otype : Nat) (deadline : Option Nat) (payload : List Line)
    (go : State → State) (here : h.dstDevice.toNat = s.deviceId) : s.openFlit h otype deadline payload go = go s := if_pos here

/-- One of three conditions fails where the rule has them all. -/
theorem notAll_of_either {a b : Bool} {p : Prop} (either : a = false ∨ b = false ∨ ¬ p) : ¬ (a = true ∧ b = true ∧ p) := by
  rintro ⟨first, second, third⟩
  rcases either with no | no | no
  · exact Bool.false_ne_true (no.symm.trans first)
  · exact Bool.false_ne_true (no.symm.trans second)
  · exact no third

/-- Settles O45: a message goes on where it is for another device; at its own it goes by the record that its handle names, the
record's state and epoch, and the peer that it names. -/
theorem handoffMessages : Obligations.HandoffMessages := by
  unfold Obligations.HandoffMessages
  refine fun s m => ⟨fun away type known => ⟨fun one => ?offerOn, fun four => ?queryOn, fun six => ?staleOn, fun seven => ?releasedOn⟩,
    fun here => ⟨fun none => ⟨?offerNone, ?queryNone, ?releasedNone, ?staleNone⟩, fun k r found =>
      ⟨fun unfit => ?offerUnfit, fun armed peer => ?offer, fun peer waits epoch => ?released, fun past later => ?queryTaken,
        fun receiving same peer => ?queryBack, fun peer waits epoch => ?stale, fun other => ?staleOther, fun other => ?releasedOther⟩⟩,
    fun here => ⟨fun none => ⟨fun empty => ?takenEmpty, fun r held => ?takenStale, ?refuseNone, ?answerNone⟩, fun k r found =>
      ⟨fun peer epoch => ⟨fun offered => ?taken, fun moved => ?takenAgain⟩, fun other => ?takenOther,
        fun peer offered epoch => ⟨?refuse, fun one => ?answerTaken, fun zero => ?answerBack⟩,
        fun other => ⟨?refuseOther, ?answerOther⟩⟩⟩,
    fun h data here => ⟨fun k r receiver => ?stream, fun none => ?noStream⟩⟩
  case offerOn => rw [exec_offer, execOffer, State.hoMessage_of_transit _ away, one]
  case queryOn => rw [exec_query, execQuery, State.hoMessage_of_transit _ away, four]
  case staleOn => rw [exec_stale, execStale, State.hoMessage_of_transit _ away, six]
  case releasedOn => rw [exec_released, execReleased, State.hoMessage_of_transit _ away, seven]
  case offerNone =>
    rw [exec_offer, execOffer, State.hoMessage_of_destination _ here]
    simp only [none]
  case queryNone =>
    rw [exec_query, execQuery, State.hoMessage_of_destination _ here]
    simp only [none]
  case releasedNone =>
    rw [exec_released, execReleased, State.hoMessage_of_destination _ here]
    simp only [none]
  case staleNone =>
    rw [exec_stale, execStale, State.hoMessage_of_destination _ here]
    simp only [none]
  case offerUnfit =>
    rw [exec_offer, execOffer, State.hoMessage_of_destination _ here]
    simp only [found]
    exact congrArg _ (if_pos (unfit.imp_right Bool.eq_false_iff.mp))
  case offer =>
    rw [exec_offer, execOffer, State.hoMessage_of_destination _ here]
    simp only [found, armed, peer, ne_eq, not_true_eq_false, or_self, if_false]
  case released =>
    rw [exec_released, execReleased, State.hoMessage_of_destination _ here]
    simp only [found, peer, waits, epoch, and_self, if_true]
  case queryTaken =>
    rw [exec_query, execQuery, State.hoMessage_of_destination _ here]
    simp only [found]
    exact congrArg _ (if_pos ⟨past, later⟩)
  case queryBack =>
    have present : ¬ ((r.state = 6 ∨ r.state = 2 ∨ r.state = 3) ∧ m.epoch.toNat + 1 ≤ r.epoch) := fun taken => by
      rw [receiving] at taken
      exact absurd taken.1 (by decide)
    rw [exec_query, execQuery, State.hoMessage_of_destination _ here]
    simp only [found]
    exact congrArg _ ((if_neg present).trans (if_pos ⟨receiving, same, peer⟩))
  case stale =>
    rw [exec_stale, execStale, State.hoMessage_of_destination _ here]
    simp only [found, peer, waits, epoch, and_self, if_true]
  case staleOther =>
    rw [exec_stale, execStale, State.hoMessage_of_destination _ here]
    simp only [found]
    exact congrArg _ (if_neg (notAll_of_either other))
  case releasedOther =>
    rw [exec_released, execReleased, State.hoMessage_of_destination _ here]
    simp only [found]
    exact congrArg _ (if_neg (notAll_of_either other))
  case takenEmpty =>
    rw [exec_taken, execTaken, State.hoMessage_of_source _ here]
    simp only [none, empty]
  case takenStale =>
    rw [exec_taken, execTaken, State.hoMessage_of_source _ here]
    simp only [none, held]
  case refuseNone =>
    rw [exec_refuse, execRefuse, State.hoMessage_of_source _ here]
    simp only [none]
  case answerNone =>
    rw [exec_answer, execAnswer, State.hoMessage_of_source _ here]
    simp only [none]
  case taken =>
    rw [exec_taken, execTaken, State.hoMessage_of_source _ here]
    simp only [found]
    exact congrArg _ (if_pos ⟨peer, epoch, offered⟩)
  case takenAgain =>
    have past : ¬ r.state = 2 := fun offered => absurd (moved.symm.trans offered) (by decide)
    rw [exec_taken, execTaken, State.hoMessage_of_source _ here]
    simp only [found]
    exact congrArg _ ((if_neg fun all => past all.2.2).trans (if_pos ⟨peer, epoch, moved⟩))
  case takenOther =>
    have stranger : ∀ n, ¬ (r.peerIsDest m = true ∧ r.epoch + 1 = m.epoch.toNat ∧ r.state = n) := fun n all =>
      other.elim (fun no => Bool.false_ne_true (no.symm.trans all.1)) fun no => no all.2.1
    rw [exec_taken, execTaken, State.hoMessage_of_source _ here]
    simp only [found]
    exact congrArg _ ((if_neg (stranger 2)).trans (if_neg (stranger 3)))
  case refuse =>
    rw [exec_refuse, execRefuse, State.hoMessage_of_source _ here]
    simp only [found]
    exact congrArg _ (if_pos ⟨peer, offered, epoch⟩)
  case answerTaken =>
    have small : ¬ 1 < m.code.toNat := by
      rw [one]
      decide
    have known : ¬ (¬ r.peerIsDest m = true ∨ r.state ≠ 2 ∨ r.epoch ≠ m.epoch.toNat ∨ 1 < m.code.toNat) := by
      simp only [peer, offered, epoch, small, ne_eq, not_true_eq_false, or_self, not_false_eq_true]
    rw [exec_answer, execAnswer, State.hoMessage_of_source _ here]
    simp only [found]
    exact congrArg _ ((if_neg known).trans (if_pos one))
  case answerBack =>
    have small : ¬ 1 < m.code.toNat := by
      rw [zero]
      decide
    have back : ¬ m.code = 1 := by
      rw [zero]
      decide
    rw [exec_answer, execAnswer, State.hoMessage_of_source _ here]
    simp only [found, peer, offered, epoch, small, back, ne_eq, not_true_eq_false, or_self, if_false]
  case refuseOther =>
    have stranger : ¬ (r.peerIsDest m = true ∧ r.state = 2 ∧ r.epoch = m.epoch.toNat) := fun ⟨peer, offered, epoch⟩ =>
      other.elim (fun no => Bool.false_ne_true (no.symm.trans peer)) fun rest => rest.elim (· offered) (· epoch)
    rw [exec_refuse, execRefuse, State.hoMessage_of_source _ here]
    simp only [found]
    exact congrArg _ (if_neg stranger)
  case answerOther =>
    have stranger : ¬ r.peerIsDest m = true ∨ r.state ≠ 2 ∨ r.epoch ≠ m.epoch.toNat ∨ 1 < m.code.toNat := by
      rcases other with no | no | no
      · exact .inl (Bool.eq_false_iff.mp no)
      · exact .inr (.inl no)
      · exact .inr (.inr (.inl no))
    rw [exec_answer, execAnswer, State.hoMessage_of_source _ here]
    simp only [found]
    exact congrArg _ (if_pos stranger)
  case stream =>
    rw [exec_stream, execStream, State.openFlit_of_here _ _ _ _ here]
    simp only [receiver]
  case noStream =>
    rw [exec_stream, execStream, State.openFlit_of_here _ _ _ _ here]
    simp only [none]

/-! ### Streams and timers -/

/-- Settles O46: the stream's end and trailer go by the record's state, epoch and digest, each timer by its instant. -/
theorem handoffStreamsAndTimers : Obligations.HandoffStreamsAndTimers := by
  unfold Obligations.HandoffStreamsAndTimers
  refine fun s record r held => ⟨fun offered streams drained => ?ends, fun epoch length digest => ⟨fun other => ?otherTrailer,
      fun receiving same => ⟨fun wrong => ?length, fun sized differs => ?digest, fun sized agrees o object => ?trailer⟩⟩,
    fun at_ timed => ⟨fun offered => ?query, fun waits => ?resend, fun other => ?noQuery, fun other => ?noResend⟩,
    fun at_ ended => ⟨fun offered fresh => ?limit, fun passed => ?passed⟩⟩
  case ends =>
    have empty : ¬ (s.net.ports.vals.any fun x => x.openQueue.any (s.streamFlit record.toNat)) = true := fun some => by
      obtain ⟨x, port, flits⟩ := List.any_eq_true.mp some
      obtain ⟨f, queued, left⟩ := List.any_eq_true.mp flits
      exact Bool.false_ne_true ((drained x port f queued).symm.trans left)
    rw [exec_streamEnd, execStreamEnd]
    simp only [held]
    exact congrArg _ (if_pos ⟨offered, streams, empty⟩)
  case otherTrailer =>
    rw [exec_trailer, execTrailer]
    simp only [held]
    exact congrArg _ (if_pos other)
  case length =>
    rw [exec_trailer, execTrailer]
    simp only [held]
    exact congrArg _ ((if_neg (not_or.mpr ⟨not_not.mpr receiving, not_not.mpr same⟩)).trans
      (if_pos (mt of_decide_eq_true wrong)))
  case digest =>
    rw [exec_trailer, execTrailer]
    simp only [held]
    exact congrArg _ ((if_neg (not_or.mpr ⟨not_not.mpr receiving, not_not.mpr same⟩)).trans
      ((if_neg (not_not.mpr (decide_eq_true sized))).trans (if_pos differs)))
  case trailer =>
    rw [exec_trailer, execTrailer]
    simp only [held]
    refine congrArg _ ((if_neg (not_or.mpr ⟨not_not.mpr receiving, not_not.mpr same⟩)).trans
      ((if_neg (not_not.mpr (decide_eq_true sized))).trans ((if_neg (not_not.mpr agrees)).trans ?_)))
    rw [object]
  case query =>
    rw [exec_holdQueryExpiry, execHoldQueryExpiry]
    simp only [held, timed]
    exact congrArg _ (if_neg (not_not.mpr offered))
  case resend =>
    rw [exec_takenResend, execTakenResend]
    simp only [held, timed]
    exact congrArg _ (if_neg (not_not.mpr waits))
  case noQuery =>
    rw [exec_holdQueryExpiry, execHoldQueryExpiry]
    simp only [held, timed]
    exact congrArg _ (if_pos other)
  case noResend =>
    rw [exec_takenResend, execTakenResend]
    simp only [held, timed]
    exact congrArg _ (if_pos (Bool.eq_false_iff.mp other))
  case limit =>
    rw [exec_hoHoldLimit, execHoHoldLimit]
    simp only [held, ended]
    exact congrArg _ (if_neg (not_or.mpr ⟨not_not.mpr offered, Bool.eq_false_iff.mp fresh⟩))
  case passed =>
    rw [exec_hoHoldLimit, execHoHoldLimit]
    simp only [held, ended]
    exact congrArg _ (if_pos (.inr passed))

end Sys2Proof.Machine
end

-- ==== Remote requests and answers; the test port and the tray ====
section

namespace Sys2Proof.Machine
open Sys2Proof.Certificates

/-! ### Requests at their target -/

theorem State.openFlit_of_transit {s : State} {h : OpenHdr} (otype : Nat) (deadline : Option Nat) (payload : List Line)
    (go : State → State) (away : h.dstDevice.toNat ≠ s.deviceId) :
    s.openFlit h otype deadline payload go = s.sendOpen (hdrFlit h otype deadline payload) 0 := if_neg away

/-- Settles O47: a request goes on where it is for another device; at its own it goes by its target and the first line that
it may not reach. -/
theorem remoteRequestsAtTheirTarget : Obligations.RemoteRequestsAtTheirTarget := by
  unfold Obligations.RemoteRequestsAtTheirTarget
  refine fun s h va lines deadline => ⟨fun away errs => ⟨?readOn, ?writeOn⟩, fun here => ⟨fun none => ⟨fun errs => ?readNone, ?writeNone⟩,
    fun p target => ⟨fun errs => ⟨fun st bad barred => ?readBarred, fun passed => ⟨fun clean => ?read, fun d uncorrectable => ?readBad⟩⟩,
      ⟨fun st bad barred => ?writeBarred, fun passed => ?write⟩⟩,
    fun data => ⟨fun none => ?noRequest, fun w waits => ⟨fun st bad barred => ?dataBarred, fun passed => ?data⟩⟩⟩⟩
  case readOn => rw [exec_readReq, execReadReq, State.openFlit_of_transit _ _ _ _ away]
  case writeOn => rw [exec_writeReq, execWriteReq, State.openFlit_of_transit _ _ _ _ away]
  case readNone =>
    rw [exec_readReq, execReadReq, State.openFlit_of_here _ _ _ _ here]
    dsimp only
    rw [none]
  case writeNone =>
    rw [exec_writeReq, execWriteReq, State.openFlit_of_here _ _ _ _ here]
    dsimp only
    rw [none]
  case readBarred =>
    rw [exec_readReq, execReadReq, State.openFlit_of_here _ _ _ _ here]
    dsimp only
    rw [target]
    dsimp only
    rw [barred]
  case read =>
    rw [exec_readReq, execReadReq, State.openFlit_of_here _ _ _ _ here]
    dsimp only
    rw [target]
    dsimp only
    rw [passed]
    dsimp only
    rw [clean]
  case readBad =>
    rw [exec_readReq, execReadReq, State.openFlit_of_here _ _ _ _ here]
    dsimp only
    rw [target]
    dsimp only
    rw [passed]
    dsimp only
    rw [uncorrectable]
  case writeBarred =>
    rw [exec_writeReq, execWriteReq, State.openFlit_of_here _ _ _ _ here]
    dsimp only
    rw [target]
    dsimp only
    rw [barred]
  case write =>
    rw [exec_writeReq, execWriteReq, State.openFlit_of_here _ _ _ _ here]
    dsimp only
    rw [target]
    dsimp only
    rw [passed]
  case noRequest =>
    rw [exec_writeData, execWriteData, State.openFlit_of_here _ _ _ _ here]
    dsimp only
    rw [none]
  case dataBarred =>
    rw [exec_writeData, execWriteData, State.openFlit_of_here _ _ _ _ here]
    dsimp only
    rw [waits]
    dsimp only
    rw [barred]
  case data =>
    rw [exec_writeData, execWriteData, State.openFlit_of_here _ _ _ _ here]
    dsimp only
    rw [waits]
    dsimp only
    rewrite [passed]
    rfl

/-! ### Answers at their source -/

/-- Settles O48: an answer goes by the request that its tag names, the device it comes from and whether the request lives. -/
theorem remoteAnswersAtTheirSource : Obligations.RemoteAnswersAtTheirSource := by
  unfold Obligations.RemoteAnswersAtTheirSource
  refine fun s h here => ⟨fun none => ⟨fun ls => ?dataNone, fun st n => ?ackNone, fun st va => ?nackNone⟩,
    fun r asked => ⟨fun other => ⟨fun ls => ?dataOther, fun st n => ?ackOther, fun st va => ?nackOther⟩,
      fun own lives => ⟨fun ls reads => ⟨fun a mine => ?dataHere, fun away => ?dataOn⟩, fun st n => ?ack, fun st va => ?nack⟩,
      fun own dead => ⟨fun ls reads => ?dataDead, fun st n => ?ackDead, fun st va => ?nackDead⟩, ?timeout⟩⟩
  case dataNone =>
    rw [exec_readData, execReadData, State.openFlit_of_here _ _ _ _ here]
    simp only [State.answered, none]
  case ackNone =>
    rw [exec_ack, execAck, State.openFlit_of_here _ _ _ _ here]
    simp only [State.answered, none]
  case nackNone =>
    rw [exec_nack, execNack, State.openFlit_of_here _ _ _ _ here]
    simp only [State.answered, none]
  case dataOther =>
    rw [exec_readData, execReadData, State.openFlit_of_here _ _ _ _ here]
    simp only [State.answered, asked, other, ne_eq, not_false_eq_true, or_true, if_true]
  case ackOther =>
    rw [exec_ack, execAck, State.openFlit_of_here _ _ _ _ here]
    simp only [State.answered, asked, other, ne_eq, not_false_eq_true, if_true]
  case nackOther =>
    rw [exec_nack, execNack, State.openFlit_of_here _ _ _ _ here]
    simp only [State.answered, asked, other, ne_eq, not_false_eq_true, if_true]
  case dataHere =>
    rw [exec_readData, execReadData, State.openFlit_of_here _ _ _ _ here]
    simp only [State.answered, asked, own, reads, lives, mine, ne_eq, not_true_eq_false, Bool.false_eq_true, or_self, if_false]
  case dataOn =>
    rw [exec_readData, execReadData, State.openFlit_of_here _ _ _ _ here]
    simp only [State.answered, asked, own, reads, lives, away, ne_eq, not_true_eq_false, Bool.false_eq_true, or_self, if_false]
  case ack =>
    rw [exec_ack, execAck, State.openFlit_of_here _ _ _ _ here]
    simp only [State.answered, asked, own, lives, ne_eq, not_true_eq_false, if_false]
  case nack =>
    rw [exec_nack, execNack, State.openFlit_of_here _ _ _ _ here]
    simp only [State.answered, asked, own, lives, ne_eq, not_true_eq_false, if_false]
  case dataDead =>
    rw [exec_readData, execReadData, State.openFlit_of_here _ _ _ _ here]
    simp only [State.answered, asked, own, reads, dead, ne_eq, not_true_eq_false, Bool.false_eq_true, not_false_eq_true, or_self,
      if_true, if_false]
  case ackDead =>
    rw [exec_ack, execAck, State.openFlit_of_here _ _ _ _ here]
    simp only [State.answered, asked, own, dead, ne_eq, not_true_eq_false, Bool.false_eq_true, not_false_eq_true, if_true, if_false]
  case nackDead =>
    rw [exec_nack, execNack, State.openFlit_of_here _ _ _ _ here]
    simp only [State.answered, asked, own, dead, ne_eq, not_true_eq_false, Bool.false_eq_true, not_false_eq_true, if_true, if_false]
  case timeout =>
    rw [exec_openRequestTimeout, execOpenRequestTimeout]
    simp only [asked]

/-! ### The test port and the tray -/

section
variable {s : State} (data : List Byte)

theorem State.respond_of_on (on : s.plant.pins.pwrEn = true) : s.respond data = s.emit (.i3c data) := if_pos on

theorem State.respond_of_off (off : s.plant.pins.pwrEn = false) : s.respond data = s := if_neg (Bool.eq_false_iff.mp off)

end

/-- Settles O49: an unpowered module answers nothing; a powered one goes by the session, the page, the boot phase or the event
that the instruction names. -/
theorem jtagAndI3c : Obligations.JtagAndI3c := by
  unfold Obligations.JtagAndI3c
  refine fun s => ⟨fun on => ⟨fun tdi => ⟨?bypass, fun released => ?extestReleased, fun closed => ?extest⟩, ?idcode,
      fun cells => ?sample, fun p slice space address value => ⟨fun closed => ⟨?noRead, ?noWrite⟩, fun v put opened word => ⟨?debugRead, ?debugWrite⟩⟩,
      fun page offset => ⟨fun opened => ?readReg, fun closed => ?refused⟩, ?status, ?wake,
      fun bank => ⟨fun running => ⟨?noErase, fun o d => ?noFlash⟩, fun stopped real => ⟨?erase, fun o d aligned inside erased => ?flash⟩,
        fun o real inside => ?flashRead⟩, fun ev all => ⟨?enec, ?disec⟩, ?rstdaa, fun free a b => ⟨?entdaa, fun own => ?setdasa⟩,
      ?pid, ?bcr, ?dcr, ?getstatus, fun event pending => ⟨fun gone taken => ?gone, fun stands enabled => ⟨?taken, ?sent⟩,
        fun stands disabled taken => ?disabled⟩⟩,
    fun off => ⟨fun tdi => ⟨?bypassOff, ?extestOff⟩, ?idcodeOff, ?statusOff, ?wakeOff, ?pidOff, ?getstatusOff, fun b => ?eraseOff,
      fun page offset => ?readRegOff⟩⟩
  case bypass =>
    rw [exec_bypass, execBypass]
    exact congrArg _ (if_pos on)
  case extestReleased =>
    rw [exec_extest, execExtest, if_pos released, execBypass]
    exact congrArg _ (if_pos on)
  case extest =>
    rw [exec_extest, execExtest, if_neg (Bool.eq_false_iff.mp closed)]
    exact congrArg _ (if_pos on)
  case idcode =>
    rw [exec_idcode, execIdcode]
    exact congrArg _ (if_pos on)
  case sample =>
    rw [exec_samplePreload, execSamplePreload]
    exact congrArg _ (if_pos on)
  case noRead =>
    have shut : ¬ (s.flag Reg.ptnpSecDbgItem p.toNat && decide (s.sliceOwner slice.toNat = some p.toNat)) = true := by
      rwa [Bool.and_eq_true, decide_eq_true_eq]
    rw [exec_jtagDebugAccess, execJtagDebugAccess]
    simp only [on, shut, not_true_eq_false, Bool.false_eq_true, if_false]
  case noWrite =>
    have shut : ¬ (s.flag Reg.ptnpSecDbgItem p.toNat && decide (s.sliceOwner slice.toNat = some p.toNat)) = true := by
      rwa [Bool.and_eq_true, decide_eq_true_eq]
    rw [exec_jtagDebugAccess, execJtagDebugAccess]
    simp only [on, shut, not_true_eq_false, Bool.false_eq_true, if_true, if_false]
  case debugRead =>
    rw [exec_jtagDebugAccess, execJtagDebugAccess]
    simp only [on, opened, word, decide_true, Bool.and_self, not_true_eq_false, Bool.false_eq_true, if_true, if_false]
  case debugWrite =>
    rw [exec_jtagDebugAccess, execJtagDebugAccess]
    simp only [on, opened, word, decide_true, Bool.and_self, not_true_eq_false, if_true, if_false]
  case readReg =>
    rw [exec_readReg, execReadReg, State.respond_of_on _ on]
    simp only [opened, and_self, if_true]
  case refused =>
    rw [exec_readReg, execReadReg, State.respond_of_on _ on]
    simp only [closed, if_false]
  case status => rw [exec_status, execStatus, State.respond_of_on _ on]
  case wake =>
    rw [exec_wake, execWake, State.respond_of_on _ on, State.respond_of_on _ on]
    exact congrArg _ (if_neg (not_not.mpr on))
  case noErase =>
    rw [exec_flashErase, execFlashErase]
    exact congrArg _ ((if_neg (not_not.mpr on)).trans ((if_pos running).trans (State.respond_of_on _ on)))
  case noFlash =>
    rw [exec_flashWrite, execFlashWrite]
    exact congrArg _ ((if_neg (not_not.mpr on)).trans ((if_pos running).trans (State.respond_of_on _ on)))
  case erase =>
    rw [exec_flashErase, execFlashErase]
    exact congrArg _ ((if_neg (not_not.mpr on)).trans ((if_neg (not_not.mpr stopped)).trans (if_neg (Nat.not_lt.mpr real))))
  case flash =>
    have fits : ¬ (1 < bank.toNat ∨ o.toNat % 64 ≠ 0 ∨ bankSpan ≤ o.toNat) :=
      not_or.mpr ⟨Nat.not_lt.mpr real, not_or.mpr ⟨not_not.mpr aligned, Nat.not_le.mpr inside⟩⟩
    rw [exec_flashWrite, execFlashWrite]
    exact congrArg _ ((if_neg (not_not.mpr on)).trans ((if_neg (not_not.mpr stopped)).trans ((if_neg fits).trans
      (if_neg (not_not.mpr erased)))))
  case flashRead =>
    rw [exec_flashRead, execFlashRead]
    exact congrArg _ ((if_neg (not_or.mpr ⟨Nat.not_lt.mpr real, Nat.not_lt.mpr inside⟩)).trans (State.respond_of_on _ on))
  case enec =>
    rw [exec_enec, execEnec]
    exact congrArg _ (if_pos ⟨on, all⟩)
  case disec =>
    rw [exec_disec, execDisec]
    exact congrArg _ (if_pos ⟨on, all⟩)
  case rstdaa =>
    rw [exec_rstdaa, execRstdaa]
    exact congrArg _ (if_pos on)
  case entdaa =>
    rw [exec_entdaa, execEntdaa]
    exact congrArg _ (if_pos ⟨on, Option.isNone_iff_eq_none.mpr free⟩)
  case setdasa =>
    rw [exec_setdasa, execSetdasa]
    exact congrArg _ (if_pos ⟨on, own, Option.isNone_iff_eq_none.mpr free⟩)
  case pid => rw [exec_getpid, execGetpid, State.respond_of_on _ on]
  case bcr => rw [exec_getbcr, execGetbcr, State.respond_of_on _ on]
  case dcr => rw [exec_getdcr, execGetdcr, State.respond_of_on _ on]
  case getstatus => rw [exec_getstatus, execGetstatus, State.respond_of_on _ on]
  case gone =>
    rw [exec_inBandInterrupt, execInBandInterrupt]
    simp only [on, pending, gone, not_true_eq_false, Bool.false_eq_true, not_false_eq_true, or_self, if_true, if_false]
  case taken =>
    rw [exec_inBandInterrupt, execInBandInterrupt]
    simp only [on, pending, stands, enabled, not_true_eq_false, or_self, if_true, if_false]
  case sent =>
    rw [exec_inBandInterrupt, execInBandInterrupt]
    simp only [on, pending, stands, enabled, not_true_eq_false, Bool.false_eq_true, or_self, if_false]
  case disabled =>
    rw [exec_inBandInterrupt, execInBandInterrupt]
    simp only [on, pending, stands, disabled, not_true_eq_false, Bool.false_eq_true, not_false_eq_true, or_self, if_true, if_false]
  case bypassOff =>
    rw [exec_bypass, execBypass]
    exact congrArg _ (if_neg (Bool.eq_false_iff.mp off))
  case extestOff =>
    rw [exec_extest, execExtest, execBypass]
    simp only [off, Bool.false_eq_true, if_false, ite_self]
  case idcodeOff =>
    rw [exec_idcode, execIdcode]
    exact congrArg _ (if_neg (Bool.eq_false_iff.mp off))
  case statusOff => rw [exec_status, execStatus, State.respond_of_off _ off]
  case wakeOff =>
    rw [exec_wake, execWake]
    exact congrArg _ (if_pos (Bool.eq_false_iff.mp off))
  case pidOff => rw [exec_getpid, execGetpid, State.respond_of_off _ off]
  case getstatusOff => rw [exec_getstatus, execGetstatus, State.respond_of_off _ off]
  case eraseOff =>
    rw [exec_flashErase, execFlashErase]
    exact congrArg _ (if_pos (Bool.eq_false_iff.mp off))
  case readRegOff => rw [exec_readReg, execReadReg, State.respond_of_off _ off]

end Sys2Proof.Machine
end
